-- ==== Sys2Proof/Word.lean ====
section
/-!
DEFINITION. The word types of the device (spec/00_scope.md R5, R6; spec/04_number_formats.md R74) and their plainest
arithmetic.
-/

namespace Sys2Proof

/-- One byte of a memory, a scratchpad or a Loft. -/
abbrev Byte := BitVec 8

/-- One 32-bit register of one strand. -/
abbrev Word := BitVec 32

/-- A 64-bit value: an even-odd register pair (R75), an instruction word, an address. -/
abbrev DWord := BitVec 64

/-- A set of strands: bit s stands for strand s (R10). -/
abbrev Mask := BitVec 32

/-- The strand numbers of a weave, ascending (R10: `active(m)` yields strands in ascending order). -/
def allStrands : List Nat := List.range 32

/-- The strands of a mask, in ascending order (R10). -/
def strandsOf (m : Mask) : List Nat := allStrands.filter (fun s => m.getLsbD s)

/-- The lowest-numbered strand of a mask (R119, R123); `none` for the empty mask. -/
def lowestStrand (m : Mask) : Option Nat := allStrands.find? (fun s => m.getLsbD s)

/-- The mask that holds exactly the strands of a list. -/
def maskOf (ss : List Nat) : Mask := ss.foldl (fun m s => m ||| (1#32 <<< s)) 0#32

end Sys2Proof
end

