-- ==== Sys2Proof/Config.lean ====
section
/-!
DEFINITION. What one device fixes, and the free values: every constant here is opaque, so that no proof can see a value
(R8 "unspecified value", R259, R334, R459; log entries 1 to 6).
-/

namespace Sys2Proof

/-- FREE VALUE: the n-th unspecified 32-bit value (R8, R120, R121, R143, R168, R174). Log entry 1. -/
opaque Config.freeWord : Nat → BitVec 32

/-- FREE VALUE: which of the movers that could act next does act, at choice n (R53, R61, R165, R171). Log entry 2. -/
opaque Config.pick : Nat → Nat

/-- FREE VALUE: the compute cycles that pass before step n (R36 clk, R456); global time passes with them (R440). Log entry 3. -/
opaque Config.cycles : Nat → Nat

/-- The cycle count of a shop's own counter at the reset of the device: the spec gives none (R36 clk). Log entry 3. -/
opaque Config.shopClock : Nat → Nat

/-- FREE VALUE: which of the results inside its accuracy class a special function delivers; a fixed function of the
opcode and the operand's bits (R259). Log entry 4. -/
opaque Config.special : Nat → Nat → Nat

/-- The hash that chooses the Depot set of a line; it "belongs to the device and is not given" (R334). Log entry 5. -/
opaque Config.depotSet : Nat → Nat

/-- 128-byte lines of one die's L2 that the ways of a tenancy's L2 quota hold: the spec names the quota (R26) and gives no register of it.
Log entry 50. -/
opaque Config.l2Lines : Nat → Nat

/-- AES Key Wrap (R421): what the unwrap of a 40-byte wrapped key under a 256-bit key gives; `none` where it fails.
Log entry 6. -/
opaque Config.unwrapKey : BitVec 256 → BitVec 320 → Option (BitVec 256)

/-- The package serial number (R459). Log entry 6. -/
opaque Config.serial : BitVec 64

/-- MEASn of the attestation report, n = 0 to 4: a SHAKE256 output over a firmware image (R459). Log entry 6. -/
opaque Config.measurement : Nat → BitVec 512

/-- The attestation signature bytes over bytes 0x000 to 0x23F of a report (R459). Log entry 6. -/
opaque Config.signatureByte : List (BitVec 8) → Nat → BitVec 8

end Sys2Proof
end

