-- ==== Sys2Proof/Machine/Maps.lean ====
section
/-!
DEFINITION. Finite maps as plain data: lists of (key, value) pairs with strictly rising keys, so that equal maps are equal
lists. `Tab` is a map in which an unlisted key is absent; `Cells` is a map in which an unlisted key reads as zero and no
entry holds zero.
-/

namespace Sys2Proof.Machine

/-- A finite map from numbers to values. -/
abbrev Tab (α : Type) := List (Nat × α)

/-- A map from numbers to n-bit values whose unlisted entries are zero. -/
abbrev Cells (n : Nat) := List (Nat × BitVec n)

/-- The entry of a key. -/
def look {α : Type} : Tab α → Nat → Option α
  | [], _ => none
  | (k, a) :: t, i => if k = i then some a else look t i

/-- Write an entry, keeping the keys rising. -/
def put {α : Type} : Tab α → Nat → α → Tab α
  | [], i, x => [(i, x)]
  | (k, a) :: t, i, x =>
    if i < k then (i, x) :: (k, a) :: t else if i = k then (i, x) :: t else (k, a) :: put t i x

/-- Remove an entry. -/
def del {α : Type} (t : Tab α) (i : Nat) : Tab α := t.filter (fun p => decide (p.1 ≠ i))

/-- Change an entry if it is there. -/
def edit {α : Type} (t : Tab α) (i : Nat) (f : α → α) : Tab α :=
  match look t i with
  | some a => put t i (f a)
  | none => t

/-- The first key above every key of the map. Log 68 (DESIGN CHOICE). -/
def freshKey {α : Type} : Tab α → Nat
  | [] => 0
  | (k, _) :: t => max (k + 1) (freshKey t)

/-- The entry of a key in a map of zeros. Log 7 (DESIGN CHOICE). -/
def cell {n : Nat} (m : Cells n) (i : Nat) : BitVec n := (look m i).getD 0

/-- Write an entry of a map of zeros: writing zero removes the entry. -/
def setCell {n : Nat} (m : Cells n) (i : Nat) (x : BitVec n) : Cells n :=
  if x = 0 then del m i else put m i x

/-- The keys rise strictly and every key is at least `lo`. -/
def risingFrom {α : Type} (lo : Nat) : Tab α → Bool
  | [] => true
  | (k, _) :: t => decide (lo ≤ k) && risingFrom (k + 1) t

/-- The canonical form of a map. -/
def tabWf {α : Type} (t : Tab α) : Bool := risingFrom 0 t

/-- The canonical form of a map of zeros: rising keys, no entry zero. -/
def cellsWf {n : Nat} (m : Cells n) : Bool := risingFrom 0 m && m.all (fun p => decide (p.2 ≠ 0))

/-- Write a list of values at consecutive keys. -/
def setCells {n : Nat} (m : Cells n) (i : Nat) : List (BitVec n) → Cells n
  | [] => m
  | x :: xs => setCells (setCell m i x) (i + 1) xs

/-- Read consecutive keys. -/
def cellsAt {n : Nat} (m : Cells n) (i len : Nat) : List (BitVec n) :=
  (List.range len).map (fun j => cell m (i + j))

/-- Read consecutive keys, in one pass over the map. -/
def sliceCells {n : Nat} (m : Cells n) (i : Nat) : Nat → List (BitVec n)
  | 0 => []
  | len + 1 =>
    match m.dropWhile (fun p => decide (p.1 < i)) with
    | [] => 0 :: sliceCells [] (i + 1) len
    | (k, x) :: t => if k = i then x :: sliceCells t (i + 1) len else 0 :: sliceCells ((k, x) :: t) (i + 1) len

/-- Write a list of values at consecutive keys, in one pass over the map. -/
def spliceCells {n : Nat} (m : Cells n) (i : Nat) (xs : List (BitVec n)) : Cells n :=
  m.filter (fun p => decide (p.1 < i)) ++
    (((List.range xs.length).zip xs).filter (fun p => decide (p.2 ≠ 0))).map (fun p => (i + p.1, p.2)) ++
    m.filter (fun p => decide (i + xs.length ≤ p.1))

/-- Write a list of values at consecutive keys of a finite map, in one pass. -/
def splice {α : Type} (m : Tab α) (i : Nat) (xs : List α) : Tab α :=
  m.filter (fun p => decide (p.1 < i)) ++ ((List.range xs.length).zip xs).map (fun p => (i + p.1, p.2)) ++
    m.filter (fun p => decide (i + xs.length ≤ p.1))

/-- The bytes of a value, the least significant first (R5). -/
def bytesOf (len v : Nat) : List Byte :=
  match len with
  | 0 => []
  | n + 1 => BitVec.ofNat 8 v :: bytesOf n (v / 256)

/-- The value of bytes, the least significant first (R5). -/
def natOfBytes : List Byte → Nat
  | [] => 0
  | b :: bs => b.toNat + 256 * natOfBytes bs

end Sys2Proof.Machine
end

