-- ==== Sys2Proof/Syntax.lean ====
section
/-!
DEFINITION. The instructions and events of the device: the six instruction word formats (spec/05_encoding.md R109 to
R117) and one constructor for each row of spec/opcode_table.json. An instruction word's constructor carries the fields
of its format as they stand in the word; a row that is an event of an engine or of the outside world is a constructor
without fields, and its operands (`EventArgs`) stand in the state when it takes place.
-/

namespace Sys2Proof

/-- RRR, the three-source register format (R110). -/
structure RRR where
  dst  : BitVec 9
  sa   : BitVec 9
  sb   : BitVec 9
  sc   : BitVec 9
  pn   : BitVec 1
  pred : BitVec 3
  mod  : BitVec 16
  deriving DecidableEq, Repr

/-- RI, the register-immediate format (R113). -/
structure RI where
  dst   : BitVec 9
  sa    : BitVec 9
  imm   : BitVec 32
  pn    : BitVec 1
  pred  : BitVec 3
  itype : BitVec 2
  deriving DecidableEq, Repr

/-- MEM, the memory format (R114). -/
structure MemF where
  ds    : BitVec 9
  base  : BitVec 9
  off   : BitVec 20
  scope : BitVec 3
  ann   : BitVec 2
  cop   : BitVec 2
  size  : BitVec 3
  pn    : BitVec 1
  pred  : BitVec 3
  mx    : BitVec 4
  deriving DecidableEq, Repr

/-- BR, the branch format (R115). -/
structure BR where
  dst  : BitVec 9
  sa   : BitVec 9
  off  : BitVec 32
  pn   : BitVec 1
  pred : BitVec 3
  rsv  : BitVec 2
  deriving DecidableEq, Repr

/-- ENG, the engine command format (R116). -/
structure ENG where
  dst   : BitVec 9
  desc  : BitVec 9
  dlen  : BitVec 4
  cmask : BitVec 4
  scope : BitVec 3
  rsv   : BitVec 7
  pn    : BitVec 1
  pred  : BitVec 3
  coff  : BitVec 16
  deriving DecidableEq, Repr

/-- SYS, the system format (R117). -/
structure SYS where
  dst  : BitVec 9
  sa   : BitVec 9
  sreg : BitVec 16
  rsv  : BitVec 2
  pn   : BitVec 1
  pred : BitVec 3
  imm  : BitVec 16
  deriving DecidableEq, Repr

/-- Where the Steward puts one basket of a gang: its shop, the bench of each of its weaves, and where its context
reservation lies (R38, R39, R156, R185). -/
structure Placement where
  shop    : Nat
  benches : List Nat
  /-- virtual address under which the reservation's trap blocks are mapped (R185) -/
  ctxVA   : BitVec 64
  deriving DecidableEq, Repr

/-- Why the Steward pre-empts a gang (R159, R457). -/
inductive PreemptCause where
  | starvation | priority | suspend | sealing | d3hot
  deriving DecidableEq, Repr

/-- One acknowledgement of a collection (R160, R161): an engine of a shop of the gang, or a home Clerk. -/
inductive AckUnit where
  | weaves (shop : Nat) | loom (shop : Nat) | dray (shop : Nat) | gleaner (shop : Nat) | courier (shop : Nat)
  | runner (shop : Nat) | clerk (shop : Nat)
  deriving DecidableEq, Repr

/-- What the network brings for a Courier command (R425 to R427): each member's data in rank order, the members that
were found to disagree, and whether a member reported failure. -/
structure NetReply where
  blocks   : List (List (BitVec 8))
  mismatch : Bool
  failed   : Option Nat
  deriving DecidableEq, Repr

/-- An Amiop message from the pool manager (R313). -/
structure Amiop where
  kind     : BitVec 8
  version  : BitVec 8
  tenancy  : BitVec 8
  status   : BitVec 8
  slot     : BitVec 16
  node     : BitVec 16
  leaseid  : BitVec 64
  base     : BitVec 64
  size     : BitVec 64
  duration : BitVec 64
  grace    : BitVec 32
  replica  : BitVec 16
  rights   : BitVec 16
  seq      : BitVec 32
  deriving DecidableEq, Repr

/-- One request to a Tinker, or one sector of its scrub (R348, R350): the frame, the 32-byte sector of it, whether it writes, and what
the stored symbols turned out to be (R349): symbols in error, and the TSV at fault if one is, which is a command/address one or a data
one. -/
structure TinkerReq where
  frame   : Nat
  sector  : Nat
  write   : Bool
  errors  : Nat
  tsv     : Option Nat
  command : Bool
  deriving DecidableEq, Repr

/-- One frame that arrives at a network port (R430 to R432). -/
structure Frame where
  port      : Nat
  residx    : BitVec 16
  malformed : Bool
  encrypted : Bool
  said      : BitVec 32
  authentic : Bool
  payload   : List (BitVec 8)
  deriving DecidableEq, Repr

/-- How a bring-up stage ended (R453, R454): passed or not for stages 0 to 3; the trained ports, and the greatest
switch-hop count found, for stages 4 and 5. -/
structure StageEnd where
  passed : Bool
  ports  : BitVec 8
  hops   : Nat
  deriving DecidableEq, Repr

/-- What the sensors show when the clock may step (R456): package power averaged over 1 ms, in W, and temperatures in °C. -/
structure Heat where
  power     : Nat
  tmax      : BitVec 8
  utmax     : BitVec 8
  deriving DecidableEq, Repr

/-- What an event acts on, and the choice its agent makes (which the spec leaves to that agent): the operands of the
rows of spec/opcode_table.json that are no instruction words. Which fields an event reads, its meaning says. -/
structure EventArgs where
  /-- what the event acts on: a weave, an op, a queue, a tenancy, a shop, a stack, a communicator, a ring, a Lot -/
  a       : Nat := 0
  /-- a part of it: a slot, a packet's ring index, a lease slot, a key slot, a sequence number, a gang -/
  b       : Nat := 0
  c       : Nat := 0
  /-- the value a register is written with -/
  v       : BitVec 64 := 0#64
  nonce   : BitVec 256 := 0#256
  ok      : Bool := true
  places  : List Placement := []
  victims : List (Nat × Nat) := []
  cause   : PreemptCause := .priority
  unit    : AckUnit := .weaves 0
  reply   : NetReply := { blocks := [], mismatch := false, failed := none }
  amiop   : Amiop := { kind := 0, version := 0, tenancy := 0, status := 0, slot := 0, node := 0, leaseid := 0, base := 0,
                       size := 0, duration := 0, grace := 0, replica := 0, rights := 0, seq := 0 }
  treq    : TinkerReq := { frame := 0, sector := 0, write := false, errors := 0, tsv := none, command := false }
  frame   : Frame := { port := 0, residx := 0, malformed := false, encrypted := false, said := 0, authentic := false,
                       payload := [] }
  stage   : StageEnd := { passed := true, ports := 0, hops := 0 }
  heat    : Heat := { power := 0, tmax := 0, utmax := 0 }
  lines   : List Nat := []
  deriving DecidableEq, Repr

/-- One constructor for each row of spec/opcode_table.json: the instruction words in the table's order, then the events
in the table's order. -/
inductive Instr where
  /-- NOP, opcode 0x00, format RRR (R175): Does nothing. -/
  | nop (f : RRR)
  /-- END, opcode 0x01, format RRR (R176): Ends the split's strands, removes them from open join entries and may retire the weave. -/
  | endSplit (f : RRR)
  /-- BRA, opcode 0x02, format BR (R176): Branches the whole split to H + 8*OFF32 when the lowest strand's predicate is true. -/
  | bra (f : BR)
  /-- BRV, opcode 0x03, format BR (R40): Vector branch that may divide the split into taken and not-taken splits or push a pending split. -/
  | brv (f : BR)
  /-- BRX, opcode 0x04, format RRR (R176): Branches indirectly to the PC held in an even scalar pair. -/
  | brx (f : RRR)
  /-- CALL, opcode 0x05, format BR (R176): Writes the next-clause PC to a scalar pair and branches. -/
  | call (f : BR)
  /-- RET, opcode 0x06, format RRR (R176): Returns to the PC held in a scalar pair, ending handler mode when taken. -/
  | ret (f : RRR)
  /-- JMARK, opcode 0x07, format BR (R41): Pushes a join entry with the rejoin address and the split's mask. -/
  | jmark (f : BR)
  /-- JOIN, opcode 0x08, format RRR (R177): Arrives at the top join entry, or parks, or traps when no entry matches. -/
  | join (f : RRR)
  /-- PAUSE, opcode 0x09, format RI (R179): Makes the split wait for a number of cycles. -/
  | pause (f : RI)
  /-- WAITF, opcode 0x0A, format RI (R179): Makes the split wait until every named completion flag is clear. -/
  | waitf (f : RI)
  /-- TRAP, opcode 0x0B, format RI (R179): Raises the explicit trap, class 8, with INFO set to the code. -/
  | trap (f : RI)
  /-- DEAD, opcode 0x0C, format RRR (R174): Declares a range of vector registers dead and returns their physical registers in renamed mode. -/
  | dead (f : RRR)
  /-- ACTM, opcode 0x0D, format RRR (R181): Writes the split's active mask to a register. -/
  | actm (f : RRR)
  /-- PLOG, opcode 0x0E, format RRR (R181): Combines predicate bits with MOV, AND, OR or XOR. -/
  | plog (f : RRR)
  /-- PGET, opcode 0x0F, format RRR (R181): Reads a predicate into a vector or scalar register. -/
  | pget (f : RRR)
  /-- PPUT, opcode 0x10, format RRR (R181): Sets a predicate from a register under MASK, NZ, NEG or ZERO mode. -/
  | pput (f : RRR)
  /-- SMOV, opcode 0x11, format RRR (R182): Scalar move. -/
  | smov (f : RRR)
  /-- SADD, opcode 0x12, format RRR (R182): Scalar add. -/
  | sadd (f : RRR)
  /-- SSUB, opcode 0x13, format RRR (R182): Scalar subtract. -/
  | ssub (f : RRR)
  /-- SMUL, opcode 0x14, format RRR (R182): Scalar multiply, low bits. -/
  | smul (f : RRR)
  /-- SMULH, opcode 0x15, format RRR (R182): Scalar multiply, high bits. -/
  | smulh (f : RRR)
  /-- SAND, opcode 0x16, format RRR (R182): Scalar bitwise AND. -/
  | sand (f : RRR)
  /-- SOR, opcode 0x17, format RRR (R182): Scalar bitwise OR. -/
  | sor (f : RRR)
  /-- SXOR, opcode 0x18, format RRR (R182): Scalar bitwise XOR. -/
  | sxor (f : RRR)
  /-- SSHL, opcode 0x19, format RRR (R182): Scalar shift left. -/
  | sshl (f : RRR)
  /-- SSHR, opcode 0x1A, format RRR (R182): Scalar logical shift right. -/
  | sshr (f : RRR)
  /-- SSRA, opcode 0x1B, format RRR (R182): Scalar arithmetic shift right. -/
  | ssra (f : RRR)
  /-- SMIN, opcode 0x1C, format RRR (R182): Scalar minimum. -/
  | smin (f : RRR)
  /-- SMAX, opcode 0x1D, format RRR (R182): Scalar maximum. -/
  | smax (f : RRR)
  /-- SCMP, opcode 0x1E, format RRR (R182): Scalar three-way compare. -/
  | scmp (f : RRR)
  /-- SSEL, opcode 0x1F, format RRR (R182): Scalar select. -/
  | ssel (f : RRR)
  /-- SCLZ, opcode 0x20, format RRR (R182): Scalar count of leading zeros. -/
  | sclz (f : RRR)
  /-- SPOPC, opcode 0x21, format RRR (R182): Scalar population count. -/
  | spopc (f : RRR)
  /-- SMOV_RI, opcode 0x22, format RI (R182): Scalar move of an immediate. -/
  | smovRi (f : RI)
  /-- SADD_RI, opcode 0x23, format RI (R182): Scalar add of an immediate. -/
  | saddRi (f : RI)
  /-- SMUL_RI, opcode 0x24, format RI (R182): Scalar multiply by an immediate. -/
  | smulRi (f : RI)
  /-- SAND_RI, opcode 0x25, format RI (R182): Scalar AND with an immediate. -/
  | sandRi (f : RI)
  /-- SOR_RI, opcode 0x26, format RI (R182): Scalar OR with an immediate. -/
  | sorRi (f : RI)
  /-- SXOR_RI, opcode 0x27, format RI (R182): Scalar XOR with an immediate. -/
  | sxorRi (f : RI)
  /-- SSHL_RI, opcode 0x28, format RI (R182): Scalar shift left by an immediate. -/
  | sshlRi (f : RI)
  /-- SSHR_RI, opcode 0x29, format RI (R182): Scalar logical shift right by an immediate. -/
  | sshrRi (f : RI)
  /-- SSRA_RI, opcode 0x2A, format RI (R182): Scalar arithmetic shift right by an immediate. -/
  | ssraRi (f : RI)
  /-- SCMP_RI, opcode 0x2B, format RI (R182): Scalar compare with an immediate. -/
  | scmpRi (f : RI)
  /-- SMIN_RI, opcode 0x2C, format RI (R182): Scalar minimum with an immediate. -/
  | sminRi (f : RI)
  /-- SMAX_RI, opcode 0x2D, format RI (R182): Scalar maximum with an immediate. -/
  | smaxRi (f : RI)
  /-- VMOV, opcode 0x30, format RRR (R242): Vector move. -/
  | vmov (f : RRR)
  /-- VMOV_RI, opcode 0x31, format RI (R242): Vector move of an immediate. -/
  | vmovRi (f : RI)
  /-- VADD, opcode 0x32, format RRR (R242): Vector add. -/
  | vadd (f : RRR)
  /-- VADD_RI, opcode 0x33, format RI (R242): Vector add of an immediate. -/
  | vaddRi (f : RI)
  /-- VSUB, opcode 0x34, format RRR (R242): Vector subtract. -/
  | vsub (f : RRR)
  /-- VSUB_RI, opcode 0x35, format RI (R242): Vector subtract of an immediate. -/
  | vsubRi (f : RI)
  /-- VADDS, opcode 0x36, format RRR (R242): Vector saturating add. -/
  | vadds (f : RRR)
  /-- VADDS_RI, opcode 0x7A, format RI (R242): Vector saturating add of an immediate. -/
  | vaddsRi (f : RI)
  /-- VSUBS, opcode 0x37, format RRR (R242): Vector saturating subtract. -/
  | vsubs (f : RRR)
  /-- VMUL, opcode 0x38, format RRR (R242): Vector multiply. -/
  | vmul (f : RRR)
  /-- VMUL_RI, opcode 0x39, format RI (R242): Vector multiply by an immediate. -/
  | vmulRi (f : RI)
  /-- VMULH, opcode 0x3A, format RRR (R242): Vector multiply, high bits. -/
  | vmulh (f : RRR)
  /-- VMULW, opcode 0x6E, format RRR (R242): Vector widening multiply into a pair. -/
  | vmulw (f : RRR)
  /-- VMAD, opcode 0x3B, format RRR (R242): Vector integer multiply-add. -/
  | vmad (f : RRR)
  /-- VMADH, opcode 0x79, format RRR (R242): Vector high multiply plus addend. -/
  | vmadh (f : RRR)
  /-- VFMA, opcode 0x3C, format RRR (R243): Vector fused multiply-add. -/
  | vfma (f : RRR)
  /-- VFMS, opcode 0x3D, format RRR (R243): Vector fused multiply-subtract. -/
  | vfms (f : RRR)
  /-- VFNMA, opcode 0x3E, format RRR (R243): Vector negated fused multiply-add. -/
  | vfnma (f : RRR)
  /-- VABS, opcode 0x3F, format RRR (R242): Vector absolute value. -/
  | vabs (f : RRR)
  /-- VNEG, opcode 0x40, format RRR (R242): Vector negate. -/
  | vneg (f : RRR)
  /-- VMIN, opcode 0x41, format RRR (R242): Vector minimum. -/
  | vmin (f : RRR)
  /-- VMIN_RI, opcode 0x6F, format RI (R242): Vector minimum with an immediate. -/
  | vminRi (f : RI)
  /-- VMAX, opcode 0x42, format RRR (R242): Vector maximum. -/
  | vmax (f : RRR)
  /-- VMAX_RI, opcode 0x70, format RI (R242): Vector maximum with an immediate. -/
  | vmaxRi (f : RI)
  /-- VCLAMP, opcode 0x43, format RRR (R242): Vector clamp. -/
  | vclamp (f : RRR)
  /-- VSGN, opcode 0x44, format RRR (R242): Vector sign transfer. -/
  | vsgn (f : RRR)
  /-- VABSD, opcode 0x72, format RRR (R242): Vector absolute difference. -/
  | vabsd (f : RRR)
  /-- VAVG, opcode 0x75, format RRR (R242): Vector rounding average. -/
  | vavg (f : RRR)
  /-- VADDC, opcode 0x6C, format RRR (R242): Vector add with carry into a pair. -/
  | vaddc (f : RRR)
  /-- VSUBB, opcode 0x6D, format RRR (R242): Vector subtract with borrow into a pair. -/
  | vsubb (f : RRR)
  /-- VAND, opcode 0x45, format RRR (R244): Vector bitwise AND. -/
  | vand (f : RRR)
  /-- VAND_RI, opcode 0x46, format RI (R244): Vector AND with an immediate. -/
  | vandRi (f : RI)
  /-- VOR, opcode 0x47, format RRR (R244): Vector bitwise OR. -/
  | vor (f : RRR)
  /-- VOR_RI, opcode 0x48, format RI (R244): Vector OR with an immediate. -/
  | vorRi (f : RI)
  /-- VXOR, opcode 0x49, format RRR (R244): Vector bitwise XOR. -/
  | vxor (f : RRR)
  /-- VXOR_RI, opcode 0x4A, format RI (R244): Vector XOR with an immediate. -/
  | vxorRi (f : RI)
  /-- VNOT, opcode 0x4B, format RRR (R244): Vector bitwise NOT. -/
  | vnot (f : RRR)
  /-- VBOOL, opcode 0x4C, format RRR (R244): Vector three-input bitwise function by truth table. -/
  | vbool (f : RRR)
  /-- VSHL, opcode 0x4D, format RRR (R244): Vector shift left. -/
  | vshl (f : RRR)
  /-- VSHL_RI, opcode 0x4E, format RI (R244): Vector shift left by an immediate. -/
  | vshlRi (f : RI)
  /-- VSHR, opcode 0x4F, format RRR (R244): Vector logical shift right. -/
  | vshr (f : RRR)
  /-- VSHR_RI, opcode 0x50, format RI (R244): Vector logical shift right by an immediate. -/
  | vshrRi (f : RI)
  /-- VSRA, opcode 0x51, format RRR (R244): Vector arithmetic shift right. -/
  | vsra (f : RRR)
  /-- VSRA_RI, opcode 0x52, format RI (R244): Vector arithmetic shift right by an immediate. -/
  | vsraRi (f : RI)
  /-- VROL, opcode 0x53, format RRR (R244): Vector rotate left. -/
  | vrol (f : RRR)
  /-- VROL_RI, opcode 0x54, format RI (R244): Vector rotate left by an immediate. -/
  | vrolRi (f : RI)
  /-- VCLZ, opcode 0x55, format RRR (R244): Vector count of leading zeros. -/
  | vclz (f : RRR)
  /-- VCTZ, opcode 0x77, format RRR (R244): Vector count of trailing zeros. -/
  | vctz (f : RRR)
  /-- POPC, opcode 0x56, format RRR (R244): Vector population count. -/
  | popc (f : RRR)
  /-- VBREV, opcode 0x57, format RRR (R244): Vector bit reverse. -/
  | vbrev (f : RRR)
  /-- VBSWAP, opcode 0x78, format RRR (R244): Vector byte swap. -/
  | vbswap (f : RRR)
  /-- VBFE, opcode 0x58, format RRR (R245): Vector bit-field extract. -/
  | vbfe (f : RRR)
  /-- VBFI, opcode 0x59, format RRR (R245): Vector bit-field insert. -/
  | vbfi (f : RRR)
  /-- VCMP, opcode 0x5A, format RRR (R246): Vector compare writing a predicate. -/
  | vcmp (f : RRR)
  /-- VCMP_RI, opcode 0x5B, format RI (R246): Vector compare with an immediate writing a predicate. -/
  | vcmpRi (f : RI)
  /-- VSEL, opcode 0x5C, format RRR (R247): Vector select by a condition register. -/
  | vsel (f : RRR)
  /-- VSEL_RI, opcode 0x7B, format RI (R247): Vector select of a or an immediate. -/
  | vselRi (f : RI)
  /-- VCLASS, opcode 0x5D, format RRR (R247): Vector floating-point classification mask. -/
  | vclass (f : RRR)
  /-- VMATCH, opcode 0x71, format RRR (R247): Mask of strands holding an equal value. -/
  | vmatch (f : RRR)
  /-- VPACK, opcode 0x73, format RRR (R248): Inserts a clamped sub-word element. -/
  | vpack (f : RRR)
  /-- VUNPK, opcode 0x74, format RRR (R248): Extracts a sub-word element. -/
  | vunpk (f : RRR)
  /-- VSWZ, opcode 0x76, format RRR (R248): Byte swizzle within a register. -/
  | vswz (f : RRR)
  /-- VSHUF, opcode 0x65, format RRR (R248): Byte shuffle across two registers. -/
  | vshuf (f : RRR)
  /-- VDOT8, opcode 0x5E, format RRR (R249): Packed dot product of eight 4-bit elements plus accumulator. -/
  | vdot8 (f : RRR)
  /-- VDOT4, opcode 0x5F, format RRR (R249): Packed dot product of four 8-bit elements plus accumulator. -/
  | vdot4 (f : RRR)
  /-- VDOT2, opcode 0x60, format RRR (R249): Packed dot product of two 16-bit elements plus accumulator. -/
  | vdot2 (f : RRR)
  /-- VSCALE, opcode 0x61, format RRR (R250): Applies one or two E8M0 block scales to an F32 value. -/
  | vscale (f : RRR)
  /-- XCHG, opcode 0x62, format RRR (R252): Cross-strand butterfly exchange. -/
  | xchg (f : RRR)
  /-- VGET, opcode 0x63, format RRR (R253): Reads a value from another lane. -/
  | vget (f : RRR)
  /-- VPUT, opcode 0x64, format RRR (R253): Writes a value into one lane. -/
  | vput (f : RRR)
  /-- BALLOT, opcode 0x66, format RRR (R254): Mask of qualifying strands with a nonzero value. -/
  | ballot (f : RRR)
  /-- VPREFIX, opcode 0x67, format RRR (R254): Prefix reduction across strands. -/
  | vprefix (f : RRR)
  /-- VRED, opcode 0x68, format RRR (R255): Reduction across strands by the fixed tree. -/
  | vred (f : RRR)
  /-- RDFF, opcode 0x69, format RRR (R256): Reads FFLAGS. -/
  | rdff (f : RRR)
  /-- WRFF, opcode 0x6A, format RRR (R256): Writes FFLAGS. -/
  | wrff (f : RRR)
  /-- CLRFF, opcode 0x6B, format RRR (R256): Clears selected sticky flags. -/
  | clrff (f : RRR)
  /-- RCP, opcode 0x80, format RRR (R260): Faithful reciprocal. -/
  | rcp (f : RRR)
  /-- RSQ, opcode 0x81, format RRR (R260): Faithful reciprocal square root. -/
  | rsq (f : RRR)
  /-- SQRT, opcode 0x82, format RRR (R262): Correctly rounded square root. -/
  | sqrt (f : RRR)
  /-- DIV, opcode 0x83, format RRR (R262): Correctly rounded division. -/
  | div (f : RRR)
  /-- EXP2, opcode 0x84, format RRR (R260): Base-2 exponential. -/
  | exp2 (f : RRR)
  /-- LOG2, opcode 0x85, format RRR (R260): Base-2 logarithm. -/
  | log2 (f : RRR)
  /-- SIN, opcode 0x86, format RRR (R260): Sine. -/
  | sin (f : RRR)
  /-- COS, opcode 0x87, format RRR (R260): Cosine. -/
  | cos (f : RRR)
  /-- EXPE, opcode 0x95, format RRR (R260): Natural exponential. -/
  | expe (f : RRR)
  /-- LOGE, opcode 0x96, format RRR (R260): Natural logarithm. -/
  | loge (f : RRR)
  /-- TANH, opcode 0x97, format RRR (R260): Hyperbolic tangent. -/
  | tanh (f : RRR)
  /-- ATAN, opcode 0x98, format RRR (R260): Arctangent. -/
  | atan (f : RRR)
  /-- CVT, opcode 0x88, format RRR (R263): Converts one value between integer and float types. -/
  | cvt (f : RRR)
  /-- CVTPK, opcode 0x89, format RRR (R264): Converts two wide values into a pair of packed narrow elements. -/
  | cvtpk (f : RRR)
  /-- CVTPK2, opcode 0x8A, format RRR (R264): Converts 16-bit pairs into four packed narrow elements. -/
  | cvtpk2 (f : RRR)
  /-- CVTUNP, opcode 0x8B, format RRR (R265): Unpacks one narrow element exactly to F32 or F64. -/
  | cvtunp (f : RRR)
  /-- CVTMX, opcode 0x8C, format RRR (R266): Quantises F32 values across strands into MX blocks. -/
  | cvtmx (f : RRR)
  /-- CVTMXD, opcode 0x8D, format RRR (R265): Decodes one MX element with its scale to F32. -/
  | cvtmxd (f : RRR)
  /-- FXCVT, opcode 0x8E, format RRR (R268): Converts between float and fixed point. -/
  | fxcvt (f : RRR)
  /-- E8GET, opcode 0x8F, format RRR (R267): Computes the E8M0 scale for a magnitude. -/
  | e8get (f : RRR)
  /-- MXAMAX, opcode 0x99, format RRR (R267): Largest magnitude within each block of strands. -/
  | mxamax (f : RRR)
  /-- VRND, opcode 0x90, format RRR (R269): Rounds to an integral value. -/
  | vrnd (f : RRR)
  /-- SCALB, opcode 0x91, format RRR (R269): Multiplies by a power of two. -/
  | scalb (f : RRR)
  /-- GETEXP, opcode 0x92, format RRR (R269): Extracts the exponent. -/
  | getexp (f : RRR)
  /-- GETMANT, opcode 0x93, format RRR (R269): Extracts the significand. -/
  | getmant (f : RRR)
  /-- SETSEED, opcode 0x94, format RRR (R270): Sets SRSEED and reinitialises every strand's stochastic-rounding state. -/
  | setseed (f : RRR)
  /-- LD, opcode 0xA0, format MEM (R201): Aligned device-memory load. -/
  | ld (f : MemF)
  /-- ST, opcode 0xA1, format MEM (R201): Aligned device-memory store. -/
  | st (f : MemF)
  /-- LDU, opcode 0xA2, format MEM (R201): Unaligned device-memory load. -/
  | ldu (f : MemF)
  /-- STU, opcode 0xA3, format MEM (R201): Unaligned device-memory store. -/
  | stu (f : MemF)
  /-- LDC, opcode 0xA4, format MEM (R201): Load once for the weave, broadcast to strands. -/
  | ldc (f : MemF)
  /-- LDF, opcode 0xA5, format MEM (R204): Formatted load decoding page elements. -/
  | ldf (f : MemF)
  /-- STF, opcode 0xA6, format MEM (R205): Formatted store encoding page elements. -/
  | stf (f : MemF)
  /-- PRFL, opcode 0xA7, format MEM (R208): Prefetches lines into L1 or L2. -/
  | prfl (f : MemF)
  /-- INVL, opcode 0xA8, format MEM (R208): Drops the shop's L1 copy of lines. -/
  | invl (f : MemF)
  /-- WBL, opcode 0xA9, format MEM (R210): Writes lines back to the far tier. -/
  | wbl (f : MemF)
  /-- FENCE, opcode 0xAA, format RRR (R211): Acquire, release or acq_rel fence at a scope. -/
  | fence (f : RRR)
  /-- WAITL, opcode 0xAB, format MEM (R214): Waits on a line monitor for a write, a loss or a timeout. -/
  | waitl (f : MemF)
  /-- LDNF, opcode 0xAC, format MEM (R203): Non-faulting load that clears a predicate on failure. -/
  | ldnf (f : MemF)
  /-- PROBE, opcode 0xAD, format MEM (R209): Writes a translation report. -/
  | probe (f : MemF)
  /-- LEA, opcode 0xAE, format MEM (R209): Writes the effective address. -/
  | lea (f : MemF)
  /-- LDT, opcode 0xAF, format MEM (R206): Copies bytes from memory into the TOB. -/
  | ldt (f : MemF)
  /-- STT, opcode 0xB0, format MEM (R206): Copies bytes from the TOB to memory. -/
  | stt (f : MemF)
  /-- GENRD, opcode 0xB1, format RRR (R216): Reads the shop generation and wrap count. -/
  | genrd (f : RRR)
  /-- ZEROL, opcode 0xB2, format MEM (R207): Writes zero to a whole line. -/
  | zerol (f : MemF)
  /-- LDS, opcode 0xB8, format MEM (R224): Scratchpad load. -/
  | lds (f : MemF)
  /-- STS, opcode 0xB9, format MEM (R224): Scratchpad store. -/
  | sts (f : MemF)
  /-- ATOMS, opcode 0xBA, format RRR (R227): Scratchpad atomic operation. -/
  | atoms (f : RRR)
  /-- CASS, opcode 0xBB, format RRR (R227): Scratchpad compare-and-swap. -/
  | cass (f : RRR)
  /-- FEFILL, opcode 0xBC, format MEM (R228): Waits for EMPTY words, writes data and sets FULL. -/
  | fefill (f : MemF)
  /-- FETAKE, opcode 0xBD, format MEM (R228): Waits for FULL words, reads data and sets EMPTY. -/
  | fetake (f : MemF)
  /-- FEREAD, opcode 0xBE, format MEM (R228): Waits for FULL words and reads data. -/
  | feread (f : MemF)
  /-- FERESET, opcode 0xBF, format MEM (R228): Sets a word's full/empty state. -/
  | fereset (f : MemF)
  /-- BARA, opcode 0xC0, format MEM (R233): Arrives at a barrier word, optionally dropping out. -/
  | bara (f : MemF)
  /-- BARW, opcode 0xC1, format MEM (R233): Waits until a barrier word's round differs from r. -/
  | barw (f : MemF)
  /-- BARX, opcode 0xC2, format MEM (R233): Claims or lands bytes on a barrier word, optionally arriving. -/
  | barx (f : MemF)
  /-- NBSYNC, opcode 0xC3, format RRR (R237): Arrives at a named barrier and waits for the phase. -/
  | nbsync (f : RRR)
  /-- NBARR, opcode 0xC4, format RRR (R237): Arrives at a named barrier without waiting. -/
  | nbarr (f : RRR)
  /-- BSAVE, opcode 0xC5, format RRR (R238): Writes the named-barrier file image to scratchpad. -/
  | bsave (f : RRR)
  /-- BRESTORE, opcode 0xC6, format RRR (R238): Loads named barriers without waiters from an image. -/
  | brestore (f : RRR)
  /-- ATOM, opcode 0xC8, format RRR (R280): Per-strand atomic at the home Clerk. -/
  | atom (f : RRR)
  /-- RED, opcode 0xC9, format RRR (R280): Per-strand atomic reduction without return. -/
  | red (f : RRR)
  /-- CAS, opcode 0xCA, format RRR (R280): Per-strand compare-and-swap. -/
  | cas (f : RRR)
  /-- CAS128, opcode 0xCB, format RRR (R280): Per-strand 16-byte compare-and-swap. -/
  | cas128 (f : RRR)
  /-- ATOMU, opcode 0xCC, format RRR (R281): Unbroken run of atomics on one address in strand order. -/
  | atomu (f : RRR)
  /-- REDU, opcode 0xCD, format RRR (R281): Tree-reduces operands and applies once to one address. -/
  | redu (f : RRR)
  /-- CASU, opcode 0xCE, format RRR (R281): One compare-and-swap for the weave on one address. -/
  | casu (f : RRR)
  /-- REDA, opcode 0xCF, format RRR (R281): Tree-reduces operands per distinct address and applies each once. -/
  | reda (f : RRR)
  /-- DCOPY, opcode 0xD4, format ENG (R287): Pushes a bulk copy descriptor to the Dray. -/
  | dcopy (f : ENG)
  /-- DCOPYM, opcode 0xD5, format ENG (R287): Pushes a multicast copy to the scratchpads of gang baskets. -/
  | dcopym (f : ENG)
  /-- GATHER, opcode 0xD6, format ENG (R367): Pushes a per-strand gather into a Gleaner slot. -/
  | gather (f : ENG)
  /-- SCATTER, opcode 0xD7, format ENG (R367): Pushes a per-strand scatter into a Gleaner slot. -/
  | scatter (f : ENG)
  /-- GCOMPACT, opcode 0xD8, format ENG (R367): Pushes a compacting store of qualifying strands. -/
  | gcompact (f : ENG)
  /-- GSTATUS, opcode 0xD9, format RRR (R373): Reads codes, masks or info of a Gleaner slot. -/
  | gstatus (f : RRR)
  /-- GREPLAY, opcode 0xDA, format ENG (R374): Reruns the failed strands of a slot. -/
  | greplay (f : ENG)
  /-- GSELECT, opcode 0xDB, format ENG (R381): Pushes an exact top-K selection command. -/
  | gselect (f : ENG)
  /-- LOOM_MM, opcode 0xDC, format ENG (R398): Pushes a joint narrow-format matrix product. -/
  | loomMm (f : ENG)
  /-- LOOM_MX, opcode 0xDD, format ENG (R398): Pushes a joint MX-scaled matrix product. -/
  | loomMx (f : ENG)
  /-- LOOM_SPLIT, opcode 0xDE, format ENG (R409): Cuts FP32 or FP64 lines into splint planes and exponents. -/
  | loomSplit (f : ENG)
  /-- LOOM_SPL, opcode 0xDF, format ENG (R411): Runs the splint passes into 48-bit diagonal sums. -/
  | loomSpl (f : ENG)
  /-- LOOM_FIN, opcode 0xE0, format ENG (R413): Sums the diagonals and rounds once to the result. -/
  | loomFin (f : ENG)
  /-- LOOM_WAIT, opcode 0xE1, format RRR (R400): Waits for every earlier Loom command and writes the first failure. -/
  | loomWait (f : RRR)
  /-- OFENCE, opcode 0xE2, format RRR (R402): Holds issue until all earlier register writes are performed. -/
  | ofence (f : RRR)
  /-- ACC_ALLOC, opcode 0xE3, format RRR (R388): Obtains a run of accumulator banks. -/
  | accAlloc (f : RRR)
  /-- ACC_FREE, opcode 0xE4, format RRR (R388): Frees accumulator banks once no unfinished operation names them. -/
  | accFree (f : RRR)
  /-- ACC_RD, opcode 0xE5, format RRR (R389): Reads accumulator words into vector registers. -/
  | accRd (f : RRR)
  /-- ACC_WR, opcode 0xE6, format RRR (R389): Writes vector registers into accumulator words. -/
  | accWr (f : RRR)
  /-- ACC_CLR, opcode 0xE7, format RRR (R389): Zeroes accumulator banks. -/
  | accClr (f : RRR)
  /-- GANG_SET, opcode 0xE8, format RRR (R391): Writes the weave's gang register. -/
  | gangSet (f : RRR)
  /-- NET_COLL, opcode 0xE9, format ENG (R425): Pushes a collective to the Courier. -/
  | netColl (f : ENG)
  /-- NET_SEND, opcode 0xEA, format ENG (R426): Pushes a send or receive to the Courier. -/
  | netSend (f : ENG)
  /-- RING_POP, opcode 0xEB, format RRR (R433): Claims the next intake ring entry. -/
  | ringPop (f : RRR)
  /-- PREF_T, opcode 0xEC, format ENG (R329): Pushes a tensor-shaped prefetch to the Runner. -/
  | prefT (f : ENG)
  /-- LAUNCH_D, opcode 0xED, format ENG (R158): Pushes a device-side launch descriptor to q11. -/
  | launchD (f : ENG)
  /-- SRD, opcode 0xF0, format SYS (R188): Reads a system register. -/
  | srd (f : SYS)
  /-- SWR, opcode 0xF1, format SYS (R188): Writes a system register. -/
  | swr (f : SYS)
  /-- BKPT, opcode 0xF2, format SYS (R441): Raises the debug trap with a code. -/
  | bkpt (f : SYS)
  /-- TRACE, opcode 0xF3, format SYS (R441): Writes a USER trace record with an immediate. -/
  | trace (f : SYS)
  /-- TRACEV, opcode 0xF4, format SYS (R441): Writes a USER trace record with a register value. -/
  | tracev (f : SYS)
  /-- PMARK, opcode 0xF5, format SYS (R441): Sets MARK and writes a MARK record. -/
  | pmark (f : SYS)
  /-- CNTRD, opcode 0xF6, format SYS (R441): Reads a shop counter. -/
  | cntrd (f : SYS)
  /-- CKPT, opcode 0xF7, format SYS (R341): Commits the basket's open version. -/
  | ckpt (f : SYS)
  /-- VSTAT, opcode 0xF8, format SYS (R341): Reads CKCOUNT and version status. -/
  | vstat (f : SYS)
  /-- LOFT_LD, opcode 0xF9, format MEM (R344): Loads from the local Loft into registers or the TOB. -/
  | loftLd (f : MemF)
  /-- LOFT_WAITR, opcode 0xFA, format SYS (R346): Waits until n ns remain before the next refresh window. -/
  | loftWaitr (f : SYS)
  /-- CAPQ, opcode 0xFB, format SYS (R326): Reads CAP or RESIDENT. -/
  | capq (f : SYS)
  /-- PGQ_INV, opcode 0xFC, format SYS (R325): Drops translations of a range in every shop. -/
  | pgqInv (f : SYS)
  /-- PGQ_INVALL, opcode 0xFC, format SYS (R325): Drops every translation of the tenancy. -/
  | pgqInvall (f : SYS)
  /-- PGQ_EVICT, opcode 0xFC, format SYS (R325): Writes back and drops evictable grains of a range. -/
  | pgqEvict (f : SYS)
  /-- ISYNC, opcode 0xFD, format SYS (R180): Discards fetched instruction words and code translations. -/
  | isync (f : SYS)
  /-- DRAIN, opcode 0xFE, format SYS (R180): Waits until every earlier long-latency operation completes. -/
  | drain (f : SYS)
  /-- GTWAIT, opcode 0xFF, format SYS (R435): Waits until global time reaches a value. -/
  | gtwait (f : SYS)
  /-- RESERVED_OPCODE (R126): An instruction word whose opcode is one of the 24 reserved slots issues and raises the illegal-instruction trap, cause 1. -/
  | reservedOpcode (w : DWord)
  /-- CLERK_PERFORM (R276), an event: Home Clerk performs one accepted request's read-modify-write. -/
  | clerkPerform
  /-- DRAY_CHUNK_DONE (R296), an event: Writes of a 64 KiB chunk are performed and its byte count lands. -/
  | drayChunkDone
  /-- DRAY_COPY_COMPLETE (R294), an event: Copy completes on every destination and its completion events occur. -/
  | drayCopyComplete
  /-- GLEANER_ACCEPT (R362), an event: Gleaner accepts a command once its slot is not BUSY. -/
  | gleanerAccept
  /-- GLEANER_STRAND_SETTLE (R367), an event: One strand's access completes or fails and its code is written. -/
  | gleanerStrandSettle
  /-- GSELECT_COMPLETE (R384), an event: Selection writes its output and its completion events occur. -/
  | gselectComplete
  /-- LOOM_RENDEZVOUS (R392), an event: A ready head is resolved: the operation starts or all members get MISMATCH. -/
  | loomRendezvous
  /-- LOOM_KSTEP_COMMIT (R398), an event: One K-step or splint pass step commits its words and counters. -/
  | loomKstepCommit
  /-- NET_COMMAND_COMPLETE (R429), an event: A Courier command finishes and its completion events occur. -/
  | netCommandComplete
  /-- NET_PEER_TIMEOUT (R427), an event: A member unreachable for 100 ms ends the command with PEER. -/
  | netPeerTimeout
  /-- RUNNER_GRAIN_FETCH (R329), an event: Runner fetches or skips the next grain of a prefetch. -/
  | runnerGrainFetch
  /-- LAUNCH_D_ACCEPT (R158), an event: Steward checks and creates or refuses the child lot. -/
  | launchDAccept
  /-- CLAUSE_START (R164), an event: The bench selects a ready split and starts its next clause after the checks. -/
  | clauseStart
  /-- FAR_FAULT_TRAP (R321), an event: An unresolved access delivers trap class 5 at the split's next clause boundary. -/
  | farFaultTrap
  /-- PAUSE_EXPIRE (R179), an event: A PAUSE interval ends and the split resumes. -/
  | pauseExpire
  /-- GTWAIT_WAKE (R435), an event: Global time reaches the awaited value and GTWAIT completes. -/
  | gtwaitWake
  /-- WAITL_TIMEOUT (R214), an event: 2^k cycles pass and WAITL wakes with code 2. -/
  | waitlTimeout
  /-- WATCH_UNAVAILABLE (R215), an event: WAITL with no free watch wakes with code 1 after 256 cycles. -/
  | watchUnavailable
  /-- VERSION_WAY_FREE (R334), an event: A Depot way frees and a write waiting on version quota proceeds. -/
  | versionWayFree
  /-- GANG_PLACE (R156), an event: Steward places a waiting gang: reserves context, maps arena, carves registers and releases it. -/
  | gangPlace
  /-- PREEMPT_REQUEST (R159), an event: Steward requests pre-emption of gangs for a cause. -/
  | preemptRequest
  /-- PRIORITY_WAIT_EXPIRE (R159), an event: A gang waiting 20 µs triggers priority pre-emption. -/
  | priorityWaitExpire
  /-- STARVATION_GUARD (R51), an event: Guard counts reaching 65,536 swap a resident basket for a pre-empted one. -/
  | starvationGuard
  /-- PRIORITY_AGING (R155), an event: Each full millisecond of waiting raises a lot's effective priority. -/
  | priorityAging
  /-- PREEMPT_ACK (R161), an event: An engine acknowledges that it has stopped the victim's work. -/
  | preemptAck
  /-- PREEMPT_WITHDRAW (R161), an event: The policy core withdraws a priority or SUSPEND request. -/
  | preemptWithdraw
  /-- GANG_RESTORE (R163), an event: A saved gang is placed, reloaded and its leases checked. -/
  | gangRestore
  /-- PACKET_START (R146), an event: Steward reads and starts the next packet of a queue. -/
  | packetStart
  /-- NOP_PACKET (R149), an event: NOP packet completes at start. -/
  | nopPacket
  /-- LAUNCH_PACKET (R148), an event: Checks a LAUNCH packet and headers and creates a PENDING lot. -/
  | launchPacket
  /-- COPY_PACKET (R149), an event: Performs a linear plain copy by a chosen Dray. -/
  | copyPacket
  /-- WAITSIG_PACKET (R149), an event: Holds the queue until a signal word satisfies its condition. -/
  | waitsigPacket
  /-- WAITSIG_POLL (R149), an event: Signal word is reread at least every 2 µs. -/
  | waitsigPoll
  /-- WAITSIG_TIMEOUT (R150), an event: A WAITSIG timeout posts reason 0x0007. -/
  | waitsigTimeout
  /-- SIGNAL_PACKET (R149), an event: Writes or adds a signal value as a release after earlier completions. -/
  | signalPacket
  /-- LOFTWRITE_PACKET (R343), an event: Copies bytes into all four Lofts between lots. -/
  | loftwritePacket
  /-- FENCE_PACKET (R149), an event: Waits for earlier packets and performs a release at level 3. -/
  | fencePacket
  /-- RESPONSE_POLL (R151), an event: A STALLED queue reads RESPONSE every 10 µs or on WRIDX write. -/
  | responsePoll
  /-- WRIDX_WRITE (R146), an event: Host write of WRIDX makes new packets available. -/
  | wridxWrite
  /-- DOORBELL_WRITE (R144), an event: 8-byte write to a doorbell page acts as a WRIDX write. -/
  | doorbellWrite
  /-- QUEUE_ENABLE (R145), an event: Setting ENABLE checks the configuration and starts the queue. -/
  | queueEnable
  /-- QUEUE_DISABLE (R145), an event: Clearing ENABLE stops packet reading. -/
  | queueDisable
  /-- QUEUE_SUSPEND (R159), an event: Setting SUSPEND pre-empts and holds the queue's lots. -/
  | queueSuspend
  /-- QUEUE_UNSUSPEND (R159), an event: Clearing SUSPEND lets the queue's gangs be restored. -/
  | queueUnsuspend
  /-- PRIO_WRITE (R154), an event: A PRIO write changes the priority of gangs not yet placed. -/
  | prioWrite
  /-- EXRD_WRITE (R152), an event: Host advances EXRD, releasing a held record. -/
  | exrdWrite
  /-- TENANCY_CREATE (R460), an event: CREATE command checks and starts tenancy creation or refuses it. -/
  | tenancyCreate
  /-- TENANCY_CREATE_DONE (R460), an event: After collection, home sets change, context pool pinned, key loaded, STATE LIVE. -/
  | tenancyCreateDone
  /-- TENANCY_DESTROY (R460), an event: DESTROY command checks and starts teardown or refuses it. -/
  | tenancyDestroy
  /-- TENANCY_DESTROY_DONE (R460), an event: Leases released, resources cleared, STATE FREE. -/
  | tenancyDestroyDone
  /-- TKEY_WRITE (R460), an event: Successive writes supply the 256-bit tenancy key. -/
  | tkeyWrite
  /-- REGISTER_WRITE (R9), an event: Host write to a management register with no behaviour of its own. -/
  | registerWrite
  /-- QUOTA_WRITE (R304), an event: Writing TCTL.QUOTA changes the frame allowance and may evict. -/
  | quotaWrite
  /-- INVREQ_GO (R304), an event: Writing GO starts PGQ.INVALL for the tenancy. -/
  | invreqGo
  /-- GRAIN_FILL_COMPLETE (R310), an event: A grain fill ends, the grain is resident, and parked accesses replay. -/
  | grainFillComplete
  /-- FAULT_RESPONSE_POLL (R319), an event: Reeve reads a KIND 1 record's RESPONSE every 10 µs. -/
  | faultResponsePoll
  /-- FRTMO_EXPIRE (R319), an event: An ABSENT record's wait elapses and the access becomes unresolved. -/
  | frtmoExpire
  /-- LEASE_ACQUIRE (R327), an event: q9 ACQUIRE asks the pool manager for a lease. -/
  | leaseAcquire
  /-- LEASE_RENEW (R327), an event: q9 RENEW asks for renewal of a slot. -/
  | leaseRenew
  /-- LEASE_RELEASE (R327), an event: q9 RELEASE writes back, drops and releases a slot. -/
  | leaseRelease
  /-- FRRESP (R327), an event: q9 FRRESP answers an awaiting fault record. -/
  | frresp
  /-- LEASERD (R327), an event: q9 LEASERD returns the slot image. -/
  | leaserd
  /-- RELEASE_WRITEBACK_DONE (R327), an event: Write-back of a RELEASING slot ends; RELEASE is sent and the slot becomes EMPTY. -/
  | releaseWritebackDone
  /-- GRANT (R314), an event: Pool manager grant fills or renews a slot and replays parked accesses. -/
  | grant
  /-- REFUSE (R314), an event: Pool manager refusal moves a slot to ENDING or LOST or fails an ACQUIRE. -/
  | refuse
  /-- REVOKE (R314), an event: Pool manager revocation sets a DEADLINE or makes the slot LOST. -/
  | revoke
  /-- NODEDOWN (R317), an event: A failed pool node switches slots to their replica or makes them LOST. -/
  | nodedown
  /-- REPLICA (R313), an event: Pool manager names a new replica node for a slot. -/
  | replica
  /-- RENEW_LEAD_REACHED (R314), an event: EXPIRY minus RENEWLEAD is reached and renewal starts. -/
  | renewLeadReached
  /-- RENEW_RESEND (R314), an event: RENEW is resent every 100 µs. -/
  | renewResend
  /-- EXPIRY_GUARD_REACHED (R314), an event: EXPIRY minus GUARD is reached and the slot becomes EXPIRED. -/
  | expiryGuardReached
  /-- RENEWTMO_EXPIRE (R314), an event: RENEWTMO elapses and the slot becomes LOST. -/
  | renewtmoExpire
  /-- DEADLINE_REACHED (R314), an event: An ENDING or RELEASING slot reaches its DEADLINE. -/
  | deadlineReached
  /-- BISNP (R322), an event: Back-invalidation snoop drops shared grains and is answered with BIRsp. -/
  | bisnp
  /-- EXHAUSTED (R359), an event: Tinker reports an unrepairable row; the Reeve retires its frame. -/
  | exhausted
  /-- FRAME_MIGRATION_DONE (R359), an event: A dirty grain's migration off a retired frame completes. -/
  | frameMigrationDone
  /-- RUNNER_COUNTER_HALVE (R328), an event: Every 2^20 cycles all access counters of the die are halved. -/
  | runnerCounterHalve
  /-- TINKER_REQUEST (R348), an event: Tinker accepts and performs a tagged memory request. -/
  | tinkerRequest
  /-- SCRUB_STEP (R350), an event: Scrubber reads and corrects the next line. -/
  | scrubStep
  /-- REPAIR_WINDOW_OPEN (R353), an event: A repair window opens and its bank or channel stops access. -/
  | repairWindowOpen
  /-- REPAIR_WINDOW_CLOSE (R353), an event: Copy verified, remap switched, window closes and parked accesses proceed. -/
  | repairWindowClose
  /-- LOFTPART_WRITE (R331), an event: A LOFTPART write sets or refuses the Loft partition. -/
  | loftpartWrite
  /-- LOFT_WINDOW_START (R345), an event: A Loft refresh window begins. -/
  | loftWindowStart
  /-- LOFT_WINDOW_END (R345), an event: A Loft refresh window ends and parked Loft accesses are served. -/
  | loftWindowEnd
  /-- KEY_WRAP_WRITE (R421), an event: The fifth WRAP write unwraps a key into the slot. -/
  | keyWrapWrite
  /-- KEY_SLOT_CONFIG_WRITE (R421), an event: Writing SAID or TENANCY erases the slot's key. -/
  | keySlotConfigWrite
  /-- COMM_ENABLE (R422), an event: Setting ENABLE reads member records and enables or refuses the communicator. -/
  | commEnable
  /-- COMM_DISABLE (R422), an event: Clearing ENABLE makes later commands complete NOCOMM. -/
  | commDisable
  /-- RING_ENABLE (R430), an event: Enabling an intake ring checks, zeroes counters and pins its grains. -/
  | ringEnable
  /-- RING_DISABLE (R430), an event: Clearing ENABLE stops feeding the ring. -/
  | ringDisable
  /-- FRAME_RECEIVE (R432), an event: A received frame takes one fate and may be written into a ring slot. -/
  | frameReceive
  /-- DBGCTL_STATE_WRITE (R436), an event: Changing STATE or TRACEEN checks the rings and sets the debug state. -/
  | dbgctlStateWrite
  /-- SYNC_TICK (R439), an event: Every 2^16 cycles or clock change a SYNC record is written. -/
  | syncTick
  /-- SAMPLE_TICK (R446), an event: Every 2^SLOG2N cycles each bench samples a weave's stall reason. -/
  | sampleTick
  /-- REPLAY_PASS_END (R448), an event: A replay pass ends; counters summed, record posted, memory restored or lot completed. -/
  | replayPassEnd
  /-- PTM_EXCHANGE (R434), an event: A PTM exchange with the host updates GTOFF and the time rate. -/
  | ptmExchange
  /-- POWER_ON (R452), an event: Boot ROM verifies every firmware image. -/
  | powerOn
  /-- BRINGUP_STAGE_END (R453), an event: A bring-up stage ends and the next starts. -/
  | bringupStageEnd
  /-- LINK_LOSS (R454), an event: Loss of link on a fabric or network port clears its bit. -/
  | linkLoss
  /-- CLOCK_STEP (R456), an event: Every 10 µs the compute clock steps down or up for power or heat. -/
  | clockStep
  /-- THERMAL_TRIP (R456), an event: TMAX of 110 °C resets the device and sets TRIPPED. -/
  | thermalTrip
  /-- D3HOT_ENTRY (R457), an event: Entry to D3hot pre-empts every gang and keeps memory in self-refresh. -/
  | d3hotEntry
  /-- D0_RETURN (R457), an event: Return to D0 restores the saved gangs. -/
  | d0Return
  /-- ATTCTL_GO (R458), an event: Writing GO starts an attestation report. -/
  | attctlGo
  /-- ATTEST_COMPLETE (R459), an event: The signed report is written and DONE or ERR set. -/
  | attestComplete
  /-- LONG_LATENCY_COMPLETE (R166), an event: A long-latency porter, stockroom or class-7 operation (load, store, scratchpad access, WBL, PGQ, CKPT) completes, writes its destinations and its flag count falls. -/
  | longLatencyComplete
  /-- LOOM_SPLIT_FIN_COMPLETE (R400), an event: A started LOOM.SPLIT or LOOM.FIN finishes its cut or rounding and every member's command completes. -/
  | loomSplitFinComplete
  /-- LOFTWRITE_COMPLETE (R343), an event: The last byte of a LOFTWRITE copy is in every die's Loft and the packet completes, letting the tenancy's LAUNCH packets start. -/
  | loftwriteComplete
  /-- FRRD_WRITE (R319), an event: A host write of FRRD frees room in the fault ring and posts an awaiting record that a full ring held. -/
  | frrdWrite
  /-- RRD_WRITE (R437), an event: A host write of RRD frees room in the replay ring, so that the held replay record is posted and the lot's next pass or completion proceeds. -/
  | rrdWrite
  /-- DEVICE_RESET (R357), an event: A device (warm) reset clears the scope table, global time and every unfinished in-service repair, keeping only TRIPPED. -/
  | deviceReset
  /-- POWER_LOSS (R357), an event: Loss of supply ends all state, including any repair not yet recorded in the repair map. -/
  | powerLoss
  deriving DecidableEq, Repr

end Sys2Proof
end

