-- ==== Sys2Proof/Machine/State.lean ====
section
/-!
DEFINITION. The state of the device: every piece of state that the spec gives the machine, as plain data, with its value
right after reset. Large arrays are finite maps (Maps.lean) whose unlisted entries read as the reset value.
-/

namespace Sys2Proof.Machine

open Sys2Proof

/-! ### Ordering state of the memory agents (spec/03_ordering.md R53 to R67) -/

/-- A view: for each byte of device memory, the stamp of the earliest write that an agent may still read (R61). The key of a byte is its
address; what only the fence order gives stands under the address + 2^70 (R63), and what the agent knows of the open version of basket b
under the address + (b + 1) × 2^71 (R66). Log 14 (DEDUCED). -/
abbrev View := Tab Nat

/-- A memory agent of R53, where its position matters (R57). -/
inductive Agent where
  | weave (shop : Nat) | courier (die : Nat) | host | steward | reeve (die : Nat) | scrivener | peer (hops : Nat)
  deriving DecidableEq, Repr

/-- What a release operation publishes: who released, at which scope level, and everything that happens before it (R59). -/
structure Msg where
  agent : Agent
  scope : Nat
  view  : View
  deriving DecidableEq, Repr

/-- One write in the coherence order of a 128-byte line (R61): its place in the order, its bytes, what it publishes. -/
structure WriteEv where
  stamp : Nat
  byte  : Nat
  data  : List Byte
  msgs  : List Msg
  /-- global time at which it was performed (R432) -/
  time  : Nat := 0
  /-- for a write that a commit entered: its stamp in the version, and the basket of the version (R66) -/
  vstamp : Nat := 0
  vbasket : Nat := 0
  deriving DecidableEq, Repr

/-- The writes of a line that earlier views may still read, oldest first, and what its bytes held before them. -/
structure LineCo where
  before : Tab Byte := []
  evs    : List WriteEv := []
  deriving DecidableEq, Repr

/-- What one strand of a weave knows (R56, R59, R60). Log 14 (DEDUCED). -/
structure Sync where
  view : View := []
  /-- release fences the strand has executed: sources of edges through later writes -/
  rel  : List Msg := []
  /-- what the writes the strand has read publish: edges that a later acquire fence completes -/
  seen : List Msg := []
  deriving DecidableEq, Repr

/-- An acq_rel fence in the fence order S (R63): the writes that happen before it or that reads before it have read. -/
structure FenceRec where
  agent : Agent
  scope : Nat
  view  : View
  deriving DecidableEq, Repr

/-- Where an access that is parked has its bytes: the far grains, the lease slots, and, once such a slot has been lost or its lease revoked, the KIND
with which the access becomes unresolved (R315, R316, R163); 0 before. -/
abbrev Parked := List (Nat × Nat × Nat)

/-! ### Splits and clauses (spec/02_execution_model.md R40 to R45, spec/05_encoding.md R100 to R108) -/

/-- A clause in progress: its header's address, the header word, its instruction words as they were fetched, and the
index of the next instruction to issue. -/
structure ClauseRun where
  pc    : DWord
  hdr   : DWord
  words : List DWord
  idx   : Nat
  deriving DecidableEq, Repr

/-- A stall reason (R445). -/
inductive Stall where
  | repair | lease | fill | loftRefresh | preemptDrain | versionQuota | accAlloc | loomRendezvous | spill | queueFull
  | queueEmpty | continuation | barrier | fullEmpty | joinWait | monitor | pause | flag | sibling | memory | ready
  | running
  deriving DecidableEq, Repr

/-- What a held instruction waits for beyond its condition (R106, R179, R214, R435, R21). -/
inductive Wait where
  /-- the condition is tested again at each retry -/
  | retry
  /-- PAUSE: until the cycle count reaches this -/
  | pause (upto : Nat)
  /-- WAITL on a line of device memory, until this cycle; the wake code once there is one -/
  | monitor (line upto : Nat) (code : Option Nat)
  /-- WAITL that found no free watch, until this cycle -/
  | noWatch (upto : Nat)
  /-- GTWAIT: until global time reaches this -/
  | gtime (upto : Nat)
  /-- a continuation: resumes at this PC when the engine completes the command -/
  | continuation (pc : DWord) (woken : Bool)
  /-- NBSYNC: arrived at a named barrier; woken by the end of the phase -/
  | phase (woken : Bool)
  deriving DecidableEq, Repr

/-- A held instruction (R106): its word, its place, the source registers it read when it first issued, its strands, and
the clause it ends. Log 9 (DEDUCED). -/
structure Held where
  word     : DWord
  idx      : Nat
  pc       : DWord
  hdr      : DWord
  srcs     : Tab Word
  /-- the register fields that it writes, with their widths -/
  dests    : List (Nat × Nat) := []
  q        : Mask
  wait     : Wait
  stall    : Stall
  /-- the step at which it began to wait (R230) -/
  since    : Nat := 0
  /-- the instruction is retried after a restore (R185 FLAGS.HELD) -/
  restored : Bool := false
  deriving DecidableEq, Repr

/-- A trap to deliver (R183 to R186). -/
structure Trap where
  cls   : Nat
  cause : Nat
  lanes : Mask
  addr  : Nat := 0
  info  : Nat := 0
  deriving DecidableEq, Repr

/-- Where a trap arose: the instruction's clause, index and word (R185). -/
structure TrapAt where
  idx    : Nat
  pc     : DWord
  nextpc : DWord
  word   : DWord
  held   : Bool
  deriving DecidableEq, Repr

/-- A split of a weave (R33, R40). -/
structure Split where
  pc      : DWord
  mask    : Mask
  /-- in handler mode (R184) -/
  handler : Bool := false
  /-- the clause it starts next must be a P clause (R107) -/
  needP   : Bool := false
  /-- the trapping PC whose breakpoints do not match on the next start (R444) -/
  noBreak : Option DWord := none
  run     : Option ClauseRun := none
  held    : Option Held := none
  /-- a trap that waits for a sibling split to leave handler mode (R184) -/
  late    : Option (Trap × TrapAt) := none
  /-- why its present instruction does not issue although it is held by nothing of R106: a walk, a return slot, a full pending buffer
  (R189, R275, R230) -/
  stay    : Option Stall := none
  /-- one more than the cycle in which it last became ready (R164); 0: it is not ready -/
  readyAt : Nat := 0
  /-- where the fetch of its next clause is parked -/
  fetching : Parked := []
  deriving DecidableEq, Repr

/-- An entry of the join stack (R40, R41). Log 28 (DEDUCED). -/
inductive JoinItem where
  | entry (pc : DWord) (mark arrived : Mask) (handler : Bool)
  | pending (pc : DWord) (mask : Mask) (handler needP : Bool)
  deriving DecidableEq, Repr

/-- A class 5 trap that waits for its split to reach a clause boundary (R321). -/
structure FarTrap where
  kind  : Nat
  lanes : Mask
  pc    : DWord
  idx   : Nat
  word  : DWord
  va    : Nat
  seq   : Nat
  slot  : Nat
  deriving DecidableEq, Repr

/-! ### Operations in flight (spec/08_bench.md R166 to R169) -/

/-- One strand's part of a memory operation: the physical address of each byte (R54), the lease slots they lie under, and
the bytes to store or the TOB offset. -/
structure Lane where
  strand : Nat
  va     : Nat
  pas    : List Nat
  slots  : List Nat
  data   : List Byte := []
  tob    : Nat := 0
  deriving DecidableEq, Repr

/-- A formatted element to read or write: where its bits and its scale lie (R97, R98). -/
structure Elem where
  strand : Nat
  pfmt   : Nat
  bit    : Nat
  pas    : List Nat
  scale  : Option Nat
  slot   : Nat
  va     : Nat
  deriving DecidableEq, Repr

/-- Where a value goes: nowhere, a vector register's strands, or one scalar register (R118, R119). -/
inductive Dest where
  | none | vec (reg : Nat) | sca (reg : Nat)
  deriving DecidableEq, Repr

/-- The operation of an atomic (R226, R278). -/
inductive AtomKind where
  | op (aop : Nat) | cas
  deriving DecidableEq, Repr

/-- One strand's read-modify-write. -/
structure AtomLane where
  strand : Nat
  va     : Nat
  pas    : List Nat
  slots  : List Nat
  b      : Nat
  c      : Nat := 0
  /-- returning atomics of the strand before this one in the replay pass (R286) -/
  nth    : Nat := 0
  deriving DecidableEq, Repr

/-- How an atomic instruction uses its strands (R280, R281). -/
inductive AtomForm where
  | perStrand | unbroken | treeOne | casOne | treeEach
  deriving DecidableEq, Repr

/-- A request of barrier words (R232). -/
structure BarReq where
  a  : Nat
  c  : Nat
  l  : Nat
  dr : Nat
  deriving DecidableEq, Repr

/-- What an operation in flight still has to do. -/
inductive OpKind where
  | load (size : Nat) (sx : Bool) (dst : Dest) (uniform : Bool) (lanes : List Lane)
  | loadNF (size : Nat) (dst : Dest) (pn : Nat) (lanes : List Lane) (bad : Mask) (line : Option Nat)
  | store (size : Nat) (lanes : List Lane)
  | loadFmt (d : Nat) (dst : Dest) (elems : List (List Elem))
  | storeFmt (rows : List Lane)
  | loadTob (size : Nat) (lanes : List Lane)
  | storeTob (size : Nat) (lanes : List Lane)
  | writeBack (lanes : List Lane)
  | fence
  | spLoad (size : Nat) (sx : Bool) (dst : Dest) (lanes : List Lane)
  | spStore (size : Nat) (lanes : List Lane)
  | spAtomic (kind : AtomKind) (type : Nat) (dst : Dest) (lanes : List AtomLane)
  | feReset (full : Bool) (words : List Nat)
  | barrier (off : Nat) (req : BarReq) (dst : Dest)
  | namedArrive (n k : Nat)
  | bsave (off : Nat)
  | brestore (off : Nat)
  | clerk (lanes : List AtomLane)
  | ckpt
  | invalidate (lo n : Nat) (all : Bool)
  | evict (grains : List Nat)
  | loftLoad (size : Nat) (sx : Bool) (dst : Dest) (tob : Bool) (lanes : List Lane)
  | probe (dst : Dest) (words : Tab Word)
  /-- the command of an engine: it completes with the engine's own event -/
  | engine
  deriving DecidableEq, Repr

/-- The last events of a command whose arrival or fill is held: they occur once it has been applied (R294). -/
structure Finish where
  /-- the result queue and the entry's words -/
  result : Option (Nat × List Word)
  msg    : Option Msg
  deriving DecidableEq, Repr

/-- A long-latency operation in flight (R166): the weave and the strands that issued it, the flags it set (12 stands for
the untracked count, R169; 15 for a count that a save did not keep, R167), what it is, and where it was issued. -/
structure Op where
  w      : Nat
  slot   : Nat
  mask   : Mask
  q      : Mask
  flags  : List Nat
  kind   : OpKind
  ann    : Nat := 0
  scope  : Nat := 0
  pc     : DWord := 0
  idx    : Nat := 0
  word   : DWord := 0
  /-- the destination words, (register key, value), once the operation has been performed (R168) -/
  bound  : Option (Tab Word) := none
  /-- destination words that the weave has written since the issue (R168) -/
  covered   : List Nat := []
  /-- the register words it will write -/
  dests  : List Nat := []
  /-- what everything before the issue published to the operation (R68) -/
  view   : View := []
  fin    : Option Finish := none
  /-- its place in the order in which accesses parked (R310, R314); 0: it has not parked -/
  parked : Nat := 0
  /-- the strands whose accesses are parked -/
  parkMask : Mask := 0
  /-- lease slots of which it has posted a record that awaits no reply (R318) -/
  posted : List Nat := []
  /-- strands ended unresolved by the loss of a slot while they were parked: strand, slot, KIND (R316) -/
  lost   : List (Nat × Nat × Nat) := []
  deriving DecidableEq, Repr

/-! ### Kernel header and coordinates (spec/06_assembler.md R139, spec/02_execution_model.md R36) -/

/-- A role header, as the Steward read it at launch (R139, R141). -/
structure Hdr where
  addr      : DWord
  vregs     : Nat
  sregs     : Nat
  tregs     : Nat
  renamed   : Bool
  role      : Nat
  nroles    : Nat
  weaves    : Nat
  spad      : Nat
  tobBanks  : Nat
  accBanks  : Nat
  gang      : Nat
  flags     : Nat
  trapDisp  : BitVec 32
  handler   : BitVec 32
  liveOff   : DWord
  liveCount : Nat
  vquota    : Nat
  deriving DecidableEq, Repr

/-- Who a weave is (R35, R36): it never changes during the weave's life. -/
structure Ids where
  lot     : Nat
  lotid   : BitVec 32
  tenancy : Nat
  gid     : Nat
  gx      : Nat
  gy      : Nat
  gz      : Nat
  bid     : Nat
  gsize   : Nat
  wid     : Nat
  stage   : Nat
  nweaves : Nat
  basket  : Nat
  gang    : Nat
  priv    : Bool
  versioned : Bool
  deriving DecidableEq, Repr

/-- A Gleaner slot (R362). STATE 0 IDLE, 1 BUSY, 2 SETTLED; kind 0 GATHER, 1 SCATTER, 2 GCOMPACT. -/
structure GSlot where
  state : Nat := 0
  kind  : Nat := 0
  tag   : Nat := 0
  dst   : Option Nat := none
  size  : Nat := 0
  sx    : Bool := false
  space : Nat := 0
  cop   : Nat := 0
  cword : Nat := 0
  ea    : Tab Nat := []
  data  : Tab (List Byte) := []
  code  : Cells 32 := []
  /-- the command that runs: its op, completion mask, scope and continuation (R370) -/
  op    : Nat := 0
  cmask : Nat := 0
  scope : Nat := 0
  /-- what its events follow (R68, R372): a view, release fences; whether a strand has been settled -/
  view  : View := []
  rel   : List Msg := []
  began : Bool := false
  /-- what its strands have read and written -/
  after : View := []
  seen  : List Msg := []
  /-- lease slots of which it has posted a record (R318) -/
  posted : List Nat := []
  /-- strands whose accesses are parked, and where -/
  parked : Mask := 0
  places : Tab Parked := []
  deriving DecidableEq, Repr

/-- An entry of a queue register: 32 words, one per strand (R120), with the command's op and what the push published. -/
structure Entry where
  words : List Word
  opc   : Nat := 0
  op    : Nat := 0
  cmask : Nat := 0
  scope : Nat := 0
  q     : Mask := 0
  dst   : Option Nat := none
  gang  : BitVec 64 := 0
  /-- vector registers as they stood at the issue; what words of them held before writes that no OFENCE covers (R70) -/
  regs  : Cells 32 := []
  vlog  : Tab (List Word) := []
  view  : View := []
  rel   : List Msg := []
  /-- the TOB bytes that the OFENCE before the issue covers, and the stamp at the issue (R70) -/
  tview : View := []
  stamp : Nat := 0
  /-- what the completion publishes to its observer (R68) -/
  msg   : Option Msg := none
  deriving DecidableEq, Repr

/-- A Loom command of a weave whose LOOM.WAIT has not completed (R400): its op, whether its operation has started, its result, the
banks that the operation writes (R403). -/
structure LoomCmd where
  op      : Nat
  started : Bool := false
  result  : Option Nat := none
  banks   : List Nat := []
  /-- every bank that it names (R388), the vector registers that it names (note c of R31), and the gang register it captured (R391) -/
  names   : List Nat := []
  vregs   : List Nat := []
  gang    : BitVec 64 := 0
  /-- words of vector registers that the weave has written since the issue (R70) -/
  wrote   : List Nat := []
  deriving DecidableEq, Repr

/-- A weave (R33) and everything it holds. Log 27 (DESIGN CHOICE). -/
structure Weave where
  ids     : Ids
  hdr     : Hdr
  shop    : Nat
  bench   : Nat
  /-- the split table: slots 0 to 3, an absent slot is empty (R40) -/
  splits  : Tab Split := []
  /-- the join stack, top first (R41, R178) -/
  stack   : List JoinItem := []
  exited  : Mask := 0
  /-- vector registers: key 32 × register + strand (R118) -/
  vreg    : Cells 32 := []
  /-- scalar registers s0 to s63 -/
  sreg    : Cells 32 := []
  /-- clause temporaries: key 32 × register + strand; the words written since the clause began (R121) -/
  treg    : Tab Word := []
  /-- predicates p0 to p6, a bit per strand (R123) -/
  pred    : Cells 32 := []
  fflags  : Word := 0
  srseed  : Word := 0
  /-- stochastic rounding state of each strand (R84) -/
  srst    : Cells 32 := []
  gtimeh  : Word := 0
  /-- counts of f0 to f11, and the untracked count under key 12 (R167, R169) -/
  flags   : Tab Nat := []
  /-- queue register views: entries not yet taken, oldest first (R170) -/
  queues  : Tab (List Entry) := []
  guard   : Nat := 0
  /-- excluded from selection by YIELD until another weave of the bench is selected, and the cycle in which its clause ended (R103) -/
  yielded : Bool := false
  yieldAt : Nat := 0
  /-- renamed mode (R173): the vector registers that are mapped, the least recently accessed first, and those in the spill arena; the join
  entries and pending splits at the bottom of the stack that stand in the arena (R178) -/
  mapped  : List Nat := []
  spilled : List Nat := []
  jspill  : Nat := 0
  sync    : Tab Sync := []
  farTraps : List FarTrap := []
  /-- the load monitor: its line and WRITTEN (R215) -/
  monitor : Option (Nat × Bool) := none
  /-- return slots in use (R275) -/
  returns : Nat := 0
  gang    : BitVec 64 := 0
  /-- DRAYSTAT, and FADDR of the first failed copy (R301) -/
  drayStatus : Nat := 0
  drayCount  : Nat := 0
  drayFaddr  : BitVec 64 := 0
  /-- a copy has failed since DRAYSTAT was last written -/
  drayNoted  : Bool := false
  gslots  : Tab GSlot := []
  mark    : BitVec 16 := 0
  /-- what its instruction fetches must see: events before its creation, and before its last ISYNC (R101, R180) -/
  fview   : View := []
  ringbind : BitVec 32 := 0
  /-- Loom: commands accepted, oldest first (R392); commands pushed whose LOOM.WAIT has not completed, oldest first -/
  heads   : List Entry := []
  loomCmds : List LoomCmd := []
  /-- what vector register words have held since the weave's last OFENCE, and the writes of TOB bytes that precede that OFENCE (R70, R402) -/
  vlog    : Tab (List Word) := []
  fencedT : View := []
  /-- words of registers declared DEAD while a Loom operation names them: the operation keeps its operand (R174) -/
  dead    : List Nat := []
  /-- per-strand count of returning atomics in the present replay pass (R286) -/
  atomsN  : Tab Nat := []
  /-- the split whose OFENCE holds the weave's issue (R402) -/
  ofence  : Option Nat := none
  /-- what the completion events that cleared each flag publish to a clause start that waits for it (R68) -/
  flagMsgs : Tab (List Msg) := []
  /-- its basket has been stopped: the weave stands only for its operations already issued that run on (R47, R183) -/
  gone    : Bool := false
  deriving DecidableEq, Repr

/-! ### Baskets, gangs, lots (spec/02_execution_model.md R33 to R49, spec/07_steward.md R148 to R163) -/

/-- A named barrier (R236). -/
structure NamedBar where
  count   : Nat := 0
  arrived : Nat := 0
  phase   : Nat := 0
  waiters : BitVec 128 := 0
  /-- what its arrivals publish: of completed phases, of the present phase (R59) -/
  done    : List Msg := []
  now     : List Msg := []
  deriving DecidableEq, Repr

/-- A request that waits in a shop's pending buffer (R230): an engine fill, an engine arrival, a weave arrival. -/
inductive Pending where
  /-- with the op of the command whose completion it is -/
  | fill (basket word : Nat) (value : Word) (msg : Option Msg) (since op : Nat)
  | engineArrive (basket off : Nat) (msg : Option Msg) (op : Nat)
  | weaveArrive (basket off : Nat) (req : BarReq) (op : Nat)
  deriving DecidableEq, Repr

/-- One write of an open version (R66, R332). -/
structure VWrite where
  pa   : Nat
  slot : Nat
  data : List Byte
  msgs : List Msg := []
  /-- its place among the writes that its basket sees -/
  stamp : Nat := 0
  /-- the basket of the version -/
  basket : Nat := 0
  deriving DecidableEq, Repr

/-- A basket (R33): its scratchpad and TOB bytes, full/empty states, barriers, accumulator banks, version. -/
structure Basket where
  lot     : Nat
  gang    : Nat
  bid     : Nat
  linear  : Nat
  shop    : Nat
  ctxVA   : BitVec 64
  weaves  : List Nat
  /-- the bench of each weave's slot: slots are freed when the basket retires (R48); what weaves that have retired knew (R73) -/
  seats   : List Nat := []
  past    : View := []
  /-- banks of the shop that serve it: scratchpad banks, then TOB banks (R156, R218); weave-registers reserved (R157) -/
  banks   : List Nat := []
  regs    : Nat := 0
  /-- bytes of the context pool reserved (R156) -/
  pool    : Nat := 0
  /-- of these, what ACC.ALLOC has reserved (R156) -/
  poolAcc : Nat := 0
  /-- frames of the tenancy's quota reserved for its spill arena (R156, R26) -/
  arena   : Nat := 0
  /-- not saved: the basket runs on its shop (R46) -/
  resident : Bool := true
  /-- the step at which it was last placed on a shop (R164) -/
  seated  : Nat := 0
  spad    : Cells 8 := []
  tob     : Cells 8 := []
  /-- the writes of each TOB byte, oldest first: stamp and value (R70) -/
  tobHist : Tab (List (Nat × Byte)) := []
  /-- the words that are FULL (R228) -/
  full    : List Nat := []
  /-- what the fills that made full/empty words FULL publish, by word offset (R58, R235) -/
  fillMsgs : Tab (List Msg) := []
  /-- what arrivals on barrier words publish: of completed rounds, of the present round, by word offset -/
  barDone : Tab (List Msg) := []
  barNow  : Tab (List Msg) := []
  nb      : Tab NamedBar := []
  /-- weaves whose head is ready, in the order in which they became ready (R392) -/
  loomReady : List Nat := []
  /-- physical accumulator bank of each held logical bank (R387) -/
  accMap  : Tab Nat := []
  /-- accumulator words, key 8192 × logical bank + word -/
  acc     : Cells 32 := []
  /-- LNAN, LINV, LOVF, LSATC (R401) -/
  lnan    : Nat := 0
  linv    : Nat := 0
  lovf    : Nat := 0
  lsat    : Nat := 0
  ckcount : Nat := 0
  forced  : Bool := false
  version : List VWrite := []
  /-- a commit waits for a line's grain or lease (R332): 0 none, 1 a commit, 2 a forced checkpoint (R334) -/
  commitWait : Nat := 0
  /-- while it is saved: the pending requests aimed at it (R239) -/
  savedPending : List Pending := []
  /-- while it is saved: the completion events aimed at it that the Steward holds (R239) -/
  heldEvents : List Pending := []
  deriving DecidableEq, Repr

/-- A completion event of a child lot or an engine command: which flag, arrival, fill and continuation it has. Log 55 (DESIGN CHOICE). -/
structure Events where
  op     : Nat
  w      : Nat
  cmask  : Nat
  scope  : Nat
  cword  : Nat
  deriving DecidableEq, Repr

/-- A lot (R33, R153). State 0 PENDING, 1 RUNNING, 2 COMPLETE, 3 HALTED. -/
structure Lot where
  lotid    : BitVec 32
  tenancy  : Nat
  queue    : Nat
  pindex   : Nat
  tag      : BitVec 32
  versioned : Bool
  x        : Nat
  y        : Nat
  z        : Nat
  gsize    : Nat
  hdrs     : List Hdr
  args     : BitVec 64
  /-- it came from a privileged queue (R18, R158) -/
  priv     : Bool := false
  state    : Nat := 0
  nextGid  : Nat := 0
  retired  : Nat := 0
  /-- global time since which its next gang waits (R159); since which no gang of it is placed, and the priority so gained (R155) -/
  waiting  : Nat := 0
  bare     : Nat := 0
  aged     : Nat := 0
  /-- priority of a LAUNCH.D child's gangs (R154) -/
  prio     : Option Nat := none
  parent   : Option Nat := none
  depth    : Nat := 0
  events   : Option Events := none
  basketOf : Nat := 0
  /-- what its weaves start with; events of the lot that happen before its completion (R73) -/
  start    : View := []
  view     : View := []
  /-- gangs whose task trap awaits a reply (R339): (gid, replayable, priority); gangs to be dispatched again: (gid, priority) -/
  stopped  : List (Nat × Bool × Nat) := []
  again    : List (Nat × Nat) := []
  /-- replay: passes, present pass (from 1), hash, flags (R447 to R450) -/
  npass    : Nat := 0
  pass     : Nat := 0
  hash     : BitVec 64 := 0
  hash1    : BitVec 64 := 0
  rflags   : Nat := 0
  /-- NPASS as read at the start; the record of a pass that has ended, until it is posted (R437) -/
  passReq  : Nat := 0
  passRec  : Option (List Byte) := none
  /-- bytes of device memory as they stood before the pass (note j of R31); the stamp at which the pass began, and the stamps of its
  own writes since -/
  saved    : Tab Byte := []
  passFrom : Nat := 0
  passOwn  : List Nat := []
  deriving DecidableEq, Repr

/-- A gang: resident, being collected, or saved (R46, R160, R161). -/
structure Gang where
  lot      : Nat
  gid      : Nat
  prio     : Nat
  baskets  : List Nat
  resident : Bool := true
  /-- a collection in progress: its causes and the acknowledgements still awaited -/
  causes   : List PreemptCause := []
  awaited  : List AckUnit := []
  collecting : Bool := false
  /-- while it is saved: the tenancy's lease identifiers as they stood at its save (R163) -/
  leaseIds : Tab (BitVec 64) := []
  /-- global time since which it waits to be restored -/
  since    : Nat := 0
  deriving DecidableEq, Repr

/-! ### Steward (spec/07_steward.md R144 to R152, spec/01_engines.md R460, R461) -/

/-- A packet that has started and is not complete (R146 to R149). -/
structure Packet where
  kind  : Nat
  flags : Nat
  tag   : BitVec 32
  body  : List Byte
  /-- the lot or the copy it waits for -/
  unit  : Option Nat := none
  /-- WAITSIG: deadline (ns, 0 none), last value read -/
  deadline : Nat := 0
  last  : BitVec 64 := 0
  /-- it has been checked and has started -/
  begun : Bool := false
  /-- where an access of it is parked -/
  parked : Parked := []
  deriving DecidableEq, Repr

/-- An exception record to be posted (R150). -/
structure ExRec where
  reason  : Nat
  tag     : BitVec 32
  pindex  : Nat
  lotid   : BitVec 32
  basket  : Nat
  detail  : List Byte
  xflags  : BitVec 32
  respond : Bool
  deriving DecidableEq, Repr

/-- Why a queue is stalled: the packet concerned, and the ring index of the record whose RESPONSE decides. -/
structure Stalled where
  pindex : Nat
  reason : Nat
  recIdx : Nat
  lot    : Nat := 0
  gid    : Nat := 0
  /-- the packet had started (RDIDX counts it) -/
  started : Bool := true
  deriving DecidableEq, Repr

/-- A work queue (R144). QSTAT.STATE: 0 DISABLED, 1 RUNNING, 2 WAITING, 3 STALLED, 4 SUSPENDED, 5 ABORTED, 6 EXFULL. -/
structure Queue where
  qbase    : BitVec 64 := 0
  tenancy  : Nat := 0
  log2size : Nat := 0
  exlog2   : Nat := 0
  prio     : Nat := 0
  exvec    : Nat := 0
  suspend  : Bool := false
  priv     : Bool := false
  enable   : Bool := false
  wridx    : BitVec 64 := 0
  rdidx    : BitVec 64 := 0
  exbase   : BitVec 64 := 0
  exrd     : BitVec 32 := 0
  exwr     : BitVec 32 := 0
  lostinfo : Nat := 0
  cfgerr   : Bool := false
  aborted  : Bool := false
  packets  : Tab Packet := []
  /-- records that await a reply; records held while the ring is full (R151, R152) -/
  stalled  : List Stalled := []
  heldRec  : List ExRec := []
  /-- what the host's index write published to the lots it covers; what completed packets publish (R73) -/
  view     : View := []
  done     : View := []
  deriving DecidableEq, Repr

/-- A lease slot (R312). STATE 0 EMPTY, 1 ACTIVE, 2 RENEWING, 3 EXPIRED, 4 ENDING, 5 LOST, 6 RELEASING. -/
structure Lease where
  id       : BitVec 64 := 0
  base     : Nat := 0
  size     : Nat := 0
  expiry   : Nat := 0
  node     : Nat := 0
  rights   : Nat := 0
  state    : Nat := 0
  replica  : Nat := 0
  deadline : Nat := 0
  /-- the cause a later LOST carries (KIND 2 to 5, R314) -/
  cause    : Nat := 0
  /-- when EXPIRED was entered, when RENEW was last sent -/
  since    : Nat := 0
  sent     : Nat := 0
  /-- the q9 command outstanding: 1 ACQUIRE, 2 RENEW, 3 RELEASE, with its op and tag (R327) -/
  cmd      : Option (Nat × Nat × BitVec 32) := none
  dropped  : Nat := 0
  deriving DecidableEq, Repr

/-- A fault record that awaits a reply (R319): its fields, when it was posted, who waits. -/
structure FaultRec where
  seq    : Nat
  slot   : Nat
  posted : Nat
  index  : Nat
  taken  : Option Nat := none
  /-- the op that waits; `none` for a walk of the split `sp` of weave `w` -/
  op     : Option Nat := none
  w      : Nat := 0
  sp     : Nat := 0
  bytes  : List Byte := []
  /-- the strands concerned, and the address of the lowest -/
  lanes  : Nat := 0
  va     : Nat := 0
  deriving DecidableEq, Repr

/-- The Reeve block of a tenancy (R304, R323). -/
structure Reeve where
  rootLease : Nat := 0
  rootTable : Nat := 0
  en        : Bool := false
  quota     : Nat := 0
  evqueue   : Nat := 0
  frlost    : Nat := 0
  frlog2    : Nat := 0
  runen     : Bool := true
  renewLead : Nat := 1000
  renewTmo  : Nat := 5000
  frbase    : BitVec 64 := 0
  frrd      : BitVec 32 := 0
  frwr      : BitVec 32 := 0
  frtmo     : Nat := 0
  invreq    : Bool := false
  retired   : Nat := 0
  capEvents : Nat := 0
  leases    : Tab Lease := []
  faults    : List FaultRec := []
  heldFault : List FaultRec := []
  /-- translations that the caches of the shops hold: (page address, page size, leaf word); dropped by invalidation -/
  cache     : List (Nat × Nat × BitVec 64) := []
  deriving DecidableEq, Repr

/-- The Depot and Loft block of a tenancy (R331). -/
structure Depot where
  vdefault : Nat := 256
  dways    : Nat := 0
  lsize    : Nat := 0
  lbase    : Nat := 0
  cfgerr   : Bool := false
  deriving DecidableEq, Repr

/-- The Scrivener block of a tenancy (R436). -/
structure Scriv where
  trmask  : BitVec 16 := 0
  traceen : Bool := false
  slog2n  : Nat := 8
  cfgerr  : Bool := false
  state   : Nat := 0
  sbase   : BitVec 64 := 0
  srd     : BitVec 32 := 0
  swr     : BitVec 32 := 0
  tbase   : BitVec 64 := 0
  trd     : BitVec 32 := 0
  twr     : BitVec 32 := 0
  rbase   : BitVec 64 := 0
  rrd     : BitVec 32 := 0
  rwr     : BitVec 32 := 0
  slost   : Nat := 0
  tlost   : Nat := 0
  rlost   : Nat := 0
  npass   : Nat := 0
  rlog2   : Nat := 0
  tlog2   : Nat := 0
  slog2   : Nat := 0
  /-- EVSET, byte 4k + c -/
  evset   : Cells 8 := []
  /-- shops whose unit has written a SYNC record to the ring since TRACEEN was set (R439) -/
  synced  : List Nat := []
  deriving DecidableEq, Repr

/-- A communicator (R422). -/
structure Comm where
  nranks  : Nat := 0
  myrank  : Nat := 0
  cfgerr  : Bool := false
  enable  : Bool := false
  mbase   : BitVec 64 := 0
  /-- member records as read at ENABLE: (endpoint, key slot) -/
  members : List (BitVec 64 × Nat) := []
  numbered : Nat := 0
  deriving DecidableEq, Repr

/-- A tenancy block (R460) and everything a tenancy owns. TSTAT.STATE 0 FREE, 1 LIVE, 2 BUSY. -/
structure Tenancy where
  tcfg     : BitVec 64 := 0
  tarc     : BitVec 64 := 0
  key      : BitVec 256 := 0
  keyWrites : Nat := 0
  refused  : Nat := 0
  state    : Nat := 0
  busyWith : Nat := 0
  reeve    : Reeve := {}
  depot    : Depot := {}
  scriv    : Scriv := {}
  comms    : Tab Comm := []
  deriving DecidableEq, Repr

/-! ### Near tier, engines -/

/-- A grain held in the near tier (R309 to R311). -/
structure Grain where
  tenancy : Nat
  slot    : Nat
  frame   : Nat
  counter : Nat := 0
  filled  : Nat := 0
  /-- line requests since the counter was last set or halved: of these, those that missed L2 and the Depot are counted (R328) -/
  asked   : Nat := 0
  pinned  : Bool := false
  shro    : Bool := false
  moving  : Bool := false
  deriving DecidableEq, Repr

/-- A Clerk request (R274): which op, how its strands are used, and the strands not yet performed. -/
structure ClerkReq where
  op    : Nat
  w     : Nat
  lot   : Nat
  tenancy : Nat
  home  : Nat
  form  : AtomForm
  kind  : AtomKind
  type  : Nat
  size  : Nat
  dst   : Dest
  lanes : List AtomLane
  /-- one more than the step at which its home Clerk accepted it (R274, R276); 0: it still waits in its shop -/
  sent  : Nat := 0
  deriving DecidableEq, Repr

/-- A write of a copy whose element has been read and checked, and which is not yet performed (R298): the destination basket, its
bytes, the address of the first in the space written. -/
structure Flight where
  dest  : Nat
  at_   : Nat
  pas   : List Nat
  slots : List Nat
  data  : List Byte
  deriving DecidableEq, Repr

/-- A Dray copy (R288, R298, R302); `w` absent for a Steward COPY packet. -/
structure Copy where
  w      : Option Nat
  shop   : Nat
  tenancy : Nat
  desc   : List Word
  events : Events
  /-- elements in all -/
  total  : Nat
  /-- the destination baskets that GMASK names -/
  dests  : List Nat := []
  /-- the first element of the present chunk, and elements visited so far, in iteration order -/
  start  : Nat := 0
  next   : Nat := 0
  /-- the Dray has started it (R298) -/
  begun  : Bool := false
  /-- the writes of the present chunk still to be performed, and the destination baskets that have not had all of it -/
  flying : List Flight := []
  left   : List Nat := []
  /-- the element that comes next is parked: for what reason (R190), and where -/
  parked : Option (Stall × Parked) := none
  /-- bytes that the byte counts have landed on each destination (R296) -/
  landed : Nat := 0
  status : Nat := 0
  faddr  : BitVec 64 := 0
  ended  : Bool := false
  /-- what its reads must see; what its reads have seen and its writes are (R68) -/
  view   : View := []
  after  : View := []
  packet : Option (Nat × Nat) := none
  deriving DecidableEq, Repr

/-- What a GSELECT has selected (R381): its output entries, how many of them are written, the key of rank K − 1 and its ties, and what its
reads and writes leave. -/
structure SelOut where
  entries : List (List Byte)
  next    : Nat := 0
  kth     : Nat
  ties    : Nat
  view    : View
  deriving DecidableEq, Repr

/-- A GSELECT accepted by a Gleaner (R377 to R385); `out` once it has read its keys; `parked`: why an access of it waits, and
where. -/
structure Select where
  w      : Nat
  shop   : Nat
  desc   : List Word
  events : Events
  view   : View := []
  out    : Option SelOut := none
  parked : Option (Stall × Parked) := none
  deriving DecidableEq, Repr

/-- A started Loom operation (R392, R398, R411, R417). -/
structure LoomOp where
  basket : Nat
  opc    : Nat
  desc   : List Word
  gang   : BitVec 64
  /-- each member's command, with its weave -/
  parts  : List (Nat × Entry)
  /-- the step at which it started (R403, R416); its status: 1 MISMATCH and 2 BANK end it (R400) -/
  started : Option Nat := none
  status : Nat := 0
  /-- K-steps committed, and K-steps in all: over all passes for LOOM.SPL -/
  step   : Nat := 0
  steps  : Nat := 0
  view   : View := []
  deriving DecidableEq, Repr

/-- A Courier command accepted (R425 to R429). -/
structure NetCmd where
  w      : Nat
  die    : Nat
  opc    : Nat
  desc   : List Word
  comm   : Nat
  tenancy : Nat
  number : Nat
  events : Events
  view   : View := []
  /-- global time of its acceptance (R427) -/
  since  : Nat := 0
  /-- whom its fault records name (R318) -/
  ids    : Ids
  shop   : Nat
  linear : Nat := 0
  /-- what it did: its status, bytes written, the first failing member; its reads and writes (R427 to R429) -/
  result : Option (Nat × Nat × Nat) := none
  after  : View := []
  /-- why and where its accesses are parked -/
  parked : Option (Stall × Parked) := none
  deriving DecidableEq, Repr

/-- A prefetch descriptor of the Runner (R329). -/
structure Prefetch where
  w       : Nat
  die     : Nat
  desc    : List Word
  events  : Events
  grains  : List Nat
  fetched : Nat := 0
  skipped : Nat := 0
  /-- lease slots of which it has posted a record (R318) -/
  posted  : List Nat := []
  deriving DecidableEq, Repr

/-- An intake ring (R430). -/
structure Ring where
  rbase    : BitVec 64 := 0
  tenancy  : Nat := 0
  log2size : Nat := 0
  log2slot : Nat := 0
  residx   : BitVec 16 := 0
  reqsec   : Bool := false
  policy   : Nat := 0
  place    : Bool := false
  cfgerr   : Bool := false
  enable   : Bool := false
  accepted : BitVec 64 := 0
  full     : BitVec 64 := 0
  auth     : BitVec 64 := 0
  malformed : BitVec 64 := 0
  nokey    : BitVec 64 := 0
  /-- CONSIDX as last taken (R431) -/
  consTaken : Nat := 0
  deriving DecidableEq, Repr

/-- A key slot of a port (R421). -/
structure KeySlot where
  said    : BitVec 32 := 0
  tenancy : Nat := 0
  kerr    : Bool := false
  valid   : Bool := false
  wrap    : List (BitVec 64) := []
  key     : BitVec 256 := 0
  deriving DecidableEq, Repr

/-- An HBM stack's Tinker (R347 to R361). Budgets list what has been used. -/
structure Tinker where
  thresh  : Nat := 3
  scrubh  : Nat := 24
  irqen   : Bool := false
  vec     : Nat := 0
  events  : BitVec 4 := 0
  uncorr  : Nat := 0
  exh     : Nat := 0
  done    : Nat := 0
  /-- the open window: KIND, pseudo-channel, bank, row, when it opened -/
  window  : Option (Nat × Nat × Nat × Nat × Nat) := none
  /-- windows of the repair in progress already closed, and when the last of them closed (R353) -/
  closed  : Nat := 0
  shut    : Nat := 0
  /-- repairs queued: KIND, pseudo-channel, bank, row -/
  queued  : List (Nat × Nat × Nat × Nat) := []
  /-- corrected events: of a row and column position, of a TSV (R352) -/
  counts  : Tab Nat := []
  dqUsed  : Tab Nat := []
  caUsed  : Tab Nat := []
  /-- frames with a row marked failing (R359); channels out of service (R360) -/
  failing : List Nat := []
  failed  : List Nat := []
  rowsUsed : Tab Nat := []
  remapsUsed : Tab Nat := []
  granulesUsed : Tab Nat := []
  /-- poisoned 32-byte sectors, by frame × 2048 + sector (R355) -/
  poison  : List Nat := []
  /-- repairs recorded in the non-volatile map (R357) -/
  map     : List (Nat × Nat × Nat × Nat) := []
  deriving DecidableEq, Repr

/-- A shop: its generation, bank roles, counters, breakpoints, pending buffer (R195, R218, R230, R442). -/
structure Shop where
  gen      : BitVec 12 := 0
  wraps    : BitVec 20 := 0
  bankrole : BitVec 64 := 0
  cntctl   : Cells 64 := []
  cnt      : Cells 64 := []
  bpaddr   : Cells 64 := []
  bpctl    : Cells 64 := []
  pending  : List Pending := []
  /-- the rotation key of the weave last sampled on each bench (R446) -/
  sampled  : Tab (List Nat) := []
  /-- cycle count at the last sample of each bench (R446); periods of 2^16 cycles that have had their SYNC records (R439) -/
  sampleAt : Tab Nat := []
  syncAt   : Nat := 0
  /-- accumulator banks of the store in use (R387) -/
  accUsed  : List Nat := []
  /-- weave-registers reserved (R157) -/
  regsUsed : Nat := 0
  /-- completions that engines hold because the pending buffer is full, oldest first (R230, R234) -/
  engWait  : List Pending := []
  deriving DecidableEq, Repr

/-- A bench (R164): the rotation key of the weave that it visited last; the weave that it visits, and the splits that were ready when
the visit began and have not started, by slot, with the time at which each became ready. -/
structure Bench where
  last  : List Nat := []
  visit : Option Nat := none
  left  : Tab Nat := []
  deriving DecidableEq, Repr

/-- Where data stands that error correction cannot correct (R336): a 32-byte sector of device memory in L2 or the Depot, a sector of the
Loft, a 128-byte line of a basket's open version. -/
inductive Upset where
  | sector (sector : Nat) | loft (sector : Nat) | version (basket line : Nat)
  deriving DecidableEq, Repr

/-- What the device sends to the outside (R4): it changes nothing inside. Log 16 (DESIGN CHOICE). -/
inductive Out where
  | amiop (bytes : List Byte)
  | msix (vec : Nat)
  | hostWrite (addr : Nat) (bytes : List Byte)
  | birsp
  | frame (comm number : Nat) (bytes : List Byte)
  deriving DecidableEq, Repr

/-- One thing the machine does next. -/
inductive Act where
  /-- the next instruction of a split, or the retry of its held instruction -/
  | issue (w slot : Nat)
  /-- a row of the table that is an event, with its operands -/
  | event (i : Instr) (a : EventArgs)
  /-- the host-port agent writes bytes of device memory (R53) -/
  | hostStore (pa : Nat) (bytes : List Byte)
  /-- the host-port agent reads bytes of device memory (R53, R73) -/
  | hostLoad (pa n : Nat)
  /-- the L1 of a shop evicts a line (R192, R214) -/
  | evictLine (shop line : Nat)
  /-- a peer device or a pool agent so many switch hops away writes bytes of device memory (R53) -/
  | peerStore (hops pa : Nat) (bytes : List Byte)
  /-- the last completion events of a command whose arrival or fill was held (R294), or a retirement that waited for its commit (R48) -/
  | finish (op : Nat)
  | retire (w : Nat)
  /-- data in a cache or the Loft becomes uncorrectable (R336) -/
  | upset (u : Upset)
  deriving DecidableEq, Repr

/-! ### The whole machine -/

/-- The state of the device. -/
structure State where
  /-- global time in ns (R434), the fs beyond it, and compute cycles of the shops (R36 clk) -/
  time     : Nat := 0
  phase    : Nat := 0
  cycles   : Nat := 0
  /-- Steward management block, package part (R24, R345, R434, R453, R456, R458, R461) -/
  netup    : BitVec 4 := 0
  fabup    : BitVec 8 := 0
  failed   : BitVec 6 := 0
  fwok     : Bool := false
  stage    : BitVec 6 := 0
  maxlevel : Nat := 3
  capw     : Nat := 3200
  tripped  : Bool := false
  capped   : Bool := false
  hot      : Bool := false
  clk      : Nat := 21
  utmax    : BitVec 8 := 0
  tmax     : BitVec 8 := 0
  /-- global time since which neither power nor heat lowers the clock (R456) -/
  calmAt   : Nat := 0
  /-- global time of the compute clock's last step (R456) -/
  clkAt    : Nat := 0
  powered  : Bool := false
  d3hot    : Bool := false
  attErr   : Bool := false
  attDone  : Bool := false
  attGo    : Bool := false
  attaddr  : BitVec 64 := 0
  mexbase  : BitVec 64 := 0
  mexrd    : BitVec 32 := 0
  mexwr    : BitVec 32 := 0
  /-- LOFTREF.PERIOD now, and the one that takes effect at the next multiple of 3,900 (R345) -/
  loftPeriod : Nat := 3900
  loftNext : Nat := 3900
  inWindow : Bool := false
  gtoff    : BitVec 64 := 0
  gterr    : BitVec 16 := 0xFFFF
  ptmlock  : Bool := false
  /-- Steward -/
  queues   : Tab Queue := []
  tenancies : Tab Tenancy := []
  lots     : Tab Lot := []
  gangs    : Tab Gang := []
  baskets  : Tab Basket := []
  weaves   : Tab Weave := []
  shops    : Tab Shop := []
  /-- the benches, by 4 × shop + bench (R164) -/
  benches  : Tab Bench := []
  /-- restores that the starvation guard owes: lot, shop, gang to be restored (R51) -/
  guardPend : List (Nat × Nat × Nat) := []
  /-- frames pinned for context pools, a quarter on each die (R460) -/
  pinned   : Nat := 0
  /-- home sets that differ from the default, by tenancy (R272, R273) -/
  homes    : Tab (List Nat) := []
  /-- the home sets that replace them once the Clerks have performed what they have accepted (R273) -/
  homesNext : Option (Tab (List Nat)) := none
  /-- operations in flight, by issue number -/
  ops      : Tab Op := []
  nextOp   : Nat := 0
  requests : Tab ClerkReq := []
  copies   : Tab Copy := []
  selects  : Tab Select := []
  loom     : Tab LoomOp := []
  net      : Tab NetCmd := []
  prefetch : Tab Prefetch := []
  rings    : Tab Ring := []
  noring   : Cells 64 := []
  /-- what the Courier port unit of each die has written and read (R72) -/
  portViews : Tab View := []
  keys     : Tab KeySlot := []
  tinkers  : Tab Tinker := []
  /-- far memory: the pool's bytes, by physical address; an unlisted byte reads as zero -/
  far      : List Host.Cell := []
  /-- bytes written in the near tier and not yet in the pool (R311) -/
  dirty    : Tab Byte := []
  /-- coherence history of the lines (R61), the next stamp, the fences in their order S (R63) -/
  lines    : Tab LineCo := []
  stamp    : Nat := 1
  fences   : List FenceRec := []
  grains   : Tab Grain := []
  retiredFrames : List Nat := []
  /-- halvings of the access counters so far, by die (R328) -/
  halvings : Tab Nat := []
  /-- SHRO grains dropped by a back-invalidation that the Runner does not fetch (R322) -/
  noFetch  : List Nat := []
  /-- writes of pool agents to bytes that the device holds under SHRO leases, not yet in effect: hops, address, bytes (R65) -/
  poolWrites : List (Nat × Nat × List Byte) := []
  /-- data that error correction cannot correct, outside the near tier (R336) -/
  upsets   : List Upset := []
  /-- the Lofts' bytes, the same in all four dies (R342): those written; the ranges (from, length, mark) whose other bytes are
  unspecified since an accepted LOFTPART write (R331); every other byte is zero -/
  loft     : Tab Byte := []
  loftOpen : List (Nat × Nat × Nat) := []
  /-- sequence number of the next Amiop message -/
  amiopSeq : BitVec 32 := 0
  /-- messages sent to the outside, oldest first -/
  outbox   : List Out := []
  /-- what the host-port agent has written, by byte (R53, R73) -/
  hostView : View := []
  /-- the model's own: counter of free values, counter of steps -/
  free     : Nat := 0
  steps    : Nat := 0
  /-- the model's own: the next number for a weave, a basket or a gang -/
  nextId   : Nat := 0
  /-- the model's own: what happens next, in order; empty: a free choice -/
  agenda   : List Act := []
  /-- the model's own: the split whose instruction executes, and the operands of the event that takes place -/
  issuer   : Option (Nat × Nat) := none
  ev       : EventArgs := {}
  deriving DecidableEq, Repr

/-- Why the machine stops. -/
inductive Fault where
  /-- `exec` was asked to execute an instruction word and the state names no live split that issues it. `step` never does
  this: it sets the issuer first. Safe: no state follows. -/
  | noIssuer
  deriving DecidableEq, Repr

/-- Why the model gives no meaning. -/
inductive Refusal where
  /-- The instruction has no meaning in this model yet; raised by the dispatch table only. Safe: no state follows. -/
  | notModelled (mnemonic : String)
  deriving DecidableEq, Repr

/-- The machine right after reset: every field at the reset value of its register table; no weave resident, no lease
held, nothing in flight. UTMAX and TMAX have no reset value (R9, R456): they hold 0 until a sensor is read. Log entry 11
(DESIGN CHOICE). -/
def State.reset : State := {}

end Sys2Proof.Machine
end

