-- ==== Sys2Proof/Machine/Memory.lean ====
section
/-!
DEFINITION. Device memory and its ordering (spec/03_ordering.md R53 to R67). A byte's newest value stands in the near tier
(`dirty`) or in the pool (`far`). A read may return any write that its agent's view does not exclude (R61): the older
writes of a line stand in its coherence history. A release publishes a view, an acquire takes it over when both operations
cover the other's agent (R59). Log entries 7 and 8.
-/

namespace Sys2Proof.Machine

open Sys2Proof

/-- Physical addresses from here on stand for the bytes of the Loft (R342), which no page table names. -/
def loftBase : Nat := 2 ^ 57

/-- A byte of the Loft (R331, R342): what was written there; in a range that a LOFTPART write left unspecified, a free value (log
entry 1). -/
def loftByte (s : State) (o : Nat) : Byte :=
  match look s.loft o with
  | some b => b
  | none =>
    match s.loftOpen.find? (fun x => decide (x.1 ≤ o ∧ o < x.1 + x.2.1)) with
    | some x => (Config.freeWord (x.2.2 * 2 ^ 32 + 2 ^ 31 + o)).setWidth 8
    | none => 0

/-- Keys from here on stand for the bytes of the baskets' scratchpads (R54), a block of 2^21 keys for each basket; the upper half of a
block stands for its TOB bytes (R70). -/
def spBase : Nat := 2 ^ 60

/-- The key of a scratchpad byte of a basket. -/
def spKey (b off : Nat) : Nat := spBase + 2 ^ 21 * b + off

/-- A byte of the scratchpads, by its key. -/
def spByte (s : State) (k : Nat) : Byte :=
  match look s.baskets (k / 2 ^ 21) with
  | some B => cell B.spad (k % 2 ^ 21)
  | none => 0

/-- The newest value of a byte of device memory, of the Loft, or of a scratchpad. Log 1 (DESIGN CHOICE), 7 (DESIGN CHOICE), 67 (DEDUCED). -/
def readByte (s : State) (pa : Nat) : Byte :=
  if spBase ≤ pa then spByte s (pa - spBase)
  else if loftBase ≤ pa then loftByte s (pa - loftBase)
  else
    match look s.dirty pa with
    | some b => b
    | none => cell s.far pa

/-- Physical addresses from here on are the trap blocks of the weaves (R185), 64 bytes each, which no page table names.
Log 31 (DESIGN CHOICE). -/
def trapBase : Nat := 2 ^ 56

/-- The canonical form of the memories (plain data, each a finite map): rising addresses, no zero byte listed in the pool, no byte of a
trap block in the near tier. -/
def Memory.wf (s : State) : Bool :=
  cellsWf s.far && tabWf s.dirty && s.dirty.all (fun p => decide (p.1 < trapBase)) && tabWf s.loft

/-- The physical address of a byte of a weave's trap block. Log 31 (DESIGN CHOICE). -/
def trapPA (w off : Nat) : Nat := trapBase + 64 * w + off

/-- Change the newest value of a byte: in the near tier, in a trap block, or in a scratchpad. Log 67 (DEDUCED). -/
def pokeByte (s : State) (pa : Nat) (b : Byte) : State :=
  if spBase ≤ pa then
    { s with baskets := edit s.baskets ((pa - spBase) / 2 ^ 21) (fun B => { B with spad := setCell B.spad ((pa - spBase) % 2 ^ 21) b }) }
  else if trapBase ≤ pa then { s with far := setCell s.far pa b } else { s with dirty := put s.dirty pa b }

/-- Change the newest values of bytes. -/
def pokeBytes (s : State) : List Nat → List Byte → State
  | pa :: pas, b :: bs => pokeBytes (pokeByte s pa b) pas bs
  | _, _ => s

/-- A free choice among n things, for a use marked by `salt` (log entry 2). -/
def choose (s : State) (salt n : Nat) : Nat := Config.pick (s.free * 2 ^ 24 + salt) % n

/-- A free word for a use marked by `salt` (log entry 1). Log 64 (DESIGN CHOICE). -/
def freeWord (s : State) (salt : Nat) : Word := Config.freeWord (s.free * 2 ^ 24 + salt)

/-! ### Agents and scopes (R22, R57) -/

/-- The die of a shop (R14). -/
def dieOf (shop : Nat) : Nat := shop / 48

/-- The arcade of a shop, counted over the package (R14). -/
def arcadeOf (shop : Nat) : Nat := shop / 4

/-- The distance between two agents (R57). -/
def distance (maxlevel : Nat) : Agent → Agent → Nat
  | .weave a, .weave b =>
    if a = b then 0 else if arcadeOf a = arcadeOf b then 1 else if dieOf a = dieOf b then 2 else 3
  | .courier d, .weave a => if dieOf a = d then 2 else 3
  | .weave a, .courier d => if dieOf a = d then 2 else 3
  | .reeve d, .weave a => if dieOf a = d then 2 else 3
  | .weave a, .reeve d => if dieOf a = d then 2 else 3
  | .courier d, .courier e => if d = e then 0 else 3
  | .peer h, _ => min (3 + h) maxlevel
  | _, .peer h => min (3 + h) maxlevel
  | a, b => if a = b then 0 else 3

/-- An operation of agent `a` at a scope covers agent `b` (R24, R57). -/
def covers (maxlevel : Nat) (a : Agent) (scope : Nat) (b : Agent) : Bool :=
  decide (distance maxlevel a b ≤ min scope maxlevel)

/-! ### Views -/

/-- Raise a view at one byte. -/
def raiseView (v : View) (pa stamp : Nat) : View :=
  if ((look v pa).getD 0) < stamp then put v pa stamp else v

/-- The least view that contains two. -/
def joinView (a b : View) : View := b.foldl (fun v p => raiseView v p.1 p.2) a

/-- What a strand knows. -/
def syncOf (wv : Weave) (k : Nat) : Sync := (look wv.sync k).getD {}

/-- What the strands of a mask know together (R56). -/
def viewOf (wv : Weave) (m : Mask) : View :=
  (strandsOf m).foldl (fun v k => joinView v (syncOf wv k).view) []

/-- Give every strand of a mask more knowledge. -/
def learn (wv : Weave) (m : Mask) (f : Sync → Sync) : Weave :=
  { wv with sync := (strandsOf m).foldl (fun t k => put t k (f (syncOf wv k))) wv.sync }

/-- Add a view to every strand of a mask. -/
def learnView (wv : Weave) (m : Mask) (v : View) : Weave :=
  if v = [] then wv else learn wv m (fun y => { y with view := joinView y.view v })

/-- The release fences in force for the strands of a mask (R59). -/
def fencesOf (wv : Weave) (m : Mask) : List Msg := (strandsOf m).flatMap (fun k => (syncOf wv k).rel)

/-- The parts of published messages that an acquire of agent `a` at a scope takes over (R59). Log 14 (DEDUCED). -/
def taken (maxlevel : Nat) (a : Agent) (scope : Nat) (ms : List Msg) : View :=
  ms.foldl (fun v m =>
    if covers maxlevel m.agent m.scope a && covers maxlevel a scope m.agent then joinView v m.view else v) []

/-! ### Reading -/

/-- The line of a byte (R61). -/
def lineOf (pa : Nat) : Nat := pa / 128

/-- The byte of a line's history at a cut of its coherence order: the last write no later than the cut, its stamp and
what it publishes. -/
def byteAt (lc : LineCo) (now : Byte) (pa cut : Nat) : Byte × Nat × List Msg :=
  let hit := lc.evs.foldl (fun (r : Option (Byte × Nat × List Msg)) e =>
    if e.stamp ≤ cut ∧ e.byte ≤ pa ∧ pa < e.byte + e.data.length
    then some (e.data.getD (pa - e.byte) 0, e.stamp, e.msgs) else r) none
  match hit with
  | some r => r
  | none => ((look lc.before pa).getD now, 0, [])

/-- No write of the line is seen in part (R55): at the cuts chosen for the bytes of one single-copy atomic access, every
write is in for all the bytes it covers or out for all of them. Log 14 (DEDUCED). -/
def wholeAt (evs : List WriteEv) (pas cuts : List Nat) : Bool :=
  evs.all (fun e =>
    let ins := (pas.zip cuts).filterMap (fun p =>
      if e.byte ≤ p.1 ∧ p.1 < e.byte + e.data.length then some (decide (e.stamp ≤ p.2)) else none)
    ins.all (fun b => b) || ins.all (fun b => !b))

/-- A write covers a byte. -/
def WriteEv.covers (e : WriteEv) (pa : Nat) : Bool := decide (e.byte ≤ pa ∧ pa < e.byte + e.data.length)

/-- The offset of the keys of what only the fence order gives (R63). -/
def fenceKey : Nat := 2 ^ 70

/-- The offset of the keys of what an agent knows of open versions (R66). -/
def versionKey : Nat := 2 ^ 71

/-- Writes of an open version stand after every write of the line that is in the coherence order: their stamps start here (R66). -/
def versionCut : Nat := 2 ^ 80

/-- The key of what a view says of a byte in the open version of a basket (R66). -/
def verKey (b pa : Nat) : Nat := versionKey * (b + 1) + pa

/-- The stamp under which commits entered the last write of a byte that a view knew in an open version (R66). -/
def commitStamp (s : State) (v : View) (pa : Nat) : Nat :=
  ((look s.lines (lineOf pa)).getD {}).evs.foldl (fun a e =>
    if e.vstamp ≠ 0 ∧ e.covers pa ∧ e.vstamp ≤ (look v (verKey e.vbasket pa)).getD 0 then max a e.stamp else a) 0

/-- The stamp of the earliest write of a byte that a view does not exclude (R61, R63, R66). -/
def lowOf (s : State) (v : View) (pa : Nat) : Nat :=
  max (max ((look v pa).getD 0) ((look v (pa + fenceKey)).getD 0)) (commitStamp s v pa)

/-- The basket of an open version. -/
def verBasket (ver : List VWrite) : Nat := match ver with | [] => 0 | x :: _ => x.basket

/-- The line's history with the writes of an open version after it (R66). -/
def withVersion (lc : LineCo) (ver : List VWrite) : LineCo :=
  { lc with evs := lc.evs ++ ver.map (fun x => { stamp := versionCut + x.stamp, byte := x.pa, data := x.data, msgs := x.msgs }) }

/-- The cuts that a view leaves to a read of a byte: at or after the stamp of what it knows (R61 rules 3 and 4); a known write of the open
version leaves only it and the version's later ones (R66). -/
def cutOf (s : State) (v : View) (ver : List VWrite) (salt pa : Nat) : Nat :=
  let lo := lowOf s v pa
  let known := (look v (verKey (verBasket ver) pa)).getD 0
  let vs := (ver.filter (fun x => decide (x.pa ≤ pa ∧ pa < x.pa + x.data.length))).map (fun x => x.stamp)
  let open1 := (vs.filter (fun x => decide (known ≤ x))).map (fun x => versionCut + x)
  if vs.any (fun x => decide (x ≤ known)) then ((versionCut + known) :: open1).getD (choose s salt (open1.length + 1)) (versionCut + known)
  else
    let n := choose s salt (s.stamp - lo + 1 + open1.length)
    if n ≤ s.stamp - lo then lo + n else open1.getD (n - (s.stamp - lo + 1)) (versionCut + s.stamp)

/-- The cuts at which an access reads its bytes: each at a free point that the view leaves (R61 rules 3 and 4). Log 14 (DEDUCED). -/
def cutsFor (s : State) (v : View) (ver : List VWrite) (atomic : Bool) (salt : Nat) (pas : List Nat) : List Nat :=
  let free := (pas.zip (List.range pas.length)).map (fun p => cutOf s v ver (salt + p.2) p.1)
  let evs := match pas with
    | pa :: _ => (withVersion ((look s.lines (lineOf pa)).getD {}) ver).evs
    | [] => []
  if atomic && !(wholeAt evs pas free) then pas.map (fun _ => versionCut + s.stamp) else free

/-- What a read returns: the bytes, the view it leaves, and what the writes read from publish. -/
structure ReadRes where
  data : List Byte
  view : View
  msgs : List Msg
  deriving DecidableEq, Repr

/-- Raise a view at one byte to a write of its history, or of the open version of a basket. -/
def raiseTo (b : Nat) (v : View) (pa stamp : Nat) : View :=
  if versionCut ≤ stamp then raiseView v (verKey b pa) (stamp - versionCut) else raiseView v pa stamp


/-- Read bytes under a view (R61), by an agent that sees an open version (R66). Log 8 (DEDUCED), 14 (DEDUCED). -/
def readMem (s : State) (v : View) (ver : List VWrite) (atomic : Bool) (salt : Nat) (pas : List Nat) : ReadRes :=
  let cuts := cutsFor s v ver atomic salt pas
  (pas.zip cuts).foldl (fun (r : ReadRes) p =>
    match look s.lines (lineOf p.1), ver with
    | none, [] => { r with data := r.data ++ [readByte s p.1] }
    | lc, _ =>
      let x := byteAt (withVersion (lc.getD {}) ver) (readByte s p.1) p.1 p.2
      { data := r.data ++ [x.1], view := raiseTo (verBasket ver) r.view p.1 x.2.1, msgs := r.msgs ++ x.2.2 })
    { data := [], view := v, msgs := [] }

/-- The newest bytes of an access and what their writes publish (R64). -/
def newest (s : State) (pas : List Nat) : List Byte × List Msg :=
  (pas.map (readByte s), (pas.flatMap (fun pa => match look s.lines (lineOf pa) with
    | some lc => (byteAt lc 0 pa s.stamp).2.2
    | none => [])).eraseDups)

/-- What a view says of device memory without the fence order: the versions that have been committed stand at their commits' stamps
(R63, R66). -/
def plainView (s : State) (v : View) : View :=
  v.foldl (fun u p =>
    if p.1 < fenceKey then raiseView u p.1 p.2
    else if versionKey ≤ p.1 then raiseView u (p.1 % versionKey) (commitStamp s [p] (p.1 % versionKey))
    else u) []

/-- What a fence takes over from one before it in the fence order: it bounds what later reads may read, and happens before nothing (R63). -/
def fenceView (v : View) : View := v.map (fun p => (p.1 + fenceKey, p.2))

/-! ### Writing -/

/-- Enter a write of consecutive bytes of one line into a history, at a stamp; `now` is what the bytes hold. -/
def LineCo.note (lc : LineCo) (now : Nat → Byte) (e : WriteEv) : LineCo :=
  { before := (List.range e.data.length).foldl (fun (t : Tab Byte) i =>
      match look t (e.byte + i) with
      | some _ => t
      | none => put t (e.byte + i) (now (e.byte + i))) lc.before
    evs := lc.evs ++ [e] }

/-- Enter a write of consecutive bytes of one line into its history. -/
def noteWrite (s : State) (pa : Nat) (bs : List Byte) (msgs : List Msg) (vstamp vbasket : Nat := 0) : State :=
  let l := lineOf pa
  { s with
    lines := put s.lines l (((look s.lines l).getD {}).note (readByte s)
      { stamp := s.stamp, byte := pa, data := bs, msgs := msgs, time := s.time, vstamp := vstamp, vbasket := vbasket })
    stamp := s.stamp + 1 }

/-- A write to a line is performed: the load monitors on it are WRITTEN (R215), and every WAITL on it wakes with code 0
(R214). -/
def wakeLine (s : State) (line : Nat) : State :=
  { s with weaves := s.weaves.map (fun p =>
      (p.1, { p.2 with
        monitor := match p.2.monitor with
          | some (l, b) => some (l, b || decide (l = line))
          | none => none
        splits := p.2.splits.map (fun x =>
          match x.2.held with
          | some h =>
            match h.wait with
            | .monitor l u none => if l = line then (x.1, { x.2 with held := some { h with wait := .monitor l u (some 0) } }) else x
            | _ => x
          | none => x) })) }

/-- Write consecutive bytes as one event: last in the coherence order of their line (R61), with what it publishes. Log 14 (DEDUCED). -/
def writeMem (s : State) (pa : Nat) (bs : List Byte) (msgs : List Msg) (vstamp vbasket : Nat := 0) : State :=
  let s1 := wakeLine (noteWrite s pa bs msgs vstamp vbasket) (lineOf pa)
  pokeBytes s1 ((List.range bs.length).map (fun i => pa + i)) bs

/-- Write bytes one event each: an access that is single-copy atomic per byte only (R55). -/
def writeEach (s : State) (msgs : List Msg) : List Nat → List Byte → State
  | pa :: pas, b :: bs => writeEach (writeMem s pa [b] msgs) msgs pas bs
  | _, _ => s

/-- The addresses are consecutive bytes of one line. -/
def oneLine : List Nat → Bool
  | [] => true
  | pa :: pas =>
    (pas.zip (List.range pas.length)).all (fun p => decide (p.1 = pa + p.2 + 1) && decide (lineOf p.1 = lineOf pa))

/-- Write the bytes of one access: one event where it lies in one line, an event per byte otherwise. Log 14 (DEDUCED). -/
def writeAccess (s : State) (pas : List Nat) (bs : List Byte) (msgs : List Msg) : State :=
  match pas with
  | [] => s
  | pa :: _ => if oneLine pas then writeMem s pa bs msgs else writeEach s msgs pas bs

/-- The view that a write of one event leaves with its writer: the bytes at its stamp. -/
def wroteView (v : View) (stamp : Nat) (pas : List Nat) : View := pas.foldl (fun v pa => raiseView v pa stamp) v

/-- The view that a write of an event per byte leaves with its writer. -/
def wroteEach (v : View) (stamp : Nat) (pas : List Nat) : View :=
  (pas.zip (List.range pas.length)).foldl (fun v p => raiseView v p.1 (stamp + p.2)) v

/-- The view that `writeAccess` from a stamp on leaves with its writer. -/
def wroteAccess (v : View) (stamp : Nat) (pas : List Nat) : View :=
  if oneLine pas then wroteView v stamp pas else wroteEach v stamp pas

/-- A release at a scope by an agent with a view, as published by its write (R59). -/
def relMsg (a : Agent) (scope : Nat) (v : View) : Msg := { agent := a, scope := scope, view := v }

/-- Forget the coherence history of bytes whose contents the pool has taken back or changed (R27, R316, R322). -/
def dropLines (s : State) (lo n : Nat) : State :=
  { s with lines := s.lines.filter (fun p => decide (p.1 < lo / 128) || decide ((lo + n + 127) / 128 ≤ p.1)) }

end Sys2Proof.Machine
end

