-- ==== Sys2Proof/Machine/Translate.lean ====
section
/-!
DEFINITION. Address translation (spec/15_reeve.md R305 to R308, R312, R315): the walk through five levels of tables in far
memory, the check of the leaf's lease slot, the Loft window (spec/16_depot_loft.md R342) and the trap blocks (R185).
-/

namespace Sys2Proof.Machine

open Sys2Proof

/-- The tenancy block of a tenancy. -/
def tenOf (s : State) (t : Nat) : Tenancy := (look s.tenancies t).getD {}

/-- Change a tenancy's block. -/
def setTen (s : State) (t : Nat) (x : Tenancy) : State := { s with tenancies := put s.tenancies t x }

/-- Change a tenancy's Reeve block. -/
def setReeve (s : State) (t : Nat) (f : Reeve → Reeve) : State :=
  setTen s t { tenOf s t with reeve := f (tenOf s t).reeve }

/-- A lease slot of a tenancy (R312). -/
def leaseOf (s : State) (t slot : Nat) : Lease := (look (tenOf s t).reeve.leases slot).getD {}

/-- Change a lease slot. -/
def setLease (s : State) (t slot : Nat) (l : Lease) : State :=
  setReeve s t (fun r => { r with leases := put r.leases slot l })

/-- Eight bytes of device memory, little-endian, read at their newest value. -/
def read64 (s : State) (pa : Nat) : BitVec 64 :=
  BitVec.ofNat 64 (natOfBytes ((List.range 8).map (fun i => readByte s (pa + i))))

/-- What a leaf entry says of a page (R306), with the physical address it gives. -/
structure Leaf where
  pa    : Nat
  slot  : Nat
  r     : Bool
  w     : Bool
  x     : Bool
  shro  : Bool
  coh   : Nat
  pfmt  : Nat
  geom  : Nat
  psize : Nat
  deriving DecidableEq, Repr

/-- How a walk ends (R307). -/
inductive Walk where
  | leaf (base size : Nat) (e : BitVec 64)
  /-- protection trap with this cause -/
  | prot (cause : Nat)
  /-- an EMPTY slot under a table read, or under the leaf -/
  | empty (slot : Nat) (table : Bool)
  /-- a slot whose state holds the walk until it changes -/
  | busy (slot : Nat)
  /-- a LOST slot under a table read -/
  | lost (slot : Nat)
  deriving DecidableEq, Repr

/-- The levels of the tree: the lowest index bit and the number of index bits (R305). -/
def levels : List (Nat × Nat) := [(48, 9), (36, 12), (30, 6), (21, 9), (16, 5)]

/-- The walk from a table on (R307): `lv` counts levels from 0. -/
def walkFrom (s : State) (t va : Nat) (lv : Nat) : List (Nat × Nat) → Nat → Nat → Walk
  | [], _, _ => .prot 6
  | (sh, bits) :: rest, a, slot =>
    let st := (leaseOf s t slot).state
    if st = 0 then .empty slot true
    else if st = 5 then .lost slot
    else if st = 3 ∨ st = 6 then .busy slot
    else
      let e := read64 s (a + 8 * (va / 2 ^ sh % 2 ^ bits))
      let leaf := e.getLsbD 1
      if e.getLsbD 0 = false then .prot 2
      else if (e.extractLsb' 60 4).toNat ≠ t then .prot 6
      else if leaf then
        if (e.extractLsb' 14 2).toNat ≠ 0 ∨ (e.extractLsb' 5 2).toNat = 3 ∨ 12 ≤ (e.extractLsb' 8 4).toNat ∨ lv = 0
            ∨ (e.extractLsb' 16 36).toNat * 2 ^ 16 % 2 ^ sh ≠ 0 then .prot 6
        else .leaf (va / 2 ^ sh * 2 ^ sh) (2 ^ sh) e
      else
        match rest with
        | [] => .prot 6
        | (_, nb) :: _ =>
          let next := (e.extractLsb' 8 44).toNat * 2 ^ 8
          if (e.extractLsb' 2 6).toNat ≠ 0 ∨ next % (8 * 2 ^ nb) ≠ 0 then .prot 6
          else walkFrom s t va (lv + 1) rest next (e.extractLsb' 52 8).toNat

/-- The walk of a tenancy's address (R307). -/
def walk (s : State) (t va : Nat) : Walk :=
  let r := (tenOf s t).reeve
  if r.en then walkFrom s t va 0 levels (r.rootTable * 2 ^ 12) r.rootLease else .prot 2

/-- The leaf of a page at an address. -/
def leafAt (va base size : Nat) (e : BitVec 64) : Leaf :=
  { pa := (e.extractLsb' 16 36).toNat * 2 ^ 16 + (va - base), slot := (e.extractLsb' 52 8).toNat,
    r := e.getLsbD 2, w := e.getLsbD 3, x := e.getLsbD 4, shro := e.getLsbD 7, coh := (e.extractLsb' 5 2).toNat,
    pfmt := (e.extractLsb' 8 4).toNat, geom := (e.extractLsb' 12 2).toNat,
    psize := if size = 2 ^ 16 then 0 else if size = 2 ^ 21 then 1 else if size = 2 ^ 30 then 2 else 3 }

/-- What an address stands for. -/
inductive Place where
  | page (l : Leaf)
  /-- a byte of the Loft (R342) -/
  | loft (off : Nat)
  /-- a byte of a weave's trap block (R185) -/
  | trap (pa : Nat)
  | prot (cause : Nat)
  | empty (slot : Nat) (table : Bool)
  | busy (slot : Nat)
  | lost (slot : Nat)
  deriving DecidableEq, Repr

/-- The first byte of the Loft window (R342). -/
def loftWin : Nat := 0x01FFFFFF80000000

/-- The trap block of a tenancy's weave that holds an address: its basket's reservation is mapped at `ctxVA`, 4,096 bytes
for each weave (R156, R185). Log 31 (DESIGN CHOICE). -/
def trapBlockAt (s : State) (t va : Nat) : Option Nat :=
  s.baskets.findSome? (fun p =>
    let b := p.2
    match look s.lots b.lot with
    | none => none
    | some l =>
      if l.tenancy = t ∧ b.ctxVA.toNat ≤ va then
        let d := va - b.ctxVA.toNat
        if d % 4096 < 64 then (b.weaves[d / 4096]?).map (fun w => trapPA w (d % 4096)) else none
      else none)

/-- Check the leaf's lease slot (R307): present, in range, of the page's kind. Log 31 (DESIGN CHOICE). -/
def leafPlace (s : State) (t : Nat) (l : Leaf) : Place :=
  let ls := leaseOf s t l.slot
  if ls.state = 0 then .empty l.slot false
  else if ls.state = 5 then .page l
  else if ls.state = 6 then .page l
  else if ls.base ≤ l.pa ∧ l.pa < ls.base + ls.size ∧ (ls.rights.testBit 2 = l.shro) then .page l
  else .prot 6

/-- Translate an address (R305 to R308). While an old translation is cached, an access may use it or walk (R308).
Log 52 (DESIGN CHOICE). -/
def translate (s : State) (t va salt : Nat) : Place :=
  if loftWin ≤ va ∧ va < 2 ^ 57 then
    let d := (tenOf s t).depot
    let o := va - loftWin
    if 65536 * d.lbase ≤ o ∧ o < 65536 * (d.lbase + d.lsize) then .loft o else .prot 2
  else
    match trapBlockAt s t va with
    | some pa => .trap pa
    | none =>
      let cached := (tenOf s t).reeve.cache.filter (fun c => decide (c.1 ≤ va ∧ va < c.1 + c.2.1))
      let viaWalk :=
        match walk s t va with
        | .leaf b sz e => leafPlace s t (leafAt va b sz e)
        | .prot c => .prot c
        | .empty sl tb => .empty sl tb
        | .busy sl => .busy sl
        | .lost sl => .lost sl
      match cached with
      | [] => viaWalk
      | c :: cs =>
        let n := choose s salt (cached.length + 1)
        if n = 0 then viaWalk
        else
          let d := (c :: cs).getD (n - 1) c
          leafPlace s t (leafAt va d.1 d.2.1 d.2.2)

/-- The leaf that a walk of an address finds, as the caches then hold it (R308). Log 52 (DESIGN CHOICE), 69 (DEDUCED). -/
def cacheWalk (s : State) (t va : Nat) : State :=
  match walk s t va with
  | .leaf b sz e =>
    if (tenOf s t).reeve.cache.contains (b, sz, e) then s
    else setReeve s t (fun r => { r with cache := (b, sz, e) :: r.cache })
  | _ => s

/-- The kinds of access (R318 ACCESS). -/
inductive Kind where
  | read | write | atomic | fetch
  deriving DecidableEq, Repr

/-- How the check of an access ends (R200, R307, R342). -/
inductive Acc where
  | ok (pa slot : Nat) (l : Option Leaf)
  | loft (off : Nat)
  | prot (cause : Nat)
  | empty (slot : Nat) (table : Bool)
  | busy
  | lost (slot : Nat)
  deriving DecidableEq, Repr

/-- Check one byte's access by a tenancy: address, translation, rights (R200 steps 1 and 3). -/
def access (s : State) (t va : Nat) (k : Kind) (salt : Nat) : Acc :=
  if 2 ^ 57 ≤ va then .prot 2
  else
    match translate s t va salt with
    | .prot c => .prot c
    | .empty sl tb => .empty sl tb
    | .busy _ => .busy
    | .lost sl => .lost sl
    | .loft o => if k = .read then .loft o else if k = .fetch then .prot 1 else .prot 2
    | .trap pa => if k = .fetch then .prot 1 else .ok pa 256 none
    | .page l =>
      let rights := (leaseOf s t l.slot).rights
      match k with
      | .read => if l.r ∧ rights.testBit 0 then .ok l.pa l.slot (some l) else .prot 2
      | .write =>
        if l.shro then .prot 3 else if l.w ∧ rights.testBit 1 then .ok l.pa l.slot (some l) else .prot 2
      | .atomic =>
        if l.shro then .prot 3
        else if l.r ∧ l.w ∧ rights.testBit 1 then .ok l.pa l.slot (some l) else .prot 2
      | .fetch => if l.x then (if rights.testBit 0 then .ok l.pa l.slot (some l) else .prot 2) else .prot 1

/-- The grain of a physical address (R309). -/
def grainOf (pa : Nat) : Nat := pa / 65536

/-- The tenancy is SEALED (R29, R460). -/
def sealedTen (T : Tenancy) : Bool := T.tcfg.getLsbD 0

/-- The key of a grain that a SEALED tenancy holds in a frame of its own although others hold it too: an SHRO grain (note k of R31). -/
def ownKey (t g : Nat) : Nat := 2 ^ 48 * (t + 1) + g

/-- The far grain of a key. -/
def keyGrain (k : Nat) : Nat := k % 2 ^ 48

/-- The key of the residency of a byte's grain for a tenancy that reaches it under a lease slot (R310, note k of R31). -/
def grainKey (s : State) (t slot pa : Nat) : Nat :=
  if sealedTen (tenOf s t) && (leaseOf s t slot).rights.testBit 2 then ownKey t (grainOf pa) else grainOf pa

/-- The frame through which a tenancy reaches a byte: its own SHRO grain, or the one that all share. -/
def grainFor (s : State) (t pa : Nat) : Option (Nat × Grain) :=
  match look s.grains (ownKey t (grainOf pa)) with
  | some g => some (ownKey t (grainOf pa), g)
  | none => (look s.grains (grainOf pa)).map (fun g => (grainOf pa, g))

/-- Line requests of accesses to bytes by a tenancy: each may miss L2 and the Depot, and then counts in its grain's access counter (R328). Log
52 (DESIGN CHOICE). -/
def askLines (s : State) (t : Nat) (pas : List Nat) : State :=
  if s.grains.isEmpty then s
  else
    { s with grains := ((pas.map lineOf).eraseDups).foldl (fun gs l => match grainFor s t (128 * l) with
        | some (k, _) => edit gs k (fun G => { G with asked := G.asked + 1 })
        | none => gs) s.grains }

/-- Where the bytes of an access lie that parks. -/
def placesOf (pas slots : List Nat) : Parked := ((pas.zip slots).map (fun p => (grainOf p.1, p.2, 0))).eraseDups

/-- The slot and KIND with which an access that was parked is unresolved, if a slot of it has been lost or its lease revoked since. -/
def parkedGone (was : Parked) (slots : List Nat) : Option (Nat × Nat) :=
  (was.find? (fun p => decide (p.2.2 ≠ 0) && slots.contains p.2.1)).map (fun p => p.2)

/-- Mark the places of a parked access under some slots with the KIND of their loss. -/
def markParked (kind : Nat) (gone : Nat → Bool) (ps : Parked) : Parked :=
  ps.map (fun p => if gone p.2.1 && decide (p.2.2 = 0) then (p.1, p.2.1, kind) else p)

/-- The home die of a grain: the exclusive OR of its eighteen 2-bit groups (R309). -/
def homeDie (g : Nat) : Nat := (List.range 18).foldl (fun a i => a ^^^ (g / 4 ^ i % 4)) 0

/-- How an access that leaves its shop fares (R315, R310): it proceeds, it parks, it posts a record and parks, or it is
unresolved with the KIND of the slot's loss. -/
inductive Fare where
  | go | park (why : Stall) | absent (slot : Nat) | dead (slot kind : Nat)
  deriving DecidableEq, Repr

/-- The KIND that a LOST slot gives (R314, R319). -/
def lostKind (l : Lease) : Nat := if l.cause = 0 then 2 else l.cause

/-- Is the bank or channel of a line of a frame under an open repair window (R347, R353)? -/
def lineRepairing (s : State) (frame line : Nat) : Bool :=
  match ((look s.tinkers (frame / 2 ^ 20)).getD {}).window with
  | none => false
  | some (kind, pc, bank, _, _) =>
    let p := (line % 64) ^^^ (frame % 64)
    if kind = 4 then decide (p / 2 = pc / 2) else decide (p = pc ∧ frame % 64 = bank)

/-- Is a bank or channel of a byte's frame under an open repair window (R354)? -/
def repairing (s : State) (g : Grain) (pa : Nat) : Bool := lineRepairing s g.frame (pa % 65536 / 128)

/-- A fill of a whole frame, or its write-back, parks: a window is open on a bank or channel that holds a part of it (R354). -/
def frameRepairing (s : State) (frame : Nat) : Bool :=
  match ((look s.tinkers (frame / 2 ^ 20)).getD {}).window with
  | none => false
  | some (kind, _, bank, _, _) => decide (kind = 4 ∨ frame % 64 = bank)

/-- Check one byte's lease slot and residency as its access leaves the shop (R315, R310, R354). Slot 256 marks a trap
block, which needs neither (R185); slot 257 marks the Loft, whose accesses park in a refresh window (R345). -/
def fareByte (s : State) (t pa slot : Nat) : Fare :=
  if slot = 256 then .go
  else if slot = 257 then (if s.inWindow then .park .loftRefresh else .go)
  else
    let l := leaseOf s t slot
    if l.state = 0 then .absent slot
    else if l.state = 5 then .dead slot (lostKind l)
    else if l.state = 3 ∨ l.state = 6 then .park .lease
    else
      match look s.grains (grainKey s t slot pa) with
      | none => .park .fill
      | some g => if repairing s g pa then .park .repair else if g.moving then .park .fill else .go

/-- The priority of the reason of a parked access among several (R190, R445): the lowest comes first. -/
def parkRank : Stall → Nat
  | .repair => 1
  | .lease => 2
  | .fill => 3
  | .loftRefresh => 4
  | .versionQuota => 6
  | _ => 7

/-- Of two reasons to park, the one that is reported (R190). -/
def parkFirst (a b : Stall) : Stall := if parkRank b < parkRank a then b else a

/-- The worst fare of several bytes: unresolved, then absent, then parked for the reason that R190 reports. -/
def fareAll (s : State) (t : Nat) : List (Nat × Nat) → Fare
  | [] => .go
  | (pa, slot) :: rest =>
    match fareByte s t pa slot with
    | .go => fareAll s t rest
    | .park w =>
      match fareAll s t rest with
      | .dead sl k => .dead sl k
      | .absent sl => .absent sl
      | .park w2 => .park (parkFirst w w2)
      | .go => .park w
    | .absent sl =>
      match fareAll s t rest with
      | .dead sl k => .dead sl k
      | _ => .absent sl
    | .dead sl k => .dead sl k

/-- Why bytes of which some are parked wait, as R190 reports it: an EMPTY slot parks with lease fault (R315). -/
def parkReason (s : State) (t : Nat) : List (Nat × Nat) → Option Stall
  | [] => none
  | (pa, slot) :: rest =>
    let here := match fareByte s t pa slot with
      | .park w => some w
      | .absent _ => some .lease
      | _ => none
    match here, parkReason s t rest with
    | some a, some b => some (parkFirst a b)
    | some a, none => some a
    | none, r => r

end Sys2Proof.Machine
end

