-- ==== Sys2Proof/Machine/Records.lean ====
section
/-!
DEFINITION. The records that the device posts: exception records (spec/07_steward.md R150 to R152), management exceptions
(spec/01_engines.md R461), fault records (spec/15_reeve.md R318), lease and capacity events (R324), trace records
(spec/24_scrivener.md R437 to R439); and the messages that leave the device.
-/

namespace Sys2Proof.Machine

open Sys2Proof

/-- The weave of a key. -/
def weaveOf (s : State) (w : Nat) : Option Weave := look s.weaves w

/-- Change a weave. -/
def setWeave (s : State) (w : Nat) (wv : Weave) : State := { s with weaves := put s.weaves w wv }

/-- Change a weave if it is there. -/
def modWeave (s : State) (w : Nat) (f : Weave → Weave) : State :=
  match weaveOf s w with
  | some wv => setWeave s w (f wv)
  | none => s

/-- The basket of a weave. -/
def basketOf (s : State) (wv : Weave) : Option Basket := look s.baskets wv.ids.basket

/-- Change a basket if it is there. -/
def modBasket (s : State) (b : Nat) (f : Basket → Basket) : State := { s with baskets := edit s.baskets b f }

/-- A shop (R14). -/
def shopOf (s : State) (h : Nat) : Shop := (look s.shops h).getD {}

/-- Change a shop. -/
def modShop (s : State) (h : Nat) (f : Shop → Shop) : State := { s with shops := put s.shops h (f (shopOf s h)) }

/-- A work queue (R144). -/
def queueOf (s : State) (q : Nat) : Queue := (look s.queues q).getD {}

/-- Change a work queue. -/
def modQueue (s : State) (q : Nat) (f : Queue → Queue) : State := { s with queues := put s.queues q (f (queueOf s q)) }

/-- Send something to the outside. Log 16 (DESIGN CHOICE). -/
def send (s : State) (o : Out) : State := { s with outbox := s.outbox ++ [o] }

/-- An agent of the device writes bytes at a virtual address of a tenancy, as one write that publishes `msgs`; `none` where
the write cannot be performed. -/
def agentWrite (s : State) (t va : Nat) (bs : List Byte) (msgs : List Msg) : Option State :=
  match access s t va .write 0 with
  | .ok pa slot _ => if (leaseOf s t slot).state = 5 then none else some (writeMem s pa bs msgs)
  | _ => none

/-- An agent of the device reads the newest bytes at a virtual address of a tenancy. -/
def agentRead (s : State) (t va n : Nat) : Option (List Byte) :=
  (List.range n).foldl (fun r i =>
    match r, access s t (va + i) .read 0 with
    | some bs, .ok pa _ _ => some (bs ++ [readByte s pa])
    | some bs, .loft o => some (bs ++ [loftByte s o])
    | _, _ => none) (some [])

/-- How an agent's read as an acquire ends: bytes and what it then knows; it waits for a lease (R307, R315); or it fails at an address. -/
inductive AgentGot where
  | ok (data : List Byte) (view : View) | wait | fail (va : Nat)
  deriving DecidableEq, Repr

/-- How an agent's access of one byte fares before it is made (R307, R315): the byte, a wait for a lease, a failure. -/
def agentByte (s : State) (t va : Nat) (k : Kind) : Option (Option Nat) :=
  match access s t va k 0 with
  | .ok pa slot _ =>
    let st := (leaseOf s t slot).state
    if slot = 256 then some (some pa)
    else if st = 5 ∨ st = 0 then none
    else if st = 3 ∨ st = 6 then some none
    else some (some pa)
  | .loft o => some (some (loftBase + o))
  | .busy => some none
  | _ => none

/-- An agent reads bytes under a view, eight at a time single-copy atomic, as an acquire at a scope (R59, R61, R73, R146). -/
def agentReadAs (s : State) (a : Agent) (t va n : Nat) (v : View) (scope salt : Nat) : AgentGot :=
  let bytes := (List.range n).map (fun i => (va + i, agentByte s t (va + i) .read))
  match bytes.find? (fun p => p.2.isNone) with
  | some p => .fail p.1
  | none =>
    let pas := bytes.filterMap (fun p => p.2.join)
    if pas.length < n then .wait
    else
      let groups := (List.range ((n + 7) / 8)).map (fun i => (pas.drop (8 * i)).take 8)
      let r := (groups.zip (List.range groups.length)).foldl (fun (r : ReadRes) g =>
        let x := readMem s v [] true (salt + 8 * g.2) g.1
        { data := r.data ++ x.data, view := joinView r.view x.view, msgs := r.msgs ++ x.msgs }) { data := [], view := v, msgs := [] }
      .ok r.data (joinView r.view (taken s.maxlevel a scope r.msgs))

/-- A ring write of an agent waits: its page's lease, or that of a table of its walk, is to be renewed (R307, R315). -/
def agentBusy (s : State) (t va n : Nat) : Bool := (List.range n).any (fun i => decide (agentByte s t (va + i) .write = some none))

/-- What an agent that reads the newest bytes then knows: that it has read them, and what their writes publish, taken over at a scope
(R59, R61). -/
def agentAcquire (s : State) (t va n : Nat) (a : Agent) (scope : Nat) : View :=
  (List.range n).foldl (fun v i =>
    match access s t (va + i) .read 0 with
    | .ok pa _ _ =>
      match look s.lines (lineOf pa) with
      | some lc =>
        let x := byteAt lc 0 pa s.stamp
        raiseView (joinView v (taken s.maxlevel a scope x.2.2)) pa x.2.1
      | none => v
    | _ => v) []

/-! ### Exception records -/

/-- The 64 bytes of an exception record (R150). -/
def exBytes (s : State) (q : Nat) (r : ExRec) : List Byte :=
  bytesOf 2 q ++ bytesOf 2 r.reason ++ bytesOf 4 r.tag.toNat ++ bytesOf 8 r.pindex ++ bytesOf 8 s.time ++
    bytesOf 4 r.lotid.toNat ++ bytesOf 4 r.basket ++ (r.detail ++ List.replicate (24 - r.detail.length) 0) ++
    bytesOf 4 r.xflags.toNat ++ bytesOf 4 (if r.respond then 0 else 4)

/-- The ring has no room for another record (R152). -/
def exFull (Q : Queue) : Bool := decide ((Q.exwr - Q.exrd).toNat = 2 ^ Q.exlog2)

/-- The next record's place in the exception ring. -/
def exVA (Q : Queue) : Nat := Q.exbase.toNat + 64 * (Q.exwr.toNat % 2 ^ Q.exlog2)

/-- The write of the next record waits for a lease (R307, R315). -/
def exBusy (s : State) (q : Nat) : Bool := agentBusy s (queueOf s q).tenancy (exVA (queueOf s q)) 64

/-- Write a record into the ring, advance EXWR, raise EXVEC (R150). Log 61 (DEDUCED). -/
def exWrite (s : State) (q : Nat) (r : ExRec) : State :=
  let Q := queueOf s q
  let s1 := (agentWrite s Q.tenancy (exVA Q) (exBytes s q r) [relMsg .steward 3 []]).getD s
  send (modQueue s1 q (fun Q => { Q with exwr := Q.exwr + 1 })) (.msix Q.exvec)

/-- Post an exception record (R150 to R152): a record that awaits a reply is held while the ring is full, an informational
one is counted in LOSTINFO; either is held while its write waits for a lease. Log 61 (DEDUCED). -/
def postEx (s : State) (q : Nat) (r : ExRec) : State :=
  if exBusy s q && !(exFull (queueOf s q)) then modQueue s q (fun Q => { Q with heldRec := Q.heldRec ++ [r] })
  else if exFull (queueOf s q) || !((queueOf s q).heldRec.isEmpty) then
    if r.respond then modQueue s q (fun Q => { Q with heldRec := Q.heldRec ++ [r] })
    else modQueue s q (fun Q => { Q with lostinfo := min (Q.lostinfo + 1) 65535 })
  else exWrite s q r

/-- Post a record that awaits a reply and stall the queue on it (R151). -/
def stallOn (s : State) (q : Nat) (r : ExRec) (lot gid : Nat) (started : Bool := true) : State :=
  postEx (modQueue s q (fun Q => { Q with
    stalled := Q.stalled ++ [{ pindex := r.pindex, reason := r.reason, recIdx := (Q.exwr.toNat + Q.heldRec.length) % 2 ^ 32,
                               lot := lot, gid := gid, started := started }] })) q
    { r with respond := true }

/-- Post a tenancy request's refusal on the management exception ring (R461). -/
def postMex (s : State) (t cause cmd : Nat) : State :=
  if s.mexbase.getLsbD 0 = false ∨ (s.mexwr - s.mexrd).toNat = 64 then s
  else
    let addr := (s.mexbase.extractLsb' 12 52).toNat * 4096 + 64 * (s.mexwr.toNat % 64)
    let r : ExRec := { reason := 0x0301, tag := 0, pindex := 0, lotid := 0, basket := 0, xflags := 0, respond := false,
                       detail := [BitVec.ofNat 8 t, BitVec.ofNat 8 cause, BitVec.ofNat 8 cmd] }
    let s1 := send s (.hostWrite addr (exBytes s 0xFFFF r))
    send { s1 with mexwr := s1.mexwr + 1 } (.msix (s.mexbase.extractLsb' 1 11).toNat)

/-! ### Reeve events and fault records -/

/-- Post a capacity or lease event on the ring of queue EVQUEUE (R324). -/
def postEvent (s : State) (t reason : Nat) (detail : List Byte) : State :=
  postEx s (tenOf s t).reeve.evqueue
    { reason := reason, tag := 0, pindex := 0, lotid := 0, basket := 0, detail := detail, xflags := 0, respond := false }

/-- The fields of a fault record that its cause decides (R318). Log 61 (DEDUCED). -/
structure FaultInfo where
  kind   : Nat
  die    : Nat
  acc    : Nat
  engine : Nat
  slot   : Nat
  va     : Nat
  pa     : Nat
  lotid  : Nat
  basket : Nat
  wid    : Nat
  lanes  : Nat
  deriving DecidableEq, Repr

/-- The 64 bytes of a fault record (R318). Log 61 (DEDUCED). -/
def faultBytes (s : State) (t : Nat) (f : FaultInfo) (seq : Nat) (await : Bool) : List Byte :=
  [BitVec.ofNat 8 f.kind, BitVec.ofNat 8 f.die, BitVec.ofNat 8 f.acc, BitVec.ofNat 8 f.engine] ++ bytesOf 2 f.slot ++
    [0, 0] ++ bytesOf 8 f.va ++ bytesOf 8 f.pa ++ bytesOf 8 (leaseOf s t f.slot).id.toNat ++ bytesOf 4 f.lotid ++
    bytesOf 4 f.basket ++ [BitVec.ofNat 8 f.wid, 0, 0, 0] ++ bytesOf 4 f.lanes ++ bytesOf 8 s.time ++ bytesOf 4 seq ++
    bytesOf 4 (if await then 0 else 4)

/-- Write a fault record into the ring: record, FRWR, the vector of EVQUEUE (R318). A post that cannot be written is counted
in FRLOST. Log 61 (DEDUCED). -/
def faultWrite (s : State) (t : Nat) (f : FaultInfo) (await : Bool) : State :=
  let r := (tenOf s t).reeve
  let n := r.frwr.toNat
  match agentWrite s t (r.frbase.toNat + 64 * (n % 2 ^ r.frlog2)) (faultBytes s t f n await) [relMsg (.reeve f.die) 3 []] with
  | none => setReeve s t (fun r => { r with frlost := min (r.frlost + 1) 1023 })
  | some s1 =>
    send (setReeve s1 t (fun r => { r with frwr := r.frwr + 1 })) (.msix (queueOf s r.evqueue).exvec)

/-- The fault ring has no room (R319). -/
def faultFull (r : Reeve) : Bool := decide ((r.frwr - r.frrd).toNat = 2 ^ r.frlog2)

/-- Post an informational fault record (R318, R319). Log 61 (DEDUCED). -/
def postFault (s : State) (t : Nat) (f : FaultInfo) : State :=
  if faultFull (tenOf s t).reeve then setReeve s t (fun r => { r with frlost := min (r.frlost + 1) 1023 })
  else faultWrite s t f false

/-- Post a KIND 1 record that awaits a reply for an op or for the walk of a split (R318, R319); one record for each op or
walk and slot. -/
def postAbsent (s : State) (t : Nat) (f : FaultInfo) (op : Option Nat) (w sp : Nat) : State :=
  let r := (tenOf s t).reeve
  if (r.faults ++ r.heldFault).any (fun x => x.slot = f.slot && x.op = op && x.w = w && x.sp = sp && x.taken = none) then s
  else
    let rec1 : FaultRec := { seq := r.frwr.toNat, slot := f.slot, posted := s.time, index := r.frwr.toNat, op := op, w := w,
                             sp := sp, bytes := faultBytes s t f r.frwr.toNat true, lanes := f.lanes, va := f.va }
    if faultFull r then setReeve s t (fun r => { r with heldFault := r.heldFault ++ [rec1] })
    else setReeve (faultWrite s t f true) t (fun r => { r with faults := r.faults ++ [rec1] })

/-! ### Trace records -/

/-- A shop's cycle counter (R36 clk, R438 CYC). -/
def shopClk (s : State) (shop : Nat) : Nat := s.cycles + Config.shopClock shop

/-- The cycle time in fs at the present clock (R439 PERIOD). -/
def periodFs (s : State) : Nat := 10 ^ 7 / max s.clk 1

/-- The 32 bytes of a trace record (R438). -/
def traceBytes (kind shop wid slot cyc : Nat) (pc : BitVec 64) (mask : Mask) (lotid : BitVec 32) (data : Nat) : List Byte :=
  [BitVec.ofNat 8 kind, BitVec.ofNat 8 shop, BitVec.ofNat 8 wid, BitVec.ofNat 8 slot] ++ bytesOf 4 cyc ++
    bytesOf 8 pc.toNat ++ bytesOf 4 mask.toNat ++ bytesOf 4 lotid.toNat ++ bytesOf 8 data

/-- Change a tenancy's Scrivener block. -/
def setScriv (s : State) (t : Nat) (f : Scriv → Scriv) : State :=
  setTen s t { tenOf s t with scriv := f (tenOf s t).scriv }

/-- Claim an index of the trace ring, write the record, advance TWR (R437); lost where there is no room. -/
def traceWrite (s : State) (t : Nat) (bs : List Byte) : State :=
  let c := (tenOf s t).scriv
  let lost := setScriv s t (fun c => { c with tlost := min (c.tlost + 1) 65535 })
  if (c.twr - c.trd).toNat = 2 ^ c.tlog2 then lost
  else
    match agentWrite s t (c.tbase.toNat + 32 * (c.twr.toNat % 2 ^ c.tlog2)) bs [relMsg .scrivener 3 []] with
    | none => lost
    | some s1 => setScriv s1 t (fun c => { c with twr := c.twr + 1 })

/-- Write the SYNC record of a shop's unit (R439). -/
def traceSync (s : State) (t shop : Nat) : State :=
  setScriv (traceWrite s t (traceBytes 1 shop 0xFF 0xFF (shopClk s shop) (BitVec.ofNat 64 s.time) 0 0
      ((shopClk s shop / 2 ^ 32) % 2 ^ 32 * 2 ^ 32 + periodFs s))) t
    (fun c => { c with synced := if c.synced.contains shop then c.synced else shop :: c.synced })

/-- Write a trace record of KIND 2 to 7 for a tenancy, after the unit's first SYNC (R439). -/
def trace (s : State) (t shop kind wid slot : Nat) (pc : BitVec 64) (mask : Mask) (lotid : BitVec 32) (data : Nat) : State :=
  let c := (tenOf s t).scriv
  if c.traceen && c.trmask.getLsbD kind then
    let s1 := if c.synced.contains shop then s else traceSync s t shop
    traceWrite s1 t (traceBytes kind shop wid slot (shopClk s shop) pc mask lotid data)
  else s

/-- A trace record of a weave's split. -/
def traceWeave (s : State) (w slot kind data : Nat) : State :=
  match weaveOf s w with
  | none => s
  | some wv =>
    match look wv.splits slot with
    | none => trace s wv.ids.tenancy wv.shop kind wv.ids.wid 0xFF 0 0 wv.ids.lotid data
    | some sp =>
      let pc := match sp.run with | some r => r.pc | none => sp.pc
      trace s wv.ids.tenancy wv.shop kind wv.ids.wid slot pc sp.mask wv.ids.lotid data

/-- A BASKET record (R439 KIND 7): 0 placed, 1 saved, 2 restored, 3 retired, 4 halted. -/
def traceBasket (s : State) (b what : Nat) : State :=
  match look s.baskets b with
  | none => s
  | some B =>
    match look s.lots B.lot with
    | none => s
    | some l => trace s l.tenancy B.shop 7 0xFF 0xFF 0 0 l.lotid (B.linear * 2 ^ 32 + what)

/-! ### Counters (R442, R443) -/

/-- Add occurrences of an event to the shop's counters that count it for a tenancy and lot (R442). Log 59 (DEDUCED). -/
def count (s : State) (shop t : Nat) (lotid : BitVec 32) (event n : Nat) : State :=
  let h := shopOf s shop
  if h.cntctl = [] then s
  else
    let cnt := (List.range 4).foldl (fun (m : Cells 64) c =>
      let x := cell h.cntctl c
      let hit := x.getLsbD 26 && decide ((x.extractLsb' 28 4).toNat = t) && decide ((x.extractLsb' 0 8).toNat = event) &&
        decide (1 ≤ event ∧ event ≤ 31) && (!(x.getLsbD 27) || decide (x.extractLsb' 32 32 = lotid))
      if hit then setCell m c (cell m c + BitVec.ofNat 64 n) else m) h.cnt
    modShop s shop (fun h => { h with cnt := cnt })

/-- Count an event of a weave (R443). Log 59 (DEDUCED). -/
def countW (s : State) (wv : Weave) (event n : Nat) : State := count s wv.shop wv.ids.tenancy wv.ids.lotid event n

end Sys2Proof.Machine
end

