-- ==== Sys2Proof/Machine/Completion.lean ====
section
/-!
DEFINITION. What completes and what it sets going: barrier words and full/empty words (spec/10_stockroom.md R228 to R235),
completion of operations in flight (spec/08_bench.md R167, R168), versions and their commits (spec/16_depot_loft.md R332 to
R335), retirement (spec/02_execution_model.md R48), halts (R47) and task traps (R336 to R340).
-/

namespace Sys2Proof.Machine

open Sys2Proof

/-! ### Porter actions (R194 to R196) -/

/-- The key under which a held WAITL notes the coherence attribute of its line's page, where it is not DIR. -/
def selfKey : Nat := 80000

/-- The L1 of a shop loses lines: each WAITL of the shop that watches one of them wakes with code 1 (R214); lines of UNC pages are never in
an L1 (R194). -/
def loseLines (s : State) (shop : Nat) (lost : Nat → Held → Bool) : State :=
  { s with weaves := s.weaves.map (fun p =>
      if p.2.shop = shop ∧ p.2.splits.any (fun x => x.2.held.any (fun h => decide (h.stall = .monitor))) then
        (p.1, { p.2 with splits := p.2.splits.map (fun x =>
          match x.2.held with
          | some h =>
            match h.wait with
            | .monitor l u none =>
              if lost l h && decide (look h.srcs selfKey ≠ some 2#32) then (x.1, { x.2 with held := some { h with wait := .monitor l u (some 1) } }) else x
            | _ => x
          | none => x) })
      else p) }

/-- The Porter's acquire action on a shop: at scope 1 or more the generation steps; a wrap counts in WRAPS (R195, R216). The
L1 loses every SELF line, which wakes the WAITLs on them (R214). Log 14 (DEDUCED). -/
def acquireAction (s : State) (shop scope : Nat) : State :=
  if scope = 0 then s
  else
    loseLines (modShop s shop (fun h =>
      { h with gen := h.gen + 1, wraps := if h.gen = 4095#12 then h.wraps + 1 else h.wraps })) shop
      (fun _ h => decide (look h.srcs selfKey = some 1#32))

/-- The weave's agent (R53). -/
def agentOf (wv : Weave) : Agent := .weave wv.shop

/-- The strands of a mask take over what messages publish to them, as an observation of an event that covers them (R68). -/
def observe (s : State) (w : Nat) (m : Mask) (ms : List Msg) : State :=
  match ms with
  | [] => s
  | _ =>
    match weaveOf s w with
    | none => s
    | some wv =>
      let s1 := setWeave s w (learnView wv m (taken s.maxlevel (agentOf wv) 7 ms))
      acquireAction s1 wv.shop (ms.foldl (fun a x => max a x.scope) 0)

/-! ### Scratchpad -/

/-- Read scratchpad bytes. -/
def spRead (B : Basket) (off n : Nat) : List Byte := cellsAt B.spad off n

/-- The keys of scratchpad bytes off to off + n − 1 of a basket. -/
def spPas (b off n : Nat) : List Nat := (List.range n).map (fun i => spKey b (off + i))

/-- Write scratchpad bytes of a basket as one access, with what it publishes; full/empty states do not change (R61, R224). -/
def spStore (s : State) (b off : Nat) (bs : List Byte) (msgs : List Msg) : State := writeAccess s (spPas b off bs.length) bs msgs

/-- What the newest writes of scratchpad bytes publish (R59). -/
def spSeen (s : State) (b off n : Nat) : List Msg :=
  ((spPas b off n).flatMap (fun pa => (byteAt ((look s.lines (lineOf pa)).getD {}) 0 pa s.stamp).2.2)).eraseDups

/-- What an agent knows that has read or written the newest bytes of a scratchpad range (R61). -/
def spSaw (s : State) (b off n : Nat) : View := wroteView [] (s.stamp - 1) (spPas b off n)

/-- A barrier word (R231). -/
structure BarWord where
  round   : Nat
  quota   : Nat
  due     : Nat
  claimed : Nat
  landed  : Nat
  deriving DecidableEq, Repr

/-- The barrier word at an offset (R231). -/
def barAt (B : Basket) (off : Nat) : BarWord :=
  let v := natOfBytes (spRead B off 16)
  { due := v % 2 ^ 16, quota := v / 2 ^ 16 % 2 ^ 16, round := v / 2 ^ 32 % 2 ^ 32, landed := v / 2 ^ 64 % 2 ^ 32,
    claimed := v / 2 ^ 96 % 2 ^ 32 }

/-- The bytes of a barrier word (R231). -/
def barBytes (x : BarWord) : List Byte :=
  bytesOf 16 (x.due + x.quota * 2 ^ 16 + x.round * 2 ^ 32 + x.landed * 2 ^ 64 + x.claimed * 2 ^ 96)

/-- A request finds no arrival due (R232): it is held. -/
def barHeld (x : BarWord) (r : BarReq) : Bool := decide (r.a = 1 ∧ x.due = 0)

/-- Apply a request that is not held (R232): the word after it, and whether the round completed. -/
def barStep (x : BarWord) (r : BarReq) : BarWord × Bool :=
  let q := x.quota
  let quota := if r.dr = 1 ∧ 0 < x.quota then x.quota - 1 else x.quota
  let due := x.due - r.a
  let claimed := (x.claimed + r.c) % 2 ^ 32
  let landed := (x.landed + r.l) % 2 ^ 32
  if due = 0 ∧ landed = claimed ∧ (q ≠ 0 ∨ claimed ≠ 0) then
    ({ round := (x.round + 1) % 2 ^ 32, quota := quota, due := quota, claimed := 0, landed := 0 }, true)
  else ({ round := x.round, quota := quota, due := due, claimed := claimed, landed := landed }, false)

/-- Add a message to a table of messages. -/
def addMsgs (t : Tab (List Msg)) (k : Nat) (ms : List Msg) : Tab (List Msg) :=
  if ms = [] then t else put t k ((look t k).getD [] ++ ms)

/-- Apply a request to a barrier word of a basket, with what an arrival or landing publishes (R234): one read-modify-write of the word
(R59); whether the round completed. -/
def barApply (s : State) (b off : Nat) (r : BarReq) (ms : List Msg) : State × Bool :=
  match look s.baskets b with
  | none => (s, false)
  | some B =>
    let st := barStep (barAt B off) r
    let pub := if r.a = 1 ∨ r.l ≠ 0 then ms else []
    let s1 := spStore s b off (barBytes st.1) (spSeen s b off 16 ++ pub).eraseDups
    let now := addMsgs B.barNow off pub
    (modBasket s1 b (fun B =>
      if st.2 then { B with barDone := addMsgs B.barDone off ((look now off).getD []), barNow := del now off }
      else { B with barNow := now }), st.2)

/-! ### TOB -/

/-- The key of a TOB byte of a basket in a view. -/
def tobKey (b off : Nat) : Nat := spKey b (2 ^ 20 + off)

/-- Write a TOB byte, with its place in the history of the byte (R70). -/
def tobPut (B : Basket) (stamp off : Nat) (x : Byte) : Basket :=
  { B with tob := setCell B.tob off x, tobHist := put B.tobHist off ((look B.tobHist off).getD [(0, cell B.tob off)] ++ [(stamp, x)]) }

/-- Write TOB bytes of a basket: one stamp for all. Log 48 (DESIGN CHOICE). -/
def tobWrite (s : State) (b off : Nat) (bs : List Byte) : State :=
  { modBasket s b (fun B => (bs.zip (List.range bs.length)).foldl (fun B p => tobPut B s.stamp (off + p.2) p.1) B) with
    stamp := s.stamp + 1 }

/-- A view of TOB bytes as written at a stamp. -/
def tobView (b stamp : Nat) (offs : List Nat) : View := offs.foldl (fun v o => raiseView v (tobKey b o) stamp) []

/-! ### Completion of an operation -/

/-- Register keys: v registers 32 × register + strand; s registers from 20,000; t registers from 30,000. -/
def vKey (r k : Nat) : Nat := 32 * r + k

/-- The key of a scalar register. -/
def sKey (r : Nat) : Nat := 20000 + r

/-- The key of a temporary. -/
def tKey (r k : Nat) : Nat := 30000 + 32 * r + k

/-- Write a register word. -/
def putWord (wv : Weave) (key : Nat) (x : Word) : Weave :=
  if key < 20000 then { wv with vreg := setCell wv.vreg key x }
  else if key < 30000 then { wv with sreg := setCell wv.sreg (key - 20000) x }
  else { wv with treg := put wv.treg (key - 30000) x }

/-- The register word of a key, as it stands. -/
def getWord (wv : Weave) (key : Nat) : Word :=
  if key < 20000 then cell wv.vreg key
  else if key < 30000 then cell wv.sreg (key - 20000)
  else (look wv.treg (key - 30000)).getD 0

/-- Write register words. -/
def putWords (wv : Weave) (ws : Tab Word) : Weave := ws.foldl (fun wv p => putWord wv p.1 p.2) wv

/-- What the Loom must know of a write of vector register words (R70): what they held since the last OFENCE, and that they are written after
the issue of a command. A weave that has no TOB can issue none (R397). -/
def noteLoom (wv : Weave) (keys : List Nat) : Weave :=
  let vs := keys.filter (fun k => decide (k < 20000))
  let wv1 := if wv.hdr.tobBanks = 0 then wv
    else { wv with vlog := vs.foldl (fun t k => put t k (((look t k).getD [] ++ [cell wv.vreg k]).eraseDups)) wv.vlog }
  if wv.loomCmds = [] then wv1
  else { wv1 with loomCmds := wv1.loomCmds.map (fun x => { x with wrote := (x.wrote ++ vs).eraseDups }) }

/-- One completion less on a flag (R167). Log 24 (DEDUCED). -/
def dropFlag (t : Tab Nat) (f : Nat) : Tab Nat :=
  match look t f with
  | some n => if n ≤ 1 then del t f else put t f (n - 1)
  | none => t

/-- The words an operation writes at its completion: where the weave has written a word since the issue, either value
stays (R168). -/
def boundWords (s : State) (n : Nat) (o : Op) : Tab Word :=
  ((o.bound).getD []).filter (fun p => !(o.covered.contains p.1) || decide (choose s (n * 4096 + p.1) 2 = 0))

/-- Put the operation's results into the registers, drop its flags, remove it (R167, R168). The completion of a store, an
atomic, a release, an arrival or a command clears the guard count (R51). -/
def finishOp (s : State) (n : Nat) (clears : Bool) : State :=
  match look s.ops n with
  | none => s
  | some o =>
    let s1 := { s with ops := del s.ops n }
    modWeave s1 o.w (fun wv =>
      let ws := boundWords s n o
      let wv0 := if (o.word.extractLsb' 56 8).toNat = 0xDE then wv else noteLoom wv (ws.map (fun p => p.1))
      let wv1 := putWords wv0 ws
      { wv1 with flags := o.flags.foldl dropFlag wv1.flags, guard := if clears then 0 else wv1.guard })

/-! ### Pending buffer (R230, R232) -/

/-- The key under which a held full/empty instruction notes a word that it names. -/
def feKey (word : Nat) : Nat := 70000 + word

/-- The words that a held full/empty instruction names. -/
def feWords (h : Held) : List Nat :=
  if h.stall = .fullEmpty then (h.srcs.filter (fun p => decide (70000 ≤ p.1))).map (fun p => p.1 - 70000) else []

/-- The words of a full/empty instruction are all in the state it awaits (R228, R229): EMPTY for FEFILL, FULL otherwise. -/
def feReady (B : Basket) (word : DWord) (ws : List Nat) : Bool :=
  ws.all (fun x => B.full.contains x == decide ((word.extractLsb' 56 8).toNat ≠ 0xBC))

/-- A pending request is a fill of a word of a basket that began to wait before step `since`. -/
def fillBefore (b word since : Nat) : Pending → Bool
  | .fill b1 w1 _ _ t _ => decide (b1 = b ∧ w1 = word ∧ t < since)
  | _ => false

/-- A request that began to wait on a word before step `since` could be served now (R230): a held fill, or a held
full/empty instruction whose words are all ready. -/
def feAhead (s : State) (b : Nat) (B : Basket) (word since : Nat) : Bool :=
  (!(B.full.contains word) && (((shopOf s B.shop).pending ++ (shopOf s B.shop).engWait).any (fillBefore b word since))) ||
  B.weaves.any (fun w =>
    match weaveOf s w with
    | none => false
    | some wv => wv.splits.any (fun x =>
        match x.2.held with
        | some h => decide (h.since < since) && (feWords h).contains word && feReady B h.word (feWords h)
        | none => false))

/-- A held request is a fill that may now be applied (R230): its word is EMPTY and nothing that waited longer could be served. -/
def fillReady (s : State) : Pending → Bool
  | .fill b word _ _ since _ =>
    match look s.baskets b with
    | none => true
    | some B => !(B.full.contains word) && !(feAhead s b B word since)
  | _ => false

/-- Write the value of a fill and set FULL, with what the fill publishes (R230). -/
def doFill (s : State) (b word : Nat) (v : Word) (ms : List Msg) : State :=
  modBasket (spStore s b word (bytesOf 4 v.toNat) ms) b (fun B => { B with
    full := if B.full.contains word then B.full else word :: B.full
    fillMsgs := put B.fillMsgs word ms })

/-- A held request is an arrival on a barrier word of a basket. -/
def heldOn (b off : Nat) : Pending → Bool
  | .fill .. => false
  | .engineArrive b1 o1 _ _ => decide (b1 = b ∧ o1 = off)
  | .weaveArrive b1 o1 _ _ => decide (b1 = b ∧ o1 = off)

/-- The request of a held arrival. -/
def Pending.req : Pending → BarReq
  | .weaveArrive _ _ r _ => r
  | _ => { a := 1, c := 0, l := 0, dr := 0 }

/-- A held arrival is applied: for a weave's, its operation completes (R233). -/
def applyArrival (s : State) (shop : Nat) : Pending → State
  | .fill b word v msg _ _ => doFill s b word v msg.toList
  | .engineArrive b off msg _ => (barApply s b off { a := 1, c := 0, l := 0, dr := 0 } msg.toList).1
  | .weaveArrive b off req op =>
    match look s.baskets b with
    | none => s
    | some B =>
      let ms := match look s.ops op with
        | some o => [relMsg (.weave shop) 0 o.view]
        | none => []
      let rd := BitVec.ofNat 32 (barAt B off).round
      let s1 := (barApply s b off req ms).1
      let s2 := match look s1.ops op with
        | some o => modWeave s1 o.w (fun wv => learnView wv o.mask (spSaw s1 b off 16))
        | none => s1
      finishOp { s2 with ops := edit s2.ops op (fun o => { o with bound := some (o.dests.map (fun k => (k, rd))) }) } op true

/-- A round of a barrier word has completed: the requests held on the word are applied in arrival order, until one is held again
(R232). -/
def applyHeld : Nat → State → Nat → Nat → Nat → State
  | 0, s, _, _, _ => s
  | n + 1, s, shop, b, off =>
    match (shopOf s shop).pending.find? (heldOn b off), look s.baskets b with
    | some p, some B =>
      if barHeld (barAt B off) p.req then s
      else applyHeld n (applyArrival (modShop s shop (fun h => { h with pending := h.pending.erase p })) shop p) shop b off
    | _, _ => s

/-- Apply a request that is not held, and what its round's completion sets free (R232). -/
def barServe (s : State) (shop b off : Nat) (r : BarReq) (ms : List Msg) : State :=
  match barApply s b off r ms with
  | (s1, true) => applyHeld ((shopOf s1 shop).pending.length + 1) s1 shop b off
  | (s1, false) => s1

/-- Entries of a shop's pending buffer (R230). Log 43 (DEDUCED). -/
def pendingRoom (s : State) (shop : Nat) : Bool := decide ((shopOf s shop).pending.length < 64)

/-- A request that must wait takes an entry of the pending buffer, or is held in its engine while the buffer is full (R230, R234). -/
def holdRequest (s : State) (shop : Nat) (p : Pending) : State :=
  modShop s shop (fun h => if h.pending.length < 64 then { h with pending := h.pending ++ [p] } else { h with engWait := h.engWait ++ [p] })

/-- An engine's fill or arrival reaches its shop: applied, or held (R230, R232, R234). -/
def present (s : State) (shop : Nat) (p : Pending) : State :=
  match p with
  | .fill b word v msg since op =>
    match look s.baskets b with
    | none => s
    | some B =>
      if B.full.contains word || feAhead s b B word since then holdRequest s shop (.fill b word v msg since op)
      else doFill s b word v msg.toList
  | .engineArrive b off msg op =>
    match look s.baskets b with
    | none => s
    | some B =>
      if barHeld (barAt B off) { a := 1, c := 0, l := 0, dr := 0 } then holdRequest s shop (.engineArrive b off msg op)
      else barServe s shop b off { a := 1, c := 0, l := 0, dr := 0 } msg.toList
  | .weaveArrive .. => s

/-- Serve what a shop holds: fills whose word is EMPTY, in the order in which they began to wait; then, while the buffer has room, the
completions that engines hold, oldest first (R230). -/
def settleLoop : Nat → State → Nat → State
  | 0, s, _ => s
  | n + 1, s, shop =>
    match (shopOf s shop).pending.find? (fillReady s) with
    | some p => settleLoop n (applyArrival (modShop s shop (fun h => { h with pending := h.pending.erase p })) shop p) shop
    | none =>
      match (shopOf s shop).engWait.find? (fillReady s), (shopOf s shop).engWait with
      | some p, _ => settleLoop n (applyArrival (modShop s shop (fun h => { h with engWait := h.engWait.erase p })) shop p) shop
      | none, [] => s
      | none, p :: ps =>
        if pendingRoom s shop then settleLoop n (present (modShop s shop (fun h => { h with engWait := ps })) shop p) shop else s

/-- Serve whatever a shop holds that can be served now. -/
def settle (s : State) (shop : Nat) : State :=
  settleLoop ((shopOf s shop).pending.length + 2 * (shopOf s shop).engWait.length + 1) s shop

/-- A completion event aimed at a basket: at once where the basket is on its shop; held by the Steward while it is saved (R239); dropped
where it has retired (R230, R234). -/
def toBasket (s : State) (b : Nat) (p : Pending) : State :=
  match look s.baskets b with
  | none => s
  | some B =>
    if B.resident then settle (present s B.shop p) B.shop
    else modBasket s b (fun B => { B with heldEvents := B.heldEvents ++ [p] })

/-- An engine arrival at a barrier word for a command (R234). Log 43 (DEDUCED). -/
def engineArrival (s : State) (b off : Nat) (msg : Option Msg) (op : Nat) : State := toBasket s b (.engineArrive b off msg op)

/-- An engine fill of a full/empty word for a command (R230). Log 43 (DEDUCED). -/
def engineFill (s : State) (b word : Nat) (v : Word) (msg : Option Msg) (op : Nat) : State :=
  toBasket s b (.fill b word v msg s.steps op)

/-- An engine's landing of n bytes on a barrier word (R234, R296); it is never held (R232). -/
def engineLanding (s : State) (b off n : Nat) (msg : Option Msg) : State :=
  match look s.baskets b with
  | none => s
  | some B => settle (barServe s B.shop b off { a := 0, c := 0, l := n, dr := 0 } msg.toList) B.shop

/-- The arrival or fill of a command waits for its word (R294): in a pending buffer, in an engine, or with a saved basket. -/
def opHeld (s : State) (op : Nat) : Bool :=
  let is (p : Pending) : Bool := match p with
    | .fill _ _ _ _ _ o => decide (o = op)
    | .engineArrive _ _ _ o => decide (o = op)
    | .weaveArrive .. => false
  s.shops.any (fun h => h.2.pending.any is || h.2.engWait.any is) || s.baskets.any (fun b => b.2.savedPending.any is || b.2.heldEvents.any is)

/-! ### Versions (R332 to R335) -/

/-- How the fill of a version's line fares at its commit (R332): a resident grain needs none; otherwise the fill is checked as any other
(R315), and waits. -/
def commitFare (s : State) (t : Nat) (x : VWrite) : Fare :=
  let l := leaseOf s t x.slot
  if x.slot = 256 then .go
  else if l.state = 5 then .dead x.slot (lostKind l)
  else
    match look s.grains (grainOf x.pa) with
    | some g => if g.moving then .park .fill else if repairing s g x.pa then .park .repair else .go
    | none => fareByte s t x.pa x.slot

/-- The replay lot that a lot belongs to: itself or the ancestor that launched it (R447). -/
def replayRoot (s : State) (fuel L : Nat) : Option Nat :=
  match fuel with
  | 0 => none
  | n + 1 =>
    match look s.lots L with
    | none => none
    | some l => if l.npass ≠ 0 then some L else match l.parent with | some p => replayRoot s n p | none => none

/-- The replay lot whose pass, other than the last, a lot's work belongs to (R448, R449). -/
def innerPass (s : State) (L : Nat) : Option Nat :=
  match replayRoot s 16 L with
  | none => none
  | some r =>
    match look s.lots r with
    | some l => if l.pass < l.npass then some r else none
    | none => none

/-- Set bits of the replay flags of the pass that a lot's work belongs to (R449, R450). -/
def passFlag (s : State) (L bits : Nat) : State :=
  match innerPass s L with
  | some r => { s with lots := edit s.lots r (fun l => { l with rflags := l.rflags ||| bits }) }
  | none => s

/-- Keep what bytes hold before a lot writes them in a replay pass other than the last; a capture beyond the Depot way quota
sets OVERFLOW (R448, R449). -/
def saveBytes (s : State) (L : Nat) (pas : List Nat) : State :=
  match innerPass s L with
  | none => s
  | some r =>
    { s with lots := edit s.lots r (fun l =>
        let saved := pas.foldl (fun (t : Tab Byte) pa => match look t pa with
          | some _ => t
          | none => put t pa (readByte s pa)) l.saved
        let lines := (saved.map (fun p => lineOf p.1)).eraseDups
        let covered := lines.any (fun a =>
          decide ((tenOf s l.tenancy).depot.dways < (lines.filter (fun b => decide (Config.depotSet a = Config.depotSet b))).length))
        { l with saved := saved, rflags := l.rflags ||| (if covered then 4 else 0) }) }

/-- Note the stamps from `lo` on as those of writes of a lot's replay pass. -/
def noteOwn (s : State) (L lo : Nat) : State :=
  match innerPass s L with
  | none => s
  | some r =>
    { s with lots := edit s.lots r (fun l => { l with passOwn := l.passOwn ++ (List.range (s.stamp - lo)).map (fun i => lo + i) }) }

/-- What a byte that the pass wrote holds after the restore (R448): its value before, or, where another agent has written it during
the pass, that agent's value, by free choice. Log 57 (DEDUCED). -/
def restoredByte (s : State) (l : Lot) (pa : Nat) (before : Byte) : Byte :=
  let evs := ((look s.lines (lineOf pa)).getD {}).evs.filter (fun e =>
    decide (l.passFrom ≤ e.stamp ∧ e.byte ≤ pa ∧ pa < e.byte + e.data.length) && !(l.passOwn.contains e.stamp))
  match evs.getLast? with
  | none => before
  | some e => if choose s pa 2 = 0 then before else e.data.getD (pa - e.byte) 0

/-- Undo every write of the pass of a replay lot (R448). -/
def restorePass (s : State) (r : Nat) : State :=
  match look s.lots r with
  | none => s
  | some l =>
    let s1 := pokeBytes s (l.saved.map (fun p => p.1)) (l.saved.map (fun p => restoredByte s l p.1 p.2))
    { s1 with
      lines := s1.lines.filter (fun p => !(l.saved.any (fun q => decide (lineOf q.1 = p.1))))
      lots := put s1.lots r { l with saved := [], passOwn := [] } }

/-- The key of the 32-byte sector of a frame that holds a byte in its stack's list of poisoned sectors (R355), with the stack. -/
def sectorKey (g : Grain) (pa : Nat) : Nat × Nat := (g.frame / 2 ^ 20, g.frame * 2048 + pa % 65536 / 32)

/-- A read of a byte by a tenancy meets data that error correction cannot correct (R336): a poisoned sector of its frame (R355), or an
upset in L2, the Depot or the Loft. -/
def poisoned (s : State) (t pa : Nat) : Bool :=
  if s.upsets.isEmpty && s.tinkers.all (fun p => p.2.poison.isEmpty) then false
  else if spBase ≤ pa then false
  else if loftBase ≤ pa then s.upsets.contains (.loft ((pa - loftBase) / 32))
  else s.upsets.contains (.sector (pa / 32)) ||
    (match grainFor s t pa with
     | some (_, g) => (((look s.tinkers (sectorKey g pa).1).getD {}).poison).contains (sectorKey g pa).2
     | none => false)

/-- The sectors that bytes cover whole. -/
def wholeSectors (pas : List Nat) : List Nat :=
  (pas.filter (fun pa => decide (pa % 32 = 0) && (List.range 32).all (fun i => pas.contains (pa + i)))).map (fun pa => pa / 32)

/-- Writes that cover all 32 bytes of sectors clear their marks (R355, R335). -/
def clearPoison (s : State) (pas : List Nat) : State :=
  if s.upsets.isEmpty && s.tinkers.all (fun p => p.2.poison.isEmpty) then s
  else
    let full := wholeSectors pas
    let keys := full.filterMap (fun x => (look s.grains (grainOf (32 * x))).map (fun g => sectorKey g (32 * x)))
    { s with
      upsets := s.upsets.filter (fun u => match u with | .sector x => !(full.contains x) | _ => true)
      tinkers := s.tinkers.map (fun p => (p.1, { p.2 with poison := p.2.poison.filter (fun k => !(keys.contains (p.1, k))) })) }

/-- A lot's agent writes the bytes of one access. -/
def lotWrite (s : State) (L : Nat) (pas : List Nat) (bs : List Byte) (msgs : List Msg) : State :=
  clearPoison (noteOwn (writeAccess (saveBytes s L pas) pas bs msgs) L s.stamp) pas

/-- Enter the writes of a version into the coherence order, each line in its order (R335); lines whose fill ended unresolved are left out
(R332). -/
def commitWrites (s : State) (L t : Nat) : List VWrite → State
  | [] => s
  | x :: xs =>
    match commitFare s t x with
    | .dead _ _ => commitWrites s L t xs
    | _ =>
      let s1 := writeMem (saveBytes s L ((List.range x.data.length).map (fun i => x.pa + i))) x.pa x.data x.msgs x.stamp x.basket
      commitWrites (noteOwn s1 L s.stamp) L t xs

/-- What a commit makes known to the operation that causes it (R66): the writes of the version at their stamps in the coherence order. -/
def commitView (s : State) (ver : List VWrite) : View :=
  ver.foldl (fun v x => (List.range x.data.length).foldl (fun v i =>
    raiseView v (x.pa + i) (commitStamp s [(verKey x.basket (x.pa + i), x.stamp)] (x.pa + i))) v) []

/-- A basket's open version is over: the errors in its lines and its commit's wait with it. -/
def closeVersion (s : State) (b : Nat) : State :=
  { modBasket s b (fun B => { B with version := [], commitWait := 0 }) with
    upsets := s.upsets.filter (fun u => match u with | .version x _ => decide (x ≠ b) | _ => true) }

/-- Commit a basket's open version (R66, R332, R335). `counts`: the commit counts in CKCOUNT even when the version is empty
(R333). -/
def commitBasket (s : State) (b : Nat) (counts : Bool) : State :=
  match look s.baskets b with
  | none => s
  | some B =>
    let t := match look s.lots B.lot with | some l => l.tenancy | none => 0
    let s1 := clearPoison (commitWrites s B.lot t B.version)
      (B.version.flatMap (fun x => (List.range x.data.length).map (fun i => x.pa + i)))
    modBasket (closeVersion s1 b) b (fun B1 => { B1 with
      ckcount := if counts || !(B.version.isEmpty) then min (B1.ckcount + 1) (2 ^ 32 - 1) else B1.ckcount })

/-- Number of 128-byte lines in a version (R334). -/
def versionLines (ver : List VWrite) : List Nat := (ver.map (fun x => lineOf x.pa)).eraseDups

/-! ### Release of a basket's resources (R48, R218) -/

/-- Number of cache-role banks of a shop (R218). -/
def cacheBanks (role : BitVec 64) : Nat := ((List.range 32).filter (fun n => decide (role.extractLsb' (2 * n) 2 = 0))).length

/-- Set the role of a bank. -/
def setRole (role : BitVec 64) (n : Nat) (r : BitVec 2) : BitVec 64 :=
  (role &&& ~~~(3#64 <<< (2 * n))) ||| (r.setWidth 64 <<< (2 * n))

/-- Give banks back: each becomes CACHE, or IDLE when the cache-role banks already number 24 or more (R218). -/
def freeBanks (role : BitVec 64) (bs : List Nat) : BitVec 64 :=
  bs.foldl (fun r n => setRole r n (if 24 ≤ cacheBanks r then 3 else 0)) role

/-- Release what a basket holds on its shop: banks, accumulator banks, registers (R48). -/
def releaseShop (s : State) (B : Basket) : State :=
  modShop s B.shop (fun h => { h with
    bankrole := freeBanks h.bankrole B.banks
    accUsed := h.accUsed.filter (fun p => !((B.accMap.map (fun e => e.2)).contains p))
    regsUsed := h.regsUsed - B.regs })

/-- A basket holds resources of its shop: it runs there, or is saved and waits for the rest of its gang (R161). -/
def onShop (s : State) (B : Basket) : Bool :=
  B.resident || (match look s.gangs B.gang with | some g => g.resident | none => false)

/-- Remove a weave and what is left of its operations. -/
def removeWeave (s : State) (w : Nat) : State :=
  { s with weaves := del s.weaves w, ops := s.ops.filter (fun p => decide (p.2.w ≠ w)) }

/-- What of an operation already issued runs on when its basket stops (R47, R183): writes of device memory, with the TOB bytes they
still have to read, and fences, which order them; in a VERSIONED lot only atomics that have been sent (R337). Log 62 (DEDUCED). -/
def runsOn (s : State) (B : Basket) (n : Nat) (versioned : Bool) (o : Op) : Option OpKind :=
  let sent := (s.requests.filter (fun r => decide (r.2.op = n ∧ r.2.sent ≠ 0))).flatMap (fun r => r.2.lanes)
  match o.kind with
  | .clerk ls => if !versioned then some (.clerk ls) else if sent = [] then none else some (.clerk (ls.filter (fun l => sent.contains l)))
  | .store z ls => if versioned then none else some (.store z ls)
  | .storeFmt ls => if versioned then none else some (.storeFmt ls)
  | .storeTob z ls =>
    if versioned then none else some (.store z (ls.map (fun l => { l with data := cellsAt B.tob l.tob (2 ^ z) })))
  | .fence => if versioned then none else some .fence
  | _ => none

/-- Stop a weave of a basket (R47): what it was about to do is gone; its writes already issued run on, and it stands for them. -/
def stopWeave (s : State) (B : Basket) (versioned : Bool) (w : Nat) : State :=
  let ops := s.ops.filterMap (fun p =>
    if p.2.w = w then
      match runsOn s B p.1 versioned p.2 with
      | some k => some (p.1, { p.2 with kind := k, flags := [], dests := [], fin := none })
      | none => none
    else some p)
  let s1 := { s with ops := ops, requests := s.requests.filter (fun r =>
    decide (r.2.w ≠ w) || ((!versioned || decide (r.2.sent ≠ 0)) && ops.any (fun p => decide (p.1 = r.2.op)))) }
  if ops.any (fun p => decide (p.2.w = w)) then
    modWeave s1 w (fun wv => { wv with
      gone := true, splits := [], stack := [], queues := [], flags := [], farTraps := [], gslots := [], heads := [], loomCmds := [] })
  else { s1 with weaves := del s1.weaves w }

/-- Cancel the engine commands of weaves: Dray, Gleaner, Loom, Runner (R47, R337). Courier commands run on. Log 62 (DEDUCED). -/
def cancelCommands (s : State) (ws : List Nat) : State :=
  { s with
    copies := s.copies.filter (fun p => match p.2.w with | some w => !(ws.contains w) | none => true)
    selects := s.selects.filter (fun p => !(ws.contains p.2.w))
    loom := s.loom.filter (fun p => !(p.2.parts.any (fun q => ws.contains q.1)))
    prefetch := s.prefetch.filter (fun p => !(ws.contains p.2.w)) }

/-- Drop the pending requests of a basket that is gone (R230, R234). Log 62 (DEDUCED). -/
def dropPending (s : State) (b shop : Nat) : State :=
  modShop s shop (fun h => { h with pending := h.pending.filter (fun p => match p with
    | .fill x _ _ _ _ _ => decide (x ≠ b)
    | .engineArrive x _ _ _ => decide (x ≠ b)
    | .weaveArrive x _ _ _ => decide (x ≠ b)), engWait := h.engWait.filter (fun p => match p with
    | .fill x _ _ _ _ _ => decide (x ≠ b)
    | .engineArrive x _ _ _ => decide (x ≠ b)
    | .weaveArrive x _ _ _ => decide (x ≠ b)) })

/-- Take a basket off the device: its weaves stop, its commands, pending requests and resources go; its version is discarded. -/
def dropBasket (s : State) (b : Nat) : State :=
  match look s.baskets b with
  | none => s
  | some B =>
    let versioned := match look s.lots B.lot with | some l => l.versioned || (innerPass s B.lot).isSome | none => false
    let s1 := closeVersion (cancelCommands (B.weaves.foldl (fun s w => stopWeave s B versioned w) s) B.weaves) b
    let s2 := settle (dropPending (if onShop s B then releaseShop s1 B else s1) b B.shop) B.shop
    dropLines { s2 with baskets := del s2.baskets b } (spKey b 0) (2 ^ 21)

/-- A lot has a gang placed. -/
def lotPlaced (s : State) (L : Nat) : Bool := s.gangs.any (fun p => decide (p.2.lot = L) && p.2.resident)

/-- If no gang of a lot is placed any more, its wait begins (R155). -/
def nowBare (s : State) (L : Nat) : State :=
  if lotPlaced s L then s else { s with lots := edit s.lots L (fun l => { l with bare := s.time, aged := 0 }) }

/-- Remove a gang's record. -/
def dropGang (s : State) (g : Nat) : State :=
  match look s.gangs g with
  | none => s
  | some x => if x.resident then nowBare { s with gangs := del s.gangs g } x.lot else { s with gangs := del s.gangs g }

/-! ### Completion of lots -/

/-- Baskets of a lot (R34). -/
def lotSize (l : Lot) : Nat := l.x * l.y * l.z * l.gsize

/-- Deliver the completion events of a command or child lot to its weave: the arrival or fill at CWORD, then the flag and
the continuation (R158, R294). -/
def wakeCont (s : State) (op : Nat) : State :=
  match look s.ops op with
  | none => s
  | some o => modWeave s o.w (fun wv => { wv with splits := wv.splits.map (fun x =>
      match x.2.held with
      | some h =>
        match h.wait with
        | .continuation pc false =>
          if h.idx = o.idx ∧ h.pc = o.pc ∧ x.1 = o.slot
          then (x.1, { x.2 with held := some { h with wait := .continuation pc true } }) else x
        | _ => x
      | none => x) })

/-- The completion of a command is there to observe (R68): a split that its continuation wakes observes it now, a clause start
that waits for a flag of it observes it then. Log 24 (DEDUCED). -/
def observeOp (s : State) (op : Nat) (msg : Option Msg) : State :=
  match look s.ops op with
  | none => s
  | some o =>
    let note (t : Tab (List Msg)) (f : Nat) : Tab (List Msg) :=
      let ms := ((look t f).getD [] ++ msg.toList).eraseDups
      if ms = [] then t else put t f ms
    let s1 := modWeave s o.w (fun wv => { wv with flagMsgs := o.flags.foldl note wv.flagMsgs })
    match (weaveOf s o.w).bind (fun wv => look wv.splits o.slot) with
    | none => s1
    | some sp =>
      match sp.held with
      | none => s1
      | some h =>
        match h.wait with
        | .continuation _ _ => if h.idx = o.idx ∧ h.pc = o.pc then observe s1 o.w sp.mask msg.toList else s1
        | _ => s1

/-- Post an entry on a result queue (R171). Log 43 (DEDUCED). -/
def postResult (s : State) (w n : Nat) (words : List Word) (msg : Option Msg) : State :=
  modWeave s w (fun wv => { wv with queues := put wv.queues n ((look wv.queues n).getD [] ++
    [{ words := words ++ List.replicate (32 - words.length) 0, msg := msg }]) })

/-- The Gleaner slot of a weave that runs a command is SETTLED (R370). -/
def settleSlot (wv : Weave) (op : Nat) : Weave :=
  { wv with gslots := wv.gslots.map (fun p => if p.2.op = op ∧ p.2.state = 1 then (p.1, { p.2 with state := 2 }) else p) }

/-- The last events of a command, which happen together (R294, R370): the Gleaner slot, the result entry, the continuation, the flag. -/
def finishEvents (s : State) (op : Nat) (f : Finish) : State :=
  match look s.ops op with
  | none => s
  | some o =>
    let s0 := modWeave s o.w (fun wv => settleSlot wv op)
    let s1 := match f.result with | some (n, words) => postResult s0 o.w n words f.msg | none => s0
    finishOp (observeOp (wakeCont s1 op) op f.msg) op true

/-- The last events of a command occur now, or once its arrival or fill has been applied (R294). -/
def lastEvents (s : State) (op : Nat) (f : Finish) : State :=
  if opHeld s op then { s with ops := edit s.ops op (fun o => { o with fin := some f }) } else finishEvents s op f

/-- A child lot is over: its completion events occur (R158); those aimed at a saved basket wait for its restore (R239), those
aimed at a basket that is gone are dropped. Log 24 (DEDUCED), 62 (DEDUCED). -/
def lotEvents (s : State) (L : Nat) (l : Lot) : State :=
  match l.events, look s.baskets l.basketOf with
  | none, _ => s
  | some _, none => { s with lots := edit s.lots L (fun l => { l with events := none }) }
  | some e, some B =>
    if !B.resident then s
    else
    let s := { s with lots := edit s.lots L (fun l => { l with events := none }) }
    let msg := some (relMsg .steward 3 l.view)
    let s1 := if e.cmask.testBit 1 then engineArrival s l.basketOf e.cword msg e.op else s
    let s2 := if e.cmask.testBit 2 then engineFill s1 l.basketOf e.cword 0 msg e.op else s1
    lastEvents s2 e.op { result := none, msg := msg }

/-- A lot whose baskets have all retired completes, unless a replay pass of it has ended (R48, R448). -/
def lotCheck (s : State) (L : Nat) : State :=
  match look s.lots L with
  | none => s
  | some l =>
    if l.state < 2 ∧ l.retired = lotSize l ∧ l.npass = 0 then
      lotEvents { s with lots := put s.lots L { l with state := 2 } } L l
    else s

/-- What the weaves of a basket know, those that have retired included (R73). -/
def basketView (s : State) (b : Nat) : View :=
  match look s.baskets b with
  | none => []
  | some B => B.weaves.foldl (fun v w => match weaveOf s w with
    | some wv => joinView v (viewOf wv 0xFFFFFFFF)
    | none => v) B.past

/-! ### Halts and task traps -/

/-- The gangs of a lot. -/
def gangsOf (s : State) (L : Nat) : List Nat := (s.gangs.filter (fun p => decide (p.2.lot = L))).map (fun p => p.1)

/-- The baskets of a lot stop, but for those of some gangs: commands cancelled, versions discarded, resources released, saved contexts
discarded (R47). Log 62 (DEDUCED). -/
def stopLotBut (s : State) (keep : List Nat) (L : Nat) : State :=
  let bs := (s.baskets.filter (fun p => decide (p.2.lot = L) && !(keep.contains p.2.gang))).map (fun p => p.1)
  let view := bs.foldl (fun v b => joinView v (basketView s b)) []
  let s1 := bs.foldl (fun s b => dropBasket (traceBasket s b 4) b) s
  let s2 := ((gangsOf s1 L).filter (fun g => !(keep.contains g))).foldl dropGang s1
  { s2 with lots := edit s2.lots L (fun l => { l with state := 3, view := joinView l.view view }) }

/-- Every basket of a lot stops (R47). -/
def stopLot (s : State) (L : Nat) : State := stopLotBut s [] L

/-- Gangs that are being collected (R161). -/
def collectingGangs (s : State) : List Nat := (s.gangs.filter (fun p => p.2.collecting)).map (fun p => p.1)

/-- The queue that a lot's records go to: that of its root lot (R158). Log 37 (DESIGN CHOICE). -/
def rootLot (s : State) (fuel L : Nat) : Nat :=
  match fuel with
  | 0 => L
  | n + 1 =>
    match look s.lots L with
    | some l => match l.parent with | some p => rootLot s n p | none => L
    | none => L

/-- The record of a lot that a report names (R150). Log 37 (DESIGN CHOICE). -/
def lotRec (s : State) (L reason basket : Nat) (detail : List Byte) (xflags : BitVec 32) (respond : Bool) : Option (Nat × ExRec) :=
  match look s.lots L with
  | none => none
  | some l =>
    some (l.queue, { reason := reason, tag := l.tag, pindex := l.pindex, lotid := l.lotid, basket := basket,
                     detail := detail, xflags := xflags, respond := respond })

/-- The lots launched in the pass of a replay lot that are not over (R447). -/
def passChildren (s : State) (r : Nat) : List Nat :=
  (s.lots.filter (fun p => decide (p.1 ≠ r) && decide (p.2.state < 2) && decide (replayRoot s 16 p.1 = some r))).map (fun p => p.1)

/-- A replay pass other than the last ends early (R449): its baskets and those of its child lots stop, and every write of the pass is
undone. The lot stays as it is until the record is posted. Log 57 (DEDUCED). -/
def stopPass (s : State) (r bits : Nat) : State :=
  let children := passChildren s r
  let ws := (s.weaves.filter (fun p => decide (p.2.ids.lot = r) || children.contains p.2.ids.lot)).map (fun p => p.1)
  let st := match look s.lots r with | some l => l.state | none => 0
  let s0 := { s with requests := s.requests.filter (fun p => !(ws.contains p.2.w)) }
  let s1 := restorePass (stopLot (children.foldl stopLot s0) r) r
  { s1 with lots := edit s1.lots r (fun l => { l with state := st, rflags := l.rflags ||| bits }) }

/-- A trap ends a replay pass other than the last (R449): no further pass runs. The row REPLAY_PASS_END then posts the record with
TRAPPED, and the lot halts. Log 57 (DEDUCED). -/
def endPass (s : State) (r : Nat) : State := stopPass s r 8

/-- A halted basket is reported and its lot halts (R47, R187); in a replay pass other than the last the pass ends (R449). -/
def haltReport (s : State) (L reason basket : Nat) (detail : List Byte) (xflags : BitVec 32) : State :=
  let s1 := match lotRec s L reason basket detail xflags false with
    | some (q, r) => postEx s q r
    | none => s
  match innerPass s L with
  | some r => endPass s1 r
  | none => stopLot s1 L

/-- DETAIL of a task-trap report (R338). -/
def taskDetail (ck cause : Nat) (replayable forced : Bool) (slot va kind : Nat) : List Byte :=
  bytesOf 4 ck ++ [BitVec.ofNat 8 cause, BitVec.ofNat 8 ((if replayable then 1 else 0) + (if forced then 2 else 0))] ++
    bytesOf 2 slot ++ bytesOf 8 va ++ [BitVec.ofNat 8 kind]

/-- A task trap of a VERSIONED basket stops its gang and stalls the root queue (R336 to R339); in a replay pass other than
the last it ends the pass and awaits no reply (R449); in a plain lot the same event halts the basket TAINTED (R340). -/
def taskTrap (s : State) (b cause slot va kind : Nat) : State :=
  match look s.baskets b with
  | none => s
  | some B =>
    match look s.lots B.lot with
    | none => s
    | some l =>
      let inner := innerPass s B.lot
      if l.versioned = true ∨ inner.isSome then
        match look s.gangs B.gang with
        | none => s
        | some g =>
          let rp := g.baskets.all (fun x => match look s.baskets x with | some y => decide (y.ckcount = 0) | none => true)
          let detail := taskDetail B.ckcount cause rp B.forced slot va kind
          match inner, lotRec s B.lot 0x0110 B.linear detail 0 inner.isNone with
          | some r, some (q, x) => endPass (postEx s q x) r
          | none, some (q, x) =>
            let view := g.baskets.foldl (fun v b => joinView v (basketView s b)) []
            let s1 := dropGang (g.baskets.foldl dropBasket s) B.gang
            let s2 := { s1 with lots := edit s1.lots B.lot (fun l =>
              { l with stopped := l.stopped ++ [(g.gid, rp, g.prio)], view := joinView l.view view }) }
            stallOn s2 q x B.lot g.gid
          | _, none => s
      else haltReport s B.lot 0x0111 B.linear (taskDetail 0 cause false false slot va kind) 0

/-! ### Commits and retirement -/

/-- How an attempt ends: it came about, or it waits. -/
inductive Try where
  | ok (s : State) | wait (s : State)
  deriving DecidableEq, Repr

/-- Fields of a record about a weave's access (R318). -/
def weaveFault (s : State) (wv : Weave) (kind acc engine slot va pa : Nat) (lanes : Mask) : FaultInfo :=
  { kind := kind, die := dieOf wv.shop, acc := acc, engine := engine, slot := slot, va := va, pa := pa,
    lotid := wv.ids.lotid.toNat, basket := match basketOf s wv with | some B => B.linear | none => 0,
    wid := wv.ids.wid, lanes := lanes.toNat }

/-- The reply that failed a fill of a commit or an access, by slot: of an op, or of what a weave does apart from its ops (R319). -/
def fillFailed (s : State) (t : Nat) (op : Option Nat) (w sp slot : Nat) : Option FaultRec :=
  (tenOf s t).reeve.faults.find? (fun f => f.op = op && f.slot = slot && f.taken = some 2 && (op.isSome || (decide (f.w = w ∧ f.sp = sp))))

/-- Remove the records of a split's walks, or of what a weave commits apart from its ops (R319): it is over. Log 65 (DEDUCED). -/
def dropWalks (s : State) (t w sp : Nat) : State :=
  if (tenOf s t).reeve.faults = [] then s
  else setReeve s t (fun r => { r with faults := r.faults.filter (fun f => !(f.op.isNone && decide (f.w = w ∧ f.sp = sp))) })

/-- Commit the version of a weave's basket (R66, R332, R335) for one of its ops, or for its retirement or a push (`none`): it waits while a line's
fill waits, for a frame, for a lease or for the reply to a record; lines whose fill ends unresolved are left out, and the basket takes the
task trap of cause 3; if a line cannot be corrected, nothing is committed, and the trap is that of cause 1. -/
def commitTry (s : State) (op : Option Nat) (wv : Weave) (w : Nat) (counts : Bool) (why : Nat) : Try :=
  match basketOf s wv with
  | none => .ok s
  | some B =>
    let b := wv.ids.basket
    let t := wv.ids.tenancy
    let failed (sl : Nat) : Bool := (fillFailed s t op w 255 sl).isSome
    let absent := B.version.filterMap (fun x => match commitFare s t x with
      | .absent sl => if failed sl then none else some (sl, x.pa)
      | _ => none)
    let parked := B.version.any (fun x => match commitFare s t x with | .park _ => true | _ => false)
    if parked || !absent.isEmpty then
      let s1 := absent.foldl (fun s p => postAbsent s t (weaveFault s wv 1 1 0 p.1 0 p.2 0) op (if op.isSome then wv.ids.wid else w)
        (if op.isSome then 0 else 255)) s
      .wait (modBasket s1 b (fun B => { B with commitWait := why }))
    else if s.upsets.any (fun u => match u with | .version x _ => decide (x = b) | _ => false) then
      .ok (taskTrap (closeVersion s b) b 1 0 0 0)
    else
      let dead := B.version.filter (fun x => match commitFare s t x with | .go => false | .park _ => false | _ => true)
      let s0 := if op.isSome then s else dropWalks s t w 255
      let s1 := modBasket s0 b (fun B => { B with version := B.version.filter (fun x => !(dead.contains x)) })
      let s2 := commitBasket s1 b counts
      match dead with
      | [] => .ok s2
      | x :: _ => .ok (taskTrap s2 b 3 x.slot 0 (lostKind (leaseOf s t x.slot)))

/-- A basket retires: release, count (R48), after its commit (R66); its completion follows every event of its weaves (R73). -/
def retireBasket (s : State) (b : Nat) (ver : List VWrite) : State :=
  match look s.baskets b with
  | none => s
  | some B =>
    let s0 := traceBasket s b 3
    let view := joinView (basketView s b) (commitView s ver)
    let s2 := dropBasket s0 b
    let s3 := { s2 with
      gangs := edit s2.gangs B.gang (fun g => { g with baskets := g.baskets.filter (fun x => decide (x ≠ b)) })
      lots := edit s2.lots B.lot (fun l => { l with retired := l.retired + 1, view := joinView l.view view }) }
    let s4 := match look s3.gangs B.gang with
      | some g => if g.baskets.isEmpty then dropGang s3 B.gang else s3
      | none => s3
    lotCheck s4 B.lot

/-- Every strand of the weave has exited, every operation that set a flag of it has completed (R42, R48), and no trap of an unresolved
access is still to be taken (R321). -/
def weaveDone (s : State) (w : Nat) (wv : Weave) : Bool :=
  wv.splits.isEmpty && wv.stack.isEmpty && wv.flags.isEmpty && wv.farTraps.isEmpty &&
    !(s.ops.any (fun p => decide (p.2.w = w) && !(p.2.flags.isEmpty)))

/-- A weave that is done retires; the last weave of a basket retires the basket, once its version is committed (R48); the completion of a
child lot may let the weave that launched it retire. -/
def retireFrom : Nat → State → Nat → State
  | 0, s, _ => s
  | n + 1, s, w =>
    match weaveOf s w with
    | none => s
    | some wv =>
      if wv.gone then (if s.ops.any (fun p => decide (p.2.w = w)) then s else { s with weaves := del s.weaves w })
      else if weaveDone s w wv then
        match look s.baskets wv.ids.basket with
        | none => removeWeave s w
        | some B =>
          if B.weaves.all (fun x => decide (x = w) || (weaveOf s x).isNone) then
            match (if B.version.isEmpty then .ok s else commitTry s none wv w false 1) with
            | .wait s1 => s1
            | .ok s1 =>
              let s2 := retireBasket (countW s1 wv 30 1) wv.ids.basket B.version
              match (look s1.lots B.lot).bind (fun l => l.events) with
              | some e => retireFrom n s2 e.w
              | none => s2
          else
            removeWeave (modBasket (countW s wv 30 1) wv.ids.basket (fun B => { B with past := joinView B.past (viewOf wv 0xFFFFFFFF) })) w
      else s

/-- Retire a weave if it is done, and what follows. Log 23 (DEDUCED). -/
def retireCheck (s : State) (w : Nat) : State := retireFrom 17 s w

/-- A lot may be complete; its completion may let the weave that launched it retire. Log 62 (DEDUCED). -/
def lotOver (s : State) (L : Nat) : State :=
  match (look s.lots L).bind (fun l => l.events) with
  | some e => retireCheck (lotCheck s L) e.w
  | none => lotCheck s L

/-- An operation in flight completes (R167), which may retire the weave (R48). -/
def completeOp (s : State) (n : Nat) (clears : Bool) : State :=
  match look s.ops n with
  | none => s
  | some o => retireCheck (finishOp s n clears) o.w

/-- The last events of a command, and what follows (R294, R48). -/
def completeCommand (s : State) (op : Nat) (f : Finish) : State :=
  match look s.ops op with
  | none => s
  | some o => retireCheck (lastEvents s op f) o.w

/-- The arrival or fill for which a command's last events waited has been applied: they occur (R294). -/
def finishHeld (s : State) (op : Nat) : State :=
  match (look s.ops op).bind (fun o => o.fin) with
  | some f => if opHeld s op then s else completeCommand s op f
  | none => s

end Sys2Proof.Machine
end

