-- ==== Sys2Proof/Machine/Rings.lean ====
section
/-!
DEFINITION. The memory side of the intake rings (spec/23_courier.md R430, R431, R433): header words, slots, and the pop that
RING.POP and a read of q10 share.
-/

namespace Sys2Proof.Machine

open Sys2Proof

/-- An intake ring. -/
def ringOf (s : State) (r : Nat) : Ring := (look s.rings r).getD {}

/-- Change an intake ring. -/
def modRing (s : State) (r : Nat) (f : Ring → Ring) : State := { s with rings := put s.rings r (f (ringOf s r)) }

/-- Slots of a ring (R431). -/
def ringSlots (R : Ring) : Nat := 2 ^ (R.log2size - R.log2slot) - 1

/-- Virtual address of the slot of a frame index (R431). -/
def ringSlotVA (R : Ring) (n : Nat) : Nat := R.rbase.toNat + 2 ^ R.log2slot * (1 + n % max 1 (ringSlots R))

/-- A little-endian value of ring memory, as the port unit reads it: the newest bytes; zero where it cannot be read. -/
def ringWord (s : State) (R : Ring) (va n : Nat) : Nat := natOfBytes ((agentRead s R.tenancy va n).getD [])

/-- An agent writes bytes, one write for each line that they lie in; bytes that it cannot reach stay as they are. -/
def agentWriteLines (s : State) (t : Nat) (msgs : List Msg) (va : Nat) (bs : List Byte) : Nat → State
  | 0 => s
  | fuel + 1 =>
    let n := min bs.length (128 - va % 128)
    if bs = [] then s
    else agentWriteLines ((agentWrite s t va (bs.take n) msgs).getD s) t msgs (va + n) (bs.drop n) fuel

/-- The port unit writes bytes of ring memory (R431, R72). Log 49 (DEDUCED). -/
def ringWrite (s : State) (R : Ring) (va : Nat) (bs : List Byte) (msgs : List Msg) : State :=
  agentWriteLines s R.tenancy msgs va bs (bs.length + 1)

/-- What the port unit of a die knows of its own writes and reads (R72). -/
def portView (s : State) (d : Nat) : View := (look s.portViews d).getD []

/-- Bytes of ring memory where they lie. -/
def ringPas (s : State) (R : Ring) (va n : Nat) : List Nat := (List.range n).filterMap (fun i => match access s R.tenancy (va + i) .write 0 with
  | .ok pa _ _ => some pa
  | _ => none)

/-- A write of the port unit of a die in a ring, which it then knows of. -/
def portWrite (s : State) (d : Nat) (R : Ring) (va : Nat) (bs : List Byte) (msgs : List Msg) : State :=
  let s1 := ringWrite s R va bs msgs
  { s1 with portViews := put s1.portViews d (wroteView (portView s1 d) (s1.stamp - 1) (ringPas s R va bs.length)) }

/-- The pop of ring r by strands of weave w (R433): the words 0 to 3, or `none` while it waits; in a replay pass other than the
last it returns STATUS 1 and claims nothing (R449). -/
def ringPop (s : State) (w : Nat) (m : Mask) (r : Nat) (nw : Bool) : Option (State × List Nat) :=
  match weaveOf s w with
  | none => none
  | some wv =>
    let R := ringOf s r
    if (innerPass s wv.ids.lot).isSome then some (passFlag s wv.ids.lot 2, [0, 0, 0, 2 ^ 24])
    else if R.enable = false ∨ R.tenancy ≠ wv.ids.tenancy then some (s, [0, 0, 0, 2 * 2 ^ 24])
    else
      let base := R.rbase.toNat
      let prod := ringWord s R base 8
      let claim := ringWord s R (base + 8) 8
      if prod ≤ claim then if nw then some (s, [0, 0, 0, 2 ^ 24]) else none
      else
        let skip := prod - ringSlots R - claim
        let n := claim + skip
        let va := ringSlotVA R n
        let v := joinView (agentAcquire s R.tenancy base 8 (agentOf wv) 3) (agentAcquire s R.tenancy va 16 (agentOf wv) 3)
        let s1 := portWrite s (r / 64) R (base + 8) (bytesOf 8 (n + 1)) []
        let s2 := acquireAction (modWeave s1 w (fun wv => learnView wv m v)) wv.shop 3
        some (s2, [n % 2 ^ 32, va % 2 ^ 32, va / 2 ^ 32, min skip 255 * 2 ^ 16 + ringWord s R (va + 8) 4 % 2 ^ 16])

end Sys2Proof.Machine
end

