-- ==== Sys2Proof/Machine/Ops.lean ====
section
/-!
DEFINITION. The shared operations of an issuing instruction: its context, registers (spec/05_encoding.md R118 to R123), queue
registers (spec/08_bench.md R170, R171), operations in flight (R166 to R169), splits and the join stack (R40 to R43, R177,
R178), taking a trap (R183 to R187) and going on to the next instruction or clause.
-/

namespace Sys2Proof.Machine

open Sys2Proof

/-! ### The issuing instruction -/

/-- What an issuing instruction sees of its place: weave, split, word, clause, and the strands for which its predicate is
true (R123). -/
structure Ctx where
  w    : Nat
  slot : Nat
  wv   : Weave
  sp   : Split
  word : DWord
  idx  : Nat
  pc   : DWord
  hdr  : DWord
  q    : Mask
  held : Option Held
  /-- queue entries popped by this instruction -/
  pops : Tab Entry := []
  deriving DecidableEq, Repr

/-- The strands in which a predicate register is true; p7 is true everywhere (R123). -/
def predMask (wv : Weave) (p : Nat) : Mask := if p = 7 then 0xFFFFFFFF else cell wv.pred p

/-- The strands that qualify for an instruction of a split (R123). -/
def qualify (wv : Weave) (m : Mask) (pn : BitVec 1) (pred : BitVec 3) : Mask :=
  let p := predMask wv pred.toNat
  m &&& (if pn = 1 then ~~~p else p)

/-- The context of the instruction that `s.issuer` issues: the held instruction of the split, or the next one of its
clause. -/
def ctxOf (s : State) (pn : BitVec 1) (pred : BitVec 3) : Option Ctx :=
  match s.issuer with
  | none => none
  | some (w, slot) =>
    match weaveOf s w with
    | none => none
    | some wv =>
      match look wv.splits slot with
      | none => none
      | some sp =>
        match sp.held with
        | some h =>
          some { w := w, slot := slot, wv := wv, sp := sp, word := h.word, idx := h.idx, pc := h.pc, hdr := h.hdr, q := h.q,
                 held := some h }
        | none =>
          match sp.run with
          | none => none
          | some r =>
            match r.words[r.idx]? with
            | none => none
            | some word =>
              some { w := w, slot := slot, wv := wv, sp := sp, word := word, idx := r.idx, pc := r.pc, hdr := r.hdr,
                     q := qualify wv sp.mask pn pred, held := none }

/-- COUNT of a clause header (R102). -/
def hdrCount (h : DWord) : Nat := (h.extractLsb' 56 4).toNat

/-- NEXT of R176: the header address after the clause. -/
def nextPC (pc hdr : DWord) : DWord := pc + BitVec.ofNat 64 (8 * (hdrCount hdr + 2))

/-- The instruction acts once for the weave, and its predicate is true in the lowest-numbered active strand (R123). -/
def Ctx.once (c : Ctx) : Bool :=
  match lowestStrand c.sp.mask with
  | some k => c.q.getLsbD k
  | none => false

/-- The lowest-numbered qualifying strand, or strand 0 if none qualifies. -/
def Ctx.low (c : Ctx) : Nat := (lowestStrand c.q).getD 0

/-! ### Reading registers -/

/-- The value that a read of a register word returns: that of the register, or what an operation in flight that has been
performed will write there (R168). Log 9 (DEDUCED). -/
def regNow (s : State) (w : Nat) (wv : Weave) (key : Nat) : Word :=
  let old := getWord wv key
  let alts := s.ops.filterMap (fun p =>
    if p.2.w = w && !(p.2.covered.contains key) then
      match p.2.bound with
      | some ws => look ws key
      | none => none
    else none)
  if alts = [] then old else (old :: alts).getD (choose s key (alts.length + 1)) old

/-- The special registers (R36). -/
def special (s : State) (wv : Weave) (n k : Nat) : Word :=
  match n with
  | 0 => BitVec.ofNat 32 k
  | 1 => BitVec.ofNat 32 wv.ids.wid
  | 2 => BitVec.ofNat 32 wv.ids.bid
  | 3 => BitVec.ofNat 32 wv.ids.gx
  | 4 => BitVec.ofNat 32 wv.ids.gy
  | 5 => BitVec.ofNat 32 wv.ids.gz
  | 6 => BitVec.ofNat 32 wv.ids.gid
  | 7 => BitVec.ofNat 32 wv.ids.stage
  | 8 => BitVec.ofNat 32 wv.ids.nweaves
  | 9 => BitVec.ofNat 32 wv.ids.gsize
  | 10 => BitVec.ofNat 32 wv.shop
  | 11 => BitVec.ofNat 32 (shopClk s wv.shop)
  | 12 => BitVec.ofNat 32 s.time
  | 13 => wv.gtimeh
  | 14 => BitVec.ofNat 32 wv.ids.tenancy
  | _ => wv.ids.lotid

/-- The word of a register field in a strand, other than a queue register, as it stands (R118); a temporary that the clause
has not written holds a free value (R121). -/
def liveWord (s : State) (w : Nat) (wv : Weave) (r k : Nat) : Word :=
  if r < 384 then regNow s w wv (vKey r k)
  else if r < 448 then regNow s w wv (sKey (r - 384))
  else if r < 464 then 0
  else if r < 480 then
    match look wv.treg (32 * (r - 464) + k) with
    | some x => x
    | none => freeWord s (tKey (r - 464) k)
  else if r < 496 then special s wv (r - 480) k
  else 0

/-- The key under which a held instruction keeps a source word. -/
def capKey (r k : Nat) : Nat :=
  if r < 384 then vKey r k else if r < 448 then sKey (r - 384) else if r < 480 then tKey (r - 464) k else 40000 + 32 * (r - 480) + k

/-- The word of a source field in a strand (R118, R120): a queue register gives the popped entry's word; a held instruction
keeps what it read when it first issued (log entry 9). -/
def srcWord (s : State) (c : Ctx) (r k : Nat) : Word :=
  if 448 ≤ r ∧ r < 464 then
    match look c.pops (r - 448) with
    | some e => e.words.getD k 0
    | none => 0
  else
    match c.held with
    | none => liveWord s c.w c.wv r k
    | some h =>
      match look h.srcs (capKey r k) with
      | some x => x
      | none => liveWord s c.w c.wv r k

/-- A source operand of n words as a number, least significant word first (R75, R119); z reads zero. -/
def srcN (s : State) (c : Ctx) (r k : Nat) : Nat → Nat
  | 0 => 0
  | n + 1 => if r = 511 then 0 else (srcWord s c r k).toNat + 2 ^ 32 * srcN s c (r + 1) k n

/-! ### Writing registers -/

/-- Note that the weave writes register words: operations in flight that will write them may lose to this write (R168). -/
def noteOver (s : State) (w : Nat) (keys : List Nat) : State :=
  if s.ops = [] then s
  else { s with ops := s.ops.map (fun p =>
    if p.2.w = w then (p.1, { p.2 with covered := p.2.covered ++ keys.filter (fun k => p.2.dests.contains k) }) else p) }

/-- The keys of the words that an n-word destination field occupies in the strands of a mask (R119). -/
def dstKeys (r n : Nat) (q : Mask) : List Nat :=
  if r < 384 then (strandsOf q).flatMap (fun k => (List.range n).map (fun j => vKey (r + j) k))
  else if r < 448 then
    match lowestStrand q with
    | some _ => (List.range n).map (fun j => sKey (r - 384 + j))
    | none => []
  else if r < 464 then []
  else if r < 480 then (strandsOf q).flatMap (fun k => (List.range n).map (fun j => tKey (r - 464 + j) k))
  else []

/-- The words that a destination field receives, given each strand's result as a number (R119): each qualifying strand's in
a vector register, the lowest strand's in a scalar register. -/
def dstWords (r n : Nat) (q : Mask) (f : Nat → Nat) : Tab Word :=
  if r < 384 then
    (strandsOf q).flatMap (fun k => (List.range n).map (fun j => (vKey (r + j) k, BitVec.ofNat 32 (f k / 2 ^ (32 * j)))))
  else if r < 448 then
    match lowestStrand q with
    | some k => (List.range n).map (fun j => (sKey (r - 384 + j), BitVec.ofNat 32 (f k / 2 ^ (32 * j))))
    | none => []
  else if r < 464 then []
  else if r < 480 then
    (strandsOf q).flatMap (fun k => (List.range n).map (fun j => (tKey (r - 464 + j) k, BitVec.ofNat 32 (f k / 2 ^ (32 * j)))))
  else []

/-- Write words into a weave's registers. -/
def writeWords (s : State) (w : Nat) (ws : Tab Word) : State :=
  modWeave (noteOver s w (ws.map (fun p => p.1))) w (fun wv =>
    let wv1 := putWords (noteLoom wv (ws.map (fun p => p.1))) ws
    if wv1.dead = [] then wv1 else { wv1 with dead := wv1.dead.filter (fun k => !((ws.map (fun p => p.1)).contains k)) })

/-! ### Operations in flight and queues -/

/-- The flags that an operation of a clause counts in: SETA and SETB where they name flags, the untracked count where
neither does (R167, R169). Log 26 (DEDUCED). -/
def clauseFlags (hdr : DWord) : List Nat :=
  let fs := [(hdr.extractLsb' 40 4).toNat, (hdr.extractLsb' 36 4).toNat].eraseDups.filter (fun f => decide (f < 12))
  if fs = [] then [12] else fs

/-- Count an operation on a flag (R167). Log 26 (DEDUCED). -/
def raiseFlag (t : Tab Nat) (f : Nat) : Tab Nat := put t f ((look t f).getD 0 + 1)

/-- Start a long-latency operation (R166, R167): an instruction with no qualifying strand changes no count. Log 68 (DESIGN CHOICE). -/
def newOp (s : State) (c : Ctx) (kind : OpKind) (dests : List Nat) (ann scope : Nat) : State :=
  let fl := if c.q = 0 then [] else clauseFlags c.hdr
  let o : Op := { w := c.w, slot := c.slot, mask := c.sp.mask, q := c.q, flags := fl, kind := kind, ann := ann, scope := scope,
                  pc := c.pc, idx := c.idx, word := c.word, dests := dests, view := viewOf c.wv c.sp.mask }
  modWeave { s with ops := put s.ops s.nextOp o, nextOp := s.nextOp + 1 } c.w
    (fun wv => { wv with flags := fl.foldl raiseFlag wv.flags })

/-- Entries that a queue register's view holds (R170). -/
def queueDepth (n : Nat) : Nat := if n = 9 ∨ n = 11 then 2 else if n % 2 = 0 then 4 else 8

/-- The entries of a queue view. Views of q9 are two: the replies stand under key 25. -/
def viewEntries (wv : Weave) (n : Nat) : List Entry := (look wv.queues n).getD []

/-- The view that a pop of a queue reads: q9's replies stand apart from its commands (R170). -/
def popView (n : Nat) : Nat := if n = 9 then 25 else n

/-- The gang of a weave is being collected: held pushes are accepted whatever the view holds (R160). Log 42 (DEDUCED). -/
def collecting (s : State) (wv : Weave) : Bool :=
  match look s.gangs wv.ids.gang with
  | some g => g.collecting
  | none => false

/-- A push finds room (R170, R160). Log 32 (DEDUCED). -/
def pushRoom (s : State) (wv : Weave) (n : Nat) : Bool :=
  decide ((viewEntries wv n).length < queueDepth n) || collecting s wv

/-- Push an entry, as an operation that the engine completes (R166, R170). The push of a command clears the guard count
(R51). Log 32 (DEDUCED). -/
def pushEntry (s : State) (c : Ctx) (n : Nat) (dests : List Nat) (e : Entry) : State :=
  let op := s.nextOp
  modWeave (newOp s c .engine dests 0 e.scope) c.w (fun wv =>
    { wv with guard := 0, queues := put wv.queues n (viewEntries wv n ++ [{ e with op := op }]) })

/-- The 32 words of an entry made from a result: strands that do not qualify give free values (R120). -/
def entryWords (s : State) (q : Mask) (f : Nat → Nat) : List Word :=
  allStrands.map (fun k => if q.getLsbD k then BitVec.ofNat 32 (f k) else freeWord s (50000 + k))

/-- Deliver an n-word result to the destination field (R118 to R120): registers, or one entry of a queue. Log 32 (DEDUCED). -/
def writeDst (s : State) (c : Ctx) (r n : Nat) (f : Nat → Nat) : State :=
  if 448 ≤ r ∧ r < 464 then
    pushEntry s c (r - 448) [] { words := entryWords s c.q f, opc := 0, q := c.q, view := viewOf c.wv c.sp.mask,
                                 cmask := if r = 457 then 1 else 0 }
  else writeWords s c.w (dstWords r n c.q f)

/-- A pop of q9 gives its view room: the oldest reply that was held beyond it enters, and its command completes (R170). -/
def freeHeld (s : State) (w n : Nat) : State :=
  if n ≠ 9 then s
  else
    match weaveOf s w with
    | none => s
    | some wv =>
      let es := viewEntries wv 25
      match (es.take (queueDepth 9)).find? (fun e => decide (e.opc = 1)) with
      | none => s
      | some e =>
        completeOp (setWeave s w { wv with queues := put wv.queues 25 (es.map (fun x =>
          if x.op = e.op then { x with opc := 0 } else x)) }) e.op true

/-- Pop one entry of each queue named in the source fields (R120); `none` while one of them is empty. Log 32 (DEDUCED). -/
def popAll (s : State) (c : Ctx) : List Nat → Option (State × Ctx)
  | [] => some (s, c)
  | n :: ns =>
    if (look c.pops n).isSome then popAll s c ns
    else if n = 10 then
      let rb := c.wv.ringbind
      let res := if rb.getLsbD 8 then ringPop s c.w c.q (rb.extractLsb' 0 8).toNat false else some (s, [0, 0, 0, 2 * 2 ^ 24])
      match res with
      | none => none
      | some (s1, ws) =>
        popAll s1 { c with pops := put c.pops 10 { words := ws.map (BitVec.ofNat 32) } } ns
    else
      match weaveOf s c.w with
      | none => none
      | some wv =>
        match viewEntries wv (popView n) with
        | [] => none
        | e :: es =>
          let wv1 := { wv with queues := if es = [] then del wv.queues (popView n) else put wv.queues (popView n) es }
          let s1 := observe (setWeave s c.w wv1) c.w c.q e.msg.toList
          popAll (freeHeld s1 c.w n) { c with pops := put c.pops n e } ns

/-! ### Splits and the join stack -/

/-- Items of the join stack that the bench holds; the deeper ones stand in the spill arena (R41, R178). -/
def benchItems : Nat := 16

/-- After the stack has changed, the bench holds no more than its sixteen items (R178). -/
def Weave.fitStack (wv : Weave) : Weave := { wv with jspill := max (min wv.jspill wv.stack.length) (wv.stack.length - benchItems) }

/-- Items that two stacks have in common at their bottom ends, given top first reversed. -/
def commonItems : List JoinItem → List JoinItem → Nat
  | x :: xs, y :: ys => if x = y then commonItems xs ys + 1 else 0
  | _, _ => 0

/-- How many items from the top of a stack a change of it reads or takes away. -/
def itemsUsed (before after : List JoinItem) : Nat := before.length - commonItems before.reverse after.reverse

/-- The lowest-numbered empty slot of the split table (R40). -/
def freeSlot (wv : Weave) : Option Nat := (List.range 4).find? (fun n => (look wv.splits n).isNone)

/-- Put a split into the lowest-numbered empty slot, or push it as a pending split (R40, R41). -/
def placeSplit (wv : Weave) (pc : DWord) (m : Mask) (handler needP : Bool) : Weave :=
  match freeSlot wv with
  | some n => { wv with splits := put wv.splits n { pc := pc, mask := m, handler := handler, needP := needP } }
  | none => { wv with stack := .pending pc m handler needP :: wv.stack }

/-- The pending split nearest the top of the stack, and the stack without it (R41). -/
def takePending : List JoinItem → Option ((DWord × Mask × Bool × Bool) × List JoinItem)
  | [] => none
  | .pending pc m h p :: r => some ((pc, m, h, p), r)
  | .entry pc a b h :: r =>
    match takePending r with
    | some (x, r1) => some (x, .entry pc a b h :: r1)
    | none => none

/-- Empty a slot and give it to the pending split nearest the top (R41). -/
def freeSplit (wv : Weave) (slot : Nat) : Weave :=
  match takePending wv.stack with
  | some ((pc, m, h, p), r) =>
    { wv with splits := put wv.splits slot { pc := pc, mask := m, handler := h, needP := p }, stack := r }
  | none => { wv with splits := del wv.splits slot }

/-- The paths of a mask come together: their accesses precede the weave's later ones (R43, R56), so what one strand knows
all know. -/
def reconverge (s : State) (w : Nat) (m : Mask) : State :=
  match weaveOf s w with
  | none => s
  | some wv =>
    let v := viewOf wv m
    let rel := fencesOf wv m
    let seen := (strandsOf m).flatMap (fun k => (syncOf wv k).seen)
    let s1 := if v = [] ∧ rel = [] ∧ seen = [] then s
      else setWeave s w (learn wv m (fun _ => { view := v, rel := rel.eraseDups, seen := seen.eraseDups }))
    { s1 with ops := s1.ops.map (fun p =>
        if p.2.w = w && decide (p.2.mask &&& m ≠ 0) then (p.1, { p.2 with mask := p.2.mask ||| m }) else p) }

/-- The top join entry of the stack with what stands above it and below it. -/
def topEntry : List JoinItem → Option (List JoinItem × (DWord × Mask × Mask × Bool) × List JoinItem)
  | [] => none
  | .entry pc a b h :: r => some ([], (pc, a, b, h), r)
  | .pending pc m h p :: r =>
    match topEntry r with
    | some (up, e, dn) => some (.pending pc m h p :: up, e, dn)
    | none => none

/-- Pop complete join entries, from the top (R41, R42): a nonzero arrived mask resumes at the rejoin address, and that
clause must be a P clause (R107). Where no slot is empty (the slot freed at the pop's cause went to a pending split), the resumed split
becomes a pending split itself, as R40 has it for a divided one: the spec names only "the lowest-numbered empty slot" (R41). Log 28
(DEDUCED), 72 (DESIGN CHOICE). -/
def popEntries (fuel : Nat) (s : State) (w : Nat) : State :=
  match fuel with
  | 0 => s
  | n + 1 =>
    match weaveOf s w with
    | none => s
    | some wv =>
      match topEntry wv.stack with
      | none => s
      | some (up, (pc, mark, arrived, h), dn) =>
        if mark = arrived then
          let wv1 := { wv with stack := up ++ dn }
          let s1 := countW s wv 8 1
          let s2 := if arrived = 0 then setWeave s1 w wv1
            else reconverge (setWeave s1 w (placeSplit wv1 pc arrived h true)) w arrived
          popEntries n s2 w
        else s

/-- Pop every complete entry of a weave. Log 28 (DEDUCED). -/
def settleJoins (s : State) (w : Nat) : State :=
  match weaveOf s w with
  | some wv => popEntries (wv.stack.length + 1) s w
  | none => s

/-- Change a split of a weave. -/
def modSplit (s : State) (w slot : Nat) (f : Split → Split) : State :=
  modWeave s w (fun wv => { wv with splits := edit wv.splits slot f })

/-- A split is ready: it runs no clause, holds no instruction and awaits no trap (R40). -/
def splitReady (sp : Split) : Bool := sp.run.isNone && sp.held.isNone && sp.late.isNone

/-- Fuse the split of a slot with ready splits at its PC (R43). -/
def fuse (fuel : Nat) (s : State) (w slot : Nat) : State :=
  match fuel with
  | 0 => s
  | n + 1 =>
    match weaveOf s w with
    | none => s
    | some wv =>
      match look wv.splits slot with
      | none => s
      | some sp =>
        match wv.splits.find? (fun x => decide (x.1 ≠ slot) && decide (x.2.pc = sp.pc) && (x.2.handler == sp.handler) &&
            splitReady x.2 && splitReady sp) with
        | none => s
        | some (o, so) =>
          let lo := min slot o
          let hi := max slot o
          let merged := { sp with mask := sp.mask ||| so.mask, needP := sp.needP || so.needP,
                                  noBreak := if sp.noBreak = so.noBreak then sp.noBreak else none }
          let wv1 := freeSplit { wv with splits := put wv.splits lo merged } hi
          fuse n (reconverge (countW (setWeave s w wv1) wv 8 1) w merged.mask) w lo

/-- Drop the temporaries of a mask's strands (R121). -/
def dropTemps (wv : Weave) (m : Mask) : Weave :=
  if wv.treg = [] then wv else { wv with treg := wv.treg.filter (fun p => !(m.getLsbD (p.1 % 32))) }

/-- The split ends its clause and stands at the boundary before `pc`; `needP`: the clause there must be a P clause (R107).
Splits at one PC fuse (R43). Log 42 (DEDUCED). -/
def boundary (s : State) (w slot : Nat) (pc : DWord) (needP : Bool) : State :=
  match weaveOf s w with
  | none => s
  | some wv =>
    match look wv.splits slot with
    | none => s
    | some sp =>
      let sp1 := { sp with pc := pc, run := none, held := none, needP := needP, stay := none, readyAt := 0 }
      fuse 4 (setWeave s w (dropTemps { wv with splits := put wv.splits slot sp1 } sp.mask)) w slot

/-! ### Taking a trap -/

/-- The disposition of a trap class (R140): 0 HALT, 1 HANDLER, 2 IGNORE. -/
def dispOf (h : Hdr) (cls : Nat) : Nat := (h.trapDisp.extractLsb' (2 * cls) 2).toNat

/-- The 64 bytes of a trap record (R185). Log 30 (DESIGN CHOICE). -/
def trapRecord (s : State) (wv : Weave) (slot : Nat) (m : Mask) (x : TrapAt) (t : Trap) (flags : Nat) : List Byte :=
  [BitVec.ofNat 8 t.cls, BitVec.ofNat 8 t.cause, BitVec.ofNat 8 slot, BitVec.ofNat 8 x.idx] ++ bytesOf 4 t.lanes.toNat ++
    bytesOf 8 x.pc.toNat ++ bytesOf 8 x.nextpc.toNat ++ bytesOf 8 x.word.toNat ++ bytesOf 8 t.addr ++ bytesOf 8 t.info ++
    bytesOf 4 m.toNat ++ [BitVec.ofNat 8 wv.ids.wid, BitVec.ofNat 8 wv.ids.bid, BitVec.ofNat 8 wv.ids.stage,
      BitVec.ofNat 8 flags] ++ bytesOf 8 s.time

/-- PC of a role's entry clause (R139). -/
def entryPC (h : Hdr) : DWord := h.addr + 64

/-- Plies that hold strands of a mask (R44). -/
def pliesOf (m : Mask) : List Nat := (List.range 8).filter (fun p => decide (m.extractLsb' (4 * p) 4 ≠ 0))

/-- COISSUE of a trap record (R185, R108), as a value of FLAGS: a paired split retired in the trap cycle. It is free where another split
of the weave holds other plies, and 0 where none does. Log 30 (DESIGN CHOICE). -/
def coIssue (s : State) (wv : Weave) (slot : Nat) (m : Mask) : Nat :=
  if wv.splits.any (fun y => decide (y.1 ≠ slot) && (pliesOf m).all (fun p => !((pliesOf y.2.mask).contains p))) then 4 * choose s 64700 2 else 0

/-- Deliver a trap to a split (R183 to R187): halt the lot, or write the record into the trap block and enter the handler;
while a sibling is in handler mode the trap waits. -/
def deliver (s : State) (w slot : Nat) (x : TrapAt) (t : Trap) : State :=
  match weaveOf s w with
  | none => s
  | some wv =>
    match look wv.splits slot with
    | none => s
    | some sp =>
      let disp := dispOf wv.hdr t.cls
      let fb := (if x.held then 1 else 0) + coIssue s wv slot sp.mask
      if sp.handler = false ∧ disp = 1 ∧ wv.splits.any (fun y => decide (y.1 ≠ slot) && y.2.handler) then
        let sp1 := { sp with run := none, held := none, late := some (t, x), stay := none, readyAt := 0 }
        setWeave s w (dropTemps { wv with splits := put wv.splits slot sp1 } sp.mask)
      else
        let s1 := trace s wv.ids.tenancy wv.shop 5 wv.ids.wid slot x.pc sp.mask wv.ids.lotid (t.cls * 256 + t.cause)
        if sp.handler = true ∨ disp ≠ 1 then
          let fl := fb + (if sp.handler then 2 else 0)
          let recd := trapRecord s wv slot sp.mask x t fl
          let b := match basketOf s wv with | some B => B.linear | none => 0
          haltReport s1 wv.ids.lot (0x0100 + t.cls) b (recd.take 16 ++ bytesOf 8 t.addr) (BitVec.ofNat 32 fl)
        else
          let s3 := pokeBytes s1 ((List.range 64).map (trapPA w)) (trapRecord s wv slot sp.mask x t fb)
          let pc := entryPC wv.hdr + 8 * wv.hdr.handler.signExtend 64
          let sp1 : Split := { pc := pc, mask := sp.mask, handler := true, needP := true, noBreak := some x.pc }
          modWeave s3 w (fun wv => dropTemps { wv with splits := put wv.splits slot sp1 } sp.mask)

/-- Handler mode of the weave has ended: a sibling's waiting trap is delivered, the lowest slot first (R184). -/
def deliverLate (s : State) (w : Nat) : State :=
  match weaveOf s w with
  | none => s
  | some wv =>
    if wv.splits.any (fun y => y.2.handler) then s
    else
      match wv.splits.find? (fun y => y.2.late.isSome) with
      | none => s
      | some (slot, sp) =>
        match sp.late with
        | none => s
        | some (t, x) => deliver (modSplit s w slot (fun sp => { sp with late := none })) w slot x t

/-- Where the issuing instruction's trap arises (R185). Log 22 (DESIGN CHOICE). -/
def Ctx.trapAt (c : Ctx) : TrapAt :=
  { idx := c.idx, pc := c.pc, nextpc := nextPC c.pc c.hdr, word := c.word,
    held := match c.held with | some h => h.restored | none => false }

/-- Raise the issuing instruction's trap. -/
def raise (s : State) (c : Ctx) (t : Trap) : State := deliver s c.w c.slot c.trapAt t

/-! ### Going on -/

/-- How an instruction ends. -/
inductive Effect where
  /-- it completed -/
  | done (s : State)
  /-- it traps, with no effect (R183) -/
  | trap (t : Trap)
  /-- it completed, and an arithmetic trap follows (R93) -/
  | doneTrap (s : State) (t : Trap)
  /-- it waits (R106) -/
  | hold (s : State) (stall : Stall) (wait : Wait) (extra : Tab Word := [])
  /-- it completed and transfers to a clause; `needP`: R107 asks P of it for another reason than a backward target -/
  | goto (s : State) (pc : DWord) (needP : Bool)
  /-- it completed and its slot is no longer its split's -/
  | gone (s : State)
  /-- it has not issued, for the reason that a sample shows of it: it is tried again (R189, R275, R230, R402) -/
  | stay (s : State) (why : Option Stall := none)
  deriving DecidableEq, Repr

/-- The words that a held instruction keeps of the register fields it reads. Log 9 (DEDUCED). -/
def capture (s : State) (c : Ctx) (regs : List (Nat × Nat)) : Tab Word :=
  regs.foldl (fun t rn =>
    if rn.1 = 511 ∨ (448 ≤ rn.1 ∧ rn.1 < 464) then t
    else (List.range rn.2).foldl (fun t j =>
      allStrands.foldl (fun t k => put t (capKey (rn.1 + j) k) (liveWord s c.w c.wv (rn.1 + j) k)) t) t) []

/-- Hold the instruction: the split parks at the boundary after the clause (R106). -/
def holdAt (s : State) (c : Ctx) (regs dests : List (Nat × Nat)) (stall : Stall) (wait : Wait) (extra : Tab Word) : State :=
  match c.held with
  | some h => modSplit s c.w c.slot (fun sp => { sp with held := some { h with wait := wait, stall := stall }, stay := none })
  | none =>
    let h : Held := { word := c.word, idx := c.idx, pc := c.pc, hdr := c.hdr, srcs := capture s c regs ++ extra, dests := dests, q := c.q,
                      wait := wait, stall := stall, since := s.steps }
    modWeave (modSplit s c.w c.slot (fun sp => { sp with pc := nextPC c.pc c.hdr, run := none, held := some h, stay := none, readyAt := 0 })) c.w
      (fun wv => dropTemps wv c.sp.mask)

/-- The instruction completed: the next of the clause, or the boundary after it. A clause that ended with a waiting
instruction is followed by a P clause (R107). -/
def advance (s : State) (c : Ctx) (waits : Bool) : State :=
  if c.held.isNone && decide (c.idx < hdrCount c.hdr) then
    modSplit s c.w c.slot (fun sp => { sp with run := sp.run.map (fun r => { r with idx := c.idx + 1 }), stay := none })
  else boundary s c.w c.slot (nextPC c.pc c.hdr) waits

/-- Take a control transfer (R107, R176). -/
def transfer (s : State) (c : Ctx) (pc : DWord) (needP : Bool) : State :=
  boundary s c.w c.slot pc (needP || decide (pc.toNat ≤ c.pc.toNat))

/-- Let an instruction's effect come about. -/
def finish (s0 : State) (c : Ctx) (regs dests : List (Nat × Nat)) (waits : Bool) (e : Effect) : State :=
  match e with
  | .done s => advance s c waits
  | .trap t => raise s0 c t
  | .doneTrap s t => raise s c t
  | .hold s st w x => holdAt s c regs dests st w x
  | .goto s pc p => deliverLate (transfer s c pc p) c.w
  | .gone s => retireCheck (deliverLate s c.w) c.w
  | .stay s why => modSplit s c.w c.slot (fun sp => { sp with stay := why })

/-! ### Renamed mode (R173) -/

/-- The vector registers that fields name, each with its width. -/
def vregsOf (regs : List (Nat × Nat)) : List Nat :=
  (regs.flatMap (fun p => if p.1 < 384 then (List.range p.2).map (fun j => p.1 + j) else [])).eraseDups

/-- Weave-registers that a header reserves for each weave (R157). -/
def reserveOf (h : Hdr) : Nat := if h.renamed then min h.vregs 32 else h.vregs

/-- Physical weave-registers in a shop's free pool (R157): what no reserve and no mapping beyond one takes. -/
def poolRegs (s : State) (shop : Nat) : Nat :=
  8192 - (shopOf s shop).regsUsed -
    (s.weaves.foldl (fun a p => if p.2.shop = shop ∧ p.2.hdr.renamed = true then a + (p.2.mapped.length - reserveOf p.2.hdr) else a) 0)

/-- Vector registers that an unfinished Loom operation of the weave names: they stay mapped (note c of R31). -/
def loomHolds (wv : Weave) : List Nat := wv.loomCmds.flatMap (fun x => x.vregs)

/-- A vector register of a weave in renamed mode is accessed, or mapped: from the reserve, from the free pool, or by spilling the
register accessed least recently, but none of `keep` and none that a Loom operation holds; `none`: every one is held. Log 73
(DEDUCED). -/
def mapReg (s : State) (w : Nat) (keep : List Nat) (r : Nat) : Option State :=
  match weaveOf s w with
  | none => none
  | some wv =>
    let placed (m sp : List Nat) : State := setWeave s w { wv with mapped := m ++ [r], spilled := sp.filter (fun x => decide (x ≠ r)) }
    if wv.mapped.contains r then some (placed (wv.mapped.filter (fun x => decide (x ≠ r))) wv.spilled)
    else if wv.mapped.length < reserveOf wv.hdr ∨ 0 < poolRegs s wv.shop then some (placed wv.mapped wv.spilled)
    else
      match wv.mapped.find? (fun x => !(keep.contains x) && !((loomHolds wv).contains x)) with
      | none => none
      | some v => some (placed (wv.mapped.filter (fun x => decide (x ≠ v))) (v :: wv.spilled))

/-- Map or access registers, in order. -/
def mapRegs (s : State) (w : Nat) (keep : List Nat) : List Nat → Option State
  | [] => some s
  | r :: rs =>
    match mapReg s w keep r with
    | none => none
    | some s1 => mapRegs s1 w keep rs

/-- How an instruction of a weave in renamed mode finds its registers (R173): it goes on, or it waits for a refill. -/
inductive Renaming where
  | go (s : State) | refill (s : State)
  deriving DecidableEq, Repr

/-- Map the registers that an instruction reads and writes (R173): a source in the spill arena parks the split until it is mapped again;
a source never written stays unmapped; each destination is mapped. Log 73 (DEDUCED). -/
def renameRegs (s : State) (c : Ctx) (srcs dsts : List Nat) : Renaming :=
  if c.wv.hdr.renamed = false then .go s
  else
    let keep := srcs ++ dsts
    let away := srcs.filter (fun r => c.wv.spilled.contains r)
    if away ≠ [] then .refill ((mapRegs s c.w keep away).getD s)
    else
      match mapRegs s c.w keep (srcs.filter (fun r => c.wv.mapped.contains r) ++ dsts) with
      | some s1 => .go s1
      | none => .refill s

/-- Registers of a weave in renamed mode return to the pool and their spilled copies are dropped (R174). -/
def unmapRegs (wv : Weave) (rs : List Nat) : Weave :=
  { wv with mapped := wv.mapped.filter (fun r => !(rs.contains r)), spilled := wv.spilled.filter (fun r => !(rs.contains r)) }

/-- Count an instruction at its first issue (R443: INSTR, STRANDS, the class of its opcode). -/
def counted (s : State) (c : Ctx) : State :=
  match c.held with
  | some _ => s
  | none =>
    let opc := (c.word.extractLsb' 56 8).toNat
    let cls := if opc < 0x30 then 0 else if opc < 0x80 then 1 else if opc < 0xA0 then 2 else if opc < 0xB8 then 3
      else if opc < 0xC8 then 4 else if opc < 0xD4 then 5 else if opc < 0xF0 then 6 else 7
    countW (countW (countW s c.wv 3 1) c.wv 4 (strandsOf c.q).length) c.wv (9 + cls) 1

/-- A read of gtime latches the upper half of global time into gtimeh (R36, R37). -/
def latch (s : State) (c : Ctx) (regs : List (Nat × Nat)) : State :=
  if c.held.isNone && regs.any (fun p => decide (p.1 = 492)) then
    modWeave s c.w (fun wv => { wv with gtimeh := BitVec.ofNat 32 (s.time / 2 ^ 32) })
  else s

end Sys2Proof.Machine
end

