-- ==== Sys2Proof/Machine/Operands.lean ====
section
/-!
DEFINITION. The checks that belong to one instruction, in the order of spec/05_encoding.md R126 and R127, and the frame in
which every instruction word issues: checks, pops, the instruction's own effect, and what follows it.
-/

namespace Sys2Proof.Machine

open Sys2Proof

/-- Register classes a field may name, as bits: 1 vector, 2 scalar, 4 queue, 8 temporary, 16 special, 32 z. -/
def classBit (r : Nat) : Nat :=
  if r < 384 then 1 else if r < 448 then 2 else if r < 464 then 4 else if r < 480 then 8 else if r < 496 then 16
  else if r = 511 then 32 else 0

/-- One register field of an instruction: its value, whether it is a destination, the classes it may name, the words it
occupies, the cause of a class it may not name, whether an engine uses it after the instruction retires, whether the
operand is a range of registers that need no alignment, whether it is the descriptor of an engine command, and whether the instruction
only names the registers. Log 10 (DEDUCED). -/
structure Opnd where
  reg   : Nat
  dst   : Bool := false
  cls   : Nat
  wide  : Nat := 1
  cause : Nat := 2
  eng   : Bool := false
  range : Bool := false
  desc  : Bool := false
  names : Bool := false
  deriving DecidableEq, Repr

/-- What R126 asks about an instruction: its register fields, and whether its modifier, MEM and ENG fields are well formed;
whether it is a waiting instruction (R106), and whether it needs a privileged lot (R117). -/
structure Form where
  ops      : List Opnd
  modOk    : Bool := true
  modCause : Nat := 3
  memOk    : Bool := true
  engOk    : Bool := true
  waits    : Bool := false
  priv     : Bool := false
  deriving DecidableEq, Repr

/-- A field the instruction does not use: 511 (R109). -/
def unused (r : BitVec 9) (cause : Nat := 2) : Opnd := { reg := r.toNat, cls := 32, cause := cause }

/-- Source of any class (R118). -/
def src (r : BitVec 9) (wide : Nat := 1) : Opnd := { reg := r.toNat, cls := 63, wide := wide }

/-- Destination of any class but the special registers (R118). -/
def dst (r : BitVec 9) (wide : Nat := 1) : Opnd := { reg := r.toNat, dst := true, cls := 47, wide := wide }

/-- Source of the classes given. -/
def srcIn (cls : Nat) (r : BitVec 9) (wide : Nat := 1) (cause : Nat := 2) : Opnd :=
  { reg := r.toNat, cls := cls, wide := wide, cause := cause }

/-- Destination of the classes given. -/
def dstIn (cls : Nat) (r : BitVec 9) (wide : Nat := 1) (cause : Nat := 2) : Opnd :=
  { reg := r.toNat, dst := true, cls := cls, wide := wide, cause := cause }

/-- The lowest-numbered value of a field's file, its number in that file. Log 25 (DEDUCED). -/
def regIndex (r : Nat) : Nat := if r < 384 then r else if r < 448 then r - 384 else if r < 480 then r - 464 else 0

/-- A register class, other than a queue, that the field may not name; a reserved value; an unused field not 511 (R126 row
6). Log 25 (DEDUCED). -/
def badClass (o : Opnd) : Bool :=
  let b := classBit o.reg
  (decide (b ≠ 4) || decide (o.cls = 32)) && decide (o.cls &&& b = 0)

/-- A misplaced wide operand, or a special register or z as one (R75, R119); a queue register at a number that no wide operand starts at,
in a field that allows queues. Log 10 (DEDUCED), 25 (DEDUCED). -/
def badWide (o : Opnd) : Bool :=
  decide (1 < o.wide) && !o.range &&
    (if classBit o.reg = 4 then decide (o.cls &&& 4 ≠ 0 ∧ (o.reg - 448) % o.wide ≠ 0)
     else
      decide (classBit o.reg = 16) || (decide (classBit o.reg = 32) && !o.dst) ||
        (decide (o.reg < 480) && decide (regIndex o.reg % o.wide ≠ 0)))

/-- A register at or above the header's count for its file, over every register of the operand (R122). Log 25 (DEDUCED). -/
def beyondFile (h : Hdr) (reg wide : Nat) : Bool :=
  let last := regIndex reg + wide
  match classBit reg with
  | 1 => decide (h.vregs < last)
  | 2 => decide (h.sregs < last)
  | 8 => decide (h.tregs < last)
  | _ => false

/-- An operand reaches beyond the header's counts (R122); each register of a descriptor is held to the count of the file that its own
number names. Log 25 (DEDUCED). -/
def beyond (h : Hdr) (o : Opnd) : Bool :=
  if o.desc then (List.range o.wide).any (fun i => beyondFile h (o.reg + i) 1) else beyondFile h o.reg o.wide

/-- A descriptor that lies outside one register file (R126). -/
def outsideFile (o : Opnd) : Bool := o.desc && decide (classBit o.reg ≠ classBit (o.reg + o.wide - 1))

/-- A queue register in the wrong direction, q12 to q15, or in a field that allows none; a queue register named as a wide
operand, whose second register then is one in the wrong direction (R18; log entry 10). The cause is 9, or the one that the instruction's
statement gives for any other value. -/
def badQueue (o : Opnd) : Bool :=
  decide (classBit o.reg = 4) &&
    (decide (o.cls &&& 4 = 0) || decide (1 < o.wide) ||
      (if o.dst then !([0, 2, 4, 6, 8, 9, 11].contains (o.reg - 448)) else !([1, 3, 5, 7, 9, 10].contains (o.reg - 448))))

/-- The illegal-instruction trap with a cause. Log 10 (DEDUCED), 25 (DEDUCED). -/
def illegal (c : Ctx) (cause : Nat) : Trap := { cls := 0, cause := cause, lanes := c.sp.mask }

/-- The first condition of R126 that applies to an issuing instruction (R127). Log 21 (DEDUCED), 25 (DEDUCED). -/
def formTrap (c : Ctx) (f : Form) : Option Trap :=
  match f.ops.find? badClass with
  | some o => some (illegal c o.cause)
  | none =>
    if !f.modOk then some (illegal c f.modCause)
    else if f.ops.any badWide then some (illegal c 4)
    else if f.ops.any (beyond c.wv.hdr) then some (illegal c 5)
    else if f.ops.any (fun o => o.eng && decide (classBit o.reg = 8)) then some (illegal c 6)
    else if !f.memOk then some (illegal c 7)
    else if !f.engOk || f.ops.any outsideFile then some (illegal c 8)
    else if f.ops.any badQueue then
      some (illegal c (match f.ops.find? badQueue with | some o => if o.cause = 2 then 9 else o.cause | none => 9))
    else if !c.wv.ids.priv && (f.priv || f.ops.any (fun o => decide (o.reg = 457))) then
      some { cls := 4, cause := 4, lanes := c.sp.mask }
    else none

/-- The source fields of a form, with their widths. -/
def Form.sources (f : Form) : List (Nat × Nat) := (f.ops.filter (fun o => !o.dst)).map (fun o => (o.reg, o.wide))

/-- The fields of a form that are read, and those that are written, with their widths. -/
def Form.reads (f : Form) : List (Nat × Nat) := (f.ops.filter (fun o => !o.dst && !o.names)).map (fun o => (o.reg, o.wide))

/-- The destination fields of a form, with their widths. -/
def Form.writes (f : Form) : List (Nat × Nat) := (f.ops.filter (fun o => o.dst)).map (fun o => (o.reg, o.wide))

/-- The queues that a form's source fields name (R120). -/
def Form.pops (f : Form) : List Nat :=
  (f.ops.filter (fun o => !o.dst && decide (classBit o.reg = 4))).map (fun o => o.reg - 448)

/-- The queue that a form's destination field names. -/
def Form.push (f : Form) : Option Nat := (f.ops.find? (fun o => o.dst && decide (classBit o.reg = 4))).map (fun o => o.reg - 448)

/-- The form is a waiting instruction (R106): of its own, or because it reads a queue register. -/
def Form.waiting (f : Form) : Bool := f.waits || !f.pops.isEmpty

/-- The queue that the form's destination field names has no room (R106, R170). Log 32 (DEDUCED). -/
def pushFull (s : State) (wv : Weave) (f : Form) : Bool :=
  match f.push with
  | some n => !(pushRoom s wv n)
  | none => false

/-- Another split's OFENCE holds the weave's issue (R402). -/
def Ctx.fenced (c : Ctx) : Bool := c.wv.ofence.any (fun n => decide (n ≠ c.slot))

/-- Issue an instruction word: its checks (R126, R127), its registers (R173), its pops and the room for its push (R120, R106), its
effect. -/
def issueRow (s : State) (pn : BitVec 1) (pred : BitVec 3) (form : Form) (body : State → Ctx → Effect) :
    Host.Outcome State Fault Refusal :=
  match ctxOf s pn pred with
  | none => .fault .noIssuer
  | some c =>
    if c.fenced then .next s
    else
    match formTrap c form with
    | some t => .next (counted (raise s c t) c)
    | none =>
      match renameRegs s c (if c.held.isSome then [] else vregsOf form.reads) (vregsOf form.writes) with
      | .refill s1 => .next (finish s c form.sources form.writes false (.stay s1 (some .spill)))
      | .go s0 =>
        let s1 := latch s0 c form.sources
        match popAll s1 c form.pops with
        | none => .next (counted (holdAt s1 c form.sources form.writes .queueEmpty .retry []) c)
        | some (s2, c2) =>
          if pushFull s c.wv form then .next (counted (holdAt s1 c form.sources form.writes .queueFull .retry []) c)
          else
            match body s2 c2 with
            | .stay s3 why => .next (finish s c2 form.sources form.writes false (.stay s3 why))
            | e => .next (counted (finish s c2 form.sources form.writes form.waiting e) c)

/-! ### Field checks shared by several instructions -/

/-- MOD in the M-layout (R111): RM, SAT, TYPE, OPX. -/
def modRM (m : BitVec 16) : Nat := (m.extractLsb' 13 3).toNat
/-- SAT (R111). -/
def modSAT (m : BitVec 16) : Bool := m.getLsbD 12
/-- TYPE (R111, R112). -/
def modTYPE (m : BitVec 16) : Nat := (m.extractLsb' 8 4).toNat
/-- OPX (R111). -/
def modOPX (m : BitVec 16) : Nat := (m.extractLsb' 0 8).toNat

/-- MOD in the A-layout (R111): SCOPE. -/
def aScope (m : BitVec 16) : Nat := (m.extractLsb' 13 3).toNat
/-- ANN (R111). -/
def aAnn (m : BitVec 16) : Nat := (m.extractLsb' 11 2).toNat
/-- TYPE of the A-layout (R111). -/
def aType (m : BitVec 16) : Nat := (m.extractLsb' 7 4).toNat
/-- AOP (R111). -/
def aOp (m : BitVec 16) : Nat := (m.extractLsb' 3 4).toNat

/-- The register fields of an RRR word that are all unused. -/
def rrrNone (f : RRR) : List Opnd := [unused f.dst, unused f.sa, unused f.sb, unused f.sc]

/-- All of MOD is zero. -/
def modZero16 (m : BitVec 16) : Bool := decide (m = 0)

/-- Write predicate bits in the strands of a mask (R181). -/
def writePredicate (s : State) (c : Ctx) (d : Nat) (x : Mask) : State :=
  modWeave s c.w (fun wv => { wv with pred := setCell wv.pred d ((predMask wv d &&& ~~~c.q) ||| (x &&& c.q)) })

end Sys2Proof.Machine
end

