-- ==== Sys2Proof/Machine/Flags.lean ====
section
/-!
DEFINITION. The sticky float flags and the arithmetic trap (spec/04_number_formats.md R91 to R93).
-/

namespace Sys2Proof.Machine

open Sys2Proof

/-- Flag bits in FFLAGS order (R91): NV 16, DZ 8, OF 4, UF 2, NX 1. -/
def flagNV : Nat := 16
/-- Divide-by-zero (R91). -/
def flagDZ : Nat := 8
/-- Overflow (R91). -/
def flagOF : Nat := 4
/-- Underflow (R91). -/
def flagUF : Nat := 2
/-- Inexact (R91). -/
def flagNX : Nat := 1

/-- A value and the flags raised in computing it. -/
structure FRes where
  val : Nat
  fl  : Nat := 0
  deriving DecidableEq, Repr

/-- The flags that the qualifying strands raise together. Log 66 (DESIGN CHOICE). -/
def orFlags (q : Mask) (fl : Nat → Nat) : Nat := (strandsOf q).foldl (fun a k => a ||| fl k) 0

/-- An instruction completes raising each strand's flags (R92); a flag whose ENABLE bit is set raises the arithmetic trap
after it, unless the role ignores class 7 (R93). Log 26 (DEDUCED). -/
def raiseFlags (s : State) (c : Ctx) (fl : Nat → Nat) : Effect :=
  let all := orFlags c.q fl
  if all = 0 then .done s
  else
    let en := (c.wv.fflags.extractLsb' 8 5).toNat
    let s1 := modWeave s c.w (fun wv => { wv with fflags := wv.fflags ||| BitVec.ofNat 32 all })
    if dispOf c.wv.hdr 7 ≠ 2 ∧ all &&& en ≠ 0 then
      let hit := (strandsOf c.q).filter (fun k => decide (fl k &&& en ≠ 0))
      .doneTrap s1 { cls := 7, cause := 0, lanes := maskOf hit, info := all }
    else .done s1

/-- A per-strand instruction: each qualifying strand's result goes to the destination field (R119), its flags to FFLAGS. -/
def perStrand (s : State) (c : Ctx) (r n : Nat) (f : Nat → FRes) : Effect :=
  raiseFlags (writeDst s c r n (fun k => (f k).val)) c (fun k => (f k).fl)

end Sys2Proof.Machine
end

