-- ==== Sys2Proof/Machine/Access.lean ====
section
/-!
DEFINITION. Accesses of device memory by a weave: the checks at issue (spec/09_porter.md R200, R217; spec/15_reeve.md R307),
the order in which operations in flight are performed (spec/03_ordering.md R56 to R66, spec/09_porter.md R202, R212), parking
and unresolved accesses (R315, R319 to R321), and versions (spec/16_depot_loft.md R332 to R334).
-/

namespace Sys2Proof.Machine

open Sys2Proof

/-! ### Checks at issue -/

/-- What the checks of one strand's access found. -/
structure Chk where
  strand : Nat
  /-- class, cause, address, INFO of the first data trap (R217) -/
  trap   : Option (Nat × Nat × Nat × Nat) := none
  pas    : List Nat := []
  slots  : List Nat := []
  leaf   : Option Leaf := none
  /-- an EMPTY slot that the walk found: slot, under a table read, address -/
  empty  : Option (Nat × Bool × Nat) := none
  /-- a LOST slot under a table read -/
  lost   : Option (Nat × Nat) := none
  busy   : Bool := false
  deriving DecidableEq, Repr

/-- Another data trap of the strand: the class that comes first is kept (R217). -/
def Chk.add (c : Chk) (cls cause addr info : Nat) : Chk :=
  match c.trap with
  | some (k, _) => if cls < k then { c with trap := some (cls, cause, addr, info) } else c
  | none => { c with trap := some (cls, cause, addr, info) }

/-- Another data trap if a condition holds. -/
def Chk.addIf (c : Chk) (b : Bool) (cls cause addr info : Nat) : Chk := if b then c.add cls cause addr info else c

/-- The bytes va to va + n − 1 in pieces that cross no 64-byte boundary. -/
def piecesFrom : Nat → Nat → Nat → List (Nat × Nat)
  | 0, _, _ => []
  | f + 1, va, n =>
    if n = 0 then [] else (va, min n (64 - va % 64)) :: piecesFrom f (va + min n (64 - va % 64)) (n - min n (64 - va % 64))

/-- Pieces of an access of n bytes. -/
def pieces (va n : Nat) : List (Nat × Nat) := piecesFrom (n / 64 + 2) va n

/-- Check one piece of a strand's access (R200, R307). Log 29 (DEDUCED). -/
def checkPiece (s : State) (t : Nat) (kind : Kind) (ea : Nat) (c : Chk) (p : Nat × Nat) : Chk :=
  let more (base slot : Nat) (l : Option Leaf) : Chk :=
    { c with pas := c.pas ++ (List.range p.2).map (fun i => base + i)
             slots := c.slots ++ List.replicate p.2 slot
             leaf := match c.leaf with | some x => some x | none => l }
  match access s t p.1 kind (60000 + c.strand) with
  | .ok pa slot l => more pa slot l
  | .loft o => more (loftBase + o) 257 none
  | .prot cause => c.add 4 cause ea 0
  | .empty sl tb => if c.empty.isSome then c else { c with empty := some (sl, tb, p.1) }
  | .busy => { c with busy := true }
  | .lost sl => if c.lost.isSome then c else { c with lost := some (sl, p.1) }

/-- Check a strand's access of n bytes (R200). Log 29 (DEDUCED). -/
def checkStrand (s : State) (t : Nat) (kind : Kind) (k ea n : Nat) : Chk :=
  (pieces ea n).foldl (checkPiece s t kind ea) { strand := k }

/-- A fault record's ACCESS code of a kind of access (R318). -/
def accCode : Kind → Nat
  | .read => 0
  | .write => 1
  | .atomic => 2
  | .fetch => 3

/-- The far address that a walk whose leaf slot is EMPTY reached (R318 PA). -/
def leafPA (s : State) (t va : Nat) : Nat :=
  match walk s t va with
  | .leaf b sz e => (leafAt va b sz e).pa
  | _ => 0

/-- How the checks of an instruction's strands end. -/
inductive Checked where
  | go | trap (s : State) (t : Trap) | wait (s : State)
  deriving DecidableEq, Repr

/-- The slots that walks of the strands found EMPTY. -/
def emptySlots (cs : List Chk) : List Nat := (cs.filterMap (fun c => c.empty.map (fun e => e.1))).eraseDups

/-- The records of a split's walks that await a reply or have had one (R307, R319). -/
def walkRecs (s : State) (t w sp : Nat) : List FaultRec :=
  ((tenOf s t).reeve.faults ++ (tenOf s t).reeve.heldFault).filter (fun f => f.op.isNone && decide (f.w = w ∧ f.sp = sp))

/-- A walk of the split awaits a reply. -/
def walkWaits (s : State) (t w sp : Nat) : Bool := (walkRecs s t w sp).any (fun f => f.taken.isNone)

/-- The walks of the split that a reply has made unresolved (R319): whatever has become of the slot since. Log 29 (DEDUCED), 65
(DEDUCED). -/
def failedWalks (s : State) (t w sp : Nat) : List FaultRec := (walkRecs s t w sp).filter (fun f => decide (f.taken = some 2))

/-- Post the KIND 1 records of an instruction's walks that found EMPTY slots, one for each slot (R318). Log 69 (DEDUCED). -/
def postWalks (s : State) (c : Ctx) (kind : Kind) (cs : List Chk) : State :=
  let t := c.wv.ids.tenancy
  (emptySlots cs).foldl (fun s sl =>
    if (failedWalks s t c.w c.slot).any (fun f => decide (f.slot = sl)) then s
    else
      let mine := cs.filter (fun x => decide (x.empty.map (fun e => e.1) = some sl))
      match mine.head?.bind (fun x => x.empty) with
      | none => s
      | some (_, tb, va) =>
        postAbsent s t (weaveFault s c.wv 1 (if tb then 4 else accCode kind) 6 sl va (if tb then 0 else leafPA s t va)
          (maskOf (mine.map (fun x => x.strand)))) none c.w c.slot) s

/-- The LOST slots that table reads of the strands' walks met. -/
def lostSlots (cs : List Chk) : List Nat := (cs.filterMap (fun c => c.lost.map (fun e => e.1))).eraseDups

/-- The SEQ that the record of a LOST slot has: they are posted in order. -/
def lostSeq (s : State) (t : Nat) (cs : List Chk) (sl : Nat) : Nat :=
  ((tenOf s t).reeve.frwr.toNat + (lostSlots cs).idxOf sl) % 2 ^ 32

/-- The traps of the strands: class, cause, address, INFO (R217, R321). Log 65 (DEDUCED). -/
def strandTraps (s : State) (c : Ctx) (cs : List Chk) : List (Nat × Nat × Nat × Nat × Nat) :=
  let t := c.wv.ids.tenancy
  let failed := failedWalks s t c.w c.slot
  cs.filterMap (fun x =>
    match x.trap, failed.find? (fun f => f.lanes.testBit x.strand), x.lost with
    | some (cl, ca, ad, inf), _, _ => some (x.strand, cl, ca, ad, inf)
    | none, some f, _ => some (x.strand, 5, 1, f.va, f.seq % 2 ^ 32 + f.slot * 2 ^ 32)
    | none, none, some (sl, va) => some (x.strand, 5, 6, va, lostSeq s t cs sl + sl * 2 ^ 32)
    | none, none, none => none)

/-- The trap that strands' data traps give together: the class that comes first (R217); of unresolved walks, the record that names the
lowest strand (R321). Log 65 (DEDUCED). -/
def worst (ts : List (Nat × Nat × Nat × Nat × Nat)) : Option Trap :=
  let cls := ts.foldl (fun a x => min a x.2.1) 9
  match ts.filter (fun x => decide (x.2.1 = cls)) with
  | [] => none
  | x :: xs =>
    let mine := (x :: xs).filter (fun y => decide (cls ≠ 5 ∨ y.2.2.2.2 = x.2.2.2.2))
    some { cls := cls, cause := x.2.2.1, lanes := maskOf (mine.map (fun y => y.1)), addr := x.2.2.2.1, info := x.2.2.2.2 }

/-- Post the KIND 6 records of walks that met LOST slots, one for each slot (R318). -/
def postLost (s : State) (c : Ctx) (cs : List Chk) : State :=
  (lostSlots cs).foldl (fun s1 sl =>
    let mine := cs.filter (fun x => decide (x.lost.map (fun e => e.1) = some sl))
    postFault s1 c.wv.ids.tenancy (weaveFault s c.wv 6 4 6 sl (((mine.head?.bind (fun x => x.lost)).map (fun e => e.2)).getD 0) 0
      (maskOf (mine.map (fun x => x.strand))))) s

/-- Bring the checks of an instruction's strands together (R217, R307, R321): a trap, a wait for a walk, or go on. Log 69 (DEDUCED). -/
def resolve (s : State) (c : Ctx) (kind : Kind) (cs : List Chk) : Checked :=
  let t := c.wv.ids.tenancy
  let early := cs.any (fun x => match x.trap with | some (k, _) => decide (k < 4) | none => false)
  let failed := failedWalks s t c.w c.slot
  if !early && (cs.any (fun x => x.busy) || walkWaits s t c.w c.slot ||
      (emptySlots cs).any (fun sl => !(failed.any (fun f => decide (f.slot = sl))))) then
    .wait (postWalks s c kind cs)
  else
    match worst (strandTraps s c cs) with
    | none => .go
    | some tr => .trap (dropWalks (if tr.cls = 5 then postLost s c cs else s) t c.w c.slot) tr

/-- The pages that an access walked are cached (R308). -/
def cachePages (s : State) (t : Nat) (vas : List Nat) : State :=
  ((vas.map (fun v => v / 65536)).eraseDups).foldl (fun s g => cacheWalk s t (65536 * g)) s

/-! ### Which operations wait for which -/

/-- What an operation in flight does to memory: it reads, it writes. -/
def OpKind.access : OpKind → Bool × Bool
  | .load .. => (true, false)
  | .loadNF .. => (true, false)
  | .store .. => (false, true)
  | .loadFmt .. => (true, false)
  | .storeFmt .. => (false, true)
  | .loadTob .. => (true, false)
  | .storeTob .. => (false, true)
  | .writeBack .. => (false, false)
  | .fence => (false, false)
  | .spLoad .. => (true, false)
  | .spStore .. => (false, true)
  | .spAtomic .. => (true, true)
  | .feReset .. => (false, true)
  | .barrier .. => (true, true)
  | .namedArrive .. => (false, true)
  | .bsave .. => (true, false)
  | .brestore .. => (false, true)
  | .clerk .. => (true, true)
  | .ckpt => (false, false)
  | .invalidate .. => (false, false)
  | .evict .. => (false, false)
  | .loftLoad .. => (true, false)
  | .probe .. => (false, false)
  | .engine => (false, false)

/-- Scratchpad bytes as the operations of one weave compare them: their keys without the basket. -/
def spadKeys (pas : List Nat) : List Nat := pas.map (fun k => if spBase ≤ k then spBase + (k - spBase) % 2 ^ 21 else k)

/-- Strands of an operation that are not yet performed: their bytes, by physical address. -/
def OpKind.left : OpKind → List (Nat × List Nat)
  | .load _ _ _ _ ls => ls.map (fun l => (l.strand, l.pas))
  | .loadNF _ _ _ ls _ _ => ls.map (fun l => (l.strand, l.pas))
  | .store _ ls => ls.map (fun l => (l.strand, l.pas))
  | .loadFmt _ _ es => es.flatMap (fun row => row.map (fun e => (e.strand, e.pas ++ e.scale.toList)))
  | .storeFmt rows => rows.map (fun l => (l.strand, l.pas))
  | .loadTob _ ls => ls.map (fun l => (l.strand, l.pas))
  | .storeTob _ ls => ls.map (fun l => (l.strand, l.pas))
  | .loftLoad _ _ _ _ ls => ls.map (fun l => (l.strand, l.pas))
  | .spLoad _ _ _ ls => ls.map (fun l => (l.strand, spadKeys l.pas))
  | .spStore _ ls => ls.map (fun l => (l.strand, spadKeys l.pas))
  | .spAtomic _ _ _ ls => ls.map (fun l => (l.strand, spadKeys l.pas))
  | .clerk ls => ls.map (fun l => (l.strand, l.pas))
  | .feReset _ ws => ws.map (fun w => (0, spPas 0 w 4))
  | .barrier off _ _ => [(0, spPas 0 off 16)]
  | .bsave off => [(0, spPas 0 off 512)]
  | .brestore off => [(0, spPas 0 off 512)]
  | _ => []

/-- The operation has been performed: nothing of it is left to do but to complete. -/
def Op.performed (o : Op) : Bool :=
  o.bound.isSome && o.kind.left.isEmpty && (match o.kind with | .writeBack ls => ls.isEmpty | _ => true)

/-- Two lists of byte addresses share one. -/
def shares (a b : List Nat) : Bool := a.any (fun x => b.contains x)

/-- The operation is an acquire (R58): its annotation, or a barrier wait. -/
def Op.acquires (o : Op) : Bool := decide (o.ann % 2 = 1)

/-- The operation is a release (R58). Log 35 (DEDUCED). -/
def Op.releases (o : Op) : Bool := decide (2 ≤ o.ann)

/-- A later operation of the weave waits until an earlier one is performed: for an acquire before it, for a release fence
before its write, because it is a release itself, because it writes and the earlier one reads (R62), because they share a
byte (R61), because they write one register word (R202). Log 14 (DEDUCED), 35 (DEDUCED). -/
def mustFollow (o1 o2 : Op) : Bool :=
  if o1.performed || decide (o1.mask &&& o2.mask = 0) then false
  else
    let a1 := o1.kind.access
    let a2 := o2.kind.access
    let mem1 := a1.1 || a1.2
    let fence1 := decide (o1.kind = .fence)
    let fence2 := decide (o2.kind = .fence)
    let mem2 := a2.1 || a2.2 || fence2
    (mem2 && (mem1 || fence1) && o1.acquires) ||
    (fence1 && o1.releases && (a2.2 || o2.releases)) ||
    (o2.releases && (mem1 || fence1)) ||
    (fence2 && o2.acquires && (a1.1 || fence1)) ||
    (a2.2 && a1.1) ||
    ((a1.2 || a2.2 || (a1.1 && a2.1)) &&
      (o2.kind.left.any (fun y => o1.kind.left.any (fun x => shares x.2 y.2)))) ||
    (decide (o1.kind ≠ .engine) && shares o1.dests o2.dests)

/-- Every earlier operation that the operation must follow has been performed. -/
def mayPerform (s : State) (n : Nat) (o : Op) : Bool :=
  s.ops.all (fun p => decide (n ≤ p.1) || decide (p.2.w ≠ o.w) || !(mustFollow p.2 o))

/-- Everything that the weave's strands did before an engine command has been performed (R68): its events may begin. -/
def engineMay (s : State) (n : Nat) (o : Op) : Bool :=
  s.ops.all (fun p => decide (n ≤ p.1) || decide (p.2.w ≠ o.w) || p.2.performed || decide (p.2.mask &&& o.mask = 0) ||
    !(p.2.kind.access.1 || p.2.kind.access.2 || decide (p.2.kind = .fence)))

/-- Results go to the registers in issue order (R202). -/
def mayComplete (s : State) (n : Nat) (o : Op) : Bool :=
  s.ops.all (fun p => decide (n ≤ p.1) || decide (p.2.w ≠ o.w) || decide (p.2.kind = .engine) ||
    !(shares p.2.dests o.dests))

/-! ### Versions -/

/-- Writes of the weave's lot join open versions: it was launched VERSIONED, or a replay pass other than the last runs
(R66, note j of R31). -/
def versioned (s : State) (wv : Weave) : Bool := wv.ids.versioned || (innerPass s wv.ids.lot).isSome

/-- The open version that the basket's own reads see (R66). Log 63 (DEDUCED). -/
def versionOf (s : State) (wv : Weave) : List VWrite :=
  match basketOf s wv with
  | some B => B.version
  | none => []

/-- Commit the version of a basket because of an op (R66, R332). -/
def commitFor (s : State) (n : Nat) (wv : Weave) (counts : Bool) : Try := commitTry s (some n) wv 0 counts 1

/-- What the commit that leads from one state to another makes known to the op that caused it (R66). -/
def commitSeen (s s1 : State) (wv : Weave) : View := commitView s1 (versionOf s wv)

/-- Lines that a basket's open version may hold (R334). Log 5 (DESIGN CHOICE). -/
def quotaLines (s : State) (B : Basket) : Nat :=
  match look s.lots B.lot with
  | none => 0
  | some l =>
    let q := ((l.hdrs.map (fun h => h.vquota)).head?).getD 0
    (if q = 0 then (tenOf s l.tenancy).depot.vdefault else q) * 8192

/-- Version lines of every basket of the tenancies given in the Depot set of a line (R334). Log 5 (DESIGN CHOICE). -/
def setUse (s : State) (mine : Nat → Bool) (line : Nat) : Nat :=
  (s.baskets.filter (fun p => match look s.lots p.2.lot with | some l => mine l.tenancy | none => false)).foldl
    (fun a p => a + ((versionLines p.2.version).filter (fun x => decide (Config.depotSet x = Config.depotSet line))).length) 0

/-- Ways of each Depot set that are not dedicated to SEALED tenancies (R29, R331). -/
def sharedWays (s : State) : Nat :=
  32 - (List.range 16).foldl (fun a t => if sealedTen (tenOf s t) then a + (tenOf s t).depot.dways else a) 0

/-- Ways of each Depot set that a tenancy can use (R29, R331). -/
def depotWays (s : State) (t : Nat) : Nat := if sealedTen (tenOf s t) then (tenOf s t).depot.dways else min (tenOf s t).depot.dways (sharedWays s)

/-- No way of a line's Depot set is free for a version line of a tenancy: its DWAYS ways hold version lines, or, where it is SHARED, all
ways that no SEALED tenancy has do (R29, R331, R334). Log 46 (DEDUCED). -/
def waysFull (s : State) (t line : Nat) : Bool :=
  decide (depotWays s t ≤ setUse s (fun x => decide (x = t)) line) ||
    (!(sealedTen (tenOf s t)) && decide (sharedWays s ≤ setUse s (fun x => !(sealedTen (tenOf s x))) line))

/-- A write joins its basket's open version; a write beyond the quota or the ways forces a checkpoint first, or waits for a
way (R332, R334); its place among the writes that its basket sees is the present stamp. Log 46 (DEDUCED). -/
def joinVersion (s : State) (n : Nat) (wv : Weave) (x : VWrite) : Try :=
  match basketOf s wv with
  | none => .ok s
  | some B =>
    let b := wv.ids.basket
    let lines := versionLines B.version
    let line := lineOf x.pa
    let add (s : State) : State :=
      { modBasket s b (fun B => { B with version := B.version ++ [{ x with stamp := s.stamp, basket := b }] }) with stamp := s.stamp + 1 }
    let force (_ : Unit) : Try :=
      match commitTry s (some n) wv 0 true 2 with
      | .wait s1 => .wait s1
      | .ok s1 =>
        let s2 := modBasket s1 b (fun B => { B with forced := true })
        if waysFull s2 wv.ids.tenancy line then .wait s2 else .ok (add s2)
    if lines.contains line then .ok (add s)
    else if quotaLines s B ≤ lines.length then force ()
    else if waysFull s wv.ids.tenancy line then
      if lines.any (fun l => decide (Config.depotSet l = Config.depotSet line)) then force () else .wait s
    else .ok (add s)

/-- A write of bytes by the weave waits: its line is to join the open version, and there is no quota or no way for it (R334). -/
def versionWaits (s : State) (wv : Weave) (pas : List Nat) : Bool :=
  match basketOf s wv with
  | none => false
  | some B =>
    let lines := versionLines B.version
    pas.any (fun pa => decide (pa < loftBase) && !(lines.contains (lineOf pa)) &&
      (decide (quotaLines s B ≤ lines.length) || waysFull s wv.ids.tenancy (lineOf pa)))

/-- The view that a write into the open version of a basket, from a stamp on, leaves with its writer. -/
def wroteVersion (v : View) (b stamp : Nat) (pas : List Nat) : View := pas.foldl (fun v pa => raiseView v (verKey b pa) stamp) v

/-! ### Performing -/

/-- A KIND 1 record that an op has posted for a slot awaits its reply: the op's accesses there stay parked (R319). -/
def opAwaits (s : State) (t n slot : Nat) : Bool :=
  ((tenOf s t).reeve.faults ++ (tenOf s t).reeve.heldFault).any (fun f => f.op = some n && f.slot = slot && f.taken.isNone)

/-- How the bytes of a strand's part of an op fare (R315, R319): a reply that failed its access makes it unresolved, whatever has become
of the slot; until there is a reply it stays parked. -/
def opFare (s : State) (t n : Nat) (pas slots : List Nat) : Fare :=
  match slots.find? (fun sl => (fillFailed s t (some n) 0 0 sl).isSome) with
  | some sl => .dead sl 1
  | none =>
    let waits := slots.any (opAwaits s t n)
    match fareAll s t (pas.zip slots) with
    | .go => if waits then .park .lease else .go
    | .absent sl => if waits then .park .lease else .absent sl
    | .park w => .park (if waits then parkFirst .lease w else w)
    | f => f

/-- How a strand's part of an op fares: an access that was parked when its slot was lost is unresolved (R316). -/
def laneFare (s : State) (t n : Nat) (o : Op) (k : Nat) (pas slots : List Nat) : Fare :=
  match o.lost.find? (fun x => decide (x.1 = k)) with
  | some x => .dead x.2.1 x.2.2
  | none => opFare s t n pas slots

/-- The strands of an operation with the bytes of device memory still to be accessed, and their lease slots. -/
def OpKind.places : OpKind → List (Nat × List Nat × List Nat)
  | .load _ _ _ _ ls => ls.map (fun l => (l.strand, l.pas, l.slots))
  | .loadNF _ _ _ ls _ _ => ls.map (fun l => (l.strand, l.pas, l.slots))
  | .store _ ls => ls.map (fun l => (l.strand, l.pas, l.slots))
  | .loadFmt _ _ rows => rows.flatMap (fun r => r.map (fun e => (e.strand, e.pas, e.pas.map (fun _ => e.slot))))
  | .storeFmt ls => ls.map (fun l => (l.strand, l.pas, l.slots))
  | .loadTob _ ls => ls.map (fun l => (l.strand, l.pas, l.slots))
  | .storeTob _ ls => ls.map (fun l => (l.strand, l.pas, l.slots))
  | .writeBack ls => ls.map (fun l => (l.strand, l.pas, l.slots))
  | .clerk ls => ls.map (fun l => (l.strand, l.pas, l.slots))
  | .loftLoad _ _ _ _ ls => ls.map (fun l => (l.strand, l.pas, l.pas.map (fun _ => 257)))
  | _ => []

/-- The scale bytes that an operation reads apart from its elements (R99). -/
def OpKind.scales : OpKind → List Nat
  | .loadFmt _ _ rows => rows.flatMap (fun r => r.filterMap (fun e => e.scale))
  | _ => []

/-- The tenancy of an op. -/
def opTenancy (s : State) (o : Op) : Nat := match weaveOf s o.w with | some wv => wv.ids.tenancy | none => 0

/-- An access of another op to the same grain parked earlier and can now be replayed: it goes first (R310, R314). Log 52 (DESIGN
CHOICE). -/
def parkedBefore (s : State) (n : Nat) (o : Op) (pas : List Nat) : Bool :=
  s.ops.any (fun p =>
    decide (p.1 ≠ n ∧ p.2.parked ≠ 0 ∧ (o.parked = 0 ∨ p.2.parked < o.parked ∨ (p.2.parked = o.parked ∧ p.1 < n))) &&
      p.2.kind.places.any (fun x => p.2.parkMask.getLsbD x.1 &&
        x.2.1.any (fun a => pas.any (fun b => decide (grainOf a = grainOf b))) &&
        decide (laneFare s (opTenancy s p.2) p.1 p.2 x.1 x.2.1 x.2.2 = .go)))

/-- The strands of the op whose accesses an event leaves for a later one: accesses of different strands are unordered (R55). Log 35
(DEDUCED). -/
def staying (s : State) : Mask := s.ev.v.setWidth 32

/-- A strand whose access is unresolved: strand, slot, KIND, address. Log 54 (DEDUCED). -/
structure Lost where
  strand : Nat
  slot   : Nat
  kind   : Nat
  va     : Nat
  pa     : Nat
  deriving DecidableEq, Repr

/-- Performing an op, strand by strand. -/
structure Run where
  s     : State
  /-- register words delivered -/
  words : Tab Word := []
  /-- what the reads leave: view, messages -/
  view  : View := []
  msgs  : List Msg := []
  lost  : List Lost := []
  /-- a read met data that ECC cannot correct -/
  bad   : Bool := false
  /-- the strands that this attempt has looked at; of these, those whose accesses are parked -/
  tried : Mask := 0
  parked : Mask := 0
  deriving DecidableEq, Repr

/-- The ACCESS and ENGINE codes of an op's records (R318). -/
def opAcc (o : Op) : Nat :=
  match o.kind, o.kind.access with
  | .writeBack _, _ => 1
  | _, (true, true) => 2
  | _, (false, true) => 1
  | _, _ => 0

/-- Record an EMPTY slot that a strand's access met; it parks (R315, R318). -/
def postLane (s : State) (n : Nat) (o : Op) (wv : Weave) (engine sl va pa : Nat) (lanes : Mask) : State :=
  postAbsent s wv.ids.tenancy (weaveFault s wv 1 (opAcc o) engine sl va pa lanes) (some n) wv.ids.wid 0

/-- The bit of a strand. -/
def strandBit (k : Nat) : Mask := 1#32 <<< k

/-- Fold over the strands of an op: each proceeds, stays for later, parks or is lost. A strand that shares a byte with a lower one that
stays stays too, so that the highest-numbered strand writes last (R55). -/
def eachLane {α : Type} (n : Nat) (o : Op) (wv : Weave) (bytes : α → Nat × List Nat × List Nat × Nat)
    (go : Run → α → Run × Bool) : Run → List α → List α → Run × List α
  | r, kept, [] => (r, kept.reverse)
  | r, kept, l :: rest =>
    let (k, pas, slots, va) := bytes l
    let r := { r with tried := r.tried ||| strandBit k }
    match laneFare r.s wv.ids.tenancy n o k pas slots with
    | .dead sl kd =>
      eachLane n o wv bytes go { r with lost := r.lost ++ [{ strand := k, slot := sl, kind := kd, va := va, pa := pas.headD 0 }] } kept rest
    | .park _ => eachLane n o wv bytes go { r with parked := r.parked ||| strandBit k } (l :: kept) rest
    | .absent sl =>
      let same := ((l :: rest).filter (fun x => (bytes x).2.2.1.contains sl)).map (fun x => (bytes x).1)
      eachLane n o wv bytes go
        { r with s := postLane r.s n o wv 0 sl va (pas.headD 0) (maskOf same), parked := r.parked ||| strandBit k } (l :: kept) rest
    | .go =>
      if (staying r.s).getLsbD k || kept.any (fun x => shares (bytes x).2.1 pas) || parkedBefore r.s n o pas then
        eachLane n o wv bytes go r (l :: kept) rest
      else
        match go r l with
        | (r1, true) => eachLane n o wv bytes go { r1 with s := askLines r1.s wv.ids.tenancy pas } kept rest
        | (r1, false) => eachLane n o wv bytes go r1 (l :: kept) rest

/-- Where a lane's bytes lie. -/
def laneBytes (l : Lane) : Nat × List Nat × List Nat × Nat := (l.strand, l.pas, l.slots, l.va)

/-- The register field of a destination. -/
def Dest.field : Dest → Nat
  | .none => 511
  | .vec r => r
  | .sca r => 384 + r

/-- A value of `size` as its register words give it: 8 and 16 bits extended to 32 (R201). -/
def extend (size : Nat) (sx : Bool) (x : Nat) : Nat :=
  if size ≤ 1 ∧ sx ∧ x.testBit (8 * 2 ^ size - 1) then x + (2 ^ 32 - 2 ^ (8 * 2 ^ size)) else x

/-- Words of a value of `size`. -/
def sizeWords (size : Nat) : Nat := 2 ^ size / 4 + (if size ≤ 1 then 1 else 0)

/-- The opcode of an op's instruction. -/
def Op.opcode (o : Op) : Nat := (o.word.extractLsb' 56 8).toNat

/-- The bytes of one access are single-copy atomic together: LDU and STU are so per byte only (R200, R55). -/
def Op.whole (o : Op) : Bool := !([0xA2, 0xA3].contains o.opcode)

/-- Read one access under a view; data that ECC cannot correct is not delivered (R336). -/
def runRead (r : Run) (wv : Weave) (v : View) (whole : Bool) (salt : Nat) (pas : List Nat) : Run × Nat :=
  if pas.any (poisoned r.s wv.ids.tenancy) then ({ r with bad := true }, 0)
  else
    let x := readMem r.s v (versionOf r.s wv) whole salt pas
    ({ r with view := joinView r.view x.view, msgs := r.msgs ++ x.msgs }, natOfBytes x.data)

/-- The load monitor after a load's lowest strand has read (R215): the line, and whether a write that the read does not see
is already performed. -/
def monitorAfter (s : State) (v : View) (ver : List VWrite) (whole : Bool) (salt : Nat) (pas : List Nat) : Option (Nat × Bool) :=
  match pas with
  | [] => none
  | pa :: _ =>
    let cuts := cutsFor s v ver whole salt pas
    let cut := cuts.foldl (fun a c => min a c) (cuts.headD s.stamp)
    some (lineOf pa, (withVersion ((look s.lines (lineOf pa)).getD {}) ver).evs.any (fun e => decide (cut < e.stamp)))

/-- A write, with what is then known, joins the open version after those before it (R66). -/
def joinPart (n : Nat) (wv : Weave) (msgs : List Msg) (t : Try × View) (p : List Nat × Nat × List Byte) : Try × View :=
  match t.1 with
  | .wait s => (.wait s, t.2)
  | .ok s =>
    match joinVersion s n wv { pa := p.1.headD 0, slot := p.2.1, data := p.2.2, msgs := msgs } with
    | .wait s1 => (.wait s1, t.2)
    | .ok s1 => (.ok s1, wroteVersion t.2 wv.ids.basket (s1.stamp - 1) p.1)

/-- Write one access: into the open version, or as an event of its line (R213, R66). -/
def runWrite (r : Run) (n : Nat) (o : Op) (wv : Weave) (pas slots : List Nat) (bs : List Byte) (msgs : List Msg) : Run × Bool :=
  if versioned r.s wv && !o.releases && pas.all (fun pa => decide (pa < loftBase)) then
    let parts := if oneLine pas && o.whole then [(pas, slots.headD 0, bs)]
      else (pas.zip (slots.zip bs)).map (fun x => ([x.1], x.2.1, [x.2.2]))
    match parts.foldl (joinPart n wv msgs) (.ok r.s, r.view) with
    | (.ok s, v) => ({ r with s := s, view := v }, true)
    | (.wait s, _) => ({ r with s := s }, false)
  else if o.whole then
    ({ r with s := lotWrite r.s wv.ids.lot pas bs msgs, view := wroteAccess r.view r.s.stamp pas }, true)
  else
    ({ r with s := (pas.zip bs).foldl (fun s p => lotWrite s wv.ids.lot [p.1] [p.2] msgs) r.s, view := wroteEach r.view r.s.stamp pas },
      true)

/-- What the writes of an op publish: the release fences before it, and its own release (R59). -/
def opMsgs (s : State) (o : Op) (wv : Weave) (v : View) : List Msg :=
  let fs := match weaveOf s o.w with | some x => fencesOf x o.mask | none => []
  fs ++ (if o.releases then [relMsg (agentOf wv) o.scope v] else [])

/-- Strands of an op ended unresolved (R321): a record for each slot, once for the op (R318; KIND 1 has its own already), and the task trap
of a versioned write, or the class 5 trap that waits for its split's clause boundary. In a plain lot an unresolved write takes that trap
too (R321), where R340 could be read as a TAINTED halt: log 74 (DEDUCED). -/
def unresolved (s : State) (n : Nat) (o : Op) (wv : Weave) (engine : Nat) (ls : List Lost) : State :=
  ((ls.map (fun l => l.slot)).eraseDups).foldl (fun s sl =>
    let mine := ls.filter (fun l => decide (l.slot = sl))
    match mine with
    | [] => s
    | l :: _ =>
      let t := wv.ids.tenancy
      let lanes := maskOf (mine.map (fun x => x.strand))
      let failed := fillFailed s t (some n) 0 0 sl
      let seq := match failed with
        | some f => f.seq
        | none => (tenOf s t).reeve.frwr.toNat
      let s1 := if failed.isSome || o.posted.contains sl then s
        else { postFault s t (weaveFault s wv l.kind (opAcc o) engine sl l.va l.pa lanes) with
          ops := edit s.ops n (fun o => { o with posted := sl :: o.posted }) }
      if decide (0 < opAcc o) && versioned s wv then taskTrap s1 wv.ids.basket 3 sl l.va l.kind
      else modWeave s1 o.w (fun wv => { wv with farTraps := wv.farTraps ++
        [{ kind := l.kind, lanes := lanes, pc := o.pc, idx := o.idx, word := o.word, va := l.va, seq := seq, slot := sl }] })) s

/-- An op's strands have run as far as they can: its results, what it learned, what became of its unresolved strands. -/
def settleRun (r : Run) (n : Nat) (o : Op) (wv : Weave) (kind : OpKind) (engine va : Nat) : State :=
  if r.bad then taskTrap r.s wv.ids.basket 1 0 va 0
  else
    let words := r.words.foldl (fun t p => put t p.1 p.2) ((o.bound).getD [])
    let mask (o : Op) : Mask := (o.parkMask &&& ~~~r.tried) ||| r.parked
    let s1 := { r.s with ops := edit r.s.ops n (fun o => { o with
      kind := kind, bound := some words, parkMask := mask o,
      parked := if mask o = 0 then 0 else if o.parked = 0 then r.s.steps + 1 else o.parked }) }
    let acq := if o.acquires then taken s1.maxlevel (agentOf wv) o.scope r.msgs else []
    let s2 := modWeave s1 o.w (fun wv =>
      let v := joinView r.view acq
      if v = [] ∧ r.msgs = [] then wv
      else learn wv o.mask (fun y => { y with view := joinView y.view v, seen := (y.seen ++ r.msgs).eraseDups }))
    let s3 := if o.acquires && kind.left.isEmpty then acquireAction s2 wv.shop o.scope else s2
    unresolved s3 n o wv engine r.lost

/-- The view under which the strands of an op act: everything before it (R56). -/
def opView (s : State) (o : Op) : View :=
  match weaveOf s o.w with
  | some wv => joinView o.view (viewOf wv o.mask)
  | none => o.view

/-- Perform what a load of whole accesses can perform now (R201, R206, R344). -/
def performLoad (s : State) (n : Nat) (o : Op) (wv : Weave) (lanes : List Lane) (value : Lane → Nat → Tab Word)
    (monitors : Bool) (rebuild : List Lane → OpKind) : State :=
  let v := opView s o
  let r0 : Run := { s := s }
  let (r, kept) := eachLane n o wv laneBytes (fun r l =>
    let salt := n * 4096 + 64 * l.strand
    let (r1, x) := runRead r wv v o.whole salt l.pas
    let r2 := { r1 with words := r1.words ++ value l x }
    let s2 := if monitors ∧ lowestStrand o.q = some l.strand then
        modWeave r2.s o.w (fun x => { x with monitor := monitorAfter r.s v (versionOf r.s wv) o.whole salt l.pas }) else r2.s
    ({ r2 with s := s2 }, true)) r0 [] lanes
  settleRun r n o wv (rebuild kept) 0 (match lanes with | l :: _ => l.va | [] => 0)

/-- Perform what a store of whole accesses can perform now (R201, R205 to R207). A release commits first and writes no
version line (R332). -/
def performStore (s : State) (n : Nat) (o : Op) (wv : Weave) (lanes : List Lane) (data : State → Lane → List Byte)
    (rebuild : List Lane → OpKind) : State :=
  let v := opView s o
  match (if o.releases && versioned s wv && o.bound.isNone then commitFor s n wv true else .ok s) with
  | .wait s1 => s1
  | .ok s1 =>
    if (look s1.ops n).isNone then s1
    else
    let seen := if o.releases then commitSeen s s1 wv else []
    let msgs := opMsgs s1 o wv (joinView v seen)
    let (r, kept) := eachLane n o wv laneBytes (fun r l => runWrite r n o wv l.pas l.slots (data r.s l) msgs) { s := s1, view := seen } [] lanes
    settleRun r n o wv (rebuild kept) 0 (match lanes with | l :: _ => l.va | [] => 0)

end Sys2Proof.Machine
end

