-- ==== Sys2Proof/Machine/Scalar.lean ====
section
/-!
DEFINITION. The scalar arithmetic of the bench, opcodes 0x11 to 0x2D (spec/08_bench.md R182): each computes once, from the
values that the lowest-numbered qualifying strand sees, and writes one scalar register (R119).
-/

namespace Sys2Proof.Machine

open Sys2Proof

/-- The value of w bits as a signed number. -/
def signedOf (w v : Nat) : Int := if v < 2 ^ (w - 1) then v else (v : Int) - 2 ^ w

/-- An exact integer narrowed to w bits (R74). -/
def narrow (w : Nat) (x : Int) : Nat := (x % (2 ^ w : Int)).toNat

/-- A value of w bits as its type reads it: signed for I types, unsigned for N types (R112). -/
def valOf (signed : Bool) (w v : Nat) : Int := if signed then signedOf w v else v

/-- Leading zeros of a w-bit value. -/
def clzOf : Nat → Nat → Nat
  | 0, _ => 0
  | w + 1, v => if v.testBit w then 0 else clzOf w v + 1

/-- Ones in a w-bit value. -/
def popOf (w v : Nat) : Nat := ((List.range w).filter (fun i => v.testBit i)).length

/-- The operations of R182 on w-bit values: sum, difference, low product. -/
def addW (w a b : Nat) : Nat := (a + b) % 2 ^ w
/-- a − b modulo 2^w. -/
def subW (w a b : Nat) : Nat := (a + 2 ^ w - b % 2 ^ w) % 2 ^ w
/-- The low w bits of a product. -/
def mulW (w a b : Nat) : Nat := (a * b) % 2 ^ w
/-- The high w bits of the 2w-bit product. -/
def mulhW (signed : Bool) (w a b : Nat) : Nat := narrow w (valOf signed w a * valOf signed w b / 2 ^ w)
/-- Shift left by b mod w. -/
def shlW (w a b : Nat) : Nat := (a * 2 ^ (b % w)) % 2 ^ w
/-- Logical shift right by b mod w. -/
def shrW (w a b : Nat) : Nat := a / 2 ^ (b % w)
/-- Arithmetic shift right by b mod w. -/
def sraW (w a b : Nat) : Nat := narrow w (signedOf w a / 2 ^ (b % w))
/-- The lesser value. -/
def minW (signed : Bool) (w a b : Nat) : Nat := if valOf signed w a ≤ valOf signed w b then a else b
/-- The greater value. -/
def maxW (signed : Bool) (w a b : Nat) : Nat := if valOf signed w b ≤ valOf signed w a then a else b
/-- −1, 0 or 1 (SCMP). -/
def cmpW (signed : Bool) (w a b : Nat) : Nat :=
  if valOf signed w a < valOf signed w b then 2 ^ 32 - 1 else if a = b then 0 else 1

/-- Width in words of the integer types (R112): I64 and N64 take pairs. -/
def intWords (t : Nat) : Nat := if t < 2 then 1 else 2

/-- Which operands of a scalar instruction are present and which keep 32 bits whatever the type (R182): bits 0 d, 1 a, 2 b,
3 c. -/
structure ScaShape where
  has    : Nat
  narrow : Nat

/-- The register fields of a scalar RRR instruction. -/
def scaOps (f : RRR) (h : ScaShape) : List Opnd :=
  let w := intWords (modTYPE f.mod)
  let wd (i : Nat) : Nat := if h.narrow.testBit i then 1 else w
  [dstIn 34 f.dst (wd 0), srcIn 50 f.sa (wd 1), if h.has.testBit 2 then srcIn 50 f.sb (wd 2) else unused f.sb,
   if h.has.testBit 3 then srcIn 50 f.sc (wd 3) else unused f.sc]

/-- A scalar RRR instruction: `g` computes from the type's sign, the width in bits and the operands. -/
def scaRRR (f : RRR) (h : ScaShape) (g : Bool → Nat → Nat → Nat → Nat → Nat) (s : State) : Host.Outcome State Fault Refusal :=
  let t := modTYPE f.mod
  let w := intWords t
  let wd (i : Nat) : Nat := if h.narrow.testBit i then 1 else w
  issueRow s f.pn f.pred
    { ops := scaOps f h,
      modOk := decide (modRM f.mod = 0) && !modSAT f.mod && decide (t ≤ 3) && decide (modOPX f.mod = 0) } (fun s c =>
    let k := c.low
    let x := g (decide (t % 2 = 0)) (32 * w) (srcN s c f.sa.toNat k (wd 1)) (srcN s c f.sb.toNat k (wd 2))
      (srcN s c f.sc.toNat k (wd 3))
    .done (writeDst s c f.dst.toNat (wd 0) (fun _ => x)))

/-- A scalar RI instruction, on 32 bits (R182). -/
def scaRI (f : RI) (usesA : Bool) (g : Bool → Nat → Nat → Nat) (s : State) : Host.Outcome State Fault Refusal :=
  issueRow s f.pn f.pred
    { ops := [dstIn 34 f.dst, if usesA then srcIn 50 f.sa else unused f.sa], modOk := decide (f.itype.toNat ≤ 1) } (fun s c =>
    let x := g (decide (f.itype = 0)) (srcN s c f.sa.toNat c.low 1) f.imm.toNat
    .done (writeDst s c f.dst.toNat 1 (fun _ => x)))

/-- SMOV: a (R182). -/
def execSmov (f : RRR) (s : State) : Host.Outcome State Fault Refusal :=
  scaRRR f { has := 2, narrow := 0 } (fun _ _ a _ _ => a) s

/-- SADD: a + b (R182). -/
def execSadd (f : RRR) (s : State) : Host.Outcome State Fault Refusal :=
  scaRRR f { has := 6, narrow := 0 } (fun _ w a b _ => addW w a b) s

/-- SSUB: a − b (R182). -/
def execSsub (f : RRR) (s : State) : Host.Outcome State Fault Refusal :=
  scaRRR f { has := 6, narrow := 0 } (fun _ w a b _ => subW w a b) s

/-- SMUL: the low w bits of a × b (R182). -/
def execSmul (f : RRR) (s : State) : Host.Outcome State Fault Refusal :=
  scaRRR f { has := 6, narrow := 0 } (fun _ w a b _ => mulW w a b) s

/-- SMULH: the high w bits of the product (R182). -/
def execSmulh (f : RRR) (s : State) : Host.Outcome State Fault Refusal :=
  scaRRR f { has := 6, narrow := 0 } (fun sg w a b _ => mulhW sg w a b) s

/-- SAND: bitwise AND (R182). -/
def execSand (f : RRR) (s : State) : Host.Outcome State Fault Refusal :=
  scaRRR f { has := 6, narrow := 0 } (fun _ _ a b _ => a &&& b) s

/-- SOR: bitwise OR (R182). -/
def execSor (f : RRR) (s : State) : Host.Outcome State Fault Refusal :=
  scaRRR f { has := 6, narrow := 0 } (fun _ _ a b _ => a ||| b) s

/-- SXOR: bitwise XOR (R182). -/
def execSxor (f : RRR) (s : State) : Host.Outcome State Fault Refusal :=
  scaRRR f { has := 6, narrow := 0 } (fun _ _ a b _ => a ^^^ b) s

/-- SSHL: a shifted left by b mod w (R182). -/
def execSshl (f : RRR) (s : State) : Host.Outcome State Fault Refusal :=
  scaRRR f { has := 6, narrow := 4 } (fun _ w a b _ => shlW w a b) s

/-- SSHR: a shifted right by b mod w (R182). -/
def execSshr (f : RRR) (s : State) : Host.Outcome State Fault Refusal :=
  scaRRR f { has := 6, narrow := 4 } (fun _ w a b _ => shrW w a b) s

/-- SSRA: a shifted right by b mod w, with its sign (R182). -/
def execSsra (f : RRR) (s : State) : Host.Outcome State Fault Refusal :=
  scaRRR f { has := 6, narrow := 4 } (fun _ w a b _ => sraW w a b) s

/-- SMIN: the lesser (R182). -/
def execSmin (f : RRR) (s : State) : Host.Outcome State Fault Refusal :=
  scaRRR f { has := 6, narrow := 0 } (fun sg w a b _ => minW sg w a b) s

/-- SMAX: the greater (R182). -/
def execSmax (f : RRR) (s : State) : Host.Outcome State Fault Refusal :=
  scaRRR f { has := 6, narrow := 0 } (fun sg w a b _ => maxW sg w a b) s

/-- SCMP: −1, 0 or 1 (R182). -/
def execScmp (f : RRR) (s : State) : Host.Outcome State Fault Refusal :=
  scaRRR f { has := 6, narrow := 1 } (fun sg w a b _ => cmpW sg w a b) s

/-- SSEL: a where c is not zero, else b (R182). -/
def execSsel (f : RRR) (s : State) : Host.Outcome State Fault Refusal :=
  scaRRR f { has := 14, narrow := 8 } (fun _ _ a b x => if x ≠ 0 then a else b) s

/-- SCLZ: leading zeros of a (R182). -/
def execSclz (f : RRR) (s : State) : Host.Outcome State Fault Refusal :=
  scaRRR f { has := 2, narrow := 1 } (fun _ w a _ _ => clzOf w a) s

/-- SPOPC: ones in a (R182). -/
def execSpopc (f : RRR) (s : State) : Host.Outcome State Fault Refusal :=
  scaRRR f { has := 2, narrow := 1 } (fun _ w a _ _ => popOf w a) s

/-- SMOV of an immediate (R182). -/
def execSmovRi (f : RI) (s : State) : Host.Outcome State Fault Refusal :=
  scaRI f false (fun _ _ i => i) s

/-- SADD of an immediate (R182). -/
def execSaddRi (f : RI) (s : State) : Host.Outcome State Fault Refusal :=
  scaRI f true (fun _ a i => addW 32 a i) s

/-- SMUL by an immediate (R182). -/
def execSmulRi (f : RI) (s : State) : Host.Outcome State Fault Refusal :=
  scaRI f true (fun _ a i => mulW 32 a i) s

/-- SAND with an immediate (R182). -/
def execSandRi (f : RI) (s : State) : Host.Outcome State Fault Refusal :=
  scaRI f true (fun _ a i => a &&& i) s

/-- SOR with an immediate (R182). -/
def execSorRi (f : RI) (s : State) : Host.Outcome State Fault Refusal :=
  scaRI f true (fun _ a i => a ||| i) s

/-- SXOR with an immediate (R182). -/
def execSxorRi (f : RI) (s : State) : Host.Outcome State Fault Refusal :=
  scaRI f true (fun _ a i => a ^^^ i) s

/-- SSHL by an immediate (R182). -/
def execSshlRi (f : RI) (s : State) : Host.Outcome State Fault Refusal :=
  scaRI f true (fun _ a i => shlW 32 a i) s

/-- SSHR by an immediate (R182). -/
def execSshrRi (f : RI) (s : State) : Host.Outcome State Fault Refusal :=
  scaRI f true (fun _ a i => shrW 32 a i) s

/-- SSRA by an immediate (R182). -/
def execSsraRi (f : RI) (s : State) : Host.Outcome State Fault Refusal :=
  scaRI f true (fun _ a i => sraW 32 a i) s

/-- SCMP with an immediate (R182). -/
def execScmpRi (f : RI) (s : State) : Host.Outcome State Fault Refusal :=
  scaRI f true (fun sg a i => cmpW sg 32 a i) s

/-- SMIN with an immediate (R182). -/
def execSminRi (f : RI) (s : State) : Host.Outcome State Fault Refusal :=
  scaRI f true (fun sg a i => minW sg 32 a i) s

/-- SMAX with an immediate (R182). -/
def execSmaxRi (f : RI) (s : State) : Host.Outcome State Fault Refusal :=
  scaRI f true (fun sg a i => maxW sg 32 a i) s

end Sys2Proof.Machine
end

