-- ==== Sys2Proof/Machine/Float.lean ====
section
/-!
DEFINITION. Floating-point formats and arithmetic (spec/04_number_formats.md R77 to R90): values as exact dyadic numbers,
one rounding from an exact value to a format, NaNs, zeros and flags.
-/

namespace Sys2Proof.Machine

open Sys2Proof

/-- A floating-point format (R77). `kind` is the all-ones exponent: 0 normal, 1 E4M3 (only M = 111 is NaN), 2 Inf and NaN. -/
structure Fmt where
  ebits : Nat
  mbits : Nat
  bias  : Nat
  kind  : Nat
  deriving DecidableEq, Repr

/-- The float format of a TYPE code (R112, R77). -/
def fmtOf : Nat → Option Fmt
  | 4 => some { ebits := 8, mbits := 23, bias := 127, kind := 2 }
  | 5 => some { ebits := 11, mbits := 52, bias := 1023, kind := 2 }
  | 6 => some { ebits := 5, mbits := 10, bias := 15, kind := 2 }
  | 7 => some { ebits := 8, mbits := 7, bias := 127, kind := 2 }
  | 8 => some { ebits := 4, mbits := 3, bias := 7, kind := 1 }
  | 9 => some { ebits := 5, mbits := 2, bias := 15, kind := 2 }
  | 10 => some { ebits := 2, mbits := 3, bias := 1, kind := 0 }
  | 11 => some { ebits := 3, mbits := 2, bias := 3, kind := 0 }
  | 12 => some { ebits := 2, mbits := 1, bias := 1, kind := 0 }
  | _ => none

/-- FP32. -/
def fmt32 : Fmt := { ebits := 8, mbits := 23, bias := 127, kind := 2 }
/-- FP64. -/
def fmt64 : Fmt := { ebits := 11, mbits := 52, bias := 1023, kind := 2 }

/-- The format of a float TYPE, FP32 for other codes. -/
def fmtD (t : Nat) : Fmt := (fmtOf t).getD fmt32

/-- A TYPE code is a float format. -/
def isFloat (t : Nat) : Bool := (fmtOf t).isSome

/-- Bits of an element of each TYPE (R76, R112). -/
def typeBits (t : Nat) : Nat :=
  match t with
  | 0 => 32 | 1 => 32 | 2 => 64 | 3 => 64 | 4 => 32 | 5 => 64 | 6 => 16 | 7 => 16
  | 8 => 8 | 9 => 8 | 10 => 6 | 11 => 6 | 12 => 4 | 13 => 8 | 14 => 8 | _ => 4

/-- An exact value: (−1)^neg × m × 2^e, an infinity, or a NaN, signalling or quiet. -/
inductive Num where
  | fin (neg : Bool) (m : Nat) (e : Int)
  | inf (neg : Bool)
  | nan (sig : Bool)
  deriving DecidableEq, Repr

/-- The value of a bit pattern (R77, R88). -/
def fdec (f : Fmt) (x : Nat) : Num :=
  let neg := x.testBit (f.ebits + f.mbits)
  let e := x / 2 ^ f.mbits % 2 ^ f.ebits
  let m := x % 2 ^ f.mbits
  if f.kind = 2 ∧ e = 2 ^ f.ebits - 1 then (if m = 0 then .inf neg else .nan (!(m.testBit (f.mbits - 1))))
  else if f.kind = 1 ∧ e = 15 ∧ m = 7 then .nan false
  else if e = 0 then .fin neg m (1 - (f.bias : Int) - f.mbits)
  else .fin neg (m + 2 ^ f.mbits) ((e : Int) - f.bias - f.mbits)

/-- The value of an integer. -/
def ofInt (x : Int) : Num := .fin (decide (x < 0)) x.natAbs 0

/-- The value of an element of any TYPE (R74, R77). -/
def decodeType (t x : Nat) : Num :=
  match fmtOf t with
  | some f => fdec f x
  | none =>
    let w := typeBits t
    ofInt (valOf (decide (t = 0 ∨ t = 2 ∨ t = 13 ∨ t = 15)) w (x % 2 ^ w))

/-- Largest finite magnitude, as bits (R77). -/
def fmaxBits (f : Fmt) : Nat :=
  match f.kind with
  | 2 => (2 ^ f.ebits - 2) * 2 ^ f.mbits + (2 ^ f.mbits - 1)
  | 1 => 0x7E
  | _ => 2 ^ (f.ebits + f.mbits) - 1

/-- The canonical quiet NaN (R88); +0 in a format without NaN (R86). -/
def canonNaN (f : Fmt) : Nat :=
  match f.kind with
  | 2 => (2 ^ f.ebits - 1) * 2 ^ f.mbits + 2 ^ (f.mbits - 1)
  | 1 => 0x7F
  | _ => 0

/-- Infinity with a sign. -/
def infBits (f : Fmt) (neg : Bool) : Nat :=
  (if neg then 2 ^ (f.ebits + f.mbits) else 0) + (2 ^ f.ebits - 1) * 2 ^ f.mbits

/-- Floor of log2 of a nonzero finite value. -/
def expOf (m : Nat) (e : Int) : Int := (Nat.log2 m : Int) + e

/-- Compare magnitudes m × 2^e and n × 2^g: less. -/
def magLt (m : Nat) (e : Int) (n : Nat) (g : Int) : Bool :=
  if e ≤ g then decide (m < n * 2 ^ (g - e).toNat) else decide (m * 2 ^ (e - g).toNat < n)

/-- Round m × 2^e to a multiple of 2^q under a mode (R83, R84 `draw` is st[31:8]): the multiple, and whether it is inexact. -/
def rndTo (m : Nat) (e q : Int) (rm : Nat) (neg : Bool) (draw : Nat) : Nat × Bool :=
  if q ≤ e then (m * 2 ^ (e - q).toNat, false)
  else
    let sh := (q - e).toNat
    let k := m / 2 ^ sh
    let rem := m % 2 ^ sh
    if rem = 0 then (k, false)
    else
      let half := 2 ^ (sh - 1)
      let up := match rm with
        | 0 => decide (half < rem) || (decide (rem = half) && decide (k % 2 = 1))
        | 1 => false
        | 2 => !neg
        | 3 => neg
        | _ => if neg then !(decide (draw < (2 ^ sh - rem) * 2 ^ 24 / 2 ^ sh)) else decide (draw < rem * 2 ^ 24 / 2 ^ sh)
      (if up then k + 1 else k, true)

/-- Deliver an exact value in a format (R79, R83 to R86, R90): the bits and the flags raised. -/
def fenc (f : Fmt) (x : Num) (rm : Nat) (sat : Bool) (draw : Nat) : FRes :=
  let sgn (neg : Bool) : Nat := if neg then 2 ^ (f.ebits + f.mbits) else 0
  match x with
  | .nan sig => { val := canonNaN f, fl := if f.kind = 0 ∨ sig then flagNV else 0 }
  | .inf neg =>
    if f.kind = 2 ∧ !sat then { val := infBits f neg }
    else if f.kind = 1 ∧ !sat then { val := sgn neg + 0x7F, fl := flagNV }
    else { val := sgn neg + fmaxBits f, fl := flagNV }
  | .fin neg m e =>
    if m = 0 then { val := sgn neg }
    else
      let emin : Int := 1 - f.bias
      let ex := expOf m e
      let ku := (rndTo m e (ex - f.mbits) rm neg draw).1
      let top := match fdec f (fmaxBits f) with | .fin _ a b => (a, b) | _ => (0, 0)
      let covered := if rm = 4 then magLt top.1 top.2 m e else magLt top.1 top.2 ku (ex - f.mbits)
      if covered then
        let away := !sat && (decide (rm = 0) || (decide (rm = 2) && !neg) || (decide (rm = 3) && neg))
        let v := if f.kind = 0 ∨ !away then sgn neg + fmaxBits f else if f.kind = 2 then infBits f neg else sgn neg + 0x7F
        { val := v, fl := flagOF ||| flagNX }
      else
        let q : Int := max ex emin - f.mbits
        let r := rndTo m e q rm neg draw
        let tiny := decide (expOf ku (ex - f.mbits) < emin)
        let fl := if r.2 then (if tiny then flagNX ||| flagUF else flagNX) else 0
        if r.1 = 0 then { val := sgn neg, fl := fl }
        else
          let ev := expOf r.1 q
          if ev < emin then { val := sgn neg + r.1, fl := fl }
          else
            let mant := if Nat.log2 r.1 ≤ f.mbits then r.1 * 2 ^ (f.mbits - Nat.log2 r.1) else r.1 / 2 ^ (Nat.log2 r.1 - f.mbits)
            { val := sgn neg + (ev + f.bias).toNat * 2 ^ f.mbits + (mant - 2 ^ f.mbits), fl := fl }

/-! ### Exact arithmetic -/

/-- Change of sign. -/
def nneg : Num → Num
  | .fin s m e => .fin (!s) m e
  | .inf s => .inf (!s)
  | .nan g => .nan g

/-- Exact product; `none` for Inf × 0 (R89). -/
def nmul : Num → Num → Option Num
  | .fin a m e, .fin b n g => some (.fin (a != b) (m * n) (e + g))
  | .inf a, .inf b => some (.inf (a != b))
  | .inf a, .fin b n _ => if n = 0 then none else some (.inf (a != b))
  | .fin a m _, .inf b => if m = 0 then none else some (.inf (a != b))
  | .nan g, _ => some (.nan g)
  | _, .nan g => some (.nan g)

/-- The least exponent of a list of finite values. -/
def minExp (e : Int) : List Num → Int
  | [] => e
  | .fin _ _ g :: r => minExp (min e g) r
  | _ :: r => minExp e r

/-- Exact sum of non-NaN terms; `none` where +Inf meets −Inf. A zero sum is −0 when every term is −0 or the mode is RDN
(R90). -/
def nsum (rm : Nat) (ts : List Num) : Option Num :=
  let pos := ts.any (fun t => decide (t = .inf false))
  let neg := ts.any (fun t => decide (t = .inf true))
  if pos && neg then none
  else if pos then some (.inf false)
  else if neg then some (.inf true)
  else
    let e := minExp (match ts with | .fin _ _ g :: _ => g | _ => 0) ts
    let v := ts.foldl (fun (a : Int) t => match t with
      | .fin s m g => let x : Int := m * 2 ^ (g - e).toNat; if s then a - x else a + x
      | _ => a) 0
    if v = 0 then
      some (.fin (decide (rm = 3) || ts.all (fun t => match t with | .fin s _ _ => s | _ => false)) 0 0)
    else some (.fin (decide (v < 0)) v.natAbs e)

/-- Integer square root by bits: the greatest r below 2^n above `r` with (r)² ≤ v. -/
def isqrtFrom (v : Nat) : Nat → Nat → Nat
  | 0, r => r
  | n + 1, r => let t := r + 2 ^ n; isqrtFrom v n (if t * t ≤ v then t else r)

/-- Floor of the square root. -/
def isqrt (v : Nat) : Nat := isqrtFrom v (Nat.log2 v / 2 + 1) 0

/-- a ÷ b as an exact value with a sticky last bit, so that one rounding of it is that of the quotient (R262). -/
def ndiv (a b : Num) : Option (Num × Nat) :=
  match a, b with
  | .inf _, .inf _ => none
  | .inf s, .fin t _ _ => some (.inf (s != t), 0)
  | .fin s _ _, .inf t => some (.fin (s != t) 0 0, 0)
  | .fin s m e, .fin t n g =>
    if n = 0 then (if m = 0 then none else some (.inf (s != t), flagDZ))
    else if m = 0 then some (.fin (s != t) 0 0, 0)
    else
      let sh := (Nat.log2 n + 1 - Nat.log2 m) + 80
      let x := m * 2 ^ sh
      some (.fin (s != t) (2 * (x / n) + (if x % n = 0 then 0 else 1)) (e - g - sh - 1), 0)
  | .nan g, _ => some (.nan g, 0)
  | _, .nan g => some (.nan g, 0)

/-- √a with a sticky last bit; `none` for a negative number (R262, R90). -/
def nsqrt : Num → Option Num
  | .fin s m e =>
    if m = 0 then some (.fin s 0 0)
    else if s then none
    else
      let m1 := if e % 2 = 0 then m * 2 ^ 160 else m * 2 ^ 161
      let e1 := if e % 2 = 0 then e - 160 else e - 161
      let r := isqrt m1
      some (.fin false (2 * r + (if r * r = m1 then 0 else 1)) (e1 / 2 - 1))
  | .inf s => if s then none else some (.inf false)
  | .nan g => some (.nan g)

/-! ### Operations of one format (R89) -/

/-- The value is a NaN. -/
def isNaN : Num → Bool
  | .nan _ => true
  | _ => false

/-- The value is a signalling NaN. -/
def isSNaN : Num → Bool
  | .nan g => g
  | _ => false

/-- A NaN quieted: the most significant bit of M set (R89). -/
def quietBits (f : Fmt) (x : Nat) : Nat := if f.kind = 2 then x ||| 2 ^ (f.mbits - 1) else x

/-- The NaN rule of R89 for operands of one format: the first NaN quieted, invalid for a signalling one. Log 66 (DESIGN CHOICE). -/
def nanRule (f : Fmt) (xs : List Nat) : Option FRes :=
  let fl := if xs.any (fun x => isSNaN (fdec f x)) then flagNV else 0
  match xs.find? (fun x => isNaN (fdec f x)) with
  | some x => some { val := quietBits f x, fl := fl }
  | none => none

/-- Deliver a result, or the canonical NaN with invalid where there is none (R89). Log 66 (DESIGN CHOICE). -/
def deliverNum (f : Fmt) (rm : Nat) : Option Num → FRes
  | some x => fenc f x rm false 0
  | none => { val := canonNaN f, fl := flagNV }

/-- a + b. -/
def fAdd (f : Fmt) (rm a b : Nat) : FRes :=
  match nanRule f [a, b] with
  | some r => r
  | none => deliverNum f rm (nsum rm [fdec f a, fdec f b])

/-- a − b. -/
def fSub (f : Fmt) (rm a b : Nat) : FRes :=
  match nanRule f [a, b] with
  | some r => r
  | none => deliverNum f rm (nsum rm [fdec f a, nneg (fdec f b)])

/-- a × b. -/
def fMul (f : Fmt) (rm a b : Nat) : FRes :=
  match nanRule f [a, b] with
  | some r => r
  | none => deliverNum f rm (nmul (fdec f a) (fdec f b))

/-- ±(a × b) ± c, rounded once (R243); Inf × 0 raises invalid even where c is a NaN. -/
def fFma (f : Fmt) (rm : Nat) (np nc : Bool) (a b c : Nat) : FRes :=
  let p := nmul (fdec f a) (fdec f b)
  match nanRule f [a, b, c] with
  | some r => { r with fl := if p = none then r.fl ||| flagNV else r.fl }
  | none =>
    match p with
    | none => { val := canonNaN f, fl := flagNV }
    | some x => deliverNum f rm (nsum rm [if np then nneg x else x, if nc then nneg (fdec f c) else fdec f c])

/-- Order of two non-NaN values, −0 equal to +0: −1, 0 or 1. -/
def ncmp (a b : Num) : Int :=
  let sgn : Num → Int := fun x => match x with
    | .fin s m _ => if m = 0 then 0 else if s then -1 else 1
    | .inf s => if s then -2 else 2
    | .nan _ => 0
  match a, b with
  | .fin s m e, .fin t n g =>
    let x : Int := (if s then -1 else 1) * (m * 2 ^ (e - min e g).toNat)
    let y : Int := (if t then -1 else 1) * (n * 2 ^ (g - min e g).toNat)
    if x < y then -1 else if x = y then 0 else 1
  | _, _ => if sgn a < sgn b then -1 else if sgn a = sgn b then 0 else 1

/-- The sign bit of a pattern. -/
def signBit (f : Fmt) (x : Nat) : Bool := x.testBit (f.ebits + f.mbits)

/-- min(a, b): exact; min(−0, +0) is −0 (R90). -/
def fMin (f : Fmt) (a b : Nat) : FRes :=
  match nanRule f [a, b] with
  | some r => r
  | none =>
    let o := ncmp (fdec f a) (fdec f b)
    { val := if o < 0 then a else if 0 < o then b else if signBit f a then a else b }

/-- max(a, b): exact; max(−0, +0) is +0 (R90). -/
def fMax (f : Fmt) (a b : Nat) : FRes :=
  match nanRule f [a, b] with
  | some r => r
  | none =>
    let o := ncmp (fdec f a) (fdec f b)
    { val := if 0 < o then a else if o < 0 then b else if signBit f a then b else a }

/-- Clear, invert or copy a sign (VABS, VNEG, VSGN); NaN operands follow R89. -/
def fSign (f : Fmt) (xs : List Nat) (v : Nat) : FRes :=
  match nanRule f xs with
  | some r => r
  | none => { val := v }

/-- The magnitude bits of a pattern. -/
def magBits (f : Fmt) (x : Nat) : Nat := x % 2 ^ (f.ebits + f.mbits)

/-- A pattern with a sign. -/
def withSign (f : Fmt) (x : Nat) (neg : Bool) : Nat := magBits f x + (if neg then 2 ^ (f.ebits + f.mbits) else 0)

/-- min(max(a, b), c); the result is the first NaN among a, b and c (R243). -/
def fClamp (f : Fmt) (a b c : Nat) : FRes :=
  match nanRule f [a, b, c] with
  | some r => r
  | none => fMin f (fMax f a b).val c

/-- |a − b| with a − b rounded once (R242). -/
def fAbsd (f : Fmt) (rm a b : Nat) : FRes :=
  match nanRule f [a, b] with
  | some r => r
  | none =>
    let r := fSub f rm a b
    { r with val := if isNaN (fdec f r.val) then r.val else magBits f r.val }

/-! ### Conversions -/

/-- Conversion to an integer type (R87): saturating; NaN gives 0. -/
def toIntType (signed : Bool) (w : Nat) (x : Num) (rm : Nat) : FRes :=
  let lo : Int := if signed then -(2 ^ (w - 1) : Int) else 0
  let hi : Int := if signed then 2 ^ (w - 1) - 1 else 2 ^ w - 1
  match x with
  | .nan _ => { val := 0, fl := flagNV }
  | .inf s => { val := narrow w (if s then lo else hi), fl := flagNV }
  | .fin s m e =>
    let r := rndTo m e 0 rm s 0
    let v : Int := if s then -(r.1 : Int) else r.1
    if v < lo then { val := narrow w lo, fl := flagNV }
    else if hi < v then { val := narrow w hi, fl := flagNV }
    else { val := narrow w v, fl := if r.2 then flagNX else 0 }

/-- A strand's stochastic state after one step (R84). -/
def srNext (st : Nat) : Nat :=
  let a := st ^^^ (st * 2 ^ 13 % 2 ^ 32)
  let b := a ^^^ (a / 2 ^ 17)
  b ^^^ (b * 2 ^ 5 % 2 ^ 32)

/-- A strand's initial state from a seed (R84). -/
def srInit (seed sid : Nat) : Nat :=
  let st := seed ^^^ ((sid + 1) * 0x9E3779B9 % 2 ^ 32)
  if st = 0 then 1 else st

/-- Convert an exact value to any TYPE (R85 to R87): under SR a float target first advances the strand's state (R84). -/
def convert (t : Nat) (x : Num) (rm : Nat) (sat : Bool) (st : Nat) : FRes × Nat :=
  match fmtOf t with
  | some f =>
    if rm = 4 then let st1 := srNext st; (fenc f x 4 sat (st1 / 2 ^ 8), st1) else (fenc f x rm sat 0, st)
  | none => (toIntType (decide (t = 0 ∨ t = 2 ∨ t = 13 ∨ t = 15)) (typeBits t) x rm, st)

/-! ### MX blocks (R80 to R82) -/

/-- emax of an element type (R82); MXINT8 is TYPE 13. -/
def emaxOf (t : Nat) : Int :=
  match t with | 8 => 8 | 9 => 15 | 11 => 4 | 10 => 2 | 12 => 2 | _ => 0

/-- The value times a power of two. -/
def nscale (x : Num) (k : Int) : Num :=
  match x with
  | .fin s m e => .fin s m (e + k)
  | y => y

/-- The element's own value P_i (R81). -/
def elemVal (t x : Nat) : Num := if t = 13 then nscale (decodeType 13 x) (-6) else decodeType t x

/-- The scale that R82 chooses for the largest magnitude of a block. -/
def mxScale (t : Nat) (amax : Num) : Nat :=
  match amax with
  | .fin _ m e => if m = 0 then 0 else (max 0 (min 254 (expOf m e - emaxOf t + 127))).toNat
  | _ => 255

/-- Convert one value to an element of a block with scale X (R82): a result beyond the element's range is its end, inexact. -/
def mxElem (t X : Nat) (x : Num) (rm st : Nat) : FRes × Nat :=
  let st1 := if rm = 4 then srNext st else st
  let draw := st1 / 2 ^ 8
  let y := nscale x (127 - (X : Int))
  if t = 13 then
    match nscale y 6 with
    | .fin s m e =>
      let r := rndTo m e 0 rm s draw
      let v : Int := if s then -(r.1 : Int) else r.1
      if 127 < v then ({ val := 127, fl := flagNX }, st1)
      else if v < -128 then ({ val := 0x80, fl := flagNX }, st1)
      else ({ val := narrow 8 v, fl := if r.2 then flagNX else 0 }, st1)
    | _ => ({ val := 0 }, st1)
  else
    let r := fenc (fmtD t) y rm true draw
    ({ r with fl := if r.fl &&& flagOF ≠ 0 then flagNX else r.fl }, st1)

/-- The larger of two magnitudes; NaN above Inf above all finite ones. -/
def nmaxMag (a b : Num) : Num :=
  match a, b with
  | .nan g, .nan h => .nan (g || h)
  | .nan g, _ => .nan g
  | _, .nan g => .nan g
  | .inf _, _ => .inf false
  | _, .inf _ => .inf false
  | .fin _ m e, .fin _ n g => if magLt m e n g then .fin false n g else .fin false m e

/-- The largest magnitude of a list. -/
def amaxOf (xs : List Num) : Num := xs.foldl nmaxMag (.fin false 0 0)

/-- Quantise the values of one block (R82): the scale, and each element with its flags. `sts` gives each value the state it
converts with and takes back what follows. -/
def mxQuant (t : Nat) (xs : List Num) (rm : Nat) (st : Nat) : Nat × List FRes × Nat :=
  let a := amaxOf xs
  match a with
  | .fin _ m _ =>
    let X := mxScale t a
    if m = 0 then
      (X, xs.map (fun x => { val := match x with
        | .fin true _ _ => if t = 13 then 0 else 2 ^ (typeBits t - 1)
        | _ => 0 }), xs.foldl (fun st _ => if rm = 4 then srNext st else st) st)
    else
      let r := xs.foldl (fun (p : List FRes × Nat) x => let y := mxElem t X x rm p.2; (p.1 ++ [y.1], y.2)) ([], st)
      (X, r.1, r.2)
  | _ =>
    (255, xs.map (fun _ => { val := 0, fl := flagNV }), xs.foldl (fun st _ => if rm = 4 then srNext st else st) st)

/-- The value of an element under a scale (R81). -/
def mxVal (t X x : Nat) : Num :=
  if X = 255 then .nan false else nscale (elemVal t x) ((X : Int) - 127)

end Sys2Proof.Machine
end

