-- ==== Sys2Proof/Machine/Special.lean ====
section
/-!
DEFINITION. The special functions of the Assay (spec/12_assay.md R259 to R261): the exact result to 400 fractional bits, the
bound that the accuracy class puts on the delivered result, and the delivered result: a free function of the operand's bits
inside that bound (log entry 4).
-/

namespace Sys2Proof.Machine

open Sys2Proof

/-- Fixed-point values: integers in units of 2^−400. -/
def fxP : Nat := 400

/-- One, in fixed point. -/
def fxOne : Int := 2 ^ fxP

/-- Product of fixed-point values. -/
def fxMul (a b : Int) : Int := a * b / fxOne

/-- Quotient of fixed-point values. -/
def fxDiv (a b : Int) : Int := a * fxOne / b

/-- Taylor terms of e^z: n counts down, k up. -/
def expTerms (z : Int) : Nat → Nat → Int → Int → Int
  | 0, _, _, acc => acc
  | n + 1, k, t, acc => let t1 := fxMul t z / (k : Int); expTerms z n (k + 1) t1 (acc + t1)

/-- e^z for |z| at most 1. -/
def fxExp (z : Int) : Int := expTerms z 100 1 fxOne fxOne

/-- Terms of atanh t: t + t³/3 + … -/
def atanhTerms (t2 : Int) : Nat → Nat → Int → Int → Int
  | 0, _, _, acc => acc
  | n + 1, k, p, acc => let p1 := fxMul p t2; atanhTerms t2 n (k + 2) p1 (acc + p1 / (k : Int))

/-- atanh t for |t| at most 1/3. -/
def fxAtanh (t : Int) : Int := atanhTerms (fxMul t t) 140 3 t t

/-- ln 2. -/
def fxLn2 : Int := 2 * fxAtanh (fxOne / 3)

/-- Terms of Euler's series for the arctangent. -/
def atanTerms (r : Int) : Nat → Nat → Int → Int → Int
  | 0, _, _, acc => acc
  | n + 1, k, t, acc => let t1 := fxMul t r * (2 * k : Int) / (2 * k + 1 : Int); atanTerms r n (k + 1) t1 (acc + t1)

/-- arctan t for |t| at most 1. -/
def fxAtan (t : Int) : Int :=
  let t2 := fxMul t t
  let d := fxOne + t2
  let t0 := fxDiv t d
  atanTerms (fxDiv t2 d) 420 1 t0 t0

/-- π. -/
def fxPi : Int := 4 * fxAtan fxOne

/-- Terms of sine or cosine. -/
def trigTerms (z2 : Int) : Nat → Nat → Int → Int → Int
  | 0, _, _, acc => acc
  | n + 1, k, t, acc => let t1 := -(fxMul t z2) / ((k * (k + 1) : Nat) : Int); trigTerms z2 n (k + 2) t1 (acc + t1)

/-- sin z for |z| at most 2. -/
def fxSin (z : Int) : Int := trigTerms (fxMul z z) 60 2 z z

/-- cos z for |z| at most 2. -/
def fxCos (z : Int) : Int := trigTerms (fxMul z z) 60 1 fxOne fxOne

/-- A finite value in fixed point; values below 2^−400 lose bits. -/
def fxOf (m : Nat) (e : Int) : Int := if 0 ≤ e + fxP then (m * 2 ^ (e + fxP).toNat : Nat) else (m / 2 ^ (-(e + fxP)).toNat : Nat)

/-- A fixed-point value times 2^k as an exact number. -/
def numFx (x k : Int) : Num := .fin (decide (x < 0)) x.natAbs (k - fxP)

/-- e^r × 2^k for r = a − k ln 2. -/
def expNum (a : Int) : Num :=
  let k := a / fxLn2
  numFx (fxExp (a - k * fxLn2)) k

/-- ln of m × 2^e. -/
def lnFx (m : Nat) (e : Int) : Int :=
  let x := fxOf m (-(Nat.log2 m : Int))
  2 * fxAtanh (fxDiv (x - fxOne) (x + fxOne)) + expOf m e * fxLn2

/-- sin or cos of a nonnegative value, by its octant: the quadrant of a, and the rest within one quadrant. -/
def trigNum (cosine : Bool) (m : Nat) (e : Int) : Num :=
  let a := fxOf m e
  let h := fxPi / 2
  let k := a / h
  let r := a - k * h
  let q := ((if cosine then k + 1 else k) % 4).toNat
  numFx (match q with | 0 => fxSin r | 1 => fxCos r | 2 => -(fxSin r) | _ => -(fxCos r)) 0

/-! ### Accuracy classes (R259) -/

/-- A free choice for an operand of a function: candidate bits (log entry 4). -/
def candidate (opc x : Nat) : Nat := Config.special opc x

/-- Flags of a faithful or k-ulp result (R259). -/
def classFlags (f : Fmt) (x : Num) (exact : Bool) : Nat :=
  if exact then 0
  else match x with
    | .fin _ m e => if expOf m e < 1 - (f.bias : Int) then flagNX ||| flagUF else flagNX
    | _ => flagNX

/-- The result overflows: RNE with unbounded exponent exceeds the largest finite magnitude (R259). -/
def overflows (f : Fmt) (x : Num) : Bool := decide ((fenc f x 0 false 0).fl &&& flagOF ≠ 0)

/-- A faithful result (R259): x itself where it is representable, else one of its two neighbours, by the free choice.
Log 4 (DESIGN CHOICE). -/
def faithful (f : Fmt) (opc a : Nat) (x : Num) : FRes :=
  if overflows f x then { val := infBits f (match x with | .fin s _ _ => s | _ => false), fl := flagOF ||| flagNX }
  else
    let lo := fenc f x 1 false 0
    if lo.fl = 0 then { val := lo.val }
    else { val := lo.val + candidate opc a % 2, fl := classFlags f x false }

/-- |y − x| < k × ulp(x) for finite y and x ≠ 0 (R259). Log 4 (DESIGN CHOICE). -/
def withinUlp (f : Fmt) (k : Nat) (y x : Num) : Bool :=
  match x with
  | .fin _ m e =>
    let ulp : Int := max (expOf m e) (1 - (f.bias : Int)) - f.mbits
    match nsum 0 [y, nneg x] with
    | some (.fin _ d g) => magLt d g k ulp
    | _ => false
  | _ => false

/-- A result within k ulp (R259): the free choice where it is a value of the sign of x inside the bound, else x rounded to
nearest. -/
def kulp (f : Fmt) (k opc a : Nat) (x : Num) : FRes :=
  let neg := match x with | .fin s _ _ => s | _ => false
  if overflows f x then { val := infBits f neg, fl := flagOF ||| flagNX }
  else
    let c := withSign f (candidate opc a) neg
    let y := match fdec f c with
      | .fin s m e => if withinUlp f k (.fin s m e) x then c else (fenc f x 0 false 0).val
      | _ => (fenc f x 0 false 0).val
    { val := y, fl := classFlags f x false }

/-- The functions of R260 that are not correctly rounded. -/
inductive Fn where
  | rcp | rsq | exp2 | log2 | sin | cos | expe | loge | tanh | atan
  deriving DecidableEq, Repr

/-- Opcode of a function (R260). -/
def Fn.opc : Fn → Nat
  | .rcp => 0x80 | .rsq => 0x81 | .exp2 => 0x84 | .log2 => 0x85 | .sin => 0x86 | .cos => 0x87 | .expe => 0x95 | .loge => 0x96
  | .tanh => 0x97 | .atan => 0x98

/-- Zero and infinity of a format, the canonical NaN with invalid. Log 66 (DESIGN CHOICE). -/
def zeroRes (f : Fmt) (neg : Bool) : FRes := { val := if neg then 2 ^ (f.ebits + f.mbits) else 0 }
/-- ±Inf with flags. Log 66 (DESIGN CHOICE). -/
def infRes (f : Fmt) (neg : Bool) (fl : Nat) : FRes := { val := infBits f neg, fl := fl }
/-- The canonical NaN with NV. Log 66 (DESIGN CHOICE). -/
def badRes (f : Fmt) : FRes := { val := canonNaN f, fl := flagNV }
/-- 1.0. -/
def oneBits (f : Fmt) : Nat := f.bias * 2 ^ f.mbits

/-- A small argument returned as it is: NX, and UF where it is subnormal (R261). -/
def smallRes (f : Fmt) (a : Nat) : FRes :=
  { val := a, fl := if magBits f a < 2 ^ f.mbits then flagNX ||| flagUF else flagNX }

/-- A function of a nonzero finite operand (R261): `a` its bits, ±m × 2^e its value. The reciprocal of a magnitude above 2^(bias − 1) is
subnormal. -/
def fnFinite (g : Fn) (f : Fmt) (a : Nat) (neg : Bool) (m : Nat) (e : Int) : FRes :=
  let mag := magBits f a
  let signed (r : FRes) : FRes := { r with val := withSign f r.val neg }
  let ltNeg12 := magLt m e 1 (-12)
  let ai : Int := if neg then -(fxOf m e) else fxOf m e
  match g with
  | .rcp =>
    match ndiv (.fin false 1 0) (.fin false m e) with
    | some (x, _) =>
      let r := faithful f g.opc mag x
      signed (if magLt 1 ((f.bias : Int) - 1) m e ∧ 2 ^ f.mbits ≤ r.val then { r with val := 2 ^ f.mbits - 1 } else r)
    | none => badRes f
  | .rsq =>
    if neg then badRes f
    else
      -- 1/√a to more than 290 bits, with a sticky last bit
      match ndiv (.fin false (2 ^ 400) (-400)) (.fin false m e) with
      | some (x, _) =>
        match nsqrt x with
        | some y => faithful f g.opc a y
        | none => badRes f
      | none => badRes f
  | .exp2 =>
    let whole := decide (0 ≤ e) || decide (m % 2 ^ (-e).toNat = 0)
    if !neg && !(magLt m e 128 0) then infRes f false (flagOF ||| flagNX)
    else if neg && !(magLt m e 151 0) then { val := 0, fl := flagUF ||| flagNX }
    else
      let fl := ai / fxOne
      if whole && decide (-149 ≤ fl) then { val := (fenc f (.fin false 1 fl) 0 false 0).val }
      else kulp f 2 g.opc a (numFx (fxExp (fxMul (ai - fl * fxOne) fxLn2)) fl)
  | .expe =>
    if !neg && !(magLt m e 89 0) then infRes f false (flagOF ||| flagNX)
    else if neg && !(magLt m e 104 0) then { val := 0, fl := flagUF ||| flagNX }
    else kulp f 3 g.opc a (expNum ai)
  | .log2 =>
    if neg then badRes f
    else if m = 2 ^ Nat.log2 m then { val := (fenc f (ofInt (expOf m e)) 0 false 0).val }
    else kulp f 2 g.opc a (numFx (fxDiv (lnFx m e) fxLn2) 0)
  | .loge =>
    if neg then badRes f
    else if mag = oneBits f then { val := 0 }
    else kulp f 3 g.opc a (numFx (lnFx m e) 0)
  | .sin =>
    if ltNeg12 then smallRes f a
    else
      match trigNum false m e with
      | .fin s x h => let r := kulp f 2 g.opc mag (.fin s x h); if neg then { r with val := withSign f r.val (!s) } else r
      | _ => badRes f
  | .cos => kulp f 2 g.opc mag (trigNum true m e)
  | .tanh =>
    if !(magLt m e 10 0) then { val := withSign f (oneBits f) neg, fl := flagNX }
    else if ltNeg12 then smallRes f a
    else
      let z := 2 * fxOf m e
      let k := z / fxLn2
      let y := fxExp (z - k * fxLn2) * 2 ^ k.toNat
      signed (kulp f 3 g.opc mag (numFx (fxDiv (y - fxOne) (y + fxOne)) 0))
  | .atan =>
    if ltNeg12 then smallRes f a
    else
      let x := if magLt m e 1 0 then fxAtan (fxOf m e)
        else fxPi / 2 - fxAtan (if 100 < expOf m e then 0 else fxDiv fxOne (fxOf m e))
      signed (kulp f 2 g.opc mag (numFx x 0))

/-- A function of any operand (R261). Log 4 (DESIGN CHOICE). -/
def fnEval (g : Fn) (f : Fmt) (a : Nat) : FRes :=
  match nanRule f [a] with
  | some r => r
  | none =>
    match fdec f a with
    | .nan _ => badRes f
    | .inf neg =>
      match g with
      | .rcp => zeroRes f neg
      | .rsq => if neg then badRes f else zeroRes f false
      | .exp2 => if neg then zeroRes f false else infRes f false 0
      | .expe => if neg then zeroRes f false else infRes f false 0
      | .log2 => if neg then badRes f else infRes f false 0
      | .loge => if neg then badRes f else infRes f false 0
      | .sin => badRes f
      | .cos => badRes f
      | .tanh => { val := withSign f (oneBits f) neg }
      | .atan => { val := withSign f 0x3FC90FDB neg, fl := flagNX }
    | .fin neg m e =>
      if m = 0 then
        match g with
        | .rcp => infRes f neg flagDZ
        | .rsq => infRes f neg flagDZ
        | .exp2 => { val := oneBits f }
        | .expe => { val := oneBits f }
        | .log2 => infRes f true flagDZ
        | .loge => infRes f true flagDZ
        | .cos => { val := oneBits f }
        | _ => zeroRes f neg
      else fnFinite g f a neg m e

end Sys2Proof.Machine
end

