-- ==== Sys2Proof/Machine/Spindle.lean ====
section
/-!
DEFINITION. The Spindle's instructions, opcodes 0x30 to 0x7B (spec/11_spindle.md R240 to R256).
-/

namespace Sys2Proof.Machine

open Sys2Proof

/-! ### Shared operations -/

/-- Elements of each TYPE that a register operand of an element-wise instruction holds (R240, R76). -/
def lanesOf (t : Nat) : Nat := if t = 6 ∨ t = 7 then 2 else if t = 13 ∨ t = 14 then 4 else 1

/-- Registers that an operand of a TYPE occupies (R240). -/
def wordsOf (t : Nat) : Nat := if t = 2 ∨ t = 3 ∨ t = 5 then 2 else 1

/-- The type reads its values as signed. -/
def isSigned (t : Nat) : Bool := decide (t = 0 ∨ t = 2 ∨ t = 13 ∨ t = 15)

/-- Element e of an operand. -/
def lane (t x e : Nat) : Nat := x / 2 ^ (typeBits t * e) % 2 ^ typeBits t

/-- An operation on each element of packed operands; flags of the elements OR together (R243). -/
def lanewise (t : Nat) (op : Nat → Nat → Nat → FRes) (a b c : Nat) : FRes :=
  (List.range (lanesOf t)).foldl (fun (r : FRes) e =>
    let x := op (lane t a e) (lane t b e) (lane t c e)
    { val := r.val + x.val * 2 ^ (typeBits t * e), fl := r.fl ||| x.fl }) { val := 0 }

/-- The shape of an element-wise instruction: sources, types, whether it rounds floats, operands of 32 bits whatever the
type (bits 0 d, 2 b, 3 c), a destination pair whatever the type. -/
structure VShape where
  nsrc   : Nat
  types  : List Nat
  rounds : Bool := false
  narrow : Nat := 0
  pair   : Bool := false

/-- RM is legal: 0 to 3 where the instruction rounds a float type, else 0 (R240). -/
def rmOk (rounds : Bool) (t rm : Nat) : Bool := if rounds && isFloat t then decide (rm ≤ 3) else decide (rm = 0)

/-- Width in words of operand i of a shape. -/
def VShape.wide (h : VShape) (t i : Nat) : Nat :=
  if i = 0 ∧ h.pair then 2 else if h.narrow.testBit i then 1 else wordsOf t

/-- The form of an element-wise RRR instruction. A destination that must be an even pair is one of v, s or t registers, and any other
raises cause 4 (R242). -/
def vecForm (f : RRR) (h : VShape) (opxOk : Bool) : Form :=
  let t := modTYPE f.mod
  { ops := [if h.pair then dstIn 11 f.dst 2 4 else dst f.dst (h.wide t 0), src f.sa (h.wide t 1),
      if 2 ≤ h.nsrc then src f.sb (h.wide t 2) else unused f.sb, if 3 ≤ h.nsrc then src f.sc (h.wide t 3) else unused f.sc],
    modOk := h.types.contains t && rmOk h.rounds t (modRM f.mod) && !modSAT f.mod && opxOk }

/-- An element-wise RRR instruction: `op` takes TYPE, RM and the operands of one strand (R243). -/
def vecRRR (f : RRR) (h : VShape) (opxOk : Bool) (op : Nat → Nat → Nat → Nat → Nat → FRes) (s : State) :
    Host.Outcome State Fault Refusal :=
  let t := modTYPE f.mod
  issueRow s f.pn f.pred (vecForm f h opxOk) (fun s c =>
    perStrand s c f.dst.toNat (h.wide t 0) (fun k =>
      op t (modRM f.mod) (srcN s c f.sa.toNat k (h.wide t 1)) (srcN s c f.sb.toNat k (h.wide t 2))
        (srcN s c f.sc.toNat k (h.wide t 3))))

/-- The TYPE of an ITYPE (R113, R240). -/
def itypeOf (i : BitVec 2) : Nat := if i = 2 then 4 else i.toNat

/-- An element-wise RI instruction, on 32 bits; `floats`: ITYPE 2 is allowed (R240). -/
def vecRI (f : RI) (usesA floats : Bool) (op : Nat → Nat → Nat → FRes) (s : State) : Host.Outcome State Fault Refusal :=
  issueRow s f.pn f.pred
    { ops := [dst f.dst, if usesA then src f.sa else unused f.sa],
      modOk := decide (f.itype.toNat ≤ if floats then 2 else 1) } (fun s c =>
    perStrand s c f.dst.toNat 1 (fun k => op (itypeOf f.itype) (srcN s c f.sa.toNat k 1) f.imm.toNat))

/-- An integer result. -/
def ires (v : Nat) : FRes := { val := v }

/-- x clamped to the range of a type (R243). -/
def clampType (t : Nat) (x : Int) : Nat :=
  let w := typeBits t
  let lo : Int := if isSigned t then -(2 ^ (w - 1) : Int) else 0
  let hi : Int := if isSigned t then 2 ^ (w - 1) - 1 else 2 ^ w - 1
  narrow w (max lo (min hi x))

/-- The value of an element as its integer type reads it. -/
def ival (t x : Nat) : Int := valOf (isSigned t) (typeBits t) x

/-- a + b, element by element (VADD). -/
def addType (t rm a b : Nat) : FRes := lanewise t (fun a b _ =>
  match fmtOf t with | some f => fAdd f rm a b | none => ires (addW (typeBits t) a b)) a b 0
/-- a − b (VSUB). -/
def subType (t rm a b : Nat) : FRes := lanewise t (fun a b _ =>
  match fmtOf t with | some f => fSub f rm a b | none => ires (subW (typeBits t) a b)) a b 0
/-- a × b (VMUL). -/
def mulType (t rm a b : Nat) : FRes := lanewise t (fun a b _ =>
  match fmtOf t with | some f => fMul f rm a b | none => ires (mulW (typeBits t) a b)) a b 0
/-- min(a, b). -/
def minType (t a b : Nat) : FRes := lanewise t (fun a b _ =>
  match fmtOf t with | some f => fMin f a b | none => ires (minW (isSigned t) (typeBits t) a b)) a b 0
/-- max(a, b). -/
def maxType (t a b : Nat) : FRes := lanewise t (fun a b _ =>
  match fmtOf t with | some f => fMax f a b | none => ires (maxW (isSigned t) (typeBits t) a b)) a b 0
/-- a + b clamped to the type's range (VADDS). -/
def addsType (t a b : Nat) : FRes := lanewise t (fun a b _ => ires (clampType t (ival t a + ival t b))) a b 0
/-- a − b clamped (VSUBS). -/
def subsType (t a b : Nat) : FRes := lanewise t (fun a b _ => ires (clampType t (ival t a - ival t b))) a b 0
/-- min(max(a, b), c) (VCLAMP). -/
def clampOp (t a b c : Nat) : FRes := lanewise t (fun a b c =>
  match fmtOf t with
  | some f => fClamp f a b c
  | none => ires (minW (isSigned t) (typeBits t) (maxW (isSigned t) (typeBits t) a b) c)) a b c
/-- ±(a × b) ± c (VFMA, VFMS, VFNMA). -/
def fmaType (np nc : Bool) (t rm a b c : Nat) : FRes := lanewise t (fun a b c => fFma (fmtD t) rm np nc a b c) a b c
/-- |a| (VABS). -/
def absType (t a : Nat) : FRes := lanewise t (fun a _ _ =>
  match fmtOf t with
  | some f => fSign f [a] (magBits f a)
  | none => ires (narrow (typeBits t) (ival t a).natAbs)) a 0 0
/-- −a (VNEG). -/
def negType (t a : Nat) : FRes := lanewise t (fun a _ _ =>
  match fmtOf t with
  | some f => fSign f [a] (withSign f a (!(signBit f a)))
  | none => ires (narrow (typeBits t) (-(ival t a)))) a 0 0
/-- |a| with the sign of b (VSGN). -/
def sgnType (t a b : Nat) : FRes := lanewise t (fun a b _ =>
  match fmtOf t with
  | some f => fSign f [a, b] (withSign f a (signBit f b))
  | none => let m : Int := (ival t a).natAbs; ires (narrow (typeBits t) (if ival t b < 0 then -m else m))) a b 0
/-- |a − b| (VABSD). -/
def absdType (t rm a b : Nat) : FRes := lanewise t (fun a b _ =>
  match fmtOf t with
  | some f => fAbsd f rm a b
  | none => ires (ival t a - ival t b).natAbs) a b 0
/-- floor((a + b + 1) / 2) (VAVG). -/
def avgType (t a b : Nat) : FRes := lanewise t (fun a b _ => ires (narrow (typeBits t) ((ival t a + ival t b + 1) / 2))) a b 0

/-- A rotated left by b mod w (VROL). -/
def rolW (w a b : Nat) : Nat := let k := b % w; (a * 2 ^ k + a / 2 ^ (w - k)) % 2 ^ w

/-- Trailing zeros of a w-bit value. -/
def ctzOf (w v : Nat) : Nat := ((List.range w).find? (fun i => v.testBit i)).getD w

/-- A w-bit value from its bits. -/
def fromBits (w : Nat) (b : Nat → Bool) : Nat := (List.range w).foldl (fun r i => r + if b i then 2 ^ i else 0) 0

/-- The field operation of R245. -/
def bfe (t a b : Nat) : Nat :=
  let p := b % 256
  let n := b / 256 % 256
  if n = 0 ∨ 32 ≤ p then 0
  else
    let n := min n (32 - p)
    let x := a / 2 ^ p % 2 ^ n
    if t = 0 then narrow 32 (signedOf n x) else x

/-- The field insertion of R245. -/
def bfi (a b c : Nat) : Nat :=
  let p := b % 256
  let n := b / 256 % 256
  if n = 0 ∨ 32 ≤ p then c
  else
    let n := min n (32 - p)
    fromBits 32 (fun i => if p ≤ i ∧ i < p + n then a.testBit (i - p) else c.testBit i)

/-! ### Element-wise instructions (R242 to R245) -/

/-- VMOV: a, bits unchanged (R242). -/
def execVmov (f : RRR) (s : State) : Host.Outcome State Fault Refusal :=
  vecRRR f { nsrc := 1, types := [0, 1, 2, 3] } (decide (modOPX f.mod = 0))
    (fun _ _ a _ _ => ires a) s

/-- VADD: a + b (R242). -/
def execVadd (f : RRR) (s : State) : Host.Outcome State Fault Refusal :=
  vecRRR f { nsrc := 2, types := [0, 1, 2, 3, 4, 5, 6, 7], rounds := true } (decide (modOPX f.mod = 0))
    (fun t rm a b _ => addType t rm a b) s

/-- VSUB: a − b (R242). -/
def execVsub (f : RRR) (s : State) : Host.Outcome State Fault Refusal :=
  vecRRR f { nsrc := 2, types := [0, 1, 2, 3, 4, 5, 6, 7], rounds := true } (decide (modOPX f.mod = 0))
    (fun t rm a b _ => subType t rm a b) s

/-- VADDS: a + b clamped (R242). -/
def execVadds (f : RRR) (s : State) : Host.Outcome State Fault Refusal :=
  vecRRR f { nsrc := 2, types := [0, 1, 13, 14] } (decide (modOPX f.mod = 0))
    (fun t _ a b _ => addsType t a b) s

/-- VSUBS: a − b clamped (R242). -/
def execVsubs (f : RRR) (s : State) : Host.Outcome State Fault Refusal :=
  vecRRR f { nsrc := 2, types := [0, 1, 13, 14] } (decide (modOPX f.mod = 0))
    (fun t _ a b _ => subsType t a b) s

/-- VMUL: a × b (R242). -/
def execVmul (f : RRR) (s : State) : Host.Outcome State Fault Refusal :=
  vecRRR f { nsrc := 2, types := [0, 1, 2, 3, 4, 5, 6, 7], rounds := true } (decide (modOPX f.mod = 0))
    (fun t rm a b _ => mulType t rm a b) s

/-- VMULH: the high half of the product (R242). -/
def execVmulh (f : RRR) (s : State) : Host.Outcome State Fault Refusal :=
  vecRRR f { nsrc := 2, types := [0, 1, 2, 3] } (decide (modOPX f.mod = 0))
    (fun t _ a b _ => ires (mulhW (isSigned t) (typeBits t) a b)) s

/-- VMULW: the 64-bit product (R242). -/
def execVmulw (f : RRR) (s : State) : Host.Outcome State Fault Refusal :=
  vecRRR f { nsrc := 2, types := [0, 1], pair := true } (decide (modOPX f.mod = 0))
    (fun t _ a b _ => ires (narrow 64 (ival t a * ival t b))) s

/-- VMAD: the low half of a × b + c (R242). -/
def execVmad (f : RRR) (s : State) : Host.Outcome State Fault Refusal :=
  vecRRR f { nsrc := 3, types := [0, 1, 2, 3] } (decide (modOPX f.mod = 0))
    (fun t _ a b c => ires ((a * b + c) % 2 ^ (typeBits t))) s

/-- VMADH: the high half of a × b, plus c (R242). -/
def execVmadh (f : RRR) (s : State) : Host.Outcome State Fault Refusal :=
  vecRRR f { nsrc := 3, types := [0, 1] } (decide (modOPX f.mod = 0))
    (fun t _ a b c => ires (addW 32 (mulhW (isSigned t) 32 a b) c)) s

/-- VFMA: a × b + c (R242, R243). -/
def execVfma (f : RRR) (s : State) : Host.Outcome State Fault Refusal :=
  vecRRR f { nsrc := 3, types := [4, 5, 6, 7], rounds := true } (decide (modOPX f.mod = 0))
    (fun t rm a b c => fmaType false false t rm a b c) s

/-- VFMS: a × b − c (R242, R243). -/
def execVfms (f : RRR) (s : State) : Host.Outcome State Fault Refusal :=
  vecRRR f { nsrc := 3, types := [4, 5, 6, 7], rounds := true } (decide (modOPX f.mod = 0))
    (fun t rm a b c => fmaType false true t rm a b c) s

/-- VFNMA: −(a × b) + c (R242, R243). -/
def execVfnma (f : RRR) (s : State) : Host.Outcome State Fault Refusal :=
  vecRRR f { nsrc := 3, types := [4, 5, 6, 7], rounds := true } (decide (modOPX f.mod = 0))
    (fun t rm a b c => fmaType true false t rm a b c) s

/-- VABS: the magnitude (R242, R243). -/
def execVabs (f : RRR) (s : State) : Host.Outcome State Fault Refusal :=
  vecRRR f { nsrc := 1, types := [0, 2, 4, 5, 6, 7] } (decide (modOPX f.mod = 0))
    (fun t _ a _ _ => absType t a) s

/-- VNEG: the negative (R242, R243). -/
def execVneg (f : RRR) (s : State) : Host.Outcome State Fault Refusal :=
  vecRRR f { nsrc := 1, types := [0, 1, 2, 3, 4, 5, 6, 7] } (decide (modOPX f.mod = 0))
    (fun t _ a _ _ => negType t a) s

/-- VMIN: the lesser (R242, R243). -/
def execVmin (f : RRR) (s : State) : Host.Outcome State Fault Refusal :=
  vecRRR f { nsrc := 2, types := [0, 1, 2, 3, 4, 5, 6, 7, 13, 14] } (decide (modOPX f.mod = 0))
    (fun t _ a b _ => minType t a b) s

/-- VMAX: the greater (R242, R243). -/
def execVmax (f : RRR) (s : State) : Host.Outcome State Fault Refusal :=
  vecRRR f { nsrc := 2, types := [0, 1, 2, 3, 4, 5, 6, 7, 13, 14] } (decide (modOPX f.mod = 0))
    (fun t _ a b _ => maxType t a b) s

/-- VCLAMP: min(max(a, b), c) (R242, R243). -/
def execVclamp (f : RRR) (s : State) : Host.Outcome State Fault Refusal :=
  vecRRR f { nsrc := 3, types := [0, 1, 2, 3, 4, 5, 6, 7] } (decide (modOPX f.mod = 0))
    (fun t _ a b c => clampOp t a b c) s

/-- VSGN: the magnitude of a with the sign of b (R242, R243). -/
def execVsgn (f : RRR) (s : State) : Host.Outcome State Fault Refusal :=
  vecRRR f { nsrc := 2, types := [0, 2, 4, 5, 6, 7] } (decide (modOPX f.mod = 0))
    (fun t _ a b _ => sgnType t a b) s

/-- VABSD: the distance of a and b (R242). -/
def execVabsd (f : RRR) (s : State) : Host.Outcome State Fault Refusal :=
  vecRRR f { nsrc := 2, types := [0, 1, 13, 14, 4, 5], rounds := true } (decide (modOPX f.mod = 0))
    (fun t rm a b _ => absdType t rm a b) s

/-- VAVG: the rounded mean (R242). -/
def execVavg (f : RRR) (s : State) : Host.Outcome State Fault Refusal :=
  vecRRR f { nsrc := 2, types := [0, 1, 13, 14] } (decide (modOPX f.mod = 0))
    (fun t _ a b _ => avgType t a b) s

/-- VADDC: a + b + c[0], with the carry in the odd register (R242). -/
def execVaddc (f : RRR) (s : State) : Host.Outcome State Fault Refusal :=
  vecRRR f { nsrc := 3, types := [1], pair := true } (decide (modOPX f.mod = 0))
    (fun _ _ a b c => ires (a + b + c % 2)) s

/-- VSUBB: a − b − c[0], with the borrow in the odd register (R242). -/
def execVsubb (f : RRR) (s : State) : Host.Outcome State Fault Refusal :=
  vecRRR f { nsrc := 3, types := [1], pair := true } (decide (modOPX f.mod = 0))
    (fun _ _ a b c => ires (subW 32 a (b + c % 2) + if a < b + c % 2 then 2 ^ 32 else 0)) s

/-- VAND: bitwise AND (R244). -/
def execVand (f : RRR) (s : State) : Host.Outcome State Fault Refusal :=
  vecRRR f { nsrc := 2, types := [0, 1, 2, 3] } (decide (modOPX f.mod = 0))
    (fun _ _ a b _ => ires (a &&& b)) s

/-- VOR: bitwise OR (R244). -/
def execVor (f : RRR) (s : State) : Host.Outcome State Fault Refusal :=
  vecRRR f { nsrc := 2, types := [0, 1, 2, 3] } (decide (modOPX f.mod = 0))
    (fun _ _ a b _ => ires (a ||| b)) s

/-- VXOR: bitwise XOR (R244). -/
def execVxor (f : RRR) (s : State) : Host.Outcome State Fault Refusal :=
  vecRRR f { nsrc := 2, types := [0, 1, 2, 3] } (decide (modOPX f.mod = 0))
    (fun _ _ a b _ => ires (a ^^^ b)) s

/-- VNOT: bitwise NOT (R244). -/
def execVnot (f : RRR) (s : State) : Host.Outcome State Fault Refusal :=
  vecRRR f { nsrc := 1, types := [0, 1, 2, 3] } (decide (modOPX f.mod = 0))
    (fun t _ a _ _ => ires (2 ^ (typeBits t) - 1 - a)) s

/-- VBOOL: bit i is OPX[a_i + 2 b_i + 4 c_i] (R244). -/
def execVbool (f : RRR) (s : State) : Host.Outcome State Fault Refusal :=
  vecRRR f { nsrc := 3, types := [0, 1, 2, 3] } true
    (fun t _ a b c => ires (fromBits (typeBits t) (fun i => f.mod.getLsbD ((a.testBit i).toNat + 2 * (b.testBit i).toNat + 4 * (c.testBit i).toNat)))) s

/-- VSHL: a shifted left by b mod w (R244). -/
def execVshl (f : RRR) (s : State) : Host.Outcome State Fault Refusal :=
  vecRRR f { nsrc := 2, types := [0, 1, 2, 3], narrow := 4 } (decide (modOPX f.mod = 0))
    (fun t _ a b _ => ires (shlW (typeBits t) a b)) s

/-- VSHR: a shifted right logically (R244). -/
def execVshr (f : RRR) (s : State) : Host.Outcome State Fault Refusal :=
  vecRRR f { nsrc := 2, types := [0, 1, 2, 3], narrow := 4 } (decide (modOPX f.mod = 0))
    (fun t _ a b _ => ires (shrW (typeBits t) a b)) s

/-- VSRA: a shifted right arithmetically (R244). -/
def execVsra (f : RRR) (s : State) : Host.Outcome State Fault Refusal :=
  vecRRR f { nsrc := 2, types := [0, 1, 2, 3], narrow := 4 } (decide (modOPX f.mod = 0))
    (fun t _ a b _ => ires (sraW (typeBits t) a b)) s

/-- VROL: a rotated left (R244). -/
def execVrol (f : RRR) (s : State) : Host.Outcome State Fault Refusal :=
  vecRRR f { nsrc := 2, types := [0, 1, 2, 3], narrow := 4 } (decide (modOPX f.mod = 0))
    (fun t _ a b _ => ires (rolW (typeBits t) a b)) s

/-- VCLZ: leading zeros (R244). -/
def execVclz (f : RRR) (s : State) : Host.Outcome State Fault Refusal :=
  vecRRR f { nsrc := 1, types := [0, 1, 2, 3], narrow := 1 } (decide (modOPX f.mod = 0))
    (fun t _ a _ _ => ires (clzOf (typeBits t) a)) s

/-- VCTZ: trailing zeros (R244). -/
def execVctz (f : RRR) (s : State) : Host.Outcome State Fault Refusal :=
  vecRRR f { nsrc := 1, types := [0, 1, 2, 3], narrow := 1 } (decide (modOPX f.mod = 0))
    (fun t _ a _ _ => ires (ctzOf (typeBits t) a)) s

/-- POPC: ones (R244). -/
def execPopc (f : RRR) (s : State) : Host.Outcome State Fault Refusal :=
  vecRRR f { nsrc := 1, types := [0, 1, 2, 3], narrow := 1 } (decide (modOPX f.mod = 0))
    (fun t _ a _ _ => ires (popOf (typeBits t) a)) s

/-- VBREV: bits reversed (R244). -/
def execVbrev (f : RRR) (s : State) : Host.Outcome State Fault Refusal :=
  vecRRR f { nsrc := 1, types := [0, 1, 2, 3] } (decide (modOPX f.mod = 0))
    (fun t _ a _ _ => ires (fromBits (typeBits t) (fun i => a.testBit ((typeBits t) - 1 - i)))) s

/-- VBSWAP: bytes reversed (R244). -/
def execVbswap (f : RRR) (s : State) : Host.Outcome State Fault Refusal :=
  vecRRR f { nsrc := 1, types := [0, 1, 2, 3] } (decide (modOPX f.mod = 0))
    (fun t _ a _ _ => ires (natOfBytes (bytesOf ((typeBits t) / 8) a).reverse)) s

/-- VBFE: a field of a (R245). -/
def execVbfe (f : RRR) (s : State) : Host.Outcome State Fault Refusal :=
  vecRRR f { nsrc := 2, types := [0, 1] } (decide (modOPX f.mod = 0))
    (fun t _ a b _ => ires (bfe t a b)) s

/-- VBFI: c with a field replaced (R245). -/
def execVbfi (f : RRR) (s : State) : Host.Outcome State Fault Refusal :=
  vecRRR f { nsrc := 3, types := [0, 1] } (decide (modOPX f.mod = 0))
    (fun _ _ a b c => ires (bfi a b c)) s

/-- VSEL: a where c is not zero, else b (R247). -/
def execVsel (f : RRR) (s : State) : Host.Outcome State Fault Refusal :=
  vecRRR f { nsrc := 3, types := [0, 1, 2, 3], narrow := 8 } (decide (modOPX f.mod = 0))
    (fun _ _ a b c => ires (if c ≠ 0 then a else b)) s

/-- VMOV of an immediate (R242). -/
def execVmovRi (f : RI) (s : State) : Host.Outcome State Fault Refusal :=
  vecRI f false true (fun _ _ i => ires i) s

/-- VADD of an immediate (R242). -/
def execVaddRi (f : RI) (s : State) : Host.Outcome State Fault Refusal :=
  vecRI f true true (fun t a i => addType t 0 a i) s

/-- VSUB of an immediate (R242). -/
def execVsubRi (f : RI) (s : State) : Host.Outcome State Fault Refusal :=
  vecRI f true true (fun t a i => subType t 0 a i) s

/-- VADDS of an immediate (R242). -/
def execVaddsRi (f : RI) (s : State) : Host.Outcome State Fault Refusal :=
  vecRI f true false (fun t a i => addsType t a i) s

/-- VMUL by an immediate (R242). -/
def execVmulRi (f : RI) (s : State) : Host.Outcome State Fault Refusal :=
  vecRI f true true (fun t a i => mulType t 0 a i) s

/-- VMIN with an immediate (R242). -/
def execVminRi (f : RI) (s : State) : Host.Outcome State Fault Refusal :=
  vecRI f true true (fun t a i => minType t a i) s

/-- VMAX with an immediate (R242). -/
def execVmaxRi (f : RI) (s : State) : Host.Outcome State Fault Refusal :=
  vecRI f true true (fun t a i => maxType t a i) s

/-- VAND with an immediate (R244). -/
def execVandRi (f : RI) (s : State) : Host.Outcome State Fault Refusal :=
  vecRI f true false (fun _ a i => ires (a &&& i)) s

/-- VOR with an immediate (R244). -/
def execVorRi (f : RI) (s : State) : Host.Outcome State Fault Refusal :=
  vecRI f true false (fun _ a i => ires (a ||| i)) s

/-- VXOR with an immediate (R244). -/
def execVxorRi (f : RI) (s : State) : Host.Outcome State Fault Refusal :=
  vecRI f true false (fun _ a i => ires (a ^^^ i)) s

/-- VSHL by an immediate (R244). -/
def execVshlRi (f : RI) (s : State) : Host.Outcome State Fault Refusal :=
  vecRI f true false (fun _ a i => ires (shlW 32 a i)) s

/-- VSHR by an immediate (R244). -/
def execVshrRi (f : RI) (s : State) : Host.Outcome State Fault Refusal :=
  vecRI f true false (fun _ a i => ires (shrW 32 a i)) s

/-- VSRA by an immediate (R244). -/
def execVsraRi (f : RI) (s : State) : Host.Outcome State Fault Refusal :=
  vecRI f true false (fun _ a i => ires (sraW 32 a i)) s

/-- VROL by an immediate (R244). -/
def execVrolRi (f : RI) (s : State) : Host.Outcome State Fault Refusal :=
  vecRI f true false (fun _ a i => ires (rolW 32 a i)) s

/-- VSEL of a or an immediate (R247). -/
def execVselRi (f : RI) (s : State) : Host.Outcome State Fault Refusal :=
  vecRI f true true (fun _ a i => ires (if a ≠ 0 then a else i)) s

/-! ### Compare, classify, rearrange (R246 to R248) -/

/-- The result of a comparison and the flag it raises (R246); `none` where the condition is not defined for the type. -/
def compareOp (cond t a b : Nat) : Option (Bool × Nat) :=
  match fmtOf t with
  | some f =>
    let x := fdec f a
    let y := fdec f b
    let un := isNaN x || isNaN y
    let snan := if isSNaN x || isSNaN y then flagNV else 0
    let any := if un then flagNV else 0
    let o := ncmp x y
    match cond with
    | 0 => some (!un && decide (o = 0), snan)
    | 1 => some (un || decide (o ≠ 0), snan)
    | 2 => some (!un && decide (o < 0), any)
    | 3 => some (!un && decide (o ≤ 0), any)
    | 4 => some (!un && decide (0 < o), any)
    | 5 => some (!un && decide (0 ≤ o), any)
    | 6 => some (un, snan)
    | 7 => some (!un, snan)
    | _ => none
  | none =>
    let x := ival t a
    let y := ival t b
    match cond with
    | 0 => some (decide (x = y), 0)
    | 1 => some (decide (x ≠ y), 0)
    | 2 => some (decide (x < y), 0)
    | 3 => some (decide (x ≤ y), 0)
    | 4 => some (decide (y < x), 0)
    | 5 => some (decide (y ≤ x), 0)
    | 8 => some (decide (a &&& b ≠ 0), 0)
    | _ => none

/-- Write a comparison's results into a predicate, ANDed with what stands there under `.AND` (R246). -/
def writeCompare (s : State) (c : Ctx) (x : Nat) (r : Nat → Bool × Nat) : Effect :=
  let pd := x % 8
  let m := maskOf (allStrands.filter (fun k => (r k).1))
  let v := if x.testBit 7 then predMask c.wv pd &&& m else m
  raiseFlags (writePredicate s c pd v) c (fun k => (r k).2)

/-- VCMP (R246). -/
def execVcmp (f : RRR) (s : State) : Host.Outcome State Fault Refusal :=
  let t := modTYPE f.mod
  let x := modOPX f.mod
  let ok := (compareOp (x / 8 % 16) t 0 0).isSome
  issueRow s f.pn f.pred
    { ops := [unused f.dst, src f.sa (wordsOf t), src f.sb (wordsOf t), unused f.sc],
      modOk := decide (t ≤ 7) && decide (modRM f.mod = 0) && !modSAT f.mod && ok && decide (x % 8 ≠ 7) } (fun s c =>
    writeCompare s c x (fun k =>
      (compareOp (x / 8 % 16) t (lane t (srcN s c f.sa.toNat k (wordsOf t)) 0) (lane t (srcN s c f.sb.toNat k (wordsOf t)) 0)).getD
        (false, 0)))

/-- VCMP with an immediate: the eight bits stand in DST (R246). -/
def execVcmpRi (f : RI) (s : State) : Host.Outcome State Fault Refusal :=
  let t := itypeOf f.itype
  let x := f.dst.toNat % 256
  let ok := (compareOp (x / 8 % 16) t 0 0).isSome
  issueRow s f.pn f.pred
    { ops := [src f.sa], modOk := decide (f.itype.toNat ≤ 2) && !(f.dst.getLsbD 8) && ok && decide (x % 8 ≠ 7) } (fun s c =>
    writeCompare s c x (fun k => (compareOp (x / 8 % 16) t (srcN s c f.sa.toNat k 1) f.imm.toNat).getD (false, 0)))

/-- The class mask of a value (R247). -/
def classMask (f : Fmt) (x : Nat) : Nat :=
  match fdec f x with
  | .inf true => 1
  | .inf false => 128
  | .nan true => 256
  | .nan false => 512
  | .fin neg m _ =>
    if m = 0 then (if neg then 8 else 16)
    else if magBits f x < 2 ^ f.mbits then (if neg then 4 else 32) else if neg then 2 else 64

/-- VCLASS (R247). -/
def execVclass (f : RRR) (s : State) : Host.Outcome State Fault Refusal :=
  vecRRR f { nsrc := 1, types := [4, 5, 6, 7], narrow := 1 } (decide (modOPX f.mod = 0)) (fun t _ a _ _ =>
    ires ((List.range (lanesOf t)).foldl (fun r e => r + classMask (fmtD t) (lane t a e) * 2 ^ (16 * e)) 0)) s

/-- VMATCH (R247): the qualifying strands that hold an equal value. -/
def execVmatch (f : RRR) (s : State) : Host.Outcome State Fault Refusal :=
  let t := modTYPE f.mod
  let h : VShape := { nsrc := 1, types := [0, 1, 2, 3], narrow := 1 }
  issueRow s f.pn f.pred (vecForm f h (decide (modOPX f.mod = 0))) (fun s c =>
    let v (k : Nat) := srcN s c f.sa.toNat k (wordsOf t)
    .done (writeDst s c f.dst.toNat 1 (fun k => (maskOf ((strandsOf c.q).filter (fun j => decide (v j = v k)))).toNat)))

/-- The element index is within the type's count, OPX[7:3] is zero (R248). -/
def elemOk (f : RRR) : Bool := decide (modOPX f.mod < if modTYPE f.mod = 15 then 8 else 4)

/-- VPACK (R248): b with an element replaced by a, clamped. -/
def execVpack (f : RRR) (s : State) : Host.Outcome State Fault Refusal :=
  vecRRR f { nsrc := 2, types := [13, 14, 15] } (elemOk f) (fun t _ a b _ =>
    let w := typeBits t
    let i := modOPX f.mod % 8
    let e := clampType t (if t = 14 then (a : Int) else signedOf 32 a)
    ires (fromBits 32 (fun j => if w * i ≤ j ∧ j < w * i + w then e.testBit (j - w * i) else b.testBit j))) s

/-- VUNPK (R248): an element of a, extended by its type. -/
def execVunpk (f : RRR) (s : State) : Host.Outcome State Fault Refusal :=
  vecRRR f { nsrc := 1, types := [13, 14, 15] } (elemOk f) (fun t _ a _ _ =>
    ires (narrow 32 (ival t (lane t a (modOPX f.mod % 8))))) s

/-- VSWZ (R248): bytes of a in the order that OPX gives. -/
def execVswz (f : RRR) (s : State) : Host.Outcome State Fault Refusal :=
  vecRRR f { nsrc := 1, types := [1] } true (fun _ _ a _ _ =>
    ires (natOfBytes ((List.range 4).map (fun j => (bytesOf 4 a).getD (modOPX f.mod / 4 ^ j % 4) 0)))) s

/-- VSHUF (R248): bytes of a and b in the order that c gives. -/
def execVshuf (f : RRR) (s : State) : Host.Outcome State Fault Refusal :=
  vecRRR f { nsrc := 3, types := [1] } (decide (modOPX f.mod = 0)) (fun _ _ a b c =>
    ires (natOfBytes ((bytesOf 4 c).map (fun x =>
      if x.getLsbD 7 then 0 else (bytesOf 4 a ++ bytesOf 4 b).getD (x.toNat % 8) 0)))) s

/-! ### Dot products and scales (R249, R250) -/

/-- The elements of a packed operand: n of them, in slots of 32 / n bits. -/
def slots (n x : Nat) : List Nat := (List.range n).map (fun i => x / 2 ^ (32 / n * i) % 2 ^ (32 / n))

/-- The value of an element of a dot product (R249): of its types only F16 and BF16 have signalling NaNs. -/
def dotElem (t x : Nat) : Num :=
  match decodeType t (x % 2 ^ typeBits t) with
  | .nan g => .nan (g && (decide (t = 6) || decide (t = 7)))
  | v => v

/-- A packed dot product (R249). -/
def dotOp (n ta tb rm : Nat) (sat : Bool) (a b c : Nat) : FRes :=
  let es := (slots n a).zip (slots n b)
  if isFloat ta then
    let xs := es.map (fun p => (dotElem ta p.1, dotElem tb p.2))
    let cv := fdec fmt32 c
    let all := cv :: (xs.map (fun p => p.1) ++ xs.map (fun p => p.2))
    if all.any isNaN then { val := 0x7FC00000, fl := if all.any isSNaN then flagNV else 0 }
    else
      let ps := xs.map (fun p => nmul p.1 p.2)
      if ps.any (fun p => decide (p = none)) then badNaN
      else
        match nsum rm (cv :: ps.map (fun p => p.getD (.fin false 0 0))) with
        | none => badNaN
        | some x => fenc fmt32 x rm false 0
  else
    let x : Int := es.foldl (fun (r : Int) p => r + ival ta (p.1 % 2 ^ typeBits ta) * ival tb (p.2 % 2 ^ typeBits tb)) (signedOf 32 c)
    ires (if sat then clampType 0 x else narrow 32 x)
where badNaN : FRes := { val := 0x7FC00000, fl := flagNV }

/-- A dot product instruction: `pairs` says which pairs of types it takes. -/
def dotRow (f : RRR) (n : Nat) (pairs : Nat → Nat → Bool) (s : State) : Host.Outcome State Fault Refusal :=
  let t := modTYPE f.mod
  let u := modOPX f.mod / 16
  let fl := isFloat t
  issueRow s f.pn f.pred
    { ops := [dst f.dst, src f.sa, src f.sb, src f.sc],
      modOk := pairs t u && decide (modOPX f.mod % 16 = 0) &&
        (if fl then decide (modRM f.mod ≤ 3) && !modSAT f.mod else decide (modRM f.mod = 0)) } (fun s c =>
    perStrand s c f.dst.toNat 1 (fun k =>
      dotOp n t u (modRM f.mod) (modSAT f.mod) (srcN s c f.sa.toNat k 1) (srcN s c f.sb.toNat k 1) (srcN s c f.sc.toNat k 1)))

/-- VDOT8 (R249). -/
def execVdot8 (f : RRR) (s : State) : Host.Outcome State Fault Refusal :=
  dotRow f 8 (fun t u => decide (t = u) && (decide (t = 15) || decide (t = 12))) s

/-- VDOT4 (R249). -/
def execVdot4 (f : RRR) (s : State) : Host.Outcome State Fault Refusal :=
  dotRow f 4 (fun t u => ([13, 14].contains t && [13, 14].contains u) || ([8, 9, 10, 11].contains t && [8, 9, 10, 11].contains u)) s

/-- VDOT2 (R249). -/
def execVdot2 (f : RRR) (s : State) : Host.Outcome State Fault Refusal :=
  dotRow f 2 (fun t u => [6, 7].contains t && [6, 7].contains u) s

/-- An F32 value under one or two E8M0 scales (R250). -/
def scaleOp (rm : Nat) (sat : Bool) (a xb xc n : Nat) : FRes :=
  match fdec fmt32 a with
  | .nan g => { val := 0x7FC00000, fl := if g then flagNV else 0 }
  | .inf _ => if xb = 255 ∨ xc = 255 then { val := 0x7FC00000 } else { val := a }
  | x =>
    if xb = 255 ∨ xc = 255 then { val := 0x7FC00000 }
    else fenc fmt32 (nscale x ((xb : Int) - 127 + (xc - 127) + signedOf 6 n)) rm sat 0

/-- VSCALE (R250). -/
def execVscale (f : RRR) (s : State) : Host.Outcome State Fault Refusal :=
  issueRow s f.pn f.pred
    { ops := [dst f.dst, src f.sa, src f.sb, src f.sc],
      modOk := decide (modTYPE f.mod = 4) && decide (modRM f.mod ≤ 3) } (fun s c =>
    let i := modOPX f.mod % 4
    perStrand s c f.dst.toNat 1 (fun k =>
      let xb := srcN s c f.sb.toNat k 1 / 2 ^ (8 * i) % 256
      let xc := if f.sc = 511 then 127 else srcN s c f.sc.toNat k 1 / 2 ^ (8 * i) % 256
      scaleOp (modRM f.mod) (modSAT f.mod) (srcN s c f.sa.toNat k 1) xb xc (modOPX f.mod / 4)))

/-! ### Across strands (R251 to R255) -/

/-- The form of a cross-strand move on integer types. -/
def crossForm (f : RRR) (nsrc : Nat) (ok : Bool) : Form := vecForm f { nsrc := nsrc, types := [0, 1, 2, 3], narrow := 4 } ok

/-- XCHG (R252): each strand takes the value of its partner in the split, or its own. -/
def execXchg (f : RRR) (s : State) : Host.Outcome State Fault Refusal :=
  let n := wordsOf (modTYPE f.mod)
  let k := modOPX f.mod % 32
  issueRow s f.pn f.pred (crossForm f 1 (decide (modOPX f.mod / 32 ≤ 3))) (fun s c =>
    .done (writeDst s c f.dst.toNat n (fun j =>
      let t := match modOPX f.mod / 32 with
        | 0 => j ^^^ k
        | 1 => if k ≤ j then j - k else j
        | 2 => if j + k ≤ 31 then j + k else j
        | _ => (j + k) % 32
      srcN s c f.sa.toNat (if c.sp.mask.getLsbD t then t else j) n)))

/-- VGET (R253): the value of a lane of the split, or the strand's own. -/
def execVget (f : RRR) (s : State) : Host.Outcome State Fault Refusal :=
  let n := wordsOf (modTYPE f.mod)
  issueRow s f.pn f.pred (crossForm f 2 (decide (modOPX f.mod = 0))) (fun s c =>
    .done (writeDst s c f.dst.toNat n (fun j =>
      let t := srcN s c f.sb.toNat j 1 % 32
      srcN s c f.sa.toNat (if c.sp.mask.getLsbD t then t else j) n)))

/-- The lowest-numbered active strand of the split (R119). -/
def Ctx.first (c : Ctx) : Nat := (lowestStrand c.sp.mask).getD 0

/-- VPUT (R253): writes one lane of the split. -/
def execVput (f : RRR) (s : State) : Host.Outcome State Fault Refusal :=
  let t := modTYPE f.mod
  let n := wordsOf t
  issueRow s f.pn f.pred
    { ops := [dstIn 41 f.dst n, src f.sa n, src f.sb, unused f.sc],
      modOk := decide (t ≤ 3) && decide (modRM f.mod = 0) && !modSAT f.mod && decide (modOPX f.mod = 0) } (fun s c =>
    let u := c.first
    let k := srcN s c f.sb.toNat u 1 % 32
    if c.once && c.sp.mask.getLsbD k then
      .done (writeDst s { c with q := maskOf [k] } f.dst.toNat n (fun _ => srcN s c f.sa.toNat u n))
    else .done s)

/-- BALLOT (R254): the qualifying strands whose value is not zero. -/
def execBallot (f : RRR) (s : State) : Host.Outcome State Fault Refusal :=
  issueRow s f.pn f.pred (vecForm f { nsrc := 1, types := [0, 1] } (decide (modOPX f.mod = 0))) (fun s c =>
    let m := maskOf ((strandsOf c.q).filter (fun k => decide (srcN s c f.sa.toNat k 1 ≠ 0)))
    .done (writeDst s c f.dst.toNat 1 (fun _ => m.toNat)))

/-- The integer operation of VPREFIX and VRED (R254): 0 ADD, 1 MIN, 2 MAX, 3 AND, 4 OR, 5 XOR. -/
def redInt (op t a b : Nat) : Nat :=
  let w := typeBits t
  match op with
  | 0 => addW w a b
  | 1 => minW (isSigned t) w a b
  | 2 => maxW (isSigned t) w a b
  | 3 => a &&& b
  | 4 => a ||| b
  | _ => a ^^^ b

/-- The identity of an operation (R94, R255). -/
def redId (op t : Nat) : Nat :=
  let w := typeBits t
  match fmtOf t with
  | some f => match op with | 0 => 2 ^ (w - 1) | 1 => infBits f false | _ => infBits f true
  | none =>
    match op with
    | 0 => 0
    | 1 => if isSigned t then 2 ^ (w - 1) - 1 else 2 ^ w - 1
    | 2 => if isSigned t then 2 ^ (w - 1) else 0
    | 3 => 2 ^ w - 1
    | _ => 0

/-- VPREFIX (R254): the operation over the qualifying strands below, or up to, each strand. -/
def execVprefix (f : RRR) (s : State) : Host.Outcome State Fault Refusal :=
  let t := modTYPE f.mod
  let op := modOPX f.mod % 8
  let incl := (modOPX f.mod).testBit 3
  issueRow s f.pn f.pred
    (vecForm f { nsrc := 1, types := [0, 1, 2, 3] } (decide (op ≤ 5) && decide (modOPX f.mod < 16))) (fun s c =>
    .done (writeDst s c f.dst.toNat (wordsOf t) (fun j =>
      let ks := (strandsOf c.q).filter (fun k => decide (k < j) || (incl && decide (k = j)))
      ks.foldl (fun r k => redInt op t r (srcN s c f.sa.toNat k (wordsOf t))) (redId op t))))

/-- One level of the tree of R94: neighbours combine, an EMPTY position passes the other through. One lone signalling NaN therefore comes
through as it is and without a flag, as the pseudocode of R94 has it, where R89 would quiet it. Log 72 (DESIGN CHOICE). -/
def treeLevel (op : Nat → Nat → FRes) : List (Option FRes) → List (Option FRes)
  | a :: b :: r =>
    (match a, b with
      | none, y => y
      | x, none => x
      | some x, some y => let z := op x.val y.val; some { val := z.val, fl := z.fl ||| x.fl ||| y.fl }) :: treeLevel op r
  | r => r

/-- The fixed reduction tree over 32 positions (R94). -/
def treeReduce (op : Nat → Nat → FRes) (xs : List (Option Nat)) : Option FRes :=
  let l := xs.map (fun x => x.map ires)
  match treeLevel op (treeLevel op (treeLevel op (treeLevel op (treeLevel op l)))) with
  | r :: _ => r
  | [] => none

/-- The operation of a reduction on any type (R94, R255). -/
def redOp (op t rm a b : Nat) : FRes :=
  match fmtOf t with
  | some f => match op with | 0 => fAdd f rm a b | 1 => fMin f a b | _ => fMax f a b
  | none => ires (redInt op t a b)

/-- VRED (R255): the reduction of the qualifying strands by the tree of R94. -/
def execVred (f : RRR) (s : State) : Host.Outcome State Fault Refusal :=
  let t := modTYPE f.mod
  let op := modOPX f.mod
  let n := wordsOf t
  issueRow s f.pn f.pred
    { ops := [dst f.dst n, src f.sa n, unused f.sb, unused f.sc],
      modOk := decide (t ≤ 5) && decide (op ≤ if 4 ≤ t then 2 else 5) && !modSAT f.mod &&
        rmOk (decide (op = 0)) t (modRM f.mod) } (fun s c =>
    match treeReduce (redOp op t (modRM f.mod))
        (allStrands.map (fun k => if c.q.getLsbD k then some (srcN s c f.sa.toNat k n) else none)) with
    | none => .done (writeDst s c f.dst.toNat n (fun _ => 0))
    | some r => raiseFlags (writeDst s c f.dst.toNat n (fun _ => r.val)) c (fun k => if k = c.low then r.fl else 0))

/-! ### Sticky flags (R256) -/

/-- All of MOD but OPX is zero. -/
def modBare (m : BitVec 16) : Bool := decide (m.extractLsb' 8 8 = 0)

/-- RDFF (R256). -/
def execRdff (f : RRR) (s : State) : Host.Outcome State Fault Refusal :=
  issueRow s f.pn f.pred { ops := [dstIn 11 f.dst, unused f.sa, unused f.sb, unused f.sc], modOk := modZero16 f.mod } (fun s c =>
    if c.once then .done (writeDst s { c with q := c.sp.mask } f.dst.toNat 1 (fun _ => c.wv.fflags.toNat)) else .done s)

/-- WRFF (R256): reserved bits are ignored. -/
def execWrff (f : RRR) (s : State) : Host.Outcome State Fault Refusal :=
  issueRow s f.pn f.pred { ops := [unused f.dst, srcIn 59 f.sa, unused f.sb, unused f.sc], modOk := modZero16 f.mod } (fun s c =>
    if c.once then
      let a := BitVec.ofNat 32 (srcN s c f.sa.toNat c.first 1)
      .done (modWeave s c.w (fun wv => { wv with fflags := a &&& 0x1F1F }))
    else .done s)

/-- CLRFF (R256). -/
def execClrff (f : RRR) (s : State) : Host.Outcome State Fault Refusal :=
  issueRow s f.pn f.pred { ops := rrrNone f, modOk := modBare f.mod && decide (modOPX f.mod < 32) } (fun s c =>
    if c.once then
      .done (modWeave s c.w (fun wv => { wv with fflags := wv.fflags &&& ~~~(BitVec.ofNat 32 (modOPX f.mod)) }))
    else .done s)

end Sys2Proof.Machine
end

