-- ==== Sys2Proof/Machine/Assay.lean ====
section
/-!
DEFINITION. The Assay's instructions, opcodes 0x80 to 0x99 (spec/12_assay.md R257 to R270).
-/

namespace Sys2Proof.Machine

open Sys2Proof

/-- MOD fields other than TYPE and OPX: RM within a limit, SAT as allowed. -/
def modRmSat (m : BitVec 16) (rmMax : Nat) (sat : Bool) : Bool := decide (modRM m ≤ rmMax) && (sat || !(modSAT m))

/-- A function of one operand (R260). -/
def fnRow (g : Fn) (types : List Nat) (f : RRR) (s : State) : Host.Outcome State Fault Refusal :=
  vecRRR f { nsrc := 1, types := types } (decide (modOPX f.mod = 0)) (fun t _ a _ _ => fnEval g (fmtD t) a) s

/-- RCP: 1/a (R260, R261). -/
def execRcp (f : RRR) (s : State) : Host.Outcome State Fault Refusal := fnRow .rcp [4, 5] f s

/-- RSQ: 1/√a (R260, R261). -/
def execRsq (f : RRR) (s : State) : Host.Outcome State Fault Refusal := fnRow .rsq [4, 5] f s

/-- EXP2: 2^a (R260, R261). -/
def execExp2 (f : RRR) (s : State) : Host.Outcome State Fault Refusal := fnRow .exp2 [4] f s

/-- LOG2 (R260, R261). -/
def execLog2 (f : RRR) (s : State) : Host.Outcome State Fault Refusal := fnRow .log2 [4] f s

/-- SIN (R260, R261). -/
def execSin (f : RRR) (s : State) : Host.Outcome State Fault Refusal := fnRow .sin [4] f s

/-- COS (R260, R261). -/
def execCos (f : RRR) (s : State) : Host.Outcome State Fault Refusal := fnRow .cos [4] f s

/-- EXPE: e^a (R260, R261). -/
def execExpe (f : RRR) (s : State) : Host.Outcome State Fault Refusal := fnRow .expe [4] f s

/-- LOGE (R260, R261). -/
def execLoge (f : RRR) (s : State) : Host.Outcome State Fault Refusal := fnRow .loge [4] f s

/-- TANH (R260, R261). -/
def execTanh (f : RRR) (s : State) : Host.Outcome State Fault Refusal := fnRow .tanh [4] f s

/-- ATAN (R260, R261). -/
def execAtan (f : RRR) (s : State) : Host.Outcome State Fault Refusal := fnRow .atan [4] f s

/-- SQRT (R262): correctly rounded. -/
def execSqrt (f : RRR) (s : State) : Host.Outcome State Fault Refusal :=
  vecRRR f { nsrc := 1, types := [4, 5], rounds := true } (decide (modOPX f.mod = 0)) (fun t rm a _ _ =>
    match nanRule (fmtD t) [a] with
    | some r => r
    | none => deliverNum (fmtD t) rm (nsqrt (fdec (fmtD t) a))) s

/-- DIV (R262): correctly rounded; a finite number by zero raises DZ. -/
def execDiv (f : RRR) (s : State) : Host.Outcome State Fault Refusal :=
  vecRRR f { nsrc := 2, types := [4, 5], rounds := true } (decide (modOPX f.mod = 0)) (fun t rm a b _ =>
    match nanRule (fmtD t) [a, b] with
    | some r => r
    | none =>
      match ndiv (fdec (fmtD t) a) (fdec (fmtD t) b) with
      | none => badRes (fmtD t)
      | some (x, fl) => let r := fenc (fmtD t) x rm false 0; { r with fl := r.fl ||| fl }) s

/-! ### Conversions with stochastic states (R84, R263, R264) -/

/-- A per-strand conversion: each qualifying strand's result, flags and next stochastic state. -/
def perStrandSR (s : State) (c : Ctx) (r n : Nat) (g : Nat → Nat → FRes × Nat) : Effect :=
  let res (k : Nat) : FRes × Nat := g k (cell c.wv.srst k).toNat
  let s1 := modWeave s c.w (fun wv =>
    { wv with srst := (strandsOf c.q).foldl (fun m k => setCell m k (BitVec.ofNat 32 (res k).2)) wv.srst })
  perStrand s1 c r n (fun k => (res k).1)

/-- CVT (R263): one value between an integer type and a float type, or two float types. -/
def execCvt (f : RRR) (s : State) : Host.Outcome State Fault Refusal :=
  let t := modTYPE f.mod
  let u := modOPX f.mod / 16
  let rm := modRM f.mod
  issueRow s f.pn f.pred
    { ops := [dst f.dst (wordsOf t), src f.sa (wordsOf u), unused f.sb, unused f.sc],
      modOk := decide (t ≤ 7) && decide (u ≤ 7) && decide (t ≠ u) && (isFloat t || isFloat u) &&
        decide (modOPX f.mod % 16 = 0) && decide (rm ≤ if isFloat t then 4 else 3) } (fun s c =>
    perStrandSR s c f.dst.toNat (wordsOf t) (fun k st =>
      convert t (decodeType u (srcN s c f.sa.toNat k (wordsOf u) % 2 ^ typeBits u)) rm (modSAT f.mod) st))

/-- Put element codes into the slots of a register (R76): (slot, code). The other slots keep the bits of the register, the two unused bits
above a 6-bit element included. Log 72 (DESIGN CHOICE). -/
def putSlots (n base : Nat) (es : List (Nat × Nat)) : Nat :=
  let w := 32 / n
  fromBits 32 (fun j =>
    match es.find? (fun p => decide (p.1 = j / w)) with
    | some p => p.2.testBit (j % w)
    | none => base.testBit j)

/-- Elements per register of a packed type (R76). -/
def perReg (t : Nat) : Nat := if typeBits t = 16 then 2 else if typeBits t = 4 then 8 else 4

/-- Convert values in ascending element order, chaining the stochastic state (R264). -/
def convertAll (t rm : Nat) (sat : Bool) : List Num → Nat → List FRes × Nat
  | [], st => ([], st)
  | x :: xs, st =>
    let r := convert t x rm sat st
    let rest := convertAll t rm sat xs r.2
    (r.1 :: rest.1, rest.2)

/-- Place converted elements from slot `i0` on into a register. -/
def packRes (t base i0 : Nat) (rs : List FRes) : FRes :=
  { val := putSlots (perReg t) base ((List.range rs.length).zip rs |>.map (fun p => (i0 + p.1, p.2.val))),
    fl := rs.foldl (fun a r => a ||| r.fl) 0 }

/-- CVTPK (R264): two wide values into a pair of packed elements of c. -/
def execCvtpk (f : RRR) (s : State) : Host.Outcome State Fault Refusal :=
  let t := modTYPE f.mod
  let u := modOPX f.mod / 16
  let i := modOPX f.mod % 8
  let rm := modRM f.mod
  issueRow s f.pn f.pred
    { ops := [dst f.dst, src f.sa (wordsOf u), src f.sb (wordsOf u), src f.sc],
      modOk := decide (6 ≤ t) && (decide (u = 4) || decide (u = 5)) && decide (modOPX f.mod % 16 < 8) &&
        decide (i < perReg t / 2) && decide (rm ≤ if isFloat t then 4 else 3) } (fun s c =>
    perStrandSR s c f.dst.toNat 1 (fun k st =>
      let v (r : BitVec 9) := decodeType u (srcN s c r.toNat k (wordsOf u))
      let r := convertAll t rm (modSAT f.mod) [v f.sa, v f.sb] st
      (packRes t (srcN s c f.sc.toNat k 1) (2 * i) r.1, r.2)))

/-- CVTPK2 (R264): two pairs of 16-bit values into four packed elements. -/
def execCvtpk2 (f : RRR) (s : State) : Host.Outcome State Fault Refusal :=
  let t := modTYPE f.mod
  let u := modOPX f.mod / 16
  let rm := modRM f.mod
  issueRow s f.pn f.pred
    { ops := [dst f.dst, src f.sa, src f.sb, unused f.sc],
      modOk := [8, 9, 10, 11, 13, 14].contains t && (decide (u = 6) || decide (u = 7)) && decide (modOPX f.mod % 16 = 0) &&
        decide (rm ≤ if isFloat t then 4 else 3) } (fun s c =>
    perStrandSR s c f.dst.toNat 1 (fun k st =>
      let es (r : BitVec 9) := (slots 2 (srcN s c r.toNat k 1)).map (decodeType u)
      let r := convertAll t rm (modSAT f.mod) (es f.sa ++ es f.sb) st
      (packRes t 0 0 r.1, r.2)))

/-- Element i of a packed register. -/
def elemAt (t x i : Nat) : Nat := x / 2 ^ (32 / perReg t * i) % 2 ^ typeBits t

/-- CVTUNP (R265): one packed element, exactly. -/
def execCvtunp (f : RRR) (s : State) : Host.Outcome State Fault Refusal :=
  let t := modTYPE f.mod
  let u := modOPX f.mod / 16
  let i := modOPX f.mod % 8
  issueRow s f.pn f.pred
    { ops := [dst f.dst (wordsOf t), src f.sa, unused f.sb, unused f.sc],
      modOk := (decide (t = 4) || decide (t = 5)) && decide (6 ≤ u) && decide (modOPX f.mod % 16 < 8) && decide (i < perReg u) &&
        modRmSat f.mod 0 false } (fun s c =>
    perStrand s c f.dst.toNat (wordsOf t) (fun k =>
      fenc (fmtD t) (decodeType u (elemAt u (srcN s c f.sa.toNat k 1) i)) 0 false 0))

/-- CVTMXD (R265): one MX element under its scale. -/
def execCvtmxd (f : RRR) (s : State) : Host.Outcome State Fault Refusal :=
  let u := modOPX f.mod / 16
  let i := modOPX f.mod % 8
  issueRow s f.pn f.pred
    { ops := [dst f.dst, src f.sa, src f.sb, unused f.sc],
      modOk := decide (modTYPE f.mod = 4) && decide (8 ≤ u ∧ u ≤ 13) && decide (modOPX f.mod % 16 < 8) &&
        decide (i < perReg u) && modRmSat f.mod 3 true } (fun s c =>
    perStrand s c f.dst.toNat 1 (fun k =>
      let x := elemAt u (srcN s c f.sa.toNat k 1) i
      let X := srcN s c f.sb.toNat k 1 % 256
      match elemVal u x with
      | .nan g => { val := 0x7FC00000, fl := if g then flagNV else 0 }
      | .inf n => if X = 255 then { val := 0x7FC00000 } else { val := infBits fmt32 n }
      | _ => if X = 255 then { val := 0x7FC00000 } else fenc fmt32 (mxVal u X x) (modRM f.mod) (modSAT f.mod) 0))

/-- The element types of the MX formats (R266). -/
def isMx (t : Nat) : Bool := decide (8 ≤ t ∧ t ≤ 13)

/-- The strands of the block that a strand lies in (R266): k = 16 halves the weave. -/
def blockOf (code k : Nat) : List Nat := if code = 0 then allStrands.filter (fun j => decide (j / 16 = k / 16)) else allStrands

/-- CVTMX (R266): quantise the values of each block under the scale of R82. Under SR the stochastic state of a strand steps once for each
element, those that R82 writes as zero included. Log 72 (DESIGN CHOICE). -/
def execCvtmx (f : RRR) (s : State) : Host.Outcome State Fault Refusal :=
  let t := modTYPE f.mod
  let code := modOPX f.mod % 4
  let rm := modRM f.mod
  issueRow s f.pn f.pred
    { ops := [dst f.dst, src f.sa, if code = 2 then src f.sb else unused f.sb, unused f.sc],
      modOk := isMx t && decide (modOPX f.mod / 16 = 4) && decide (modOPX f.mod / 4 % 4 = 0) && decide (code ≤ 2) &&
        decide (rm ≤ 4) } (fun s c =>
    let va (k : Nat) := fdec fmt32 (srcN s c f.sa.toNat k 1)
    let vb (k : Nat) := fdec fmt32 (srcN s c f.sb.toNat k 1)
    let amax (k : Nat) := amaxOf (((blockOf code k).filter (fun j => c.q.getLsbD j)).flatMap (fun j =>
      if code = 2 then [va j, vb j] else [va j]))
    let zero (x : Num) : Nat := match x with
      | .fin true _ _ => if t = 13 then 0 else 2 ^ (typeBits t - 1)
      | _ => 0
    perStrandSR s c f.dst.toNat 1 (fun k st =>
      let a := amax k
      let X := mxScale t a
      let one (x : Num) (st : Nat) : FRes × Nat :=
        match a with
        | .fin _ m _ =>
          if m = 0 then ({ val := zero x }, if rm = 4 then srNext st else st) else mxElem t X x rm st
        | _ => ({ val := 0, fl := flagNV }, if rm = 4 then srNext st else st)
      let ra := one (va k) st
      let rb := if code = 2 then one (vb k) ra.2 else ({ val := 0 }, ra.2)
      ({ val := X * 2 ^ 16 + rb.1.val * 2 ^ 8 + ra.1.val, fl := ra.1.fl ||| rb.1.fl }, rb.2)))

/-- MXAMAX (R267): the largest magnitude within each block. -/
def execMxamax (f : RRR) (s : State) : Host.Outcome State Fault Refusal :=
  let code := modOPX f.mod
  issueRow s f.pn f.pred
    { ops := [dst f.dst, src f.sa, unused f.sb, unused f.sc],
      modOk := decide (modTYPE f.mod = 4) && decide (code ≤ 1) && modRmSat f.mod 0 false } (fun s c =>
    perStrand s c f.dst.toNat 1 (fun k =>
      match amaxOf (((blockOf code k).filter (fun j => c.q.getLsbD j)).map (fun j => fdec fmt32 (srcN s c f.sa.toNat j 1))) with
      | .nan g => { val := 0x7FC00000, fl := if g then flagNV else 0 }
      | x => { val := (fenc fmt32 x 0 false 0).val }))

/-- E8GET (R267): the scale that R82 chooses for a magnitude. -/
def execE8get (f : RRR) (s : State) : Host.Outcome State Fault Refusal :=
  let t := modTYPE f.mod
  issueRow s f.pn f.pred
    { ops := [dst f.dst, src f.sa, unused f.sb, unused f.sc],
      modOk := isMx t && decide (modOPX f.mod = 0) && modRmSat f.mod 0 false } (fun s c =>
    perStrand s c f.dst.toNat 1 (fun k =>
      let x := fdec fmt32 (srcN s c f.sa.toNat k 1)
      { val := mxScale t x, fl := match x with | .fin _ _ _ => 0 | _ => flagNV }))

/-- FXCVT (R268): between float and fixed point with n fraction bits. -/
def execFxcvt (f : RRR) (s : State) : Host.Outcome State Fault Refusal :=
  let t := modTYPE f.mod
  let u := modOPX f.mod / 16
  let rm := modRM f.mod
  issueRow s f.pn f.pred
    { ops := [dst f.dst (wordsOf t), src f.sa (wordsOf u), src f.sb, unused f.sc],
      modOk := decide (t ≤ 5) && decide (u ≤ 5) && (isFloat t != isFloat u) && decide (modOPX f.mod % 16 = 0) &&
        decide (rm ≤ if isFloat t then 4 else 3) } (fun s c =>
    perStrandSR s c f.dst.toNat (wordsOf t) (fun k st =>
      let n : Int := (srcN s c f.sb.toNat k 1 % 64 : Nat)
      let x := decodeType u (srcN s c f.sa.toNat k (wordsOf u))
      convert t (nscale x (if isFloat u then n else -n)) rm (modSAT f.mod) st))

/-! ### Exponents (R269) -/

/-- a rounded to an integral value in its own format (R269). -/
def rndIntegral (f : Fmt) (rm a : Nat) : FRes :=
  match nanRule f [a] with
  | some r => r
  | none =>
    match fdec f a with
    | .fin s m e =>
      let r := (rndTo m e 0 rm s 0).1
      { val := if r = 0 then withSign f 0 s else (fenc f (.fin s r 0) 0 false 0).val }
    | _ => { val := a }

/-- VRND (R269). -/
def execVrnd (f : RRR) (s : State) : Host.Outcome State Fault Refusal :=
  vecRRR f { nsrc := 1, types := [4, 5, 6, 7], rounds := true } (decide (modOPX f.mod = 0)) (fun t rm a _ _ =>
    lanewise t (fun a _ _ => rndIntegral (fmtD t) rm a) a 0 0) s

/-- a × 2^b rounded once (R269). -/
def scalbOp (f : Fmt) (rm : Nat) (sat : Bool) (a : Nat) (b : Int) : FRes :=
  match nanRule f [a] with
  | some r => r
  | none =>
    match fdec f a with
    | .fin s m e => if m = 0 then { val := a } else fenc f (.fin s m (e + b)) rm sat 0
    | _ => { val := a }

/-- SCALB (R269). -/
def execScalb (f : RRR) (s : State) : Host.Outcome State Fault Refusal :=
  let t := modTYPE f.mod
  issueRow s f.pn f.pred
    { ops := [dst f.dst (wordsOf t), src f.sa (wordsOf t), src f.sb, unused f.sc],
      modOk := decide (4 ≤ t ∧ t ≤ 7) && decide (modRM f.mod ≤ 3) && decide (modOPX f.mod = 0) } (fun s c =>
    perStrand s c f.dst.toNat (wordsOf t) (fun k =>
      let b := signedOf 32 (srcN s c f.sb.toNat k 1)
      lanewise t (fun a _ _ => scalbOp (fmtD t) (modRM f.mod) (modSAT f.mod) a b) (srcN s c f.sa.toNat k (wordsOf t)) 0 0))

/-- GETEXP (R269): floor(log2 |a|). -/
def execGetexp (f : RRR) (s : State) : Host.Outcome State Fault Refusal :=
  vecRRR f { nsrc := 1, types := [4, 5], narrow := 1 } (decide (modOPX f.mod = 0)) (fun t _ a _ _ =>
    match fdec (fmtD t) a with
    | .fin _ m e => ires (if m = 0 then 0x80000000 else narrow 32 (expOf m e))
    | .inf _ => ires 0x7FFFFFFF
    | .nan g => { val := 0x7FFFFFFF, fl := if g then flagNV else 0 }) s

/-- GETMANT (R269): a × 2^−GETEXP(a). -/
def execGetmant (f : RRR) (s : State) : Host.Outcome State Fault Refusal :=
  vecRRR f { nsrc := 1, types := [4, 5] } (decide (modOPX f.mod = 0)) (fun t _ a _ _ =>
    match nanRule (fmtD t) [a] with
    | some r => r
    | none =>
      match fdec (fmtD t) a with
      | .fin s m e => if m = 0 then ires a else ires (fenc (fmtD t) (.fin s m (e - expOf m e)) 0 false 0).val
      | _ => ires a) s

/-- SETSEED (R270): the seed, and every strand's state under R84. -/
def execSetseed (f : RRR) (s : State) : Host.Outcome State Fault Refusal :=
  issueRow s f.pn f.pred { ops := [unused f.dst, srcIn 51 f.sa, unused f.sb, unused f.sc], modOk := modZero16 f.mod } (fun s c =>
    if c.once then
      let a := srcN s c f.sa.toNat c.first 1
      .done (modWeave s c.w (fun wv => { wv with
        srseed := BitVec.ofNat 32 a
        srst := setCells [] 0 (allStrands.map (fun k => BitVec.ofNat 32 (srInit a k))) }))
    else .done s)

end Sys2Proof.Machine
end

