-- ==== Sys2Proof/Machine/Bench.lean ====
section
/-!
DEFINITION. The bench control instructions: opcodes 0x00 to 0x10 (spec/08_bench.md R174 to R181).
-/

namespace Sys2Proof.Machine

open Sys2Proof

/-- The form of NOP, END and JOIN: every register field 511, MOD 0 (R175). -/
def bareForm (f : RRR) (waits : Bool) : Form := { ops := rrrNone f, modOk := modZero16 f.mod, waits := waits }

/-- NOP (R175): nothing. -/
def execNop (f : RRR) (s : State) : Host.Outcome State Fault Refusal :=
  issueRow s f.pn f.pred (bareForm f false) (fun s _ => .done s)

/-- Take strands out of the mark masks of the open join entries (R42). -/
def unmark (m : Mask) : List JoinItem → List JoinItem
  | [] => []
  | .entry pc a b h :: r => .entry pc (a &&& ~~~m) b h :: unmark m r
  | x :: r => x :: unmark m r

/-- The join stack changes from what it was before to what it is in `s1`: if items that the change needs stand in the spill arena, the
weave refills them first (R41, R178). Log 73 (DEDUCED). -/
def withRefill (s : State) (c : Ctx) (before : List JoinItem) (s1 : State) (e : State → Effect) : Effect :=
  match weaveOf s1 c.w with
  | none => e s1
  | some wv =>
    let used := itemsUsed before wv.stack
    if before.length - c.wv.jspill < used then
      .stay (modWeave s c.w (fun wv => { wv with jspill := before.length - used })) (some .spill)
    else e (modWeave s1 c.w Weave.fitStack)

/-- END (R176, R42): the split's strands exit; entries that are thereby complete pop; handler mode ends. -/
def execEndSplit (f : RRR) (s : State) : Host.Outcome State Fault Refusal :=
  issueRow s f.pn f.pred (bareForm f false) (fun s c =>
    if c.once then
      let s1 := modWeave s c.w (fun wv =>
        dropTemps (freeSplit { wv with exited := wv.exited ||| c.sp.mask, stack := unmark c.sp.mask wv.stack } c.slot) c.sp.mask)
      withRefill s c (unmark c.sp.mask c.wv.stack) (settleJoins s1 c.w) .gone
    else .done s)

/-- Count a taken transfer (R443 BRTAKEN). -/
def taken6 (s : State) (c : Ctx) : State := countW s c.wv 6 1

/-- The form of BRA, BRV and JMARK: DST and SA 511, bits [1:0] zero (R115, R175). -/
def brForm (f : BR) : Form := { ops := [unused f.dst, unused f.sa], modOk := decide (f.rsv = 0) }

/-- H + 8 × OFF32 (R115). -/
def brTarget (c : Ctx) (off : BitVec 32) : DWord := c.pc + 8 * off.signExtend 64

/-- BRA (R176): a taken branch of the whole split. -/
def execBra (f : BR) (s : State) : Host.Outcome State Fault Refusal :=
  issueRow s f.pn f.pred (brForm f) (fun s c =>
    if c.once then .goto (taken6 s c) (brTarget c f.off) false else .done s)

/-- BRV (R176, R40): the strands whose predicate is true take the branch; a split divides where some are and some are not. -/
def execBrv (f : BR) (s : State) : Host.Outcome State Fault Refusal :=
  issueRow s f.pn f.pred (brForm f) (fun s c =>
    let target := brTarget c f.off
    if c.q = 0 then .done s
    else if c.q = c.sp.mask then .goto (taken6 s c) target false
    else if (freeSlot c.wv).isNone ∧ 144 ≤ c.wv.stack.length then .trap (illegal c 11)
    else
      let s1 := modWeave s c.w (fun wv =>
        let wv1 := { wv with splits := edit wv.splits c.slot (fun sp => { sp with mask := sp.mask &&& ~~~c.q }) }
        dropTemps (placeSplit wv1 target c.q c.sp.handler (decide (target.toNat ≤ c.pc.toNat))).fitStack c.q)
      .done (countW s1 c.wv 7 1))

/-- A taken RET or BRX ends handler mode; a breakpoint does not match again where it transfers to the trapping PC (R184,
R444). -/
def endHandler (s : State) (c : Ctx) (target : DWord) : State :=
  if c.sp.handler then
    modSplit s c.w c.slot (fun sp =>
      { sp with handler := false, noBreak := if sp.noBreak = some target then some target else none })
  else s

/-- BRX and RET (R176): transfer to the PC in an even scalar pair; bits [2:0] not zero raise ALIGN cause 2. -/
def indirect (f : RRR) (s : State) : Host.Outcome State Fault Refusal :=
  issueRow s f.pn f.pred
    { ops := [unused f.dst, srcIn 2 f.sa 2, unused f.sb, unused f.sc], modOk := modZero16 f.mod } (fun s c =>
    if c.once then
      let t := BitVec.ofNat 64 (srcN s c f.sa.toNat 0 2)
      if t.extractLsb' 0 3 ≠ 0 then .trap { cls := 2, cause := 2, lanes := c.sp.mask, addr := t.toNat }
      else .goto (endHandler (taken6 s c) c t) t false
    else .done s)

/-- BRX (R176). -/
def execBrx (f : RRR) (s : State) : Host.Outcome State Fault Refusal := indirect f s

/-- CALL (R176): the link is the PC of the next clause, in an even scalar pair. -/
def execCall (f : BR) (s : State) : Host.Outcome State Fault Refusal :=
  issueRow s f.pn f.pred { ops := [dstIn 2 f.dst 2, unused f.sa], modOk := decide (f.rsv = 0) } (fun s c =>
    if c.once then
      let n := (nextPC c.pc c.hdr).toNat
      let k := sKey (f.dst.toNat - 384)
      .goto (taken6 (writeWords s c.w [(k, BitVec.ofNat 32 n), (k + 1, BitVec.ofNat 32 (n / 2 ^ 32))]) c) (brTarget c f.off) false
    else .done s)

/-- RET (R176): as BRX. -/
def execRet (f : RRR) (s : State) : Host.Outcome State Fault Refusal := indirect f s

/-- JMARK (R41, R178): push a join entry with the rejoin address and the split's mask. -/
def execJmark (f : BR) (s : State) : Host.Outcome State Fault Refusal :=
  issueRow s f.pn f.pred (brForm f) (fun s c =>
    if c.once then
      if 144 ≤ c.wv.stack.length then .trap (illegal c 11)
      else .done (modWeave s c.w (fun wv => Weave.fitStack { wv with stack := .entry (brTarget c f.off) c.sp.mask 0 false :: wv.stack }))
    else .done s)

/-- Some open join entry's mark mask holds every strand of a mask (R177). -/
def anyMark (m : Mask) (st : List JoinItem) : Bool :=
  st.any (fun x => match x with
    | .entry _ a _ _ => decide (m &&& ~~~a = 0)
    | .pending _ _ _ _ => false)

/-- JOIN (R177, R41): arrive at the top join entry; park while an inner entry stands above; trap where no entry holds the
split's strands. -/
def execJoin (f : RRR) (s : State) : Host.Outcome State Fault Refusal :=
  issueRow s f.pn f.pred (bareForm f true) (fun s c =>
    if c.once then
      match topEntry c.wv.stack with
      | none => .trap (illegal c 10)
      | some (up, (pc, mark, arrived, h), dn) =>
        if c.sp.mask &&& ~~~mark = 0 then
          let wv1 := { c.wv with stack := up ++ .entry pc mark (arrived ||| c.sp.mask) (h || c.sp.handler) :: dn }
          withRefill s c c.wv.stack (settleJoins (setWeave s c.w (dropTemps (freeSplit wv1 c.slot) c.sp.mask)) c.w) .gone
        else if anyMark c.sp.mask c.wv.stack then .hold s .joinWait .retry
        else .trap (illegal c 10)
    else .done s)

/-- The form of PAUSE, WAITF and TRAP: DST and SA 511, ITYPE 0 (R113, R179). -/
def waitForm (f : RI) (ok waits : Bool) : Form :=
  { ops := [unused f.dst, unused f.sa], modOk := decide (f.itype = 0) && ok, waits := waits }

/-- PAUSE (R179): the split waits min(n, 2^20) cycles; the row PAUSE_EXPIRE ends the wait. -/
def execPause (f : RI) (s : State) : Host.Outcome State Fault Refusal :=
  issueRow s f.pn f.pred (waitForm f true true) (fun s c =>
    match c.held with
    | some _ => .stay s
    | none => if c.once then .hold s .pause (.pause (s.cycles + min f.imm.toNat (2 ^ 20))) else .done s)

/-- A flag is set (R167). -/
def flagSet (wv : Weave) (n : Nat) : Bool := (look wv.flags n).isSome

/-- WAITF (R179): the split waits until every named flag is clear. -/
def execWaitf (f : RI) (s : State) : Host.Outcome State Fault Refusal :=
  issueRow s f.pn f.pred (waitForm f (decide (f.imm.extractLsb' 12 20 = 0)) true) (fun s c =>
    if c.once && (List.range 12).any (fun n => f.imm.getLsbD n && flagSet c.wv n) then .hold s .flag .retry else .done s)

/-- TRAP (R179): the explicit trap, class 8, with INFO the code. -/
def execTrap (f : RI) (s : State) : Host.Outcome State Fault Refusal :=
  issueRow s f.pn f.pred (waitForm f true false) (fun s c =>
    if c.once then .trap { cls := 8, cause := 0, lanes := c.sp.mask, info := f.imm.toNat } else .done s)

/-- The words of registers a to a + n − 1. Log 27 (DESIGN CHOICE). -/
def rangeKeys (a n : Nat) : List Nat := (List.range (32 * n)).map (fun i => 32 * a + i)

/-- DEAD (R174): the registers hold free values until written again (log entry 1); in renamed mode they are unmapped and their spilled
copies dropped, but for those that a Loom operation names, which stay as they are until its LOOM.WAIT completes. Log 73 (DEDUCED). -/
def execDead (f : RRR) (s : State) : Host.Outcome State Fault Refusal :=
  let n := modOPX f.mod + 1
  issueRow s f.pn f.pred
    { ops := [unused f.dst, { reg := f.sa.toNat, cls := 1, wide := n, range := true, names := true }, unused f.sb, unused f.sc],
      modOk := decide (modRM f.mod = 0) && !modSAT f.mod && decide (modTYPE f.mod = 0) } (fun s c =>
    if c.once then
      let keys := rangeKeys f.sa.toNat n
      let s1 := writeWords s c.w (keys.map (fun k => (k, freeWord s k)))
      .done (if c.wv.hdr.renamed then
          modWeave s1 c.w (fun wv =>
            let rs := ((List.range n).map (fun i => f.sa.toNat + i)).filter (fun r => !((loomHolds wv).contains r))
            unmapRegs { wv with dead := wv.dead ++ keys } rs)
        else s1)
    else .done s)

/-- ACTM (R181): the split's mask. -/
def execActm (f : RRR) (s : State) : Host.Outcome State Fault Refusal :=
  issueRow s f.pn f.pred { ops := [dstIn 3 f.dst, unused f.sa, unused f.sb, unused f.sc], modOk := modZero16 f.mod } (fun s c =>
    .done (writeDst s c f.dst.toNat 1 (fun _ => c.sp.mask.toNat)))

/-- PLOG (R181): MOV, AND, OR, XOR of predicate bits; p7 as destination is illegal (R111). -/
def execPlog (f : RRR) (s : State) : Host.Outcome State Fault Refusal :=
  let d := (f.mod.extractLsb' 0 3).toNat
  issueRow s f.pn f.pred { ops := rrrNone f, modOk := decide (f.mod.extractLsb' 8 8 = 0 ∧ d ≠ 7) } (fun s c =>
    let pa := predMask c.wv (f.mod.extractLsb' 3 3).toNat
    let pd := predMask c.wv d
    let x := match (f.mod.extractLsb' 6 2).toNat with
      | 0 => pa
      | 1 => pd &&& pa
      | 2 => pd ||| pa
      | _ => pd ^^^ pa
    .done (writePredicate s c d x))

/-- PGET (R181): a strand's predicate bit into a vector register, all 32 bits into a scalar register. -/
def execPget (f : RRR) (s : State) : Host.Outcome State Fault Refusal :=
  issueRow s f.pn f.pred
    { ops := [dstIn 3 f.dst, unused f.sa, unused f.sb, unused f.sc], modOk := decide (f.mod.extractLsb' 3 13 = 0) } (fun s c =>
    let pa := predMask c.wv (f.mod.extractLsb' 0 3).toNat
    .done (writeDst s c f.dst.toNat 1 (fun k => if f.dst.toNat < 384 then (if pa.getLsbD k then 1 else 0) else pa.toNat)))

/-- PPUT (R181): a predicate from a register under MASK, NZ, NEG or ZERO. -/
def execPput (f : RRR) (s : State) : Host.Outcome State Fault Refusal :=
  let d := (f.mod.extractLsb' 0 3).toNat
  issueRow s f.pn f.pred
    { ops := [unused f.dst, srcIn 19 f.sa, unused f.sb, unused f.sc],
      modOk := decide (f.mod.extractLsb' 5 11 = 0 ∧ d ≠ 7) } (fun s c =>
    let bit (k : Nat) : Bool :=
      let a := srcWord s c f.sa.toNat k
      match (f.mod.extractLsb' 3 2).toNat with
      | 0 => a.getLsbD k
      | 1 => decide (a ≠ 0)
      | 2 => a.getLsbD 31
      | _ => decide (a = 0)
    .done (writePredicate s c d (maskOf (allStrands.filter bit))))

end Sys2Proof.Machine
end

