-- ==== Sys2Proof/WellFormed.lean ====
section
/-!
DEFINITION. Which terms of `Instr` are instruction words: their format's fields hold every bit of the word (R110 to R117), so a word's
term is ill-formed only where its constructor and its bits disagree. What the spec finds wrong in a word's fields is found when the
instruction issues and is a trap (R126), no matter of this file. A row that is an event is no word.
-/

namespace Sys2Proof

/-- The 24 reserved opcodes (R124). -/
def reservedOpcodes : List Nat :=
  [0x2E, 0x2F, 0x7C, 0x7D, 0x7E, 0x7F, 0x9A, 0x9B, 0x9C, 0x9D, 0x9E, 0x9F, 0xB3, 0xB4, 0xB5, 0xB6, 0xB7, 0xC7, 0xD0, 0xD1, 0xD2, 0xD3, 0xEE, 0xEF]

/-- The operation of a PGQ word, IMM16[15:14] (R325). -/
def pgqOp (f : SYS) : Nat := (f.imm.extractLsb' 14 2).toNat

/-- The term is an instruction word, and its constructor agrees with its bits: PGQ's operation (R325; the value 3, which is no operation,
stands with INV), a reserved opcode (R124). -/
def Instr.wf : Instr → Bool
  | .nop _ => true
  | .endSplit _ => true
  | .bra _ => true
  | .brv _ => true
  | .brx _ => true
  | .call _ => true
  | .ret _ => true
  | .jmark _ => true
  | .join _ => true
  | .pause _ => true
  | .waitf _ => true
  | .trap _ => true
  | .dead _ => true
  | .actm _ => true
  | .plog _ => true
  | .pget _ => true
  | .pput _ => true
  | .smov _ => true
  | .sadd _ => true
  | .ssub _ => true
  | .smul _ => true
  | .smulh _ => true
  | .sand _ => true
  | .sor _ => true
  | .sxor _ => true
  | .sshl _ => true
  | .sshr _ => true
  | .ssra _ => true
  | .smin _ => true
  | .smax _ => true
  | .scmp _ => true
  | .ssel _ => true
  | .sclz _ => true
  | .spopc _ => true
  | .smovRi _ => true
  | .saddRi _ => true
  | .smulRi _ => true
  | .sandRi _ => true
  | .sorRi _ => true
  | .sxorRi _ => true
  | .sshlRi _ => true
  | .sshrRi _ => true
  | .ssraRi _ => true
  | .scmpRi _ => true
  | .sminRi _ => true
  | .smaxRi _ => true
  | .vmov _ => true
  | .vmovRi _ => true
  | .vadd _ => true
  | .vaddRi _ => true
  | .vsub _ => true
  | .vsubRi _ => true
  | .vadds _ => true
  | .vaddsRi _ => true
  | .vsubs _ => true
  | .vmul _ => true
  | .vmulRi _ => true
  | .vmulh _ => true
  | .vmulw _ => true
  | .vmad _ => true
  | .vmadh _ => true
  | .vfma _ => true
  | .vfms _ => true
  | .vfnma _ => true
  | .vabs _ => true
  | .vneg _ => true
  | .vmin _ => true
  | .vminRi _ => true
  | .vmax _ => true
  | .vmaxRi _ => true
  | .vclamp _ => true
  | .vsgn _ => true
  | .vabsd _ => true
  | .vavg _ => true
  | .vaddc _ => true
  | .vsubb _ => true
  | .vand _ => true
  | .vandRi _ => true
  | .vor _ => true
  | .vorRi _ => true
  | .vxor _ => true
  | .vxorRi _ => true
  | .vnot _ => true
  | .vbool _ => true
  | .vshl _ => true
  | .vshlRi _ => true
  | .vshr _ => true
  | .vshrRi _ => true
  | .vsra _ => true
  | .vsraRi _ => true
  | .vrol _ => true
  | .vrolRi _ => true
  | .vclz _ => true
  | .vctz _ => true
  | .popc _ => true
  | .vbrev _ => true
  | .vbswap _ => true
  | .vbfe _ => true
  | .vbfi _ => true
  | .vcmp _ => true
  | .vcmpRi _ => true
  | .vsel _ => true
  | .vselRi _ => true
  | .vclass _ => true
  | .vmatch _ => true
  | .vpack _ => true
  | .vunpk _ => true
  | .vswz _ => true
  | .vshuf _ => true
  | .vdot8 _ => true
  | .vdot4 _ => true
  | .vdot2 _ => true
  | .vscale _ => true
  | .xchg _ => true
  | .vget _ => true
  | .vput _ => true
  | .ballot _ => true
  | .vprefix _ => true
  | .vred _ => true
  | .rdff _ => true
  | .wrff _ => true
  | .clrff _ => true
  | .rcp _ => true
  | .rsq _ => true
  | .sqrt _ => true
  | .div _ => true
  | .exp2 _ => true
  | .log2 _ => true
  | .sin _ => true
  | .cos _ => true
  | .expe _ => true
  | .loge _ => true
  | .tanh _ => true
  | .atan _ => true
  | .cvt _ => true
  | .cvtpk _ => true
  | .cvtpk2 _ => true
  | .cvtunp _ => true
  | .cvtmx _ => true
  | .cvtmxd _ => true
  | .fxcvt _ => true
  | .e8get _ => true
  | .mxamax _ => true
  | .vrnd _ => true
  | .scalb _ => true
  | .getexp _ => true
  | .getmant _ => true
  | .setseed _ => true
  | .ld _ => true
  | .st _ => true
  | .ldu _ => true
  | .stu _ => true
  | .ldc _ => true
  | .ldf _ => true
  | .stf _ => true
  | .prfl _ => true
  | .invl _ => true
  | .wbl _ => true
  | .fence _ => true
  | .waitl _ => true
  | .ldnf _ => true
  | .probe _ => true
  | .lea _ => true
  | .ldt _ => true
  | .stt _ => true
  | .genrd _ => true
  | .zerol _ => true
  | .lds _ => true
  | .sts _ => true
  | .atoms _ => true
  | .cass _ => true
  | .fefill _ => true
  | .fetake _ => true
  | .feread _ => true
  | .fereset _ => true
  | .bara _ => true
  | .barw _ => true
  | .barx _ => true
  | .nbsync _ => true
  | .nbarr _ => true
  | .bsave _ => true
  | .brestore _ => true
  | .atom _ => true
  | .red _ => true
  | .cas _ => true
  | .cas128 _ => true
  | .atomu _ => true
  | .redu _ => true
  | .casu _ => true
  | .reda _ => true
  | .dcopy _ => true
  | .dcopym _ => true
  | .gather _ => true
  | .scatter _ => true
  | .gcompact _ => true
  | .gstatus _ => true
  | .greplay _ => true
  | .gselect _ => true
  | .loomMm _ => true
  | .loomMx _ => true
  | .loomSplit _ => true
  | .loomSpl _ => true
  | .loomFin _ => true
  | .loomWait _ => true
  | .ofence _ => true
  | .accAlloc _ => true
  | .accFree _ => true
  | .accRd _ => true
  | .accWr _ => true
  | .accClr _ => true
  | .gangSet _ => true
  | .netColl _ => true
  | .netSend _ => true
  | .ringPop _ => true
  | .prefT _ => true
  | .launchD _ => true
  | .srd _ => true
  | .swr _ => true
  | .bkpt _ => true
  | .trace _ => true
  | .tracev _ => true
  | .pmark _ => true
  | .cntrd _ => true
  | .ckpt _ => true
  | .vstat _ => true
  | .loftLd _ => true
  | .loftWaitr _ => true
  | .capq _ => true
  | .pgqInv f => decide (pgqOp f ≠ 1 ∧ pgqOp f ≠ 2)
  | .pgqInvall f => decide (pgqOp f = 1)
  | .pgqEvict f => decide (pgqOp f = 2)
  | .isync _ => true
  | .drain _ => true
  | .gtwait _ => true
  | .reservedOpcode w => reservedOpcodes.contains (w.extractLsb' 56 8).toNat
  | .clerkPerform => false
  | .drayChunkDone => false
  | .drayCopyComplete => false
  | .gleanerAccept => false
  | .gleanerStrandSettle => false
  | .gselectComplete => false
  | .loomRendezvous => false
  | .loomKstepCommit => false
  | .netCommandComplete => false
  | .netPeerTimeout => false
  | .runnerGrainFetch => false
  | .launchDAccept => false
  | .clauseStart => false
  | .farFaultTrap => false
  | .pauseExpire => false
  | .gtwaitWake => false
  | .waitlTimeout => false
  | .watchUnavailable => false
  | .versionWayFree => false
  | .gangPlace => false
  | .preemptRequest => false
  | .priorityWaitExpire => false
  | .starvationGuard => false
  | .priorityAging => false
  | .preemptAck => false
  | .preemptWithdraw => false
  | .gangRestore => false
  | .packetStart => false
  | .nopPacket => false
  | .launchPacket => false
  | .copyPacket => false
  | .waitsigPacket => false
  | .waitsigPoll => false
  | .waitsigTimeout => false
  | .signalPacket => false
  | .loftwritePacket => false
  | .fencePacket => false
  | .responsePoll => false
  | .wridxWrite => false
  | .doorbellWrite => false
  | .queueEnable => false
  | .queueDisable => false
  | .queueSuspend => false
  | .queueUnsuspend => false
  | .prioWrite => false
  | .exrdWrite => false
  | .tenancyCreate => false
  | .tenancyCreateDone => false
  | .tenancyDestroy => false
  | .tenancyDestroyDone => false
  | .tkeyWrite => false
  | .registerWrite => false
  | .quotaWrite => false
  | .invreqGo => false
  | .grainFillComplete => false
  | .faultResponsePoll => false
  | .frtmoExpire => false
  | .leaseAcquire => false
  | .leaseRenew => false
  | .leaseRelease => false
  | .frresp => false
  | .leaserd => false
  | .releaseWritebackDone => false
  | .grant => false
  | .refuse => false
  | .revoke => false
  | .nodedown => false
  | .replica => false
  | .renewLeadReached => false
  | .renewResend => false
  | .expiryGuardReached => false
  | .renewtmoExpire => false
  | .deadlineReached => false
  | .bisnp => false
  | .exhausted => false
  | .frameMigrationDone => false
  | .runnerCounterHalve => false
  | .tinkerRequest => false
  | .scrubStep => false
  | .repairWindowOpen => false
  | .repairWindowClose => false
  | .loftpartWrite => false
  | .loftWindowStart => false
  | .loftWindowEnd => false
  | .keyWrapWrite => false
  | .keySlotConfigWrite => false
  | .commEnable => false
  | .commDisable => false
  | .ringEnable => false
  | .ringDisable => false
  | .frameReceive => false
  | .dbgctlStateWrite => false
  | .syncTick => false
  | .sampleTick => false
  | .replayPassEnd => false
  | .ptmExchange => false
  | .powerOn => false
  | .bringupStageEnd => false
  | .linkLoss => false
  | .clockStep => false
  | .thermalTrip => false
  | .d3hotEntry => false
  | .d0Return => false
  | .attctlGo => false
  | .attestComplete => false
  | .longLatencyComplete => false
  | .loomSplitFinComplete => false
  | .loftwriteComplete => false
  | .frrdWrite => false
  | .rrdWrite => false
  | .deviceReset => false
  | .powerLoss => false

end Sys2Proof
end

