-- ==== Sys2Proof/Decode.lean ====
section
/-!
DEFINITION. Decoding and encoding of instruction words (spec/05_encoding.md R109 to R117, R124, R125). A 64-bit word is
always some instruction: its opcode is assigned or reserved (R124). What an ill-formed field does is settled when the
instruction issues (R126), so decoding keeps every bit of the word.
-/

namespace Sys2Proof

/-- Why bytes are no instruction word: fewer than eight of them (R100: an instruction word is 8 bytes). -/
inductive DecodeError where
  | truncated
  deriving DecidableEq, Repr

/-- The opcode, bits [63:56] (R109). -/
def opcodeOf (w : DWord) : BitVec 8 := w.extractLsb' 56 8

/-- The fields of an RRR word (R110). -/
def rrrOf (w : DWord) : RRR :=
  { dst := w.extractLsb' 47 9, sa := w.extractLsb' 38 9, sb := w.extractLsb' 29 9, sc := w.extractLsb' 20 9,
    pn := w.extractLsb' 19 1, pred := w.extractLsb' 16 3, mod := w.extractLsb' 0 16 }

/-- The fields of an RI word (R113). -/
def riOf (w : DWord) : RI :=
  { dst := w.extractLsb' 47 9, sa := w.extractLsb' 38 9, imm := w.extractLsb' 6 32, pn := w.extractLsb' 5 1,
    pred := w.extractLsb' 2 3, itype := w.extractLsb' 0 2 }

/-- The fields of a MEM word (R114). -/
def memOf (w : DWord) : MemF :=
  { ds := w.extractLsb' 47 9, base := w.extractLsb' 38 9, off := w.extractLsb' 18 20, scope := w.extractLsb' 15 3,
    ann := w.extractLsb' 13 2, cop := w.extractLsb' 11 2, size := w.extractLsb' 8 3, pn := w.extractLsb' 7 1,
    pred := w.extractLsb' 4 3, mx := w.extractLsb' 0 4 }

/-- The fields of a BR word (R115). -/
def brOf (w : DWord) : BR :=
  { dst := w.extractLsb' 47 9, sa := w.extractLsb' 38 9, off := w.extractLsb' 6 32, pn := w.extractLsb' 5 1,
    pred := w.extractLsb' 2 3, rsv := w.extractLsb' 0 2 }

/-- The fields of an ENG word (R116). -/
def engOf (w : DWord) : ENG :=
  { dst := w.extractLsb' 47 9, desc := w.extractLsb' 38 9, dlen := w.extractLsb' 34 4, cmask := w.extractLsb' 30 4,
    scope := w.extractLsb' 27 3, rsv := w.extractLsb' 20 7, pn := w.extractLsb' 19 1, pred := w.extractLsb' 16 3,
    coff := w.extractLsb' 0 16 }

/-- The fields of a SYS word (R117). -/
def sysOf (w : DWord) : SYS :=
  { dst := w.extractLsb' 47 9, sa := w.extractLsb' 38 9, sreg := w.extractLsb' 22 16, rsv := w.extractLsb' 20 2,
    pn := w.extractLsb' 19 1, pred := w.extractLsb' 16 3, imm := w.extractLsb' 0 16 }

/-- PGQ holds its operation in IMM16[15:14] (R325). Operation 3 is no operation; it decodes as INV, whose meaning
raises the trap that R325 names for it. -/
def pgqOf (w : DWord) : Instr :=
  match (w.extractLsb' 14 2).toNat with
  | 1 => .pgqInvall (sysOf w)
  | 2 => .pgqEvict (sysOf w)
  | _ => .pgqInv (sysOf w)

/-- The opcode map (R124) with each opcode's format (R125). -/
def decodeWord (w : DWord) : Instr :=
  match (opcodeOf w).toNat with
  | 0 => .nop (rrrOf w)
  | 1 => .endSplit (rrrOf w)
  | 2 => .bra (brOf w)
  | 3 => .brv (brOf w)
  | 4 => .brx (rrrOf w)
  | 5 => .call (brOf w)
  | 6 => .ret (rrrOf w)
  | 7 => .jmark (brOf w)
  | 8 => .join (rrrOf w)
  | 9 => .pause (riOf w)
  | 10 => .waitf (riOf w)
  | 11 => .trap (riOf w)
  | 12 => .dead (rrrOf w)
  | 13 => .actm (rrrOf w)
  | 14 => .plog (rrrOf w)
  | 15 => .pget (rrrOf w)
  | 16 => .pput (rrrOf w)
  | 17 => .smov (rrrOf w)
  | 18 => .sadd (rrrOf w)
  | 19 => .ssub (rrrOf w)
  | 20 => .smul (rrrOf w)
  | 21 => .smulh (rrrOf w)
  | 22 => .sand (rrrOf w)
  | 23 => .sor (rrrOf w)
  | 24 => .sxor (rrrOf w)
  | 25 => .sshl (rrrOf w)
  | 26 => .sshr (rrrOf w)
  | 27 => .ssra (rrrOf w)
  | 28 => .smin (rrrOf w)
  | 29 => .smax (rrrOf w)
  | 30 => .scmp (rrrOf w)
  | 31 => .ssel (rrrOf w)
  | 32 => .sclz (rrrOf w)
  | 33 => .spopc (rrrOf w)
  | 34 => .smovRi (riOf w)
  | 35 => .saddRi (riOf w)
  | 36 => .smulRi (riOf w)
  | 37 => .sandRi (riOf w)
  | 38 => .sorRi (riOf w)
  | 39 => .sxorRi (riOf w)
  | 40 => .sshlRi (riOf w)
  | 41 => .sshrRi (riOf w)
  | 42 => .ssraRi (riOf w)
  | 43 => .scmpRi (riOf w)
  | 44 => .sminRi (riOf w)
  | 45 => .smaxRi (riOf w)
  | 48 => .vmov (rrrOf w)
  | 49 => .vmovRi (riOf w)
  | 50 => .vadd (rrrOf w)
  | 51 => .vaddRi (riOf w)
  | 52 => .vsub (rrrOf w)
  | 53 => .vsubRi (riOf w)
  | 54 => .vadds (rrrOf w)
  | 55 => .vsubs (rrrOf w)
  | 56 => .vmul (rrrOf w)
  | 57 => .vmulRi (riOf w)
  | 58 => .vmulh (rrrOf w)
  | 59 => .vmad (rrrOf w)
  | 60 => .vfma (rrrOf w)
  | 61 => .vfms (rrrOf w)
  | 62 => .vfnma (rrrOf w)
  | 63 => .vabs (rrrOf w)
  | 64 => .vneg (rrrOf w)
  | 65 => .vmin (rrrOf w)
  | 66 => .vmax (rrrOf w)
  | 67 => .vclamp (rrrOf w)
  | 68 => .vsgn (rrrOf w)
  | 69 => .vand (rrrOf w)
  | 70 => .vandRi (riOf w)
  | 71 => .vor (rrrOf w)
  | 72 => .vorRi (riOf w)
  | 73 => .vxor (rrrOf w)
  | 74 => .vxorRi (riOf w)
  | 75 => .vnot (rrrOf w)
  | 76 => .vbool (rrrOf w)
  | 77 => .vshl (rrrOf w)
  | 78 => .vshlRi (riOf w)
  | 79 => .vshr (rrrOf w)
  | 80 => .vshrRi (riOf w)
  | 81 => .vsra (rrrOf w)
  | 82 => .vsraRi (riOf w)
  | 83 => .vrol (rrrOf w)
  | 84 => .vrolRi (riOf w)
  | 85 => .vclz (rrrOf w)
  | 86 => .popc (rrrOf w)
  | 87 => .vbrev (rrrOf w)
  | 88 => .vbfe (rrrOf w)
  | 89 => .vbfi (rrrOf w)
  | 90 => .vcmp (rrrOf w)
  | 91 => .vcmpRi (riOf w)
  | 92 => .vsel (rrrOf w)
  | 93 => .vclass (rrrOf w)
  | 94 => .vdot8 (rrrOf w)
  | 95 => .vdot4 (rrrOf w)
  | 96 => .vdot2 (rrrOf w)
  | 97 => .vscale (rrrOf w)
  | 98 => .xchg (rrrOf w)
  | 99 => .vget (rrrOf w)
  | 100 => .vput (rrrOf w)
  | 101 => .vshuf (rrrOf w)
  | 102 => .ballot (rrrOf w)
  | 103 => .vprefix (rrrOf w)
  | 104 => .vred (rrrOf w)
  | 105 => .rdff (rrrOf w)
  | 106 => .wrff (rrrOf w)
  | 107 => .clrff (rrrOf w)
  | 108 => .vaddc (rrrOf w)
  | 109 => .vsubb (rrrOf w)
  | 110 => .vmulw (rrrOf w)
  | 111 => .vminRi (riOf w)
  | 112 => .vmaxRi (riOf w)
  | 113 => .vmatch (rrrOf w)
  | 114 => .vabsd (rrrOf w)
  | 115 => .vpack (rrrOf w)
  | 116 => .vunpk (rrrOf w)
  | 117 => .vavg (rrrOf w)
  | 118 => .vswz (rrrOf w)
  | 119 => .vctz (rrrOf w)
  | 120 => .vbswap (rrrOf w)
  | 121 => .vmadh (rrrOf w)
  | 122 => .vaddsRi (riOf w)
  | 123 => .vselRi (riOf w)
  | 128 => .rcp (rrrOf w)
  | 129 => .rsq (rrrOf w)
  | 130 => .sqrt (rrrOf w)
  | 131 => .div (rrrOf w)
  | 132 => .exp2 (rrrOf w)
  | 133 => .log2 (rrrOf w)
  | 134 => .sin (rrrOf w)
  | 135 => .cos (rrrOf w)
  | 136 => .cvt (rrrOf w)
  | 137 => .cvtpk (rrrOf w)
  | 138 => .cvtpk2 (rrrOf w)
  | 139 => .cvtunp (rrrOf w)
  | 140 => .cvtmx (rrrOf w)
  | 141 => .cvtmxd (rrrOf w)
  | 142 => .fxcvt (rrrOf w)
  | 143 => .e8get (rrrOf w)
  | 144 => .vrnd (rrrOf w)
  | 145 => .scalb (rrrOf w)
  | 146 => .getexp (rrrOf w)
  | 147 => .getmant (rrrOf w)
  | 148 => .setseed (rrrOf w)
  | 149 => .expe (rrrOf w)
  | 150 => .loge (rrrOf w)
  | 151 => .tanh (rrrOf w)
  | 152 => .atan (rrrOf w)
  | 153 => .mxamax (rrrOf w)
  | 160 => .ld (memOf w)
  | 161 => .st (memOf w)
  | 162 => .ldu (memOf w)
  | 163 => .stu (memOf w)
  | 164 => .ldc (memOf w)
  | 165 => .ldf (memOf w)
  | 166 => .stf (memOf w)
  | 167 => .prfl (memOf w)
  | 168 => .invl (memOf w)
  | 169 => .wbl (memOf w)
  | 170 => .fence (rrrOf w)
  | 171 => .waitl (memOf w)
  | 172 => .ldnf (memOf w)
  | 173 => .probe (memOf w)
  | 174 => .lea (memOf w)
  | 175 => .ldt (memOf w)
  | 176 => .stt (memOf w)
  | 177 => .genrd (rrrOf w)
  | 178 => .zerol (memOf w)
  | 184 => .lds (memOf w)
  | 185 => .sts (memOf w)
  | 186 => .atoms (rrrOf w)
  | 187 => .cass (rrrOf w)
  | 188 => .fefill (memOf w)
  | 189 => .fetake (memOf w)
  | 190 => .feread (memOf w)
  | 191 => .fereset (memOf w)
  | 192 => .bara (memOf w)
  | 193 => .barw (memOf w)
  | 194 => .barx (memOf w)
  | 195 => .nbsync (rrrOf w)
  | 196 => .nbarr (rrrOf w)
  | 197 => .bsave (rrrOf w)
  | 198 => .brestore (rrrOf w)
  | 200 => .atom (rrrOf w)
  | 201 => .red (rrrOf w)
  | 202 => .cas (rrrOf w)
  | 203 => .cas128 (rrrOf w)
  | 204 => .atomu (rrrOf w)
  | 205 => .redu (rrrOf w)
  | 206 => .casu (rrrOf w)
  | 207 => .reda (rrrOf w)
  | 212 => .dcopy (engOf w)
  | 213 => .dcopym (engOf w)
  | 214 => .gather (engOf w)
  | 215 => .scatter (engOf w)
  | 216 => .gcompact (engOf w)
  | 217 => .gstatus (rrrOf w)
  | 218 => .greplay (engOf w)
  | 219 => .gselect (engOf w)
  | 220 => .loomMm (engOf w)
  | 221 => .loomMx (engOf w)
  | 222 => .loomSplit (engOf w)
  | 223 => .loomSpl (engOf w)
  | 224 => .loomFin (engOf w)
  | 225 => .loomWait (rrrOf w)
  | 226 => .ofence (rrrOf w)
  | 227 => .accAlloc (rrrOf w)
  | 228 => .accFree (rrrOf w)
  | 229 => .accRd (rrrOf w)
  | 230 => .accWr (rrrOf w)
  | 231 => .accClr (rrrOf w)
  | 232 => .gangSet (rrrOf w)
  | 233 => .netColl (engOf w)
  | 234 => .netSend (engOf w)
  | 235 => .ringPop (rrrOf w)
  | 236 => .prefT (engOf w)
  | 237 => .launchD (engOf w)
  | 240 => .srd (sysOf w)
  | 241 => .swr (sysOf w)
  | 242 => .bkpt (sysOf w)
  | 243 => .trace (sysOf w)
  | 244 => .tracev (sysOf w)
  | 245 => .pmark (sysOf w)
  | 246 => .cntrd (sysOf w)
  | 247 => .ckpt (sysOf w)
  | 248 => .vstat (sysOf w)
  | 249 => .loftLd (memOf w)
  | 250 => .loftWaitr (sysOf w)
  | 251 => .capq (sysOf w)
  | 252 => pgqOf w
  | 253 => .isync (sysOf w)
  | 254 => .drain (sysOf w)
  | 255 => .gtwait (sysOf w)
  | _ => .reservedOpcode w

/-- The word of eight bytes, the least significant first (R5, R100). -/
def wordOfBytes (bs : List Byte) : DWord :=
  bs.foldr (fun b acc => (acc <<< 8) ||| b.zeroExtend 64) 0#64

/-- The eight bytes of a word, the least significant first (R5, R100). -/
def bytesOfWord (w : DWord) : List Byte :=
  [w.extractLsb' 0 8, w.extractLsb' 8 8, w.extractLsb' 16 8, w.extractLsb' 24 8,
   w.extractLsb' 32 8, w.extractLsb' 40 8, w.extractLsb' 48 8, w.extractLsb' 56 8]

/-- Read one instruction word from bytes; answer it with the rest of the bytes. -/
def decode : List Byte → Except DecodeError (Instr × List Byte)
  | b0 :: b1 :: b2 :: b3 :: b4 :: b5 :: b6 :: b7 :: rest =>
    .ok (decodeWord (wordOfBytes [b0, b1, b2, b3, b4, b5, b6, b7]), rest)
  | _ => .error .truncated

/-- The instruction that an instruction of the table's numbering of bits decodes to: the words of this device are
64 bits (R100), laid out little-endian as the hardware stores them. -/
def decodeTableWord (_nbits w : Nat) : Option Instr :=
  match decode (bytesOfWord (BitVec.ofNat 64 w)) with
  | .ok (i, _) => some i
  | .error _ => none

/-! ### The encoder -/

/-- A field's bits at their place in a word, the field's bit 0 at bit k. -/
def place {n : Nat} (x : BitVec n) (k : Nat) : DWord := x.setWidth 64 <<< k

/-- The RRR word of an opcode and its fields (R110). -/
def rrrWord (op : BitVec 8) (f : RRR) : DWord :=
  place op 56 ||| place f.dst 47 ||| place f.sa 38 ||| place f.sb 29 ||| place f.sc 20 |||
    place f.pn 19 ||| place f.pred 16 ||| place f.mod 0

/-- The RI word of an opcode and its fields (R113). -/
def riWord (op : BitVec 8) (f : RI) : DWord :=
  place op 56 ||| place f.dst 47 ||| place f.sa 38 ||| place f.imm 6 ||| place f.pn 5 |||
    place f.pred 2 ||| place f.itype 0

/-- The MEM word of an opcode and its fields (R114). -/
def memWord (op : BitVec 8) (f : MemF) : DWord :=
  place op 56 ||| place f.ds 47 ||| place f.base 38 ||| place f.off 18 ||| place f.scope 15 |||
    place f.ann 13 ||| place f.cop 11 ||| place f.size 8 ||| place f.pn 7 ||| place f.pred 4 |||
    place f.mx 0

/-- The BR word of an opcode and its fields (R115). -/
def brWord (op : BitVec 8) (f : BR) : DWord :=
  place op 56 ||| place f.dst 47 ||| place f.sa 38 ||| place f.off 6 ||| place f.pn 5 |||
    place f.pred 2 ||| place f.rsv 0

/-- The ENG word of an opcode and its fields (R116). -/
def engWord (op : BitVec 8) (f : ENG) : DWord :=
  place op 56 ||| place f.dst 47 ||| place f.desc 38 ||| place f.dlen 34 ||| place f.cmask 30 |||
    place f.scope 27 ||| place f.rsv 20 ||| place f.pn 19 ||| place f.pred 16 ||| place f.coff 0

/-- The SYS word of an opcode and its fields (R117). -/
def sysWord (op : BitVec 8) (f : SYS) : DWord :=
  place op 56 ||| place f.dst 47 ||| place f.sa 38 ||| place f.sreg 22 ||| place f.rsv 20 |||
    place f.pn 19 ||| place f.pred 16 ||| place f.imm 0

/-- The word of an instruction; `none` for a row that is an event and has no word. -/
def encode : Instr → Option DWord
  | .nop f => some (rrrWord 0x00#8 f)
  | .endSplit f => some (rrrWord 0x01#8 f)
  | .bra f => some (brWord 0x02#8 f)
  | .brv f => some (brWord 0x03#8 f)
  | .brx f => some (rrrWord 0x04#8 f)
  | .call f => some (brWord 0x05#8 f)
  | .ret f => some (rrrWord 0x06#8 f)
  | .jmark f => some (brWord 0x07#8 f)
  | .join f => some (rrrWord 0x08#8 f)
  | .pause f => some (riWord 0x09#8 f)
  | .waitf f => some (riWord 0x0A#8 f)
  | .trap f => some (riWord 0x0B#8 f)
  | .dead f => some (rrrWord 0x0C#8 f)
  | .actm f => some (rrrWord 0x0D#8 f)
  | .plog f => some (rrrWord 0x0E#8 f)
  | .pget f => some (rrrWord 0x0F#8 f)
  | .pput f => some (rrrWord 0x10#8 f)
  | .smov f => some (rrrWord 0x11#8 f)
  | .sadd f => some (rrrWord 0x12#8 f)
  | .ssub f => some (rrrWord 0x13#8 f)
  | .smul f => some (rrrWord 0x14#8 f)
  | .smulh f => some (rrrWord 0x15#8 f)
  | .sand f => some (rrrWord 0x16#8 f)
  | .sor f => some (rrrWord 0x17#8 f)
  | .sxor f => some (rrrWord 0x18#8 f)
  | .sshl f => some (rrrWord 0x19#8 f)
  | .sshr f => some (rrrWord 0x1A#8 f)
  | .ssra f => some (rrrWord 0x1B#8 f)
  | .smin f => some (rrrWord 0x1C#8 f)
  | .smax f => some (rrrWord 0x1D#8 f)
  | .scmp f => some (rrrWord 0x1E#8 f)
  | .ssel f => some (rrrWord 0x1F#8 f)
  | .sclz f => some (rrrWord 0x20#8 f)
  | .spopc f => some (rrrWord 0x21#8 f)
  | .smovRi f => some (riWord 0x22#8 f)
  | .saddRi f => some (riWord 0x23#8 f)
  | .smulRi f => some (riWord 0x24#8 f)
  | .sandRi f => some (riWord 0x25#8 f)
  | .sorRi f => some (riWord 0x26#8 f)
  | .sxorRi f => some (riWord 0x27#8 f)
  | .sshlRi f => some (riWord 0x28#8 f)
  | .sshrRi f => some (riWord 0x29#8 f)
  | .ssraRi f => some (riWord 0x2A#8 f)
  | .scmpRi f => some (riWord 0x2B#8 f)
  | .sminRi f => some (riWord 0x2C#8 f)
  | .smaxRi f => some (riWord 0x2D#8 f)
  | .vmov f => some (rrrWord 0x30#8 f)
  | .vmovRi f => some (riWord 0x31#8 f)
  | .vadd f => some (rrrWord 0x32#8 f)
  | .vaddRi f => some (riWord 0x33#8 f)
  | .vsub f => some (rrrWord 0x34#8 f)
  | .vsubRi f => some (riWord 0x35#8 f)
  | .vadds f => some (rrrWord 0x36#8 f)
  | .vaddsRi f => some (riWord 0x7A#8 f)
  | .vsubs f => some (rrrWord 0x37#8 f)
  | .vmul f => some (rrrWord 0x38#8 f)
  | .vmulRi f => some (riWord 0x39#8 f)
  | .vmulh f => some (rrrWord 0x3A#8 f)
  | .vmulw f => some (rrrWord 0x6E#8 f)
  | .vmad f => some (rrrWord 0x3B#8 f)
  | .vmadh f => some (rrrWord 0x79#8 f)
  | .vfma f => some (rrrWord 0x3C#8 f)
  | .vfms f => some (rrrWord 0x3D#8 f)
  | .vfnma f => some (rrrWord 0x3E#8 f)
  | .vabs f => some (rrrWord 0x3F#8 f)
  | .vneg f => some (rrrWord 0x40#8 f)
  | .vmin f => some (rrrWord 0x41#8 f)
  | .vminRi f => some (riWord 0x6F#8 f)
  | .vmax f => some (rrrWord 0x42#8 f)
  | .vmaxRi f => some (riWord 0x70#8 f)
  | .vclamp f => some (rrrWord 0x43#8 f)
  | .vsgn f => some (rrrWord 0x44#8 f)
  | .vabsd f => some (rrrWord 0x72#8 f)
  | .vavg f => some (rrrWord 0x75#8 f)
  | .vaddc f => some (rrrWord 0x6C#8 f)
  | .vsubb f => some (rrrWord 0x6D#8 f)
  | .vand f => some (rrrWord 0x45#8 f)
  | .vandRi f => some (riWord 0x46#8 f)
  | .vor f => some (rrrWord 0x47#8 f)
  | .vorRi f => some (riWord 0x48#8 f)
  | .vxor f => some (rrrWord 0x49#8 f)
  | .vxorRi f => some (riWord 0x4A#8 f)
  | .vnot f => some (rrrWord 0x4B#8 f)
  | .vbool f => some (rrrWord 0x4C#8 f)
  | .vshl f => some (rrrWord 0x4D#8 f)
  | .vshlRi f => some (riWord 0x4E#8 f)
  | .vshr f => some (rrrWord 0x4F#8 f)
  | .vshrRi f => some (riWord 0x50#8 f)
  | .vsra f => some (rrrWord 0x51#8 f)
  | .vsraRi f => some (riWord 0x52#8 f)
  | .vrol f => some (rrrWord 0x53#8 f)
  | .vrolRi f => some (riWord 0x54#8 f)
  | .vclz f => some (rrrWord 0x55#8 f)
  | .vctz f => some (rrrWord 0x77#8 f)
  | .popc f => some (rrrWord 0x56#8 f)
  | .vbrev f => some (rrrWord 0x57#8 f)
  | .vbswap f => some (rrrWord 0x78#8 f)
  | .vbfe f => some (rrrWord 0x58#8 f)
  | .vbfi f => some (rrrWord 0x59#8 f)
  | .vcmp f => some (rrrWord 0x5A#8 f)
  | .vcmpRi f => some (riWord 0x5B#8 f)
  | .vsel f => some (rrrWord 0x5C#8 f)
  | .vselRi f => some (riWord 0x7B#8 f)
  | .vclass f => some (rrrWord 0x5D#8 f)
  | .vmatch f => some (rrrWord 0x71#8 f)
  | .vpack f => some (rrrWord 0x73#8 f)
  | .vunpk f => some (rrrWord 0x74#8 f)
  | .vswz f => some (rrrWord 0x76#8 f)
  | .vshuf f => some (rrrWord 0x65#8 f)
  | .vdot8 f => some (rrrWord 0x5E#8 f)
  | .vdot4 f => some (rrrWord 0x5F#8 f)
  | .vdot2 f => some (rrrWord 0x60#8 f)
  | .vscale f => some (rrrWord 0x61#8 f)
  | .xchg f => some (rrrWord 0x62#8 f)
  | .vget f => some (rrrWord 0x63#8 f)
  | .vput f => some (rrrWord 0x64#8 f)
  | .ballot f => some (rrrWord 0x66#8 f)
  | .vprefix f => some (rrrWord 0x67#8 f)
  | .vred f => some (rrrWord 0x68#8 f)
  | .rdff f => some (rrrWord 0x69#8 f)
  | .wrff f => some (rrrWord 0x6A#8 f)
  | .clrff f => some (rrrWord 0x6B#8 f)
  | .rcp f => some (rrrWord 0x80#8 f)
  | .rsq f => some (rrrWord 0x81#8 f)
  | .sqrt f => some (rrrWord 0x82#8 f)
  | .div f => some (rrrWord 0x83#8 f)
  | .exp2 f => some (rrrWord 0x84#8 f)
  | .log2 f => some (rrrWord 0x85#8 f)
  | .sin f => some (rrrWord 0x86#8 f)
  | .cos f => some (rrrWord 0x87#8 f)
  | .expe f => some (rrrWord 0x95#8 f)
  | .loge f => some (rrrWord 0x96#8 f)
  | .tanh f => some (rrrWord 0x97#8 f)
  | .atan f => some (rrrWord 0x98#8 f)
  | .cvt f => some (rrrWord 0x88#8 f)
  | .cvtpk f => some (rrrWord 0x89#8 f)
  | .cvtpk2 f => some (rrrWord 0x8A#8 f)
  | .cvtunp f => some (rrrWord 0x8B#8 f)
  | .cvtmx f => some (rrrWord 0x8C#8 f)
  | .cvtmxd f => some (rrrWord 0x8D#8 f)
  | .fxcvt f => some (rrrWord 0x8E#8 f)
  | .e8get f => some (rrrWord 0x8F#8 f)
  | .mxamax f => some (rrrWord 0x99#8 f)
  | .vrnd f => some (rrrWord 0x90#8 f)
  | .scalb f => some (rrrWord 0x91#8 f)
  | .getexp f => some (rrrWord 0x92#8 f)
  | .getmant f => some (rrrWord 0x93#8 f)
  | .setseed f => some (rrrWord 0x94#8 f)
  | .ld f => some (memWord 0xA0#8 f)
  | .st f => some (memWord 0xA1#8 f)
  | .ldu f => some (memWord 0xA2#8 f)
  | .stu f => some (memWord 0xA3#8 f)
  | .ldc f => some (memWord 0xA4#8 f)
  | .ldf f => some (memWord 0xA5#8 f)
  | .stf f => some (memWord 0xA6#8 f)
  | .prfl f => some (memWord 0xA7#8 f)
  | .invl f => some (memWord 0xA8#8 f)
  | .wbl f => some (memWord 0xA9#8 f)
  | .fence f => some (rrrWord 0xAA#8 f)
  | .waitl f => some (memWord 0xAB#8 f)
  | .ldnf f => some (memWord 0xAC#8 f)
  | .probe f => some (memWord 0xAD#8 f)
  | .lea f => some (memWord 0xAE#8 f)
  | .ldt f => some (memWord 0xAF#8 f)
  | .stt f => some (memWord 0xB0#8 f)
  | .genrd f => some (rrrWord 0xB1#8 f)
  | .zerol f => some (memWord 0xB2#8 f)
  | .lds f => some (memWord 0xB8#8 f)
  | .sts f => some (memWord 0xB9#8 f)
  | .atoms f => some (rrrWord 0xBA#8 f)
  | .cass f => some (rrrWord 0xBB#8 f)
  | .fefill f => some (memWord 0xBC#8 f)
  | .fetake f => some (memWord 0xBD#8 f)
  | .feread f => some (memWord 0xBE#8 f)
  | .fereset f => some (memWord 0xBF#8 f)
  | .bara f => some (memWord 0xC0#8 f)
  | .barw f => some (memWord 0xC1#8 f)
  | .barx f => some (memWord 0xC2#8 f)
  | .nbsync f => some (rrrWord 0xC3#8 f)
  | .nbarr f => some (rrrWord 0xC4#8 f)
  | .bsave f => some (rrrWord 0xC5#8 f)
  | .brestore f => some (rrrWord 0xC6#8 f)
  | .atom f => some (rrrWord 0xC8#8 f)
  | .red f => some (rrrWord 0xC9#8 f)
  | .cas f => some (rrrWord 0xCA#8 f)
  | .cas128 f => some (rrrWord 0xCB#8 f)
  | .atomu f => some (rrrWord 0xCC#8 f)
  | .redu f => some (rrrWord 0xCD#8 f)
  | .casu f => some (rrrWord 0xCE#8 f)
  | .reda f => some (rrrWord 0xCF#8 f)
  | .dcopy f => some (engWord 0xD4#8 f)
  | .dcopym f => some (engWord 0xD5#8 f)
  | .gather f => some (engWord 0xD6#8 f)
  | .scatter f => some (engWord 0xD7#8 f)
  | .gcompact f => some (engWord 0xD8#8 f)
  | .gstatus f => some (rrrWord 0xD9#8 f)
  | .greplay f => some (engWord 0xDA#8 f)
  | .gselect f => some (engWord 0xDB#8 f)
  | .loomMm f => some (engWord 0xDC#8 f)
  | .loomMx f => some (engWord 0xDD#8 f)
  | .loomSplit f => some (engWord 0xDE#8 f)
  | .loomSpl f => some (engWord 0xDF#8 f)
  | .loomFin f => some (engWord 0xE0#8 f)
  | .loomWait f => some (rrrWord 0xE1#8 f)
  | .ofence f => some (rrrWord 0xE2#8 f)
  | .accAlloc f => some (rrrWord 0xE3#8 f)
  | .accFree f => some (rrrWord 0xE4#8 f)
  | .accRd f => some (rrrWord 0xE5#8 f)
  | .accWr f => some (rrrWord 0xE6#8 f)
  | .accClr f => some (rrrWord 0xE7#8 f)
  | .gangSet f => some (rrrWord 0xE8#8 f)
  | .netColl f => some (engWord 0xE9#8 f)
  | .netSend f => some (engWord 0xEA#8 f)
  | .ringPop f => some (rrrWord 0xEB#8 f)
  | .prefT f => some (engWord 0xEC#8 f)
  | .launchD f => some (engWord 0xED#8 f)
  | .srd f => some (sysWord 0xF0#8 f)
  | .swr f => some (sysWord 0xF1#8 f)
  | .bkpt f => some (sysWord 0xF2#8 f)
  | .trace f => some (sysWord 0xF3#8 f)
  | .tracev f => some (sysWord 0xF4#8 f)
  | .pmark f => some (sysWord 0xF5#8 f)
  | .cntrd f => some (sysWord 0xF6#8 f)
  | .ckpt f => some (sysWord 0xF7#8 f)
  | .vstat f => some (sysWord 0xF8#8 f)
  | .loftLd f => some (memWord 0xF9#8 f)
  | .loftWaitr f => some (sysWord 0xFA#8 f)
  | .capq f => some (sysWord 0xFB#8 f)
  | .pgqInv f => some (sysWord 0xFC#8 f)
  | .pgqInvall f => some (sysWord 0xFC#8 f)
  | .pgqEvict f => some (sysWord 0xFC#8 f)
  | .isync f => some (sysWord 0xFD#8 f)
  | .drain f => some (sysWord 0xFE#8 f)
  | .gtwait f => some (sysWord 0xFF#8 f)
  | .reservedOpcode w => some w
  | .clerkPerform => none
  | .drayChunkDone => none
  | .drayCopyComplete => none
  | .gleanerAccept => none
  | .gleanerStrandSettle => none
  | .gselectComplete => none
  | .loomRendezvous => none
  | .loomKstepCommit => none
  | .netCommandComplete => none
  | .netPeerTimeout => none
  | .runnerGrainFetch => none
  | .launchDAccept => none
  | .clauseStart => none
  | .farFaultTrap => none
  | .pauseExpire => none
  | .gtwaitWake => none
  | .waitlTimeout => none
  | .watchUnavailable => none
  | .versionWayFree => none
  | .gangPlace => none
  | .preemptRequest => none
  | .priorityWaitExpire => none
  | .starvationGuard => none
  | .priorityAging => none
  | .preemptAck => none
  | .preemptWithdraw => none
  | .gangRestore => none
  | .packetStart => none
  | .nopPacket => none
  | .launchPacket => none
  | .copyPacket => none
  | .waitsigPacket => none
  | .waitsigPoll => none
  | .waitsigTimeout => none
  | .signalPacket => none
  | .loftwritePacket => none
  | .fencePacket => none
  | .responsePoll => none
  | .wridxWrite => none
  | .doorbellWrite => none
  | .queueEnable => none
  | .queueDisable => none
  | .queueSuspend => none
  | .queueUnsuspend => none
  | .prioWrite => none
  | .exrdWrite => none
  | .tenancyCreate => none
  | .tenancyCreateDone => none
  | .tenancyDestroy => none
  | .tenancyDestroyDone => none
  | .tkeyWrite => none
  | .registerWrite => none
  | .quotaWrite => none
  | .invreqGo => none
  | .grainFillComplete => none
  | .faultResponsePoll => none
  | .frtmoExpire => none
  | .leaseAcquire => none
  | .leaseRenew => none
  | .leaseRelease => none
  | .frresp => none
  | .leaserd => none
  | .releaseWritebackDone => none
  | .grant => none
  | .refuse => none
  | .revoke => none
  | .nodedown => none
  | .replica => none
  | .renewLeadReached => none
  | .renewResend => none
  | .expiryGuardReached => none
  | .renewtmoExpire => none
  | .deadlineReached => none
  | .bisnp => none
  | .exhausted => none
  | .frameMigrationDone => none
  | .runnerCounterHalve => none
  | .tinkerRequest => none
  | .scrubStep => none
  | .repairWindowOpen => none
  | .repairWindowClose => none
  | .loftpartWrite => none
  | .loftWindowStart => none
  | .loftWindowEnd => none
  | .keyWrapWrite => none
  | .keySlotConfigWrite => none
  | .commEnable => none
  | .commDisable => none
  | .ringEnable => none
  | .ringDisable => none
  | .frameReceive => none
  | .dbgctlStateWrite => none
  | .syncTick => none
  | .sampleTick => none
  | .replayPassEnd => none
  | .ptmExchange => none
  | .powerOn => none
  | .bringupStageEnd => none
  | .linkLoss => none
  | .clockStep => none
  | .thermalTrip => none
  | .d3hotEntry => none
  | .d0Return => none
  | .attctlGo => none
  | .attestComplete => none
  | .longLatencyComplete => none
  | .loomSplitFinComplete => none
  | .loftwriteComplete => none
  | .frrdWrite => none
  | .rrdWrite => none
  | .deviceReset => none
  | .powerLoss => none

end Sys2Proof
end

