-- ==== Sys2Proof/Machine/Porter.lean ====
section
/-!
DEFINITION. The Porter's instructions: opcodes 0xA0 to 0xB2 (spec/09_porter.md R199 to R216), and how their operations in
flight are performed and complete.
-/

namespace Sys2Proof.Machine

open Sys2Proof

/-! ### Fields (R199, R114) -/

/-- A row of the table of R199: the DS operand, the SIZE and ANN values allowed, whether MX is well formed, whether COP must
be 0. -/
structure MemRow where
  ds    : Opnd
  sizes : List Nat
  anns  : List Nat := [0]
  mxOk  : Bool
  copOk : Bool := true
  waits : Bool := false
  deriving DecidableEq, Repr

/-- The fields of a device-memory instruction (R199, R114): BASE is a 64-bit operand. -/
def memForm (f : MemF) (r : MemRow) : Form :=
  { ops := [r.ds, { reg := f.base.toNat, cls := 63, wide := 2 }], modOk := r.mxOk, modCause := 7,
    memOk := r.sizes.contains f.size.toNat && r.anns.contains f.ann.toNat && (decide (f.ann ≠ 0) || decide (f.scope = 0)) &&
      r.copOk,
    waits := r.waits }

/-- Registers of a data operand of a SIZE (R114). -/
def dataWide (f : MemF) : Nat := if f.size.toNat ≤ 4 then sizeWords f.size.toNat else 1

/-- DS as the destination of a load: the classes given, and t with cause 6, since its data is written after retirement
(R199, R121). -/
def loadDst (f : MemF) (cls : Nat) : Opnd := { reg := f.ds.toNat, dst := true, cls := cls ||| 8, wide := dataWide f, eng := true }

/-- DS as the data of a store. -/
def storeSrc (f : MemF) (cls : Nat) : Opnd := { reg := f.ds.toNat, cls := cls, wide := dataWide f }

/-- MX of LD, LDU and LDC: SX, only with SIZE 0 or 1 (R199). -/
def sxOk (f : MemF) : Bool := decide (f.mx = 0) || (decide (f.mx = 1) && decide (f.size.toNat ≤ 1))

/-- MX is zero. -/
def mxZero (f : MemF) : Bool := decide (f.mx = 0)

/-- EA of a strand: BASE + OFF modulo 2^64 (R200). -/
def eaOf (s : State) (c : Ctx) (f : MemF) (k : Nat) : Nat :=
  (BitVec.ofNat 64 (srcN s c f.base.toNat k 2) + f.off.signExtend 64).toNat

/-- The destination that a DS field names. -/
def destOf (r : Nat) : Dest := if r < 384 then .vec r else if r < 448 then .sca (r - 384) else .none

/-- The address checks of a strand of a load or store (R200): its alignment, then its bytes. Log 25 (DEDUCED). -/
def checkData (s : State) (c : Ctx) (f : MemF) (kind : Kind) (n : Nat) (aligned : Bool) (k : Nat) : Chk :=
  let ea := eaOf s c f k
  (checkStrand s c.wv.ids.tenancy kind k ea n).addIf (aligned && decide (ea % n ≠ 0)) 2 3 ea 0

/-- Bytes of an access. -/
def bytesSize (f : MemF) : Nat := 2 ^ f.size.toNat

/-- Go on when the checks of an instruction's strands allow it. Log 69 (DEDUCED). -/
def onChecked (s : State) (c : Ctx) (kind : Kind) (cs : List Chk) (go : State → Effect) : Effect :=
  match resolve s c kind cs with
  | .trap s1 t => .doneTrap s1 t
  | .wait s1 => .stay s1 (some .memory)
  | .go => go (dropWalks s c.wv.ids.tenancy c.w c.slot)

/-- The lines or sectors that bytes lie in: one request for each line of an instruction (R191). -/
def touched (div : Nat) (pas : List Nat) : List Nat := (pas.map (fun pa => pa / div)).eraseDups

/-- Count the line requests and sectors of the bytes that an instruction accesses (R191, R443). Log 59 (DEDUCED). -/
def countLines (s : State) (wv : Weave) (store : Bool) (pas : List Nat) : State :=
  if (shopOf s wv.shop).cntctl = [] then s
  else if store then countW (countW s wv 18 (touched 128 pas).length) wv 19 (touched 32 pas).length
  else countW s wv 17 (touched 128 pas).length

/-- A strand's part of an op, from its checks. -/
def laneOf (s : State) (c : Ctx) (f : MemF) (x : Chk) (data : List Byte) (tob : Nat) : Lane :=
  { strand := x.strand, va := eaOf s c f x.strand, pas := x.pas, slots := x.slots, data := data, tob := tob }

/-- Start the op of a device-memory instruction. -/
def startMem (s : State) (c : Ctx) (f : MemF) (kind : OpKind) (dests : List Nat) (store : Bool) (ks : List Nat) : Effect :=
  let bytes := kind.places.flatMap (fun x => x.2.1) ++ kind.scales
  let s1 := countLines (cachePages s c.wv.ids.tenancy (ks.map (eaOf s c f))) c.wv store bytes
  .done (newOp s1 c kind dests f.ann.toNat f.scope.toNat)

/-- The qualifying strands. -/
def Ctx.strands (c : Ctx) : List Nat := strandsOf c.q

/-! ### Loads and stores (R201) -/

/-- LD and LDU (R201). -/
def loadRow (f : MemF) (r : MemRow) (aligned : Bool) (s : State) : Host.Outcome State Fault Refusal :=
  issueRow s f.pn f.pred (memForm f r) (fun s c =>
    if c.q = 0 then .done s
    else
      let cs := c.strands.map (checkData s c f .read (bytesSize f) aligned)
      onChecked s c .read cs (fun s =>
        let lanes := cs.map (fun x => laneOf s c f x [] 0)
        let d := f.ds.toNat
        startMem s c f (.load f.size.toNat (f.mx.getLsbD 0) (destOf d) false lanes)
          (dstKeys d (dataWide f) c.q) false c.strands))

/-- LD (R201): aligned load. -/
def execLd (f : MemF) (s : State) : Host.Outcome State Fault Refusal :=
  loadRow f { ds := loadDst f 33, sizes := [0, 1, 2, 3, 4], anns := [0, 1], mxOk := sxOk f } true s

/-- LDU (R201): load at any address. -/
def execLdu (f : MemF) (s : State) : Host.Outcome State Fault Refusal :=
  loadRow f { ds := loadDst f 33, sizes := [0, 1, 2, 3, 4], mxOk := sxOk f } false s

/-- LDC (R201): one read for the weave, by the lowest qualifying strand. -/
def execLdc (f : MemF) (s : State) : Host.Outcome State Fault Refusal :=
  issueRow s f.pn f.pred
    (memForm f { ds := loadDst f 3, sizes := [0, 1, 2, 3, 4], anns := [0, 1], mxOk := sxOk f }) (fun s c =>
    if c.q = 0 then .done s
    else
      let cs := [checkData s c f .read (bytesSize f) true c.low]
      onChecked s c .read cs (fun s =>
        let lanes := cs.map (fun x => laneOf s c f x [] 0)
        let d := f.ds.toNat
        startMem s c f (.load f.size.toNat (f.mx.getLsbD 0) (destOf d) true lanes)
          (dstKeys d (dataWide f) c.q) false [c.low]))

/-- ST and STU (R201). -/
def storeRow (f : MemF) (r : MemRow) (aligned : Bool) (s : State) : Host.Outcome State Fault Refusal :=
  issueRow s f.pn f.pred (memForm f r) (fun s c =>
    if c.q = 0 then .done s
    else
      let cs := c.strands.map (checkData s c f .write (bytesSize f) aligned)
      onChecked s c .write cs (fun s =>
        let lanes := cs.map (fun x =>
          laneOf s c f x (bytesOf (bytesSize f) (srcN s c f.ds.toNat x.strand (dataWide f))) 0)
        startMem s c f (.store f.size.toNat lanes) [] true c.strands))

/-- ST (R201): aligned store. -/
def execSt (f : MemF) (s : State) : Host.Outcome State Fault Refusal :=
  storeRow f { ds := storeSrc f 11, sizes := [0, 1, 2, 3, 4], anns := [0, 2], mxOk := mxZero f } true s

/-- STU (R201): store at any address. -/
def execStu (f : MemF) (s : State) : Host.Outcome State Fault Refusal :=
  storeRow f { ds := storeSrc f 11, sizes := [0, 1, 2, 3, 4], mxOk := mxZero f } false s

/-- ZEROL (R207): zero the whole line. -/
def execZerol (f : MemF) (s : State) : Host.Outcome State Fault Refusal :=
  issueRow s f.pn f.pred
    (memForm f { ds := { reg := f.ds.toNat, cls := 32 }, sizes := [0], anns := [0, 2], mxOk := mxZero f }) (fun s c =>
    if c.q = 0 then .done s
    else
      let cs := c.strands.map (checkData s c f .write 128 true)
      onChecked s c .write cs (fun s =>
        startMem s c f (.store 7 (cs.map (fun x => laneOf s c f x (List.replicate 128 0) 0))) [] true c.strands))

/-! ### Non-faulting loads (R203) -/

/-- The page of an address, if there is one. -/
def pageAt (s : State) (t ea k : Nat) : Option Leaf :=
  if 2 ^ 57 ≤ ea then none
  else
    match translate s t ea (60000 + k) with
    | .page l => some l
    | _ => none

/-- The line of an address, if its translation is known (R215). -/
def pageLine (s : State) (t ea k : Nat) : Option Nat := (pageAt s t ea k).map (fun l => lineOf l.pa)

/-- The informational records of an LDNF's checks, one for each EMPTY or LOST slot (R318, R320). -/
def noteNF (s : State) (c : Ctx) (cs : List Chk) : State :=
  let t := c.wv.ids.tenancy
  (emptySlots cs).foldl (fun s sl =>
    let mine := cs.filter (fun x => decide (x.empty.map (fun e => e.1) = some sl))
    match mine.head?.bind (fun x => x.empty) with
    | none => s
    | some (_, tb, va) =>
      postFault s t (weaveFault s c.wv 1 (if tb then 4 else 0) 6 sl va (if tb then 0 else leafPA s t va)
        (maskOf (mine.map (fun x => x.strand))))) (postLost s c cs)

/-- LDNF (R203): a strand whose access would fault delivers 0 and clears the predicate. -/
def execLdnf (f : MemF) (s : State) : Host.Outcome State Fault Refusal :=
  let pn := (f.mx.extractLsb' 0 3).toNat
  issueRow s f.pn f.pred
    (memForm f { ds := loadDst f 1, sizes := [0, 1, 2, 3, 4], mxOk := decide (pn ≠ 7) && !(f.mx.getLsbD 3) }) (fun s c =>
    if c.q = 0 then .done s
    else
      let cs := c.strands.map (checkData s c f .read (bytesSize f) true)
      if cs.any (fun x => x.busy) then .stay s (some .memory)
      else
        let good := cs.filter (fun x => x.trap.isNone && x.empty.isNone && x.lost.isNone)
        let bad := maskOf ((cs.filter (fun x => !(x.trap.isNone && x.empty.isNone && x.lost.isNone))).map (fun x => x.strand))
        let t := c.wv.ids.tenancy
        let s1 := noteNF s c cs
        let lanes := good.map (fun x => laneOf s1 c f x [] 0)
        let d := f.ds.toNat
        startMem s1 c f (.loadNF f.size.toNat (destOf d) pn lanes bad (pageLine s1 t (eaOf s c f c.low) c.low))
          (dstKeys d (dataWide f) c.q) false (good.map (fun x => x.strand)))

/-! ### Formatted forms (R95 to R99, R204, R205) -/

/-- The element TYPE code of a PFMT (R95). -/
def pfmtType (p : Nat) : Nat :=
  match p with
  | 1 => 8 | 2 => 9 | 3 => 10 | 4 => 11 | 5 => 12 | 6 => 13 | 7 => 8 | 8 => 9 | 9 => 7 | 10 => 6 | _ => 15

/-- Element bits b of a PFMT (R95). -/
def pfmtBits (p : Nat) : Nat := typeBits (pfmtType p)

/-- A PFMT is scaled (R95). -/
def pfmtScaled (p : Nat) : Bool := decide (1 ≤ p ∧ p ≤ 6)

/-- Elements of a block of a geometry (R96). -/
def geomK (g : Nat) : Nat := match g with | 0 => 16 | 2 => 64 | _ => 32

/-- The bytes E of the element region of a grain, and its number of elements (R97, R98). -/
def grainLayout (p g : Nat) : Nat × Nat :=
  let b := pfmtBits p
  if pfmtScaled p then
    let k := geomK g
    let B := k * b / 8
    let n := 65536 / (B + 1) / 16 * 16
    (n * B, n * k)
  else (65536, 65536 * 8 / b)

/-- Element e of a grain with a given first byte address (R98): the bytes that hold it, and its scale byte. -/
def elemPlace (p g base e : Nat) : List Nat × Option Nat :=
  let b := pfmtBits p
  let lo := e * b / 8
  let hi := (e * b + b - 1) / 8
  ((List.range (hi - lo + 1)).map (fun i => base + lo + i),
   if pfmtScaled p then some (base + (grainLayout p g).1 + e / geomK g) else none)

/-- The value of an element from its bits and its scale (R204, R81). -/
def elemNum (p scale x : Nat) : Num :=
  if pfmtScaled p then mxVal (pfmtType p) scale x else decodeType (pfmtType p) x

/-- The TYPE of a D field (R204). -/
def dType (d : Nat) : Nat := match d with | 0 => 4 | 1 => 7 | _ => 6

/-- D, sub-offset and elements for each strand of LDF and STF (R204). -/
def fmtD4 (f : MemF) : Nat := (f.mx.extractLsb' 0 2).toNat
/-- The sub-offset w (R204). -/
def fmtSub (f : MemF) : Nat := (f.mx.extractLsb' 2 2).toNat
/-- Elements for each strand: nb / width(D) (R204). -/
def fmtN (f : MemF) : Nat := bytesSize f * 8 / typeBits (dType (fmtD4 f))

/-- The checks of a strand of LDF or STF (R200, R204): its alignment is checked whatever its rights (R217). -/
def checkFmt (s : State) (c : Ctx) (f : MemF) (kind : Kind) (k : Nat) : Chk :=
  let ea := eaOf s c f k
  let x := checkStrand s c.wv.ids.tenancy kind k ea 1
  let o := ea % 65536
  let w := fmtSub f
  let known := match x.leaf with | some l => some l | none => pageAt s c.wv.ids.tenancy ea k
  match known, x.trap with
  | some l, _ =>
    if l.pfmt = 0 then x.add 4 5 ea 0
    else
      let b := pfmtBits l.pfmt
      let lay := grainLayout l.pfmt l.geom
      let e := o * 8 / b + w
      (x.addIf (decide (lay.1 ≤ o) || decide (lay.2 < e + fmtN f)) 4 5 ea 0).addIf
        ((decide (b = 6) && decide (o % 3 ≠ 0)) || (decide (b = 4) && decide (1 < w)) || (decide (8 ≤ b) && decide (0 < w))) 2 4 ea 0
  | none, none => if x.empty.isSome || x.busy || x.lost.isSome then x else x.add 4 5 ea 0
  | _, _ => x

/-- First byte address of a strand's grain and its first element. -/
def fmtStart (s : State) (c : Ctx) (f : MemF) (x : Chk) (l : Leaf) : Nat × Nat :=
  let o := eaOf s c f x.strand % 65536
  (x.pas.headD 0 - o, o * 8 / pfmtBits l.pfmt + fmtSub f)

/-- The elements that a strand of LDF reads. -/
def fmtElems (s : State) (c : Ctx) (f : MemF) (x : Chk) : List Elem :=
  match x.leaf with
  | none => []
  | some l =>
    let (base, e0) := fmtStart s c f x l
    (List.range (fmtN f)).map (fun i =>
      let pl := elemPlace l.pfmt l.geom base (e0 + i)
      { strand := x.strand, pfmt := l.pfmt, bit := (e0 + i) * pfmtBits l.pfmt % 8, pas := pl.1, scale := pl.2,
        slot := l.slot, va := eaOf s c f x.strand })

/-- The rows of R199 for LDF and STF. -/
def fmtRow (f : MemF) (ds : Opnd) (anns : List Nat) : MemRow :=
  { ds := ds, sizes := [2, 3, 4], anns := anns, mxOk := decide (fmtD4 f ≠ 3) }

/-- LDF (R204): formatted load. -/
def execLdf (f : MemF) (s : State) : Host.Outcome State Fault Refusal :=
  issueRow s f.pn f.pred (memForm f (fmtRow f (loadDst f 1) [0, 1])) (fun s c =>
    if c.q = 0 then .done s
    else
      let cs := c.strands.map (checkFmt s c f .read)
      onChecked s c .read cs (fun s =>
        let d := f.ds.toNat
        startMem s c f (.loadFmt (dType (fmtD4 f)) (destOf d) (cs.map (fmtElems s c f))) (dstKeys d (dataWide f) c.q) false c.strands))

/-- An element value that a strand of STF supplies: strand, grain base, leaf, element, value. -/
structure FmtVal where
  strand : Nat
  base   : Nat
  leaf   : Leaf
  e      : Nat
  val    : Num
  va     : Nat
  deriving DecidableEq, Repr

/-- The values that the strands of STF supply. -/
def fmtVals (s : State) (c : Ctx) (f : MemF) (cs : List Chk) : List FmtVal :=
  let t := dType (fmtD4 f)
  let w := typeBits t
  cs.flatMap (fun x =>
    match x.leaf with
    | none => []
    | some l =>
      let (base, e0) := fmtStart s c f x l
      let d := srcN s c f.ds.toNat x.strand (dataWide f)
      (List.range (fmtN f)).map (fun i =>
        { strand := x.strand, base := base, leaf := l, e := e0 + i, val := decodeType t (d / 2 ^ (w * i) % 2 ^ w),
          va := eaOf s c f x.strand }))

/-- The blocks that values touch: (grain base, block number). -/
def fmtBlocks (vs : List FmtVal) : List (Nat × Nat) :=
  ((vs.filter (fun v => pfmtScaled v.leaf.pfmt)).map (fun v => (v.base, v.e / geomK v.leaf.geom))).eraseDups

/-- The values of a block, in element order. -/
def blockVals (vs : List FmtVal) (b : Nat × Nat) : List FmtVal :=
  let mine := vs.filter (fun v => pfmtScaled v.leaf.pfmt && decide ((v.base, v.e / geomK v.leaf.geom) = b))
  match mine with
  | [] => []
  | v :: _ => (List.range (geomK v.leaf.geom)).flatMap (fun i => mine.filter (fun x => decide (x.e % geomK v.leaf.geom = i)))

/-- The instruction breaches a condition of R205: a block not supplied whole, each element once; half a byte. -/
def fmtBreach (f : MemF) (vs : List FmtVal) : Bool :=
  (fmtBlocks vs).any (fun b =>
    let mine := blockVals vs b
    match mine with
    | [] => true
    | v :: _ => !(decide (mine.map (fun x => x.e % geomK v.leaf.geom) = List.range (geomK v.leaf.geom)))) ||
  vs.any (fun v => !(pfmtScaled v.leaf.pfmt) && decide (pfmtBits v.leaf.pfmt = 4) &&
    (decide (fmtN f % 2 = 1) || decide (fmtSub f ≠ 0)))

/-- The code of a value in an unscaled element format: RNE with SAT = 1 (R205, R86); INT4 under R87. -/
def plainCode (p : Nat) (x : Num) : Nat :=
  let t := pfmtType p
  (convert t x 0 true 0).1.val % 2 ^ typeBits t

/-- The bytes of packed codes of b bits. -/
def packCodes (b : Nat) (codes : List Nat) : List Byte :=
  bytesOf (codes.length * b / 8) ((codes.zip (List.range codes.length)).foldl (fun a p => a + p.1 * 2 ^ (b * p.2)) 0)

/-- A write of n bytes from an address, as a part of an op. -/
def rowLane (strand va pa slot : Nat) (bs : List Byte) : Lane :=
  { strand := strand, va := va, pas := (List.range bs.length).map (fun i => pa + i),
    slots := List.replicate bs.length slot, data := bs }

/-- The writes of STF (R205, R99): each strand's unscaled elements; each block's elements and its scale. -/
def fmtRows (vs : List FmtVal) : List Lane :=
  let strands := ((vs.filter (fun v => !(pfmtScaled v.leaf.pfmt))).map (fun v => v.strand)).eraseDups
  let plain := strands.flatMap (fun k =>
    match vs.filter (fun v => decide (v.strand = k)) with
    | [] => []
    | v :: rest =>
      let b := pfmtBits v.leaf.pfmt
      [rowLane k v.va (v.base + v.e * b / 8) v.leaf.slot (packCodes b ((v :: rest).map (fun x => plainCode x.leaf.pfmt x.val)))])
  let scaled := (fmtBlocks vs).flatMap (fun b =>
    match blockVals vs b with
    | [] => []
    | v :: rest =>
      let t := pfmtType v.leaf.pfmt
      let bits := pfmtBits v.leaf.pfmt
      let k := geomK v.leaf.geom
      let (X, codes, _) := mxQuant t ((v :: rest).map (fun x => x.val)) 0 0
      [rowLane v.strand v.va (v.base + b.2 * (k * bits / 8)) v.leaf.slot
          (packCodes bits (codes.map (fun r => r.val % 2 ^ bits))),
       rowLane v.strand v.va (v.base + (grainLayout v.leaf.pfmt v.leaf.geom).1 + b.2) v.leaf.slot [BitVec.ofNat 8 X]])
  plain ++ scaled

/-- STF (R205): formatted store; a breach of its conditions raises ALIGN cause 4 for every qualifying strand. -/
def execStf (f : MemF) (s : State) : Host.Outcome State Fault Refusal :=
  issueRow s f.pn f.pred (memForm f (fmtRow f (storeSrc f 9) [0, 2])) (fun s c =>
    if c.q = 0 then .done s
    else
      let cs := c.strands.map (checkFmt s c f .write)
      onChecked s c .write cs (fun s =>
        let vs := fmtVals s c f cs
        if fmtBreach f vs then .doneTrap s { cls := 2, cause := 4, lanes := c.q, addr := eaOf s c f c.low }
        else startMem s c f (.storeFmt (fmtRows vs)) [] true c.strands))

/-! ### TOB forms (R206) -/

/-- The checks of a strand of LDT or STT, or of LOFT.LD.TOB (R206): its address, and its TOB offset. ADDR of the ALIGN trap of a TOB offset
is the strand's EA: R206 gives the TOB offset for the bounds trap only. Log 72 (DESIGN CHOICE). -/
def checkTob (s : State) (c : Ctx) (f : MemF) (kind : Kind) (k : Nat) : Chk :=
  let n := bytesSize f
  let off := srcN s c f.ds.toNat k 1
  ((checkData s c f kind n true k).addIf (decide (off % n ≠ 0)) 2 3 (eaOf s c f k) 0).addIf
    (decide (c.wv.hdr.tobBanks * 16384 < off + n)) 3 1 off 1

/-- LDT (R206): memory to TOB. -/
def execLdt (f : MemF) (s : State) : Host.Outcome State Fault Refusal :=
  issueRow s f.pn f.pred
    (memForm f { ds := { reg := f.ds.toNat, cls := 9, eng := true }, sizes := [2, 3, 4], mxOk := mxZero f }) (fun s c =>
    if c.q = 0 then .done s
    else
      let cs := c.strands.map (checkTob s c f .read)
      onChecked s c .read cs (fun s =>
        startMem s c f (.loadTob f.size.toNat (cs.map (fun x => laneOf s c f x [] (srcN s c f.ds.toNat x.strand 1)))) [] false
          c.strands))

/-- STT (R206): TOB to memory. -/
def execStt (f : MemF) (s : State) : Host.Outcome State Fault Refusal :=
  issueRow s f.pn f.pred
    (memForm f { ds := { reg := f.ds.toNat, cls := 1 }, sizes := [2, 3, 4], anns := [0, 2], mxOk := mxZero f }) (fun s c =>
    if c.q = 0 then .done s
    else
      let cs := c.strands.map (checkTob s c f .write)
      onChecked s c .write cs (fun s =>
        startMem s c f (.storeTob f.size.toNat (cs.map (fun x => laneOf s c f x [] (srcN s c f.ds.toNat x.strand 1)))) [] true
          c.strands))

/-! ### Maintenance, addresses, probes (R208 to R210) -/

/-- The row of R199 for PRFL, INVL and WBL. -/
def lineRow (f : MemF) (copOk : Bool) : MemRow :=
  { ds := { reg := f.ds.toNat, cls := 32 }, sizes := [0], mxOk := mxZero f, copOk := copOk }

/-- PRFL (R208): a request for lines; it changes nothing a program sees. -/
def execPrfl (f : MemF) (s : State) : Host.Outcome State Fault Refusal :=
  issueRow s f.pn f.pred (memForm f (lineRow f (decide (f.cop = 0 ∨ f.cop = 2)))) (fun s _ => .done s)

/-- INVL (R208): the shop's L1 drops each strand's line, which wakes a WAITL on it (R214). -/
def execInvl (f : MemF) (s : State) : Host.Outcome State Fault Refusal :=
  issueRow s f.pn f.pred (memForm f (lineRow f (decide (f.cop = 0)))) (fun s c =>
    let lines := c.strands.filterMap (fun k =>
      match access s c.wv.ids.tenancy (eaOf s c f k) .read (60000 + k) with
      | .ok pa _ _ => some (lineOf pa)
      | _ => none)
    .done (if lines = [] then s else loseLines s c.wv.shop (fun l _ => lines.contains l)))

/-- WBL (R210): the lines are written back to the pool; a line of an SHRO page or of the Loft window is left alone. -/
def execWbl (f : MemF) (s : State) : Host.Outcome State Fault Refusal :=
  issueRow s f.pn f.pred (memForm f (lineRow f (decide (f.cop = 0)))) (fun s c =>
    if c.q = 0 then .done s
    else
      let keep := c.strands.filter (fun k =>
        let ea := eaOf s c f k
        !(decide (loftWin ≤ ea ∧ ea < 2 ^ 57)) &&
          (match access s c.wv.ids.tenancy ea .write (60000 + k) with | .prot 3 => false | _ => true))
      let cs := keep.map (checkData s c f .write 1 false)
      onChecked s c .write cs (fun s =>
        .done (newOp s c (.writeBack (cs.map (fun x => laneOf s c f x [] 0))) [] 0 0)))

/-- LEA (R209): the address itself. -/
def execLea (f : MemF) (s : State) : Host.Outcome State Fault Refusal :=
  issueRow s f.pn f.pred
    (memForm f { ds := dstIn 3 f.ds 2, sizes := [3], mxOk := mxZero f, copOk := decide (f.cop = 0) }) (fun s c =>
    .done (writeDst s c f.ds.toNat 2 (eaOf s c f)))

/-- The lease of a leaf is present and unexpired (R209 LEASEOK). -/
def leaseOk (l : Lease) : Bool := decide (l.state = 1 ∨ l.state = 2 ∨ l.state = 4)

/-- The report of PROBE for a page (R209). Log 64 (DESIGN CHOICE). -/
def probeLeaf (s : State) (t : Nat) (l : Leaf) : Nat :=
  let bit (b : Bool) (n : Nat) : Nat := if b then 2 ^ n else 0
  bit (leaseOk (leaseOf s t l.slot)) 16 + l.psize * 2 ^ 14 + l.geom * 2 ^ 12 + l.pfmt * 2 ^ 8 + l.coh * 2 ^ 6 + bit l.shro 5 +
    bit ((look s.grains (grainKey s t l.slot l.pa)).isSome) 4 + bit l.x 3 + bit l.w 2 + bit l.r 1 + 1

/-- The report of PROBE for an address (R209). The Loft window counts as a raw, PRIV, UNC page with read right (R342), a trap
block as a raw, PRIV page with read and write right (R185); the bits the spec does not give for these are free. Where a table read of the
walk meets an EMPTY or a LOST slot no translation is known: the report is 0, with no record and no wait. Log 64 (DESIGN CHOICE). -/
def probeWord (s : State) (t ea k : Nat) : Word :=
  let fr := freeWord s (90000 + k)
  if 2 ^ 57 ≤ ea then 0
  else
    match translate s t ea (60000 + k) with
    | .page l => BitVec.ofNat 32 (probeLeaf s t l)
    | .loft _ => (fr &&& 0x1C010#32) ||| 0x83#32
    | .trap _ => (fr &&& 0x1C0D0#32) ||| 0x07#32
    | .empty _ false =>
      match walk s t ea with
      | .leaf b sz e => BitVec.ofNat 32 (probeLeaf s t (leafAt ea b sz e))
      | _ => 0
    | _ => 0

/-- PROBE (R209): a translation report; no access, no trap; it waits for a walk that a lease holds (R189, R307). -/
def execProbe (f : MemF) (s : State) : Host.Outcome State Fault Refusal :=
  issueRow s f.pn f.pred
    (memForm f { ds := dstIn 1 f.ds, sizes := [2], mxOk := mxZero f, copOk := decide (f.cop = 0) }) (fun s c =>
    let t := c.wv.ids.tenancy
    let busy (k : Nat) : Bool := match translate s t (eaOf s c f k) (60000 + k) with | .busy _ => decide (eaOf s c f k < 2 ^ 57) | _ => false
    if c.q = 0 then .done s
    else if c.strands.any busy then .stay s (some .memory)
    else
      let words := c.strands.map (fun k => (vKey f.ds.toNat k, probeWord s c.wv.ids.tenancy (eaOf s c f k) k))
      .done (newOp s c (.probe (destOf f.ds.toNat) words) (dstKeys f.ds.toNat 1 c.q) 0 0))

/-! ### Fences, generations, monitors (R211 to R216) -/

/-- FENCE (R211): one fence event; an acquire fence completes at issue, so it counts on no flag. -/
def execFence (f : RRR) (s : State) : Host.Outcome State Fault Refusal :=
  issueRow s f.pn f.pred
    { ops := rrrNone f, modOk := decide (aAnn f.mod ≠ 0 ∧ aType f.mod = 0 ∧ aOp f.mod = 0 ∧ f.mod.extractLsb' 0 3 = 0) } (fun s c =>
    if c.once then
      .done (if aAnn f.mod = 1 then
          newOp s { c with hdr := 0x0000_0FF0_0000_0000, q := 0 } .fence [] 1 (aScope f.mod)
        else newOp s c .fence [] (aAnn f.mod) (aScope f.mod))
    else .done s)

/-- GENRD (R216): WRAPS and GEN of the shop. -/
def execGenrd (f : RRR) (s : State) : Host.Outcome State Fault Refusal :=
  issueRow s f.pn f.pred
    { ops := [dstIn 2 f.dst, unused f.sa, unused f.sb, unused f.sc], modOk := modZero16 f.mod } (fun s c =>
    if c.once then
      let h := shopOf s c.wv.shop
      .done (writeDst s c f.dst.toNat 1 (fun _ => (h.wraps ++ h.gen).toNat))
    else .done s)

/-- How a WAITL begins (R214, R215): its walk waits; it wakes at once with a code, because its address cannot be watched or its monitored
line has been written; or it watches a line, whose page's coherence attribute it notes. -/
inductive Watch where
  | walk (s : State) | wake (s : State) (code : Nat) | line (l coh : Nat)
  deriving DecidableEq, Repr

/-- The start of a WAITL on an address (R214, R215, R307). Log 34 (DESIGN CHOICE). -/
def watchStart (s : State) (c : Ctx) (ea : Nat) : Watch :=
  let x := checkStrand s c.wv.ids.tenancy .read c.low ea 1
  match resolve s c .read [x] with
  | .wait s1 => .walk s1
  | .trap s1 _ => .wake s1 1
  | .go =>
    let l := lineOf (x.pas.headD 0)
    if c.wv.monitor = some (l, true) then .wake s 0
    else .line l (match x.leaf with | some y => y.coh | none => if loftBase ≤ x.pas.headD 0 then 2 else 0)

/-- Watches that held WAITLs hold at the L2 of a line's home die (R215). Log 34 (DESIGN CHOICE). -/
def watchesAt (s : State) (line : Nat) : Nat :=
  let die (l : Nat) : Nat := homeDie (grainOf (128 * l))
  s.weaves.foldl (fun a p => a + (p.2.splits.filter (fun x => match x.2.held with
    | some h => (match h.wait with | .monitor l _ none => decide (die l = die line) | _ => false)
    | none => false)).length) 0

/-- A WAITL may find no free watch at its line's home (R215): a slice holds 64; which lines a slice serves is not given, so it is free
once 64 are held on the die. Log 34 (DESIGN CHOICE). -/
def noFreeWatch (s : State) (line : Nat) : Bool := decide (64 ≤ watchesAt s line) && decide (choose s 60001 2 = 0)

/-- WAITL (R214): the split waits for its line; the code of the wake goes to DS. -/
def execWaitl (f : MemF) (s : State) : Host.Outcome State Fault Refusal :=
  issueRow s f.pn f.pred
    (memForm f { ds := dstIn 34 f.ds, sizes := [0], mxOk := decide (f.mx.toNat ≤ 12), copOk := decide (f.cop = 0), waits := true })
    (fun s c =>
    let wake (s : State) (code : Nat) : Effect := .done (writeDst s c f.ds.toNat 1 (fun _ => code))
    match c.held with
    | some h =>
      if h.restored then wake s 1
      else
        match h.wait with
        | .monitor _ _ (some code) => wake s code
        | _ => .stay s
    | none =>
      if c.once then
        match watchStart s c (eaOf s c f c.low) with
        | .walk s1 => .stay s1 (some .memory)
        | .wake s1 code => wake s1 code
        | .line line coh =>
          let s1 := dropWalks s c.wv.ids.tenancy c.w c.slot
          if noFreeWatch s line then .hold s1 .monitor (.noWatch (s.cycles + 256))
          else .hold s1 .monitor (.monitor line (s.cycles + 2 ^ (f.mx.toNat + 8)) none)
            (if coh = 0 then [] else [(selfKey, BitVec.ofNat 32 coh)])
      else .done s)

/-! ### Performing (R189, R206, R210, R213) -/

/-- The register words of a load's value for its lane (R201). -/
def loadWords (o : Op) (size : Nat) (sx : Bool) (dst : Dest) (uniform : Bool) (l : Lane) (x : Nat) : Tab Word :=
  let v := extend size sx x
  dstWords dst.field (sizeWords size) (if uniform then o.q else maskOf [l.strand]) (fun _ => v)

/-- The informational records of an LDNF's unresolved strands: one for each slot (R203, R318, R320). -/
def postLoadNF (s : State) (n : Nat) (o : Op) (wv : Weave) (lost : List (Lane × Nat × Nat)) : State :=
  ((lost.map (fun x => x.2.1)).eraseDups).foldl (fun s sl =>
    match lost.filter (fun x => decide (x.2.1 = sl)) with
    | [] => s
    | x :: rest =>
      if o.posted.contains sl then s
      else
        { postFault s wv.ids.tenancy (weaveFault s wv x.2.2 0 0 sl x.1.va (x.1.pas.headD 0)
            (maskOf ((x :: rest).map (fun y => y.1.strand)))) with
          ops := edit s.ops n (fun o => { o with posted := sl :: o.posted }) }) s

/-- Perform what an LDNF can perform now (R203, R320): an unresolved strand joins the bad ones. -/
def performLoadNF (s : State) (n : Nat) (o : Op) (wv : Weave) (size : Nat) (dst : Dest) (pn : Nat) (lanes : List Lane)
    (bad : Mask) (line : Option Nat) : State :=
  let t := wv.ids.tenancy
  let lost := lanes.filterMap (fun l => match laneFare s t n o l.strand l.pas l.slots with
    | .absent sl => some (l, sl, 1)
    | .dead sl kd => some (l, sl, kd)
    | _ => none)
  let bad1 := bad ||| maskOf (lost.map (fun x => x.1.strand))
  let line1 := match lost.find? (fun x => decide (lowestStrand o.q = some x.1.strand)) with
    | some x => some (lineOf (x.1.pas.headD 0))
    | none => line
  performLoad (postLoadNF s n o wv lost) n o wv (lanes.filter (fun l => !(lost.any (fun x => decide (x.1 = l))))) (loadWords o size false dst false)
    true (fun kept => .loadNF size dst pn kept bad1 line1)

/-- Perform what an LDF can perform now (R204, R99): each element's bytes and its scale are two reads. -/
def performLoadFmt (s : State) (n : Nat) (o : Op) (wv : Weave) (d : Nat) (dst : Dest) (rows : List (List Elem)) : State :=
  let v := opView s o
  let w := typeBits d
  let place (row : List Elem) : Nat × List Nat × List Nat × Nat :=
    let pas := row.flatMap (fun e => e.pas ++ e.scale.toList)
    match row with
    | [] => (0, [], [], 0)
    | e :: _ => (e.strand, pas, pas.map (fun _ => e.slot), e.va)
  let (r, kept) := eachLane n o wv place (fun r row =>
    let res := row.foldl (fun (a : Run × Nat × Nat) e =>
      let (r1, raw) := runRead a.1 wv v true (n * 4096 + 64 * e.strand + 4 * a.2.2) e.pas
      let (r2, X) := match e.scale with
        | some pa => runRead r1 wv v true (n * 4096 + 64 * e.strand + 4 * a.2.2 + 3) [pa]
        | none => (r1, 127)
      let x := raw / 2 ^ e.bit % 2 ^ pfmtBits e.pfmt
      let y := match elemNum e.pfmt X x with
        | .nan _ => canonNaN (fmtD d)
        | z => (fenc (fmtD d) z 0 false 0).val
      (r2, a.2.1 + y * 2 ^ (w * a.2.2), a.2.2 + 1)) (r, 0, 0)
    match row with
    | [] => (r, true)
    | e :: _ =>
      let ws := dstWords dst.field (max 1 (res.2.2 * w / 32)) (maskOf [e.strand]) (fun _ => res.2.1)
      ({ res.1 with words := res.1.words ++ ws }, true)) { s := s } [] rows
  settleRun r n o wv (.loadFmt d dst kept) 0 (match rows with | (e :: _) :: _ => e.va | _ => 0)

/-- TOB bytes of the op's basket. -/
def tobRead (s : State) (wv : Weave) (off n : Nat) : List Byte :=
  match basketOf s wv with
  | some B => cellsAt B.tob off n
  | none => []

/-- One strand of an LDT: its bytes are read and go to the TOB, once every strand can go (R206). -/
def tobLane (n : Nat) (wv : Weave) (v : View) (ready : Bool) (r : Run) (l : Lane) : Run × Bool :=
  if ready then
    let (r1, x) := runRead r wv v true (n * 4096 + 64 * l.strand) l.pas
    ({ r1 with s := tobWrite r1.s wv.ids.basket l.tob (bytesOf l.pas.length x) }, true)
  else (r, false)

/-- Perform an LDT, or a LOFT.LD to the TOB, all its strands together (R206): its TOB writes are performed at completion, and the
weave has seen them once it has observed the completion (R402). -/
def performTob (s : State) (n : Nat) (o : Op) (wv : Weave) (lanes : List Lane) (rebuild : List Lane → OpKind) : State :=
  let ready := lanes.all (fun l => match laneFare s wv.ids.tenancy n o l.strand l.pas l.slots with
    | .go => !((staying s).getLsbD l.strand) && !(parkedBefore s n o l.pas)
    | .dead _ _ => true
    | _ => false)
  let (r, kept) := eachLane n o wv laneBytes (tobLane n wv (opView s o) ready) { s := s } [] lanes
  let s1 := settleRun r n o wv (rebuild kept) 0 (match lanes with | l :: _ => l.va | [] => 0)
  if ready then
    let offs := lanes.flatMap (fun l => (List.range l.pas.length).map (fun i => l.tob + i))
    observeOp s1 n (some (relMsg (agentOf wv) 0 (tobView wv.ids.basket (r.s.stamp - 1) offs)))
  else s1

/-- The bytes of a range of the near tier reach the pool (R210, R311): they are no longer dirty. -/
def flushBytes (s : State) (pas : List Nat) : State :=
  pas.foldl (fun s pa => match look s.dirty pa with
    | some b => { s with far := setCell s.far pa b, dirty := del s.dirty pa }
    | none => s) s

/-- Write back the line of one strand (R210). -/
def wblLane (r : Run) (l : Lane) : Run × Bool :=
  ({ r with s := flushBytes r.s ((List.range 128).map (fun i => lineOf (l.pas.headD 0) * 128 + i)) }, true)

/-- Perform a WBL (R210): each line that may go is written back, one that is not resident has nothing to write; in a replay pass other
than the last nothing is (R449). -/
def performWbl (s : State) (n : Nat) (o : Op) (wv : Weave) (lanes : List Lane) : State :=
  let t := wv.ids.tenancy
  if (innerPass s wv.ids.lot).isSome then
    let s1 := passFlag s wv.ids.lot 2
    { s1 with ops := edit s1.ops n (fun o => { o with kind := .writeBack [], bound := some [] }) }
  else
    let absent (l : Lane) : Bool :=
      decide (laneFare s t n o l.strand l.pas l.slots = .park .fill) && (look s.grains (grainKey s t (l.slots.headD 0) (l.pas.headD 0))).isNone
    let (r, kept) := eachLane n o wv laneBytes wblLane { s := s } [] (lanes.filter (fun l => !(absent l)))
    settleRun r n o wv (.writeBack kept) 0 (match lanes with | l :: _ => l.va | [] => 0)

/-- Perform a fence (R211, R213, R59, R63): a release fence commits the version; its message stands from then on. What fences before it in
the fence order bound, it passes on; what they order, it does not. -/
def performFence (s : State) (n : Nat) (o : Op) (wv : Weave) : State :=
  let start := if o.releases && versioned s wv then commitFor s n wv false else .ok s
  match start with
  | .wait s1 => s1
  | .ok s1 =>
    match weaveOf s1 o.w with
    | none => s1
    | some wv1 =>
      let me := agentOf wv1
      let v0 := joinView (viewOf wv1 o.mask) (if o.releases && versioned s wv then commitSeen s s1 wv else [])
      let seen := (strandsOf o.mask).flatMap (fun k => (syncOf wv1 k).seen)
      let v1 := if o.acquires then joinView v0 (taken s1.maxlevel me o.scope seen) else v0
      let v2 := if o.ann = 3 then s1.fences.foldl (fun v f =>
          if covers s1.maxlevel f.agent f.scope me && covers s1.maxlevel me o.scope f.agent then joinView v (fenceView f.view) else v) v1
        else v1
      let s2 := modWeave s1 o.w (fun wv => learn wv o.mask (fun y =>
        { y with view := joinView y.view v2
                 rel := if o.releases then (y.rel ++ [relMsg me o.scope v2]).eraseDups else y.rel }))
      let s3 := if o.ann = 3 then { s2 with fences := s2.fences ++ [{ agent := me, scope := o.scope, view := plainView s2 v1 }] } else s2
      let s4 := { s3 with ops := edit s3.ops n (fun o => { o with bound := some [] }) }
      if o.acquires then acquireAction s4 wv1.shop o.scope else s4

/-- Words, predicate and monitor of an LDNF at its completion (R203, R215): the strands that failed deliver 0 and clear pn; the monitor
stands on the line of the lowest strand, failed or not. -/
def finishLoadNF (s : State) (n : Nat) (o : Op) (size : Nat) (dst : Dest) (pn : Nat) (bad : Mask) (line : Option Nat) : State :=
  let s1 := { s with ops := edit s.ops n (fun o => { o with
    bound := some (((o.bound).getD []) ++ dstWords dst.field (sizeWords size) (bad &&& o.q) (fun _ => 0)) }) }
  modWeave s1 o.w (fun wv =>
    { wv with
      pred := setCell wv.pred pn ((predMask wv pn &&& ~~~o.q) ||| (o.q &&& ~~~bad))
      monitor := match lowestStrand o.q with
        | some k => if bad.getLsbD k then line.map (fun l => (l, false)) else wv.monitor
        | none => wv.monitor })

end Sys2Proof.Machine
end

