-- ==== Sys2Proof/Machine/Stockroom.lean ====
section
/-!
DEFINITION. The Stockroom's instructions: opcodes 0xB8 to 0xC6 (spec/10_stockroom.md R221 to R238).
-/

namespace Sys2Proof.Machine

open Sys2Proof

/-! ### Addresses and ordering -/

/-- The scratchpad offset of a strand: (BASE + OFF) mod 2^32 (R114). -/
def offOf (s : State) (c : Ctx) (f : MemF) (k : Nat) : Nat :=
  (BitVec.ofNat 32 (srcN s c f.base.toNat k 1) + f.off.signExtend 32).toNat

/-- The checks of a scratchpad access of n bytes at an offset (R222, R217): alignment, then bounds. Log 25 (DEDUCED). -/
def checkSpad (c : Ctx) (off n al acause k : Nat) : Chk :=
  ((({ strand := k } : Chk).addIf (decide (off % al ≠ 0)) 2 acause off 0)).addIf (decide (c.wv.hdr.spad < off + n)) 3 1 off 0

/-- The trap of an instruction that acts once for the weave: LANES is the split's mask (R185). -/
def onceTrap (c : Ctx) (x : Chk) : Option Trap :=
  x.trap.map (fun t => { cls := t.1, cause := t.2.1, lanes := c.sp.mask, addr := t.2.2.1, info := t.2.2.2 })

/-- The trap of strands' scratchpad accesses (R217). -/
def spadTrap (cs : List Chk) : Option Trap :=
  worst (cs.filterMap (fun x => x.trap.map (fun t => (x.strand, t))))

/-- An instruction that acts at issue as the given access may do so: every earlier operation of the weave that it must follow
has been performed (R194, R235, R202). -/
def issueMay (s : State) (c : Ctx) (kind : OpKind) (ann : Nat) : Bool :=
  mayPerform s s.nextOp { w := c.w, slot := c.slot, mask := c.sp.mask, q := c.q, flags := [], kind := kind, ann := ann }

/-- A lane of an access of a basket's scratchpad. -/
def spadLane (b k off n : Nat) (data : List Byte) : Lane :=
  { strand := k, va := off, pas := spPas b off n, slots := [], data := data }

/-- Count strand accesses to the scratchpad (R443). Log 59 (DEDUCED). -/
def countSpad (s : State) (c : Ctx) (n : Nat) : State := countW s c.wv 24 n

/-- The fields of a scratchpad instruction in the MEM format: SCOPE and COP 0, a 32-bit BASE (R223, R228, R233). -/
def spadForm (f : MemF) (ds : Opnd) (sizes anns : List Nat) (mxOk waits : Bool) : Form :=
  { ops := [ds, srcIn 11 f.base], modOk := mxOk, modCause := 7,
    memOk := sizes.contains f.size.toNat && anns.contains f.ann.toNat && decide (f.scope = 0) && decide (f.cop = 0),
    waits := waits }

/-! ### LDS and STS (R223, R224) -/

/-- LDS (R223): scratchpad load. -/
def execLds (f : MemF) (s : State) : Host.Outcome State Fault Refusal :=
  let n := bytesSize f
  issueRow s f.pn f.pred (spadForm f { loadDst f 35 with cause := 7 } [0, 1, 2, 3, 4] [0, 1] (sxOk f) false) (fun s c =>
    if c.q = 0 then .done s
    else
      match spadTrap (c.strands.map (fun k => checkSpad c (offOf s c f k) n n 3 k)) with
      | some t => .trap t
      | none =>
        let lanes := c.strands.map (fun k => spadLane c.wv.ids.basket k (offOf s c f k) n [])
        let d := f.ds.toNat
        .done (newOp (countSpad s c lanes.length) c (.spLoad f.size.toNat (f.mx.getLsbD 0) (destOf d) lanes)
          (dstKeys d (dataWide f) c.q) f.ann.toNat 0))

/-- STS (R223): scratchpad store. -/
def execSts (f : MemF) (s : State) : Host.Outcome State Fault Refusal :=
  let n := bytesSize f
  issueRow s f.pn f.pred
    (spadForm f { storeSrc f 11 with cause := 7 } [0, 1, 2, 3, 4] [0, 2] (mxZero f) false) (fun s c =>
    if c.q = 0 then .done s
    else
      match spadTrap (c.strands.map (fun k => checkSpad c (offOf s c f k) n n 3 k)) with
      | some t => .trap t
      | none =>
        let lanes := c.strands.map (fun k =>
          spadLane c.wv.ids.basket k (offOf s c f k) n (bytesOf n (srcN s c f.ds.toNat k (dataWide f))))
        .done (newOp (countSpad s c lanes.length) c (.spStore f.size.toNat lanes) [] f.ann.toNat 0))

/-! ### Atomic operations (R225 to R227) -/

/-- The new value of an atomic operation on a TYPE of w bits (R226, R278): the old value is the first operand, float ADD rounds
RNE, F16 and BF16 treat each element of the word alone. -/
def atomNew (aop t w old b : Nat) : Nat :=
  match aop with
  | 0 => (addType t 0 old b).val
  | 1 => (minType t old b).val
  | 2 => (maxType t old b).val
  | 3 => old &&& b
  | 4 => old ||| b
  | 5 => old ^^^ b
  | 6 => b
  | 7 => if b ≤ old then 0 else (old + 1) % 2 ^ w
  | _ => if old = 0 ∨ b < old then b else old - 1

/-- The types that an AOP of R226 takes: I32, N32, I64, N64, F32. -/
def atomsOk (aop t : Nat) : Bool :=
  match aop with
  | 0 => decide (t ≤ 4)
  | 1 => decide (t ≤ 4)
  | 2 => decide (t ≤ 4)
  | 3 => decide (t ≤ 3)
  | 4 => decide (t ≤ 3)
  | 5 => decide (t ≤ 3)
  | 6 => decide (t ≤ 4)
  | 7 => decide (t = 1 ∨ t = 3)
  | 8 => decide (t = 1 ∨ t = 3)
  | _ => false

/-- The destination of an atomic: v, s or z, and t with cause 6 (R225, R121). -/
def atomDst (r : BitVec 9) (wide : Nat) : Opnd := { reg := r.toNat, dst := true, cls := 43, wide := wide, eng := true }

/-- An operand of an atomic: v, s, t or z. z as a 64-bit source raises cause 4 (R119). -/
def atomSrc (r : BitVec 9) (wide : Nat) : Opnd := srcIn 43 r wide

/-- The lanes of a scratchpad atomic. -/
def atomLane (s : State) (c : Ctx) (f : RRR) (wide k : Nat) : AtomLane :=
  let off := srcN s c f.sa.toNat k 1
  { strand := k, va := off, pas := spPas c.wv.ids.basket off (4 * wide), slots := [], b := srcN s c f.sb.toNat k wide,
    c := srcN s c f.sc.toNat k wide }

/-- ATOMS and CASS (R225). -/
def spadAtomic (f : RRR) (kind : AtomKind) (sc : Nat → Opnd) (ok : Bool) (s : State) : Host.Outcome State Fault Refusal :=
  let t := aType f.mod
  let wide := if t = 2 ∨ t = 3 then 2 else 1
  issueRow s f.pn f.pred
    { ops := [atomDst f.dst wide, srcIn 27 f.sa, atomSrc f.sb wide, sc wide],
      modOk := ok && decide (aScope f.mod = 0) && decide (f.mod.extractLsb' 0 3 = 0) } (fun s c =>
    if c.q = 0 then .done s
    else
      let n := 4 * wide
      match spadTrap (c.strands.map (fun k => checkSpad c (srcN s c f.sa.toNat k 1) n n 1 k)) with
      | some tr => .trap tr
      | none =>
        let d := f.dst.toNat
        .done (newOp (countSpad s c c.strands.length) c
          (.spAtomic kind t (destOf d) (c.strands.map (atomLane s c f wide))) (dstKeys d wide c.q) (aAnn f.mod) 0))

/-- ATOMS (R225, R226): a read-modify-write for each strand. -/
def execAtoms (f : RRR) (s : State) : Host.Outcome State Fault Refusal :=
  spadAtomic f (.op (aOp f.mod)) (fun _ => unused f.sc) (atomsOk (aOp f.mod) (aType f.mod)) s

/-- CASS (R225, R227): compare and swap for each strand. -/
def execCass (f : RRR) (s : State) : Host.Outcome State Fault Refusal :=
  spadAtomic f .cas (atomSrc f.sc) (decide (aOp f.mod = 0) && decide (aType f.mod ≤ 3)) s

/-! ### Full/empty words (R228 to R230) -/

/-- The distinct words that the qualifying strands name. -/
def feNamed (s : State) (c : Ctx) (f : MemF) : List Nat := (c.strands.map (offOf s c f)).eraseDups

/-- FEFILL, FETAKE and FEREAD (R229): wait until every word is in the awaited state, in the order of R230, then act for all
strands in one step. -/
def feRow (f : MemF) (ds : Opnd) (kind : List Lane → OpKind) (ann : Nat) (act : State → Ctx → Basket → List Nat → State)
    (s : State) : Host.Outcome State Fault Refusal :=
  issueRow s f.pn f.pred (spadForm f ds [2] [0] (mxZero f) true) (fun s c =>
    if c.q = 0 then .done s
    else
      match spadTrap (c.strands.map (fun k => checkSpad c (offOf s c f k) 4 4 3 k)) with
      | some t => .trap t
      | none =>
        let ws := feNamed s c f
        let s1 := if c.held.isNone then countSpad s c c.strands.length else s
        let since := match c.held with | some h => h.since | none => s.steps
        match basketOf s c.wv with
        | none => .hold s1 .fullEmpty .retry (ws.map (fun x => (feKey x, 1#32)))
        | some B =>
          if feReady B c.word ws && !(ws.any (fun x => feAhead s c.wv.ids.basket B x since)) &&
              issueMay s c (kind (ws.map (fun x => spadLane c.wv.ids.basket 0 x 4 []))) ann then
            .done (settle (act s1 c B ws) c.wv.shop)
          else .hold s1 .fullEmpty .retry (ws.map (fun x => (feKey x, 1#32))))

/-- What a release of the issuing split publishes to the basket (R58, R234): everything before it. -/
def basketRelease (s : State) (c : Ctx) : Msg := relMsg (agentOf c.wv) 0 (match weaveOf s c.w with
  | some wv => viewOf wv c.sp.mask
  | none => [])

/-- FEFILL (R228): EMPTY words take the data and become FULL; the highest-numbered strand's data stays; a release. -/
def execFefill (f : MemF) (s : State) : Host.Outcome State Fault Refusal :=
  feRow f { reg := f.ds.toNat, cls := 11 } (fun ls => .spStore 2 ls) 2 (fun s c _ _ =>
    let m := basketRelease s c
    let b := c.wv.ids.basket
    let last := c.strands.filter (fun k => c.strands.all (fun j => decide (j ≤ k) || decide (offOf s c f j ≠ offOf s c f k)))
    let s1 := last.foldl (fun s1 k => doFill s1 b (offOf s c f k) (BitVec.ofNat 32 (srcN s c f.ds.toNat k 1)) [m]) s
    modWeave s1 c.w (fun wv =>
      { learnView wv c.sp.mask (last.foldl (fun v k => joinView v (spSaw s1 b (offOf s c f k) 4)) []) with guard := 0 })) s

/-- FETAKE and FEREAD deliver the words (R228, R229), as an acquire: of what the fills of the words and the writes that they read publish
(R68, R235). -/
def feTake (f : MemF) (s : State) (c : Ctx) (B : Basket) (ws : List Nat) : State :=
  let b := c.wv.ids.basket
  let ms := (ws.flatMap (fun x => (look B.fillMsgs x).getD [] ++ spSeen s b x 4)).eraseDups
  let s1 := modWeave (writeDst s c f.ds.toNat 1 (fun k => natOfBytes (spRead B (offOf s c f k) 4))) c.w (fun wv =>
    learnView wv c.sp.mask (ws.foldl (fun v x => joinView v (spSaw s b x 4)) []))
  observe s1 c.w c.sp.mask ms

/-- FETAKE (R228): FULL words are read and become EMPTY. -/
def execFetake (f : MemF) (s : State) : Host.Outcome State Fault Refusal :=
  feRow f (dstIn 35 f.ds) (fun ls => .spAtomic .cas 0 .none (ls.map (fun l =>
      { strand := 0, va := l.va, pas := l.pas, slots := [], b := 0 }))) 1 (fun s c B ws =>
    let s1 := modBasket (feTake f s c B ws) c.wv.ids.basket (fun B => { B with full := B.full.filter (fun x => !(ws.contains x)) })
    modWeave s1 c.w (fun wv => { wv with guard := 0 })) s

/-- FEREAD (R228): FULL words are read and stay FULL. -/
def execFeread (f : MemF) (s : State) : Host.Outcome State Fault Refusal :=
  feRow f (dstIn 35 f.ds) (fun ls => .spLoad 2 false .none ls) 1 (feTake f) s

/-- FERESET (R228): the words become EMPTY, or FULL with .FULL. -/
def execFereset (f : MemF) (s : State) : Host.Outcome State Fault Refusal :=
  issueRow s f.pn f.pred (spadForm f (unused f.ds) [2] [0] (decide (f.mx.toNat ≤ 1)) false) (fun s c =>
    if c.q = 0 then .done s
    else
      match spadTrap (c.strands.map (fun k => checkSpad c (offOf s c f k) 4 4 3 k)) with
      | some t => .trap t
      | none => .done (newOp (countSpad s c c.strands.length) c (.feReset (f.mx.getLsbD 0) (feNamed s c f)) [] 0 0))

/-! ### Barrier words (R231 to R234) -/

/-- BARA and BARX (R233): one request on the word of the lowest qualifying strand; an arrival that R232 would hold while the
buffer is full does not issue (R230). -/
def barRow (f : MemF) (ds : Opnd) (mxOk : Bool) (req : State → Ctx → BarReq) (dest : Bool) (s : State) :
    Host.Outcome State Fault Refusal :=
  issueRow s f.pn f.pred (spadForm f ds [4] [0] mxOk false) (fun s c =>
    if c.once then
      let off := offOf s c f c.low
      match onceTrap c (checkSpad c off 16 16 3 c.low) with
      | some t => .trap t
      | none =>
        let r := req s c
        match basketOf s c.wv with
        | none => .stay s (some .barrier)
        | some B =>
          if barHeld (barAt B off) r && !(pendingRoom s c.wv.shop) then .stay s (some .barrier)
          else
            let d := f.ds.toNat
            .done (newOp (countSpad s c 1) c (.barrier off r (if dest then destOf d else .none))
              (if dest then dstKeys d 1 c.q else []) (if r.a = 1 then 2 else 0) 0)
    else .done s)

/-- BARA (R233): one arrival, which may leave later rounds; d receives ROUND. -/
def execBara (f : MemF) (s : State) : Host.Outcome State Fault Refusal :=
  barRow f { reg := f.ds.toNat, dst := true, cls := 43, eng := true } (decide (f.mx.toNat ≤ 1))
    (fun _ _ => { a := 1, c := 0, l := 0, dr := if f.mx.getLsbD 0 then 1 else 0 }) true s

/-- BARX (R233): a claim of n bytes, or a landing, with an arrival if ARRIVE. -/
def execBarx (f : MemF) (s : State) : Host.Outcome State Fault Refusal :=
  barRow f { reg := f.ds.toNat, cls := 11 } (decide (f.mx.toNat ≤ 3))
    (fun s c =>
      let n := srcN s c f.ds.toNat c.low 1
      let a := if f.mx.getLsbD 0 then 1 else 0
      if f.mx.getLsbD 1 then { a := a, c := 0, l := n, dr := 0 } else { a := a, c := n, l := 0, dr := 0 }) false s

/-- BARW (R233): wait until ROUND differs from r; an acquire of the completed rounds (R234). -/
def execBarw (f : MemF) (s : State) : Host.Outcome State Fault Refusal :=
  issueRow s f.pn f.pred (spadForm f { reg := f.ds.toNat, cls := 11 } [4] [0] (mxZero f) true) (fun s c =>
    if c.once then
      let off := offOf s c f c.low
      match onceTrap c (checkSpad c off 16 16 3 c.low) with
      | some t => .trap t
      | none =>
        let s1 := if c.held.isNone then countSpad s c 1 else s
        match basketOf s c.wv with
        | none => .hold s1 .barrier .retry
        | some B =>
          if (barAt B off).round = srcN s c f.ds.toNat c.low 1 ∨
              issueMay s c (.spLoad 4 false .none [spadLane c.wv.ids.basket 0 off 16 []]) 1 = false then .hold s1 .barrier .retry
          else
            .done (observe (modWeave s1 c.w (fun wv => learnView wv c.sp.mask (spSaw s1 c.wv.ids.basket off 16))) c.w c.sp.mask
              ((look B.barDone off).getD []))
    else .done s)

/-! ### Named barriers (R236 to R238) -/

/-- A named barrier of a basket. -/
def nbOf (B : Basket) (n : Nat) : NamedBar := (look B.nb n).getD {}

/-- Wake the splits of a waiter mask: each completes its NBSYNC when it is retried, and has acquired what the arrivals
published (R237). Log 44 (DESIGN CHOICE). -/
def wakePhase (s : State) (B : Basket) (waiters : BitVec 128) (ms : List Msg) : State :=
  B.weaves.foldl (fun s w =>
    match weaveOf s w with
    | none => s
    | some wv =>
      wv.splits.foldl (fun s x =>
        if waiters.getLsbD (4 * wv.ids.wid + x.1) then
          observe (modSplit s w x.1 (fun sp => { sp with held := sp.held.map (fun h => { h with wait := .phase true }) })) w
            x.2.mask ms
        else s) s) s

/-- The phase of a named barrier completes (R237). -/
def endPhase (s : State) (b n : Nat) (nb : NamedBar) : State :=
  match look s.baskets b with
  | none => s
  | some B =>
    let s1 := modBasket s b (fun B => { B with nb := put B.nb n { count := 0, arrived := 0, phase := 1 - nb.phase } })
    wakePhase s1 B nb.waiters nb.now

/-- One arrival at a named barrier (R237): with what it publishes; whether it completes the phase. -/
def nbArrive (s : State) (b n k : Nat) (m : Msg) : State × Bool :=
  match look s.baskets b with
  | none => (s, true)
  | some B =>
    let x := nbOf B n
    let count := if x.arrived = 0 then k else x.count
    let y := { x with count := count, arrived := x.arrived + 1, now := x.now ++ [m] }
    if y.arrived = count then (endPhase s b n y, true)
    else (modBasket s b (fun B => { B with nb := put B.nb n y }), false)

/-- The count k of NBSYNC and NBARR (R237). -/
def nbCount (s : State) (c : Ctx) (f : RRR) : Nat :=
  let k := srcN s c f.sa.toNat c.low 1 % 64
  if k = 0 ∨ c.wv.ids.nweaves < k then c.wv.ids.nweaves else k

/-- The form of NBSYNC and NBARR (R237). Log 25 (DEDUCED). -/
def nbForm (f : RRR) (waits : Bool) : Form :=
  { ops := [unused f.dst 3, srcIn 51 f.sa 1 3, unused f.sb 3, unused f.sc 3],
    modOk := decide (modRM f.mod = 0) && !(modSAT f.mod) && decide (modTYPE f.mod = 0) && decide (modOPX f.mod < 16), waits := waits }

/-- NBSYNC (R237): arrive, then wait for the phase. -/
def execNbsync (f : RRR) (s : State) : Host.Outcome State Fault Refusal :=
  issueRow s f.pn f.pred (nbForm f true) (fun s c =>
    let n := modOPX f.mod
    let arrive (_ : Unit) : Effect :=
      if issueMay s c (.namedArrive n 0) 2 then
        let m := basketRelease s c
        let ms := match basketOf s c.wv with | some B => (nbOf B n).now ++ [m] | none => []
        let (s1, done) := nbArrive s c.wv.ids.basket n (nbCount s c f) m
        let s2 := modWeave s1 c.w (fun wv => { wv with guard := 0 })
        if done then .done (observe s2 c.w c.sp.mask ms)
        else
          .hold (modBasket s2 c.wv.ids.basket (fun B =>
            let x := nbOf B n
            { B with nb := put B.nb n { x with waiters := x.waiters ||| (1#128 <<< (4 * c.wv.ids.wid + c.slot)) } }))
            .barrier (.phase false)
      else .hold s .barrier .retry
    match c.held with
    | none => if c.once then arrive () else .done s
    | some h =>
      match h.wait with
      | .phase true => .done s
      | .phase false => .stay s (some .barrier)
      | _ => arrive ())

/-- NBARR (R237): arrive and go on. The count k is that of the issue. -/
def execNbarr (f : RRR) (s : State) : Host.Outcome State Fault Refusal :=
  issueRow s f.pn f.pred (nbForm f false) (fun s c =>
    if c.once then
      .done (newOp s c (.namedArrive (modOPX f.mod) (nbCount s c f)) [] 2 0)
    else .done s)

/-- The form of BSAVE and BRESTORE (R238). -/
def imageForm (f : RRR) : Form :=
  { ops := [unused f.dst, srcIn 59 f.sa, unused f.sb, unused f.sc], modOk := modZero16 f.mod }

/-- BSAVE and BRESTORE (R238): the 512-byte image at an offset that is a multiple of 64. -/
def imageRow (f : RRR) (kind : Nat → OpKind) (s : State) : Host.Outcome State Fault Refusal :=
  issueRow s f.pn f.pred (imageForm f) (fun s c =>
    if c.once then
      let off := srcN s c f.sa.toNat c.low 1
      match onceTrap c (checkSpad c off 512 64 3 c.low) with
      | some t => .trap t
      | none => .done (newOp (countSpad s c 1) c (kind off) [] 0 0)
    else .done s)

/-- BSAVE (R238): the named barriers into the scratchpad. -/
def execBsave (f : RRR) (s : State) : Host.Outcome State Fault Refusal := imageRow f .bsave s

/-- BRESTORE (R238): the named barriers that have no waiter from the scratchpad. -/
def execBrestore (f : RRR) (s : State) : Host.Outcome State Fault Refusal := imageRow f .brestore s

/-! ### Performing -/

/-- The register words of one strand's result (R119): a scalar register takes the lowest qualifying strand's. -/
def laneWords (o : Op) (dst : Dest) (w strand old : Nat) : Tab Word :=
  match dst with
  | .sca _ => if lowestStrand o.q = some strand then dstWords dst.field w (maskOf [strand]) (fun _ => old) else []
  | _ => dstWords dst.field w (maskOf [strand]) (fun _ => old)

/-- Perform what an LDS can perform now (R224): its reads, and what the writes it reads publish. Log 44 (DESIGN CHOICE). -/
def performSpLoad (s : State) (n : Nat) (o : Op) (wv : Weave) (size : Nat) (sx : Bool) (dst : Dest) (lanes : List Lane) :
    State :=
  let v := opView s o
  let (r, kept) := eachLane n o wv laneBytes (fun r l =>
    let (r1, x) := runRead r wv v true (n * 4096 + 64 * l.strand) l.pas
    ({ r1 with words := r1.words ++ laneWords o dst (sizeWords size) l.strand (extend size sx x) }, true)) { s := s } [] lanes
  settleRun r n { o with scope := 0 } wv (.spLoad size sx dst kept) 0 0

/-- Perform what an STS can perform now (R224): of strands that share a byte, the highest last. -/
def performSpStore (s : State) (n : Nat) (o : Op) (wv : Weave) (size : Nat) (lanes : List Lane) : State :=
  let ms := opMsgs s { o with scope := 0 } wv (opView s o)
  let (r, kept) := eachLane n o wv laneBytes (fun r l =>
    ({ r with s := spStore r.s wv.ids.basket l.va l.data ms, view := wroteAccess r.view r.s.stamp l.pas }, true)) { s := s } [] lanes
  settleRun r n o wv (.spStore size kept) 0 0

/-- A list in a free order (R64). Log 44 (DESIGN CHOICE). -/
def shuffle {α : Type} (s : State) (salt : Nat) : Nat → List α → List α
  | 0, xs => xs
  | f + 1, xs =>
    match xs[choose s (salt + f) xs.length]? with
    | none => xs
    | some x => x :: shuffle s salt f (xs.eraseIdx (choose s (salt + f) xs.length))

/-- Lanes in the order in which they are performed: free where two share an address (R64). Log 44 (DESIGN CHOICE). -/
def atomOrder (s : State) (salt : Nat) (ls : List AtomLane) : List AtomLane :=
  if (ls.map (fun l => l.pas)).eraseDups.length = ls.length then ls else shuffle s salt ls.length ls

/-- Words of a TYPE's operand. -/
def atomWords (t : Nat) : Nat := if t = 2 ∨ t = 3 ∨ t = 5 then 2 else 1

/-- One strand of a scratchpad atomic: its words are read, and written where the operation writes (R225, R227). -/
def spAtomicLane (o : Op) (wv : Weave) (kind : AtomKind) (t : Nat) (dst : Dest) (ms : List Msg) (r : Run) (l : AtomLane) : Run :=
  let b := wv.ids.basket
  let w := atomWords t
  let old := match look r.s.baskets b with | some B => natOfBytes (spRead B l.va (4 * w)) | none => 0
  let seen := spSeen r.s b l.va (4 * w)
  let new := match kind with
    | .cas => if old = l.b then some l.c else none
    | .op aop => some (atomNew aop t (32 * w) old l.b)
  let s1 := match new with
    | some x => spStore r.s b l.va (bytesOf (4 * w) x) (seen ++ ms).eraseDups
    | none => r.s
  { r with s := s1, words := r.words ++ laneWords o dst w l.strand old, msgs := (r.msgs ++ seen).eraseDups,
           view := joinView r.view (spSaw s1 b l.va (4 * w)) }

/-- Perform ATOMS or CASS (R227): one read-modify-write for each strand, which continues the release sequence of what it reads (R59); a
failing CASS is a read only. Log 44 (DESIGN CHOICE). -/
def performSpAtomic (s : State) (n : Nat) (o : Op) (wv : Weave) (kind : AtomKind) (t : Nat) (dst : Dest)
    (lanes : List AtomLane) : State :=
  let ms := opMsgs s { o with scope := 0 } wv (opView s o)
  let r := (atomOrder s (n * 4096) lanes).foldl (spAtomicLane o wv kind t dst ms) { s := s }
  settleRun r n { o with scope := 0 } wv (.spAtomic kind t dst []) 0 0

/-- Apply FERESET (R228). -/
def performReset (s : State) (n : Nat) (wv : Weave) (full : Bool) (words : List Nat) : State :=
  let s1 := modBasket s wv.ids.basket (fun B =>
    let rest := B.full.filter (fun x => !(words.contains x))
    { B with full := if full then words ++ rest else rest })
  settle { s1 with ops := edit s1.ops n (fun o => { o with bound := some [] }) } wv.shop

/-- The pending buffer already holds an op's arrival. -/
def isPending (s : State) (shop n : Nat) : Bool :=
  (shopOf s shop).pending.any (fun p => match p with | .weaveArrive _ _ _ op => decide (op = n) | _ => false)

/-- Apply the request of BARA or BARX (R232): held in the pending buffer, or applied, which completes the op. -/
def performBarrier (s : State) (n : Nat) (o : Op) (wv : Weave) (off : Nat) (req : BarReq) : State :=
  let b := wv.ids.basket
  match basketOf s wv with
  | none => s
  | some B =>
    if isPending s wv.shop n then s
    else if barHeld (barAt B off) req then
      if pendingRoom s wv.shop then
        holdRequest { s with ops := edit s.ops n (fun o => { o with view := opView s o }) } wv.shop (.weaveArrive b off req n)
      else s
    else
      let ms := if req.a = 1 then [relMsg (agentOf wv) 0 (opView s o)] else []
      let rd := BitVec.ofNat 32 (barAt B off).round
      let s1 := barServe s wv.shop b off req ms
      let s2 := modWeave s1 o.w (fun wv => learnView wv o.mask (spSaw s1 b off 16))
      let s3 := { s2 with ops := edit s2.ops n (fun o => { o with bound := some (o.dests.map (fun k => (k, rd))) }) }
      settle (completeOp s3 n (decide (req.a = 1))) wv.shop

/-- The image of the named barriers (R238). -/
def nbImage (B : Basket) : List Byte :=
  (List.range 16).flatMap (fun n =>
    let x := nbOf B n
    bytesOf 16 x.waiters.toNat ++ [BitVec.ofNat 8 x.arrived, BitVec.ofNat 8 x.count, BitVec.ofNat 8 x.phase] ++
      List.replicate 13 0)

/-- Load a named barrier from its 32 bytes of an image (R238): only without a waiter; a phase whose arrivals are in completes
at once. -/
def nbLoad (s : State) (b n : Nat) (img : List Byte) : State :=
  match look s.baskets b with
  | none => s
  | some B =>
    if (nbOf B n).waiters ≠ 0 then s
    else
      let arrived := (img.getD 16 0).toNat
      let count := (img.getD 17 0).toNat
      let x : NamedBar := { count := count, arrived := arrived, phase := (img.getD 18 0).toNat % 2, now := (nbOf B n).now }
      if count ≠ 0 ∧ count ≤ arrived then endPhase s b n x
      else modBasket s b (fun B => { B with nb := put B.nb n x })

/-- Perform BSAVE (R238). -/
def performBsave (s : State) (n : Nat) (o : Op) (wv : Weave) (off : Nat) : State :=
  match basketOf s wv with
  | none => s
  | some B =>
    let s1 := spStore s wv.ids.basket off (nbImage B) (opMsgs s { o with scope := 0 } wv (opView s o))
    settleRun { s := s1, view := spSaw s1 wv.ids.basket off 512 } n o wv (.bsave off) 0 0

/-- Perform BRESTORE (R238). -/
def performBrestore (s : State) (n : Nat) (o : Op) (wv : Weave) (off : Nat) : State :=
  let img := readMem s (opView s o) [] false (n * 4096) (spPas wv.ids.basket off 512)
  let s1 := (List.range 16).foldl (fun s i => nbLoad s wv.ids.basket i (img.data.drop (32 * i))) s
  settleRun { s := s1, view := img.view, msgs := img.msgs } n o wv (.brestore off) 0 0

end Sys2Proof.Machine
end

