-- ==== Sys2Proof/Machine/Clerk.lean ====
section
/-!
DEFINITION. The Clerks (spec/13_clerk.md R271 to R286): the atomic instructions, opcodes 0xC8 to 0xCF, and CLERK_PERFORM.
-/

namespace Sys2Proof.Machine

open Sys2Proof

/-! ### Homes (R272) -/

/-- The home set of a tenancy: its Clerks in ascending order. -/
def homeSet (s : State) (t : Nat) : List Nat := (look s.homes t).getD (List.range 48)

/-- The home set of the tenancy is about to change: its new requests are held at their shops (R273). -/
def homesChange (s : State) (t : Nat) : Bool :=
  match s.homesNext with
  | some h => decide ((look h t).getD (List.range 48) ≠ homeSet s t)
  | none => false

/-- The home sets change once the Clerks of the old sets have performed every request that they have accepted (R273). -/
def settleHomes (s : State) : State :=
  match s.homesNext with
  | some h =>
    if s.requests.any (fun r => decide (r.2.sent ≠ 0) && homesChange s r.2.tenancy) then s else { s with homes := h, homesNext := none }
  | none => s

/-- The fold of a line (R272). -/
def lineFold (line : Nat) : Nat := (line % 2 ^ 16) ^^^ (line / 2 ^ 16 % 2 ^ 16) ^^^ (line / 2 ^ 32 % 2 ^ 13)

/-- The home Clerk of a physical address (R272). -/
def homeOf (s : State) (t pa : Nat) : Nat :=
  let set := homeSet s t
  set.getD (lineFold (lineOf pa) % max 1 set.length) 0

/-! ### Instructions (R277 to R281) -/

/-- The types that an AOP takes (R278). -/
def clerkOk (aop t : Nat) : Bool :=
  match aop with
  | 0 => decide (t ≤ 7)
  | 1 => decide (t ≤ 7)
  | 2 => decide (t ≤ 7)
  | 3 => decide (t ≤ 3)
  | 4 => decide (t ≤ 3)
  | 5 => decide (t ≤ 3)
  | 6 => decide (t ≤ 7)
  | 7 => decide (t = 1 ∨ t = 3)
  | 8 => decide (t = 1 ∨ t = 3)
  | _ => false

/-- What distinguishes the atomic instructions. -/
structure AtomRow where
  form  : AtomForm
  kind  : AtomKind
  /-- words of the operand -/
  wide  : Nat
  /-- it has a return register -/
  ret   : Bool
  /-- TYPE, AOP and ANN are ones that the table allows -/
  ok    : Bool
  deriving DecidableEq, Repr

/-- The operands of an atomic (R277): no field takes a queue register. -/
def atomForm (f : RRR) (r : AtomRow) : Form :=
  { ops := [if r.ret then atomDst f.dst r.wide else unused f.dst, srcIn 59 f.sa 2,
            srcIn 59 f.sb r.wide, if r.kind = .cas then srcIn 59 f.sc r.wide else unused f.sc],
    modOk := r.ok && decide (f.mod.extractLsb' 0 3 = 0) && (decide (aAnn f.mod ≠ 0) || decide (aScope f.mod = 0)) }

/-- The form uses the address of the lowest qualifying strand only (R281). -/
def oneAddress : AtomForm → Bool
  | .perStrand => false
  | .treeEach => false
  | _ => true

/-- EA of a strand (R277). -/
def atomEA (s : State) (c : Ctx) (f : RRR) (k : Nat) : Nat := srcN s c f.sa.toNat k 2

/-- The checks of a strand's address (R279). -/
def checkAtom (s : State) (c : Ctx) (f : RRR) (n k : Nat) : Chk :=
  let ea := atomEA s c f k
  (checkStrand s c.wv.ids.tenancy .atomic k ea n).addIf (decide (ea % n ≠ 0)) 2 1 ea 0

/-- The lanes of an atomic: every qualifying strand, at the address that it uses. -/
def clerkLanes (s : State) (c : Ctx) (f : RRR) (r : AtomRow) (cs : List Chk) : List AtomLane :=
  c.strands.filterMap (fun k =>
    let u := if oneAddress r.form then c.low else k
    (cs.find? (fun x => decide (x.strand = u))).map (fun x =>
      { strand := k, va := atomEA s c f u, pas := x.pas, slots := x.slots, b := srcN s c f.sb.toNat k r.wide,
        c := if r.kind = .cas then srcN s c f.sc.toNat k r.wide else 0, nth := (look c.wv.atomsN k).getD 0 }))

/-- One request for each line touched (R274). -/
def sendRequests (s : State) (wv : Weave) (r : ClerkReq) (lanes : List AtomLane) : State :=
  let line (l : AtomLane) : Nat := lineOf (l.pas.headD 0)
  let lines := (lanes.map line).eraseDups
  lines.foldl (fun s n =>
    let mine := lanes.filter (fun l => decide (line l = n))
    let req := { r with lanes := mine }
    { s with requests := put s.requests (freshKey s.requests) req })
    (countW s wv 23 lines.length)

/-- An atomic instruction (R274, R275): checks, a return slot if it returns values, its requests. -/
def atomRow (f : RRR) (r : AtomRow) (s : State) : Host.Outcome State Fault Refusal :=
  let n := 4 * r.wide
  issueRow s f.pn f.pred (atomForm f r) (fun s c =>
    if c.q = 0 then .done s
    else
      let cs := (if oneAddress r.form then [c.low] else c.strands).map (checkAtom s c f n)
      onChecked s c .atomic cs (fun s =>
        let d := f.dst.toNat
        let returns := r.ret && decide (d ≠ 511)
        if returns && decide (16 ≤ c.wv.returns) then .stay s (some .memory)
        else
          let lanes := clerkLanes s c f r cs
          let op := s.nextOp
          let s1 := newOp (cachePages s c.wv.ids.tenancy (lanes.map (fun l => l.va))) c (.clerk lanes)
            (if returns then dstKeys d r.wide c.q else []) (aAnn f.mod) (aScope f.mod)
          let nth := c.strands.foldl (fun t k => put t k ((look t k).getD 0 + 1)) c.wv.atomsN
          let s2 := modWeave s1 c.w (fun wv => if returns then { wv with returns := wv.returns + 1, atomsN := nth } else wv)
          let req : ClerkReq := { op := op, w := c.w, lot := c.wv.ids.lot, tenancy := c.wv.ids.tenancy, home := 0,
                                  form := r.form, kind := r.kind, type := aType f.mod, size := n,
                                  dst := if returns then destOf d else .none, lanes := [] }
          .done (sendRequests s2 c.wv req lanes)))

/-- ANN of a form that only writes (R277). -/
def redAnn (f : RRR) : Bool := decide (aAnn f.mod = 0 ∨ aAnn f.mod = 2)

/-- ATOM (R280). -/
def execAtom (f : RRR) (s : State) : Host.Outcome State Fault Refusal :=
  atomRow f { form := .perStrand, kind := .op (aOp f.mod), wide := atomWords (aType f.mod), ret := true,
              ok := clerkOk (aOp f.mod) (aType f.mod) } s

/-- RED (R280). -/
def execRed (f : RRR) (s : State) : Host.Outcome State Fault Refusal :=
  atomRow f { form := .perStrand, kind := .op (aOp f.mod), wide := atomWords (aType f.mod), ret := false,
              ok := clerkOk (aOp f.mod) (aType f.mod) && redAnn f } s

/-- TYPE and AOP of CAS and CASU (R277). -/
def casOk (f : RRR) : Bool := decide (aType f.mod ≤ 3 ∧ aOp f.mod = 0)

/-- CAS (R280). -/
def execCas (f : RRR) (s : State) : Host.Outcome State Fault Refusal :=
  atomRow f { form := .perStrand, kind := .cas, wide := atomWords (aType f.mod), ret := true, ok := casOk f } s

/-- CAS128 (R280). -/
def execCas128 (f : RRR) (s : State) : Host.Outcome State Fault Refusal :=
  atomRow f { form := .perStrand, kind := .cas, wide := 4, ret := true, ok := decide (aType f.mod = 0 ∧ aOp f.mod = 0) } s

/-- ATOMU (R281): one unbroken run at the lowest strand's address. -/
def execAtomu (f : RRR) (s : State) : Host.Outcome State Fault Refusal :=
  atomRow f { form := .unbroken, kind := .op (aOp f.mod), wide := atomWords (aType f.mod), ret := true,
              ok := clerkOk (aOp f.mod) (aType f.mod) } s

/-- AOP of the tree forms: ADD to XOR (R277). -/
def treeOk (f : RRR) : Bool := clerkOk (aOp f.mod) (aType f.mod) && decide (aOp f.mod ≤ 5) && redAnn f

/-- REDU (R281): the reduction of the strands, applied once. -/
def execRedu (f : RRR) (s : State) : Host.Outcome State Fault Refusal :=
  atomRow f { form := .treeOne, kind := .op (aOp f.mod), wide := atomWords (aType f.mod), ret := false, ok := treeOk f } s

/-- CASU (R281): one compare and swap for the weave. -/
def execCasu (f : RRR) (s : State) : Host.Outcome State Fault Refusal :=
  atomRow f { form := .casOne, kind := .cas, wide := atomWords (aType f.mod), ret := true, ok := casOk f } s

/-- REDA (R281): the reduction of the strands of each distinct address. -/
def execReda (f : RRR) (s : State) : Host.Outcome State Fault Refusal :=
  atomRow f { form := .treeEach, kind := .op (aOp f.mod), wide := atomWords (aType f.mod), ret := false, ok := treeOk f } s

/-! ### The return-value hash (R286) -/

/-- The term of a returned value. -/
def hashTerm (v ea id n : Nat) : BitVec 64 :=
  let x0 := BitVec.ofNat 64 v ^^^ BitVec.ofNat 64 (ea * 0x9E3779B97F4A7C15) ^^^ BitVec.ofNat 64 (id * 2 ^ 40) ^^^ BitVec.ofNat 64 n
  let x1 := (x0 ^^^ (x0 >>> 30)) * 0xBF58476D1CE4E5B9
  let x2 := (x1 ^^^ (x1 >>> 27)) * 0x94D049BB133111EB
  x2 ^^^ (x2 >>> 31)

/-- The terms of one strand's return. Log 57 (DEDUCED). -/
def hashReturn (size v ea id n : Nat) : BitVec 64 :=
  if size = 16 then hashTerm (v % 2 ^ 64) ea id n + hashTerm (v / 2 ^ 64) (ea + 8) id (n + 2 ^ 63) else hashTerm v ea id n

/-- Add a strand's return to the hash of its lot's pass. Log 57 (DEDUCED). -/
def addHash (s : State) (wv : Weave) (size v : Nat) (l : AtomLane) : State :=
  match look s.lots wv.ids.lot with
  | none => s
  | some lot =>
    if lot.npass = 0 then s
    else
      let b := match basketOf s wv with | some B => B.linear | none => 0
      let id := b * 1024 + wv.ids.wid * 32 + l.strand
      { s with lots := put s.lots wv.ids.lot { lot with hash := lot.hash + hashReturn size v l.va id l.nth } }

/-! ### CLERK_PERFORM (R276, R280 to R285) -/

/-- One address's read-modify-writes in a request: what each lane is given, and the values written, in order. -/
def atomRun (r : ClerkReq) (old : Nat) (ls : List AtomLane) : List (AtomLane × Nat) × List Nat :=
  let w := 8 * r.size
  let new (v : Nat) (b : Nat) : Nat := match r.kind with | .op aop => atomNew aop r.type w v b | .cas => v
  let tree : Option FRes := treeReduce (fun a b => ires (new a b))
    (allStrands.map (fun k => (ls.find? (fun l => decide (l.strand = k))).map (fun l => l.b)))
  match r.form with
  | .treeOne => ([], (tree.map (fun x => new old x.val)).toList)
  | .treeEach => ([], (tree.map (fun x => new old x.val)).toList)
  | .casOne =>
    match ls with
    | [] => ([], [])
    | u :: _ => (ls.map (fun l => (l, old)), if old = u.b then [u.c] else [])
  | _ =>
    ls.foldl (fun (a : List (AtomLane × Nat) × List Nat) l =>
      let v := a.2.getLast?.getD old
      match r.kind with
      | .cas => (a.1 ++ [(l, v)], if v = l.b then a.2 ++ [l.c] else a.2)
      | .op _ => (a.1 ++ [(l, v)], a.2 ++ [new v l.b])) ([], [])

/-- Perform the lanes of one address (R280, R281): the state, the returns, what the read saw, whether ECC could not correct
the bytes. -/
def performAt (s : State) (r : ClerkReq) (msgs : List Msg) (ls : List AtomLane) :
    State × List (AtomLane × Nat) × List Msg × Bool :=
  match ls with
  | [] => (s, [], [], false)
  | l :: _ =>
    if l.pas.any (poisoned s r.tenancy) then (s, [], [], true)
    else
      let (bs, seen) := newest s l.pas
      let (rets, new) := atomRun r (natOfBytes bs) ls
      (new.foldl (fun s v => lotWrite s r.lot l.pas (bytesOf r.size v) (seen ++ msgs).eraseDups) s, rets, seen, false)

/-- The lanes of a request, address by address; REDA tells addresses apart by EA; the strands of the per-strand forms in a free order
(R64, R281). -/
def requestRuns (s : State) (r : ClerkReq) : List (List AtomLane) :=
  match r.form with
  | .perStrand => (atomOrder s (r.op * 4096) r.lanes).map (fun l => [l])
  | .treeEach => ((r.lanes.map (fun l => l.va)).eraseDups).map (fun va => r.lanes.filter (fun l => decide (l.va = va)))
  | _ => ((r.lanes.map (fun l => l.pas)).eraseDups).map (fun pas => r.lanes.filter (fun l => decide (l.pas = pas)))

/-- How a request fares: its lanes lie in one line (R274). -/
def requestFare (s : State) (r : ClerkReq) (o : Op) : Fare :=
  match r.lanes with
  | [] => .go
  | l :: _ => laneFare s r.tenancy r.op o l.strand l.pas l.slots

/-- The requests of an op that a slot makes unresolved: they end together (R285, R318). -/
def deadRequests (s : State) (n : Nat) (o : Op) (slot : Nat) : Tab ClerkReq :=
  s.requests.filter (fun p => decide (p.2.op = n) &&
    (match requestFare s p.2 o with | .dead sl _ => decide (sl = slot) | _ => false))

/-- One run of a request: its read-modify-write, the words that it returns, and what its weave then knows (R276, R286). -/
def clerkRun (r : ClerkReq) (o : Op) (wv : Weave) (msgs : List Msg) (a : Run) (run : List AtomLane) : Run :=
  let (s1, rets, seen, bad) := performAt a.s r msgs run
  let words := rets.flatMap (fun p => laneWords o r.dst (r.size / 4) p.1.strand p.2)
  let s2 := if r.dst = .none then s1 else rets.foldl (fun s p => addHash s wv r.size p.2 p.1) s1
  let view := wroteView a.view (s2.stamp - 1) (run.flatMap (fun l => l.pas))
  { a with s := s2, words := a.words ++ words, msgs := (a.msgs ++ seen).eraseDups, bad := a.bad || bad, view := view }

/-- Perform a request that its home Clerk has accepted. -/
def performRequest (s : State) (id : Nat) (r : ClerkReq) (o : Op) (wv : Weave) : State :=
  let mine := maskOf (r.lanes.map (fun l => l.strand))
  let kept (gone : List AtomLane) : OpKind := match o.kind with | .clerk ls => .clerk (ls.filter (fun l => !(gone.contains l))) | k => k
  let parked (s : State) : State := settleRun { s := s, tried := mine, parked := mine } r.op o wv o.kind 1 0
  match requestFare s r o with
  | .park _ => parked s
  | .absent sl =>
    match r.lanes with
    | [] => { s with requests := del s.requests id }
    | l :: _ => parked (postLane s r.op o wv 1 sl l.va (l.pas.headD 0) mine)
  | .dead sl _ =>
    let gone := deadRequests s r.op o sl
    let lanes := gone.flatMap (fun p => p.2.lanes)
    let lost := gone.flatMap (fun p => p.2.lanes.map (fun l =>
      let kd := match requestFare s p.2 o with | .dead _ k => k | _ => 0
      ({ strand := l.strand, slot := sl, kind := kd, va := l.va, pa := l.pas.headD 0 } : Lost)))
    settleRun { s := { s with requests := s.requests.filter (fun p => !(gone.any (fun q => decide (q.1 = p.1)))) }, lost := lost,
                tried := maskOf (lanes.map (fun l => l.strand)) } r.op o wv (kept lanes) 1 0
  | .go =>
    if parkedBefore s r.op o (r.lanes.flatMap (fun l => l.pas)) then s
    else
      let msgs := opMsgs s o wv (opView s o)
      let res := (requestRuns s r).foldl (clerkRun r o wv msgs)
        { s := askLines s r.tenancy (r.lanes.flatMap (fun l => l.pas)), tried := mine }
      settleRun { res with s := { res.s with requests := del res.s.requests id } } r.op o wv (kept r.lanes) 1
        (match r.lanes with | l :: _ => l.va | [] => 0)

/-- An accepted request on the same line at the same home came first (R276). -/
def acceptedFirst (s : State) (r : ClerkReq) : Bool :=
  let line (r : ClerkReq) : Option Nat := r.lanes.head?.map (fun l => lineOf (l.pas.headD 0))
  s.requests.any (fun p => decide (p.2.sent ≠ 0 ∧ p.2.sent < r.sent ∧ p.2.home = r.home ∧ line p.2 = line r))

/-- A request leaves its shop (R274, R276): its home Clerk has room, and the shop's L1 loses the line. -/
def sendOne (s : State) (shop id : Nat) : State :=
  match look s.requests id with
  | none => s
  | some r =>
    let pa := (r.lanes.head?.map (fun l => l.pas.headD 0)).getD 0
    let home := homeOf s r.tenancy pa
    if r.sent ≠ 0 ∨ 1024 ≤ (s.requests.filter (fun p => decide (p.2.sent ≠ 0 ∧ p.2.home = home))).length then s
    else loseLines { s with requests := put s.requests id { r with home := home, sent := s.steps + 1 } } shop (fun l _ => decide (l = lineOf pa))

/-- The requests of an op leave their shop (R273, R282, R283): after what the op must follow, and after the commit of the basket's open
version; none while the tenancy's home set is about to change. -/
def sendOp (s : State) (n : Nat) (o : Op) (wv : Weave) : State :=
  if !(mayPerform s n o) || homesChange s wv.ids.tenancy then s
  else
    match (if versioned s wv && (o.bound.isNone || !(versionOf s wv).isEmpty) then commitFor s n wv true else .ok s) with
    | .wait s1 => s1
    | .ok s1 =>
      let seen := commitSeen s s1 wv
      let s2 := { s1 with ops := edit s1.ops n (fun o => { o with bound := some ((o.bound).getD []), view := joinView o.view seen }) }
      ((s2.requests.filter (fun p => decide (p.2.op = n))).map (fun p => p.1)).foldl (fun s id => sendOne s wv.shop id) s2

/-- Complete an atomic whose strands have all been performed (R275). -/
def completeClerk (s : State) (n : Nat) : State :=
  match look s.ops n with
  | none => s
  | some o =>
    if o.performed && mayComplete s n o then
      let s1 := if o.dests = [] then s else modWeave s o.w (fun wv => { wv with returns := wv.returns - 1 })
      completeOp s1 n true
    else s

/-- Perform a request that has been accepted, if its turn has come. -/
def serveRequest (s : State) (id : Nat) : State :=
  match look s.requests id with
  | none => s
  | some r =>
    match look s.ops r.op with
    | none => settleHomes { s with requests := del s.requests id }
    | some o =>
      match weaveOf s o.w with
      | none => s
      | some wv =>
        if r.sent = 0 || acceptedFirst s r then s else completeClerk (settleHomes (performRequest s id r o wv)) r.op

/-- CLERK_PERFORM of request a (R276): one that still waits in its shop leaves it, with the op's others; one that has been accepted is
performed: its read-modify-writes, its returns, its completion. With `ok` both happen. A request that had been sent when its weave was
stopped is performed, and its returns are dropped (R47, R337). -/
def execClerkPerform (s : State) : Host.Outcome State Fault Refusal :=
  let id := s.ev.a
  match look s.requests id with
  | none => .next (settleHomes s)
  | some r =>
    if r.sent ≠ 0 then .next (serveRequest s id)
    else
      match (look s.ops r.op).map (fun o => (o, weaveOf s o.w)) with
      | some (o, some wv) =>
        let s1 := sendOp s r.op o wv
        .next (if s.ev.ok then serveRequest s1 id else s1)
      | _ => .next (serveRequest s id)

end Sys2Proof.Machine
end

