-- ==== Sys2Proof/Machine/Engine.lean ====
section
/-!
DEFINITION. What the engine commands share (spec/05_encoding.md R116, R126; spec/08_bench.md R170, R171): the checks of the
ENG format, the descriptor, the push, and the completion of a command.
-/

namespace Sys2Proof.Machine

open Sys2Proof

/-! ### The ENG format -/

/-- A field that the command does not use; another value raises cause 8 (R290, R366). -/
def engUnused (r : BitVec 9) : Opnd := unused r 8

/-- A descriptor field of the classes given (1 vector, 2 scalar), over the words that DLEN counts (R116). -/
def descOpnd (f : ENG) (cls : Nat) : Opnd :=
  { reg := f.desc.toNat, cls := cls, wide := f.dlen.toNat + 1, cause := 8, range := true, desc := true }

/-- The fields of an engine command: reserved bits raise cause 3, DLEN and CMASK outside the command's own cause 8, as does COFF
without a continuation (R126). -/
def engForm (f : ENG) (dst desc : Opnd) (dlen : List Nat) (cmaskOk : Bool) : Form :=
  { ops := [dst, desc], modOk := decide (f.rsv = 0),
    engOk := dlen.contains f.dlen.toNat && cmaskOk && (decide (f.coff = 0) || f.cmask.getLsbD 3), waits := f.cmask.getLsbD 3 }

/-- Word j of the descriptor of a strand. -/
def descWord (s : State) (c : Ctx) (f : ENG) (k j : Nat) : Word := srcWord s c (f.desc.toNat + j) k

/-- The illegal-instruction trap of a malformed descriptor (R126 row 8). -/
def badDesc (c : Ctx) : Effect := .trap (illegal c 8)

/-- The scratchpad-bounds trap of a command (R290, R366): class 3, cause 1. -/
def badBounds (c : Ctx) (off info : Nat) : Effect := .trap { cls := 3, cause := 1, lanes := c.sp.mask, addr := off, info := info }

/-- The continuation PC: H + 8 × COFF, signed (R116). -/
def contPC (c : Ctx) (f : ENG) : DWord := c.pc + 8 * f.coff.signExtend 64

/-- Push a command (R170): held while the view is full; a command with a continuation then waits for its completion, and goes on
at the continuation PC, which must be a P clause (R106, R107). `go` gives the entry, or the command's own trap. -/
def pushEng (s : State) (c : Ctx) (f : ENG) (n : Nat) (dests : List Nat) (accept : State → State) (go : Entry ⊕ Effect) :
    Effect :=
  match go with
  | .inr e => e
  | .inl e =>
    if !(pushRoom s c.wv n) then .hold s .queueFull .retry
    else
      let e1 := { e with opc := (c.word.extractLsb' 56 8).toNat, cmask := f.cmask.toNat, scope := f.scope.toNat,
                         view := viewOf c.wv c.sp.mask, rel := fencesOf c.wv c.sp.mask, stamp := s.stamp }
      let s1 := accept (pushEntry s c n dests e1)
      if f.cmask.getLsbD 3 then .hold s1 .continuation (.continuation (contPC c f) false) else .done s1

/-- A command that has been pushed and waits for its continuation goes on when it is woken (R21). -/
def onFirst (s : State) (c : Ctx) (go : Unit → Effect) : Effect :=
  match c.held with
  | none => go ()
  | some h =>
    match h.wait with
    | .continuation pc true => .goto s pc true
    | .continuation _ false => .stay s
    | _ => go ()

/-- CWORD is well formed for the completion events asked for (R290, R366): `counts` where byte counts use it. -/
def cwordOk (cword cmask : Nat) (counts : Bool) : Bool :=
  !(cmask.testBit 1 && cmask.testBit 2) && decide (cword < 2 ^ 19) &&
    (if counts || cmask.testBit 1 then decide (cword % 16 = 0)
     else if cmask.testBit 2 then decide (cword % 4 = 0) else decide (cword = 0))

/-- Bytes of the word at CWORD: 16 for a barrier word, 4 for a full/empty word, none where no event uses it. -/
def cwordBytes (cmask : Nat) (counts : Bool) : Nat :=
  if counts || cmask.testBit 1 then 16 else if cmask.testBit 2 then 4 else 0

/-! ### Completion -/

/-- The engine may act for a weave: its basket is on its shop, and its gang is not being collected (R161). -/
def engineOn (s : State) (wv : Weave) : Bool :=
  (match basketOf s wv with | some B => B.resident | none => false) && !(collecting s wv)

/-- The result view of a command has room, beside the entries that other commands of the weave have still to post, or the command posts no
entry (R171). Log 43 (DEDUCED). -/
def resultRoom (s : State) (w : Nat) (wv : Weave) (n : Nat) (cmask : Nat) : Bool :=
  let owed := s.ops.filter (fun p => decide (p.2.w = w) && (match p.2.fin with
    | some f => (match f.result with | some r => decide (r.1 = n) | none => false)
    | none => false))
  !(cmask.testBit 0) || decide ((viewEntries wv n).length + owed.length < queueDepth n)

/-- The last events of a command (R294, R370): the result entry, the continuation, the flag; they wait for its arrival or fill. -/
def finishCommand (s : State) (ev : Events) (n : Nat) (words : List Word) (msg : Msg) : State :=
  completeCommand s ev.op { result := if ev.cmask.testBit 0 then some (n, words) else none, msg := some msg }

/-- The arrival or fill at CWORD of a basket (R230, R234). -/
def cwordEvents (s : State) (ev : Events) (b : Nat) (value : Word) (msg : Msg) : State :=
  let s1 := if ev.cmask.testBit 1 then engineArrival s b ev.cword (some msg) ev.op else s
  if ev.cmask.testBit 2 then engineFill s1 b ev.cword value (some msg) ev.op else s1

/-- The oldest entry at the head of queue n of the weaves of a shop, with its weave (R171). -/
def oldestHead (s : State) (shop n : Nat) : Option (Nat × Entry) :=
  s.weaves.foldl (fun best p =>
    if p.2.shop = shop ∧ engineOn s p.2 then
      match viewEntries p.2 n, best with
      | [], _ => best
      | e :: _, none => some (p.1, e)
      | e :: _, some (_, e0) => if e.op < e0.op then some (p.1, e) else best
    else best) none

/-- Take the head entry of a queue of a weave. -/
def dropHead (s : State) (w n : Nat) : State :=
  modWeave s w (fun wv => { wv with queues := match viewEntries wv n with
    | [] => wv.queues
    | [_] => del wv.queues n
    | _ :: es => put wv.queues n es })

/-- An access of an engine to memory of a tenancy. -/
inductive Reach where
  | ok (pas slots : List Nat) (l : Option Leaf)
  /-- a data trap: class, cause -/
  | trap (cls cause : Nat)
  /-- unresolved: slot, KIND, found at a table read -/
  | lost (slot kind : Nat) (table : Bool)
  /-- it waits, for this reason (R190), at these places -/
  | park (why : Stall) (places : Parked)
  deriving DecidableEq, Repr

/-- Check an engine's access of n bytes (R200, R307, R315, R320): an EMPTY slot is unresolved at once, as is an access that was parked when its
slot was lost or that a restore found revoked (R316, R163). -/
def reach (s : State) (t : Nat) (kind : Kind) (va n salt : Nat) (was : Parked := []) : Reach :=
  let x := checkStrand s t kind (salt % 32) va n
  match x.trap, parkedGone was (x.slots ++ (x.empty.map (fun e => e.1)).toList), x.empty, x.lost with
  | some (cl, ca, _, _), _, _, _ => .trap cl ca
  | none, some (sl, k), _, _ => .lost sl k false
  | none, none, some (sl, tb, _), _ => .lost sl 1 tb
  | none, none, none, some (sl, _) => .lost sl 6 true
  | none, none, none, none =>
    if x.busy then .park .lease []
    else
      match fareAll s t (x.pas.zip x.slots) with
      | .go => .ok x.pas x.slots x.leaf
      | .park why => .park why (placesOf x.pas x.slots)
      | .absent sl => .lost sl 1 false
      | .dead sl k => .lost sl k false

end Sys2Proof.Machine
end

