-- ==== Sys2Proof/Machine/Dray.lean ====
section
/-!
DEFINITION. The Dray (spec/14_dray.md R287 to R303): DCOPY and DCOPYM, opcodes 0xD4 and 0xD5, and the events
DRAY_CHUNK_DONE and DRAY_COPY_COMPLETE.
-/

namespace Sys2Proof.Machine

open Sys2Proof

/-! ### The descriptor (R288, R289) -/

/-- A descriptor of 16 words. -/
abbrev DrayDesc := List Word

/-- Word k of a descriptor. -/
def dWord (d : List Word) (k : Nat) : Nat := (d.getD k 0).toNat

/-- A 64-bit field at words k and k + 1. -/
def dWord2 (d : List Word) (k : Nat) : Nat := dWord d k + 2 ^ 32 * dWord d (k + 1)

/-- A signed 32-bit field. -/
def dInt (d : List Word) (k : Nat) : Int := (d.getD k 0).toInt

/-- A field of CTL (R289). -/
def dCtl (d : DrayDesc) (lo n : Nat) : Nat := dWord d 4 / 2 ^ lo % 2 ^ n

/-- CONV: 0 RAW, 1 DECODE, 2 ENCODE. -/
def dConv (d : DrayDesc) : Nat := dCtl d 24 2

/-- Source space and destination space: 0 device memory, 1 scratchpad, 2 TOB. -/
def dSSP (d : DrayDesc) : Nat := dCtl d 16 2
/-- Destination space. -/
def dDSP (d : DrayDesc) : Nat := dCtl d 14 2

/-- BYTES (R296). -/
def dBytes (d : DrayDesc) : Bool := (dWord d 4).testBit 13

/-- es (R291): ESIZE for RAW, the width of DTYPE otherwise. -/
def dSize (d : DrayDesc) : Nat := if dConv d = 0 then 2 ^ dCtl d 18 2 else typeBits (dType (dCtl d 22 2)) / 8

/-- The TYPE of DTYPE. -/
def dElemType (d : DrayDesc) : Nat := dType (dCtl d 22 2)

/-- The checks of R290 on the descriptor of DCOPY (`multi` false) or DCOPYM, with CMASK and the gang size. -/
def drayDescOk (d : DrayDesc) (multi : Bool) (cmask gsize : Nat) : Bool :=
  let es := dSize d
  let raw := decide (dConv d = 0)
  let al (x : Nat) : Bool := decide (x % es = 0)
  let gm := dWord d 7
  decide (dCtl d 26 6 = 0 ∧ dCtl d 20 2 = 0 ∧ dCtl d 12 1 = 0 ∧ dCtl d 0 10 = 0 ∧ gm < 2 ^ 12) &&
  decide (dConv d ≠ 3 ∧ dCtl d 22 2 ≠ 3 ∧ dSSP d ≠ 3 ∧ dDSP d ≠ 3) &&
  (if raw then decide (dCtl d 22 2 = 0 ∧ dWord d 15 = 0) else decide (dCtl d 18 2 = 0)) &&
  !(decide (dConv d = 1) && decide (dSSP d ≠ 0)) && !(decide (dConv d = 2) && decide (dDSP d ≠ 0)) &&
  decide (1 ≤ dWord d 8 ∧ 1 ≤ dWord d 9 ∧ dWord d 9 ≤ 65536 ∧ 1 ≤ dWord d 10 ∧ dWord d 10 ≤ 65536) &&
  decide (dWord d 8 * dWord d 9 * dWord d 10 * es ≤ 2 ^ 40) &&
  !(dBytes d && cmask.testBit 2) && cwordOk (dWord d 5) cmask (dBytes d) &&
  (!raw || (al (dWord2 d 0) && al (dWord2 d 2) && al (dWord d 11) && al (dWord d 12) && al (dWord d 13) && al (dWord d 14))) &&
  (if dSSP d = 0 then decide (dWord2 d 0 < 2 ^ 57) else decide (dWord d 1 = 0)) &&
  (if dDSP d = 0 then decide (dWord2 d 2 < 2 ^ 57) else decide (dWord d 3 = 0)) &&
  (if multi then decide (gm ≠ 0 ∧ gm < 2 ^ gsize) && decide (dDSP d ≠ 0) else decide (gm = 0))

/-- The lesser of two offsets that may be absent. -/
def minOff (a b : Option Nat) : Option Nat :=
  match a, b with
  | some x, some y => some (min x y)
  | none, y => y
  | x, none => x

/-- The lowest byte of len bytes from o, modulo 2^32, that lies at or above a limit. -/
def rowBeyond (limit o len : Nat) : Option Nat :=
  if limit ≤ o then (if 2 ^ 32 + limit < o + len then some limit else some o)
  else if limit < o + len then some limit else none

/-- The lowest offset at or above the limit that a scratchpad or TOB side of the box touches (R290). -/
def sideBeyond (d : DrayDesc) (limit addr s1 s2 : Nat) : Option Nat :=
  (List.range (dWord d 10)).foldl (fun a (k : Nat) =>
    (List.range (dWord d 9)).foldl (fun a (j : Nat) =>
      let o := ((dWord d addr : Int) + k * dInt d s2 + j * dInt d s1) % 2 ^ 32
      minOff a (rowBeyond limit o.toNat (dWord d 8 * dSize d))) a) none

/-- The lowest offset out of bounds of a copy (R290). -/
def drayBeyond (d : DrayDesc) (h : Hdr) (cmask : Nat) : Option Nat :=
  let limit (sp : Nat) : Nat := if sp = 1 then h.spad else h.tobBanks * 16384
  let a := if dSSP d = 0 then none else sideBeyond d (limit (dSSP d)) 0 11 12
  let b := if dDSP d = 0 then none else sideBeyond d (limit (dDSP d)) 2 13 14
  let n := cwordBytes cmask (dBytes d)
  let c := if h.spad < dWord d 5 + n ∧ n ≠ 0 then some (max (dWord d 5) h.spad) else none
  minOff a (minOff b c)

/-! ### Acceptance (R298) -/

/-- Copies that a shop's Dray holds: those of saved baskets are with the Steward (R302). -/
def drayCount (s : State) (shop : Nat) : Nat :=
  (s.copies.filter (fun p => decide (p.2.shop = shop) && (match p.2.w with
    | none => true
    | some w => match (weaveOf s w).bind (basketOf s) with | some B => B.resident | none => false))).length

/-- The baskets of a weave's gang whose bid GMASK names. -/
def gangDests (s : State) (wv : Weave) (gm : Nat) : List Nat :=
  match look s.gangs wv.ids.gang with
  | none => []
  | some g => g.baskets.filter (fun b => match look s.baskets b with | some B => gm.testBit B.bid | none => false)

/-- The copy that an entry of q0 starts. -/
def copyOf (s : State) (w : Nat) (wv : Weave) (e : Entry) : Copy :=
  let d := e.words.take 16
  { w := some w, shop := wv.shop, tenancy := wv.ids.tenancy, desc := d,
    events := { op := e.op, w := w, cmask := e.cmask, scope := e.scope, cword := dWord d 5 },
    total := dWord d 8 * dWord d 9 * dWord d 10,
    dests := if dDSP d = 0 ∨ dWord d 7 = 0 then [wv.ids.basket] else gangDests s wv (dWord d 7),
    view := e.view, after := e.view }

/-- Accept the entries of q0 views in push order while there is room (R298). An entry that a plain instruction pushed holds no
command and completes. -/
def drayAccept : Nat → State → Nat → State
  | 0, s, _ => s
  | n + 1, s, shop =>
    match oldestHead s shop 0 with
    | none => s
    | some (w, e) =>
      if e.opc = 0 then drayAccept n (completeOp (dropHead s w 0) e.op false) shop
      else if drayCount s shop < 128 then
        match weaveOf s w with
        | none => s
        | some wv =>
          let s1 := dropHead s w 0
          drayAccept n { s1 with copies := put s1.copies (freshKey s1.copies) (copyOf s w wv e) } shop
      else s

/-- DCOPY and DCOPYM (R287, R290). -/
def drayPush (f : ENG) (multi : Bool) (s : State) : Host.Outcome State Fault Refusal :=
  issueRow s f.pn f.pred (engForm f (engUnused f.dst) (descOpnd f 3) [15] true) (fun s c =>
    onFirst s c (fun _ =>
      if c.once then
        let d := (List.range 16).map (descWord s c f c.low)
        pushEng s c f 0 [] (fun s => drayAccept 128 s c.wv.shop)
          (if !(drayDescOk d multi f.cmask.toNat c.wv.ids.gsize) then .inr (badDesc c)
           else
             match drayBeyond d c.wv.hdr f.cmask.toNat with
             | some o => .inr (badBounds c o 2)
             | none => .inl { words := d ++ List.replicate 16 0, q := c.q })
      else .done s))

/-- DCOPY (R287): a bulk asynchronous copy. -/
def execDcopy (f : ENG) (s : State) : Host.Outcome State Fault Refusal := drayPush f false s

/-- DCOPYM (R287): one copy into several baskets of the gang. -/
def execDcopym (f : ENG) (s : State) : Host.Outcome State Fault Refusal := drayPush f true s

/-! ### The walk of a copy (R291, R292) -/

/-- Where an element n of the iteration order lies: i, j, k. A Steward copy is one row. -/
def boxPos (c : Copy) (n : Nat) : Nat × Nat × Nat :=
  if c.w.isNone then (n, 0, 0)
  else
    let e0 := dWord c.desc 8
    let e1 := dWord c.desc 9
    (n % e0, n / e0 % e1, n / (e0 * e1))

/-- The words of one side: address, row stride, plane stride, space. -/
def sideWords (c : Copy) (src : Bool) : Nat × Nat × Nat × Nat :=
  if src then (0, 11, 12, dSSP c.desc) else (2, 13, 14, dDSP c.desc)

/-- The address or offset of element n on a raw side. -/
def rawAt (c : Copy) (src : Bool) (n : Nat) : Nat :=
  let (a, s1, s2, sp) := sideWords c src
  let (i, j, k) := boxPos c n
  let m : Int := if sp = 0 then 2 ^ 64 else 2 ^ 32
  (((dWord2 c.desc a : Int) + k * dInt c.desc s2 + j * dInt c.desc s1 + (i * dSize c.desc : Nat)) % m).toNat

/-- The element number of element n on a formatted side. -/
def fmtAt (c : Copy) (src : Bool) (n : Nat) : Int :=
  let (_, s1, s2, _) := sideWords c src
  let (i, j, k) := boxPos c n
  (dWord c.desc 15 : Int) + k * dInt c.desc s2 + j * dInt c.desc s1 + i

/-- How an element fails: status, first failing address, the lease slot, KIND and table read of an unresolved access. -/
structure CopyBad where
  status : Nat
  va     : Nat
  slot   : Nat := 0
  kind   : Nat := 0
  table  : Bool := false
  write  : Bool := false
  deriving DecidableEq, Repr

/-- How an attempt on an element ends. -/
inductive Got (α : Type) where
  | ok (a : α) | bad (b : CopyBad) | park (why : Stall) (places : Parked) | poison
  deriving DecidableEq, Repr

/-- Go on where an attempt came about. -/
def Got.next {α β : Type} (g : Got α) (f : α → Got β) : Got β :=
  match g with
  | .ok a => f a
  | .bad b => .bad b
  | .park y x => .park y x
  | .poison => .poison

/-- An access of the copy's bytes to device memory (R300). -/
def drayReach (s : State) (c : Copy) (kind : Kind) (va n salt : Nat) : Got (List Nat × List Nat × Option Leaf) :=
  match reach s c.tenancy kind va n salt ((c.parked.map (fun p => p.2)).getD []) with
  | .ok pas slots l => .ok (pas, slots, l)
  | .trap _ _ => .bad { status := 1, va := va }
  | .lost sl k tb => .bad { status := 3, va := va, slot := sl, kind := k, table := tb, write := decide (kind = .write) }
  | .park why places => .park why places

/-- The layout of a formatted side: PFMT, geometry, W of geometry 3 (R292). -/
structure FmtSide where
  pfmt : Nat
  geom : Nat
  w    : Nat
  deriving DecidableEq, Repr

/-- The layout that the page of a formatted side's address gives (R292). Log 45 (DEDUCED). -/
def fmtSide (s : State) (c : Copy) (src : Bool) (n : Nat) : Got FmtSide :=
  let (a, s1, _, _) := sideWords c src
  let va := dWord2 c.desc a
  if va % 65536 ≠ 0 then .bad { status := 2, va := va }
  else
    (drayReach s c (if src then .read else .write) va 1 n).next (fun x =>
      match x.2.2 with
      | none => .bad { status := 4, va := va }
      | some l =>
        if l.pfmt = 0 then .bad { status := 4, va := va }
        else if pfmtScaled l.pfmt && decide (l.geom = 3) then
          if 0 < dInt c.desc s1 ∧ dInt c.desc s1 % 8 = 0 then .ok { pfmt := l.pfmt, geom := l.geom, w := (dInt c.desc s1).toNat }
          else .bad { status := 2, va := va }
        else .ok { pfmt := l.pfmt, geom := l.geom, w := 0 })

/-- The grain and the index in it of element x of a formatted side (R292). -/
def fmtPlace (y : FmtSide) (x : Nat) : Nat × Nat :=
  if pfmtScaled y.pfmt then
    let k := geomK y.geom
    let n := (grainLayout y.pfmt y.geom).2 / k
    let b := if y.geom = 3 then (x / y.w / 4) * (y.w / 8) + x % y.w / 8 else x / k
    let e := if y.geom = 3 then 8 * (x / y.w % 4) + x % y.w % 8 else x % k
    (b / n, b % n * k + e)
  else
    let p := 65536 * 8 / pfmtBits y.pfmt
    (x / p, x % p)

/-- Elements that are written together: a block, 4 rows of geometry 3, a pair of INT4, one element otherwise. -/
def fmtUnit (y : FmtSide) : Nat :=
  if pfmtScaled y.pfmt then (if y.geom = 3 then 4 * y.w else geomK y.geom) else if pfmtBits y.pfmt = 4 then 2 else 1

/-- The bytes of one element at element place (grain, index) of a side: element bytes, scale byte (R98). Log 45 (DEDUCED). -/
def fmtReach (s : State) (c : Copy) (kind : Kind) (src : Bool) (y : FmtSide) (x : Int) (n : Nat) :
    Got (Nat × Nat × Leaf × List Nat × Option (List Nat)) :=
  let side := dWord2 c.desc (sideWords c src).1
  if x < 0 then .bad { status := 1, va := side }
  else
    let (g, e) := fmtPlace y x.toNat
    let grain := (side + 65536 * g) % 2 ^ 64
    let pl := elemPlace y.pfmt y.geom grain e
    let va := pl.1.headD 0
    (drayReach s c kind va pl.1.length n).next (fun p =>
      match p.2.2 with
      | none => .bad { status := 4, va := va }
      | some l =>
        if l.pfmt = 0 then .bad { status := 4, va := va }
        else
          let base := p.1.headD 0 - (va - grain)
          match pl.2 with
          | none => .ok (base, e, { l with pfmt := y.pfmt, geom := y.geom }, p.1, none)
          | some sv =>
            (drayReach s c kind sv 1 n).next (fun q =>
              .ok (base, e, { l with pfmt := y.pfmt, geom := y.geom }, p.1, some q.1)))

/-! ### Reading -/

/-- The open version that the reads of a copy see (R66). -/
def copyVersion (s : State) (c : Copy) : List VWrite :=
  match c.w.bind (weaveOf s) with
  | some wv => versionOf s wv
  | none => []

/-- Read device memory for a copy: bytes, and the view it leaves. -/
def copyRead (s : State) (c : Copy) (salt : Nat) (pas : List Nat) (v : View) : Got (List Byte × View) :=
  if pas.any (poisoned s c.tenancy) && c.w.isSome then .poison
  else
    let r := readMem s c.view (copyVersion s c) true salt pas
    .ok (r.data, joinView v r.view)

/-- The basket in which the scratchpad and TOB side of a copy's source lies. -/
def copyBasket (s : State) (c : Copy) : Option Basket := (c.w.bind (weaveOf s)).bind (basketOf s)

/-- Read element n on a raw side (R291): it may read what the copy wrote earlier (R69). -/
def readRaw (s : State) (c : Copy) (n : Nat) (v : View) : Got (List Byte × View) :=
  let o := rawAt c true n
  let es := dSize c.desc
  match dSSP c.desc, copyBasket s c with
  | 0, _ => (drayReach s c .read o es n).next (fun p => copyRead s c (16 * (n % 65536)) p.1 v)
  | _, none => .park .memory []
  | 1, some _ => copyRead s c (16 * (n % 65536)) (spPas ((c.w.bind (weaveOf s)).elim 0 (fun wv => wv.ids.basket)) o es) v
  | _, some B => .ok (cellsAt B.tob o es, v)

/-- Read element n on a formatted side and give it in DTYPE (R293 DECODE). Log 45 (DEDUCED). -/
def readFmt (s : State) (c : Copy) (n : Nat) (v : View) : Got (List Byte × View) :=
  (fmtSide s c true n).next (fun y =>
    (fmtReach s c .read true y (fmtAt c true n) n).next (fun p =>
      (copyRead s c (16 * (n % 65536)) p.2.2.2.1 v).next (fun r =>
        let scale : Got (Nat × View) := match p.2.2.2.2 with
          | none => .ok (127, r.2)
          | some q => (copyRead s c (16 * (n % 65536) + 8) q r.2).next (fun z => .ok (natOfBytes z.1, z.2))
        scale.next (fun X =>
          let b := pfmtBits y.pfmt
          let x := natOfBytes r.1 / 2 ^ (p.2.1 * b % 8) % 2 ^ b
          let t := dElemType c.desc
          let z := match elemNum y.pfmt X.1 x with
            | .nan _ => canonNaN (fmtD t)
            | w => (fenc (fmtD t) w 0 false 0).val
          .ok (bytesOf (dSize c.desc) z, X.2)))))

/-- Read element n of the source: its es bytes as the raw side holds them. -/
def readElem (s : State) (c : Copy) (n : Nat) (v : View) : Got (List Byte × View) :=
  if dConv c.desc = 1 then readFmt s c n v else readRaw s c n v

/-- Read elements n to n + u − 1: what was read before the first that did not come about, and how that one ended. -/
def readElems (s : State) (c : Copy) : Nat → Nat → List (List Byte) → View → List (List Byte) × View × Got Unit
  | _, 0, acc, v => (acc, v, .ok ())
  | n, u + 1, acc, v =>
    match readElem s c n v with
    | .ok (bs, v1) => readElems s c (n + 1) u (acc ++ [bs]) v1
    | .bad b => (acc, v, .bad b)
    | .park y x => (acc, v, .park y x)
    | .poison => (acc, v, .poison)

/-- The bytes of device memory that elements n to n + u − 1 of a copy's source lie in. -/
def srcBytes (s : State) (c : Copy) (n u : Nat) : List Nat :=
  (List.range u).flatMap (fun i =>
    if dConv c.desc = 1 then
      match (fmtSide s c true (n + i)).next (fun y => fmtReach s c .read true y (fmtAt c true (n + i)) (n + i)) with
      | .ok p => p.2.2.2.1 ++ p.2.2.2.2.getD []
      | _ => []
    else if dSSP c.desc = 0 then
      match drayReach s c .read (rawAt c true (n + i)) (dSize c.desc) (n + i) with | .ok p => p.1 | _ => []
    else [])

/-! ### Writing device memory -/

/-- Write one access of device memory for a copy (R298, R299): the view that it leaves with the copy. -/
def copyWrite (s : State) (c : Copy) (v : View) (pas slots : List Nat) (bs : List Byte) : Try × View :=
  match c.w with
  | none => (.ok (clearPoison (writeAccess s pas bs []) pas), wroteAccess v s.stamp pas)
  | some w =>
    match weaveOf s w with
    | none => (.ok s, v)
    | some wv =>
      if versioned s wv then
        let parts := if oneLine pas then [(pas, slots.headD 0, bs)]
          else (pas.zip (slots.zip bs)).map (fun x => ([x.1], x.2.1, [x.2.2]))
        parts.foldl (joinPart c.events.op wv []) (.ok s, v)
      else (.ok (lotWrite s wv.ids.lot pas bs []), wroteAccess v s.stamp pas)

/-- The element values that ENCODE gives elements n, n + 1, … of a formatted side. -/
def encodeVals (s : State) (c : Copy) (y : FmtSide) (n : Nat) (vals : List (List Byte)) : Got (List FmtVal) :=
  (vals.zip (List.range vals.length)).foldl (fun (g : Got (List FmtVal)) p =>
    g.next (fun acc =>
      (fmtReach s c .write false y (fmtAt c false (n + p.2)) n).next (fun q =>
        .ok (acc ++ [{ strand := p.2 / fmtUnit y, base := q.1, leaf := q.2.2.1, e := q.2.1,
                       val := decodeType (dElemType c.desc) (natOfBytes p.1), va := q.2.2.2.1.headD 0 }])))) (.ok [])

/-- The writes of one unit of elements at n (R291, R293): addresses, slots, bytes. Log 45 (DEDUCED). -/
def unitWrites (s : State) (c : Copy) (n : Nat) (vals : List (List Byte)) : Got (List (List Nat × List Nat × List Byte)) :=
  if dConv c.desc = 2 then
    (fmtSide s c false n).next (fun y =>
      (encodeVals s c y n vals).next (fun vs => .ok ((fmtRows vs).map (fun l => (l.pas, l.slots, l.data)))))
  else
    let o := rawAt c false n
    (drayReach s c .write o (dSize c.desc) n).next (fun p => .ok [(p.1, p.2.1, vals.headD [])])

/-- ENCODE: the rows of the box cover whole blocks, INT4 whole bytes (R293). -/
def rowOk (c : Copy) (y : FmtSide) (x : Int) : Bool :=
  let u := fmtUnit y
  u = 1 || decide (x % u = 0 ∧ dWord c.desc 8 % u = 0)

/-- Elements of the unit at element n of a copy to device memory. -/
def unitAt (s : State) (c : Copy) (n : Nat) : Got Nat :=
  if dConv c.desc = 2 then
    (fmtSide s c false n).next (fun y =>
      if rowOk c y (fmtAt c false n - (boxPos c n).1) then .ok (max 1 (fmtUnit y))
      else .bad { status := 2, va := dWord2 c.desc 2 })
  else .ok 1

/-! ### Chunks (R302) -/

/-- The first element after the present chunk: 65,536 bytes of es-sized elements; ENCODE into a scaled page goes on to the end of
its last block. -/
def chunkEnd (s : State) (c : Copy) : Nat :=
  let e := c.start + 65536 / max 1 (dSize c.desc)
  if dConv c.desc = 2 then
    match unitAt s c c.start with
    | .ok u =>
      let i := (boxPos c e).1
      min c.total (e - i + (i + u - 1) / u * u)
    | _ => min c.total e
  else min c.total e

/-- Change a copy. -/
def modCopy (s : State) (id : Nat) (f : Copy → Copy) : State := { s with copies := edit s.copies id f }

/-- The informational record of an unresolved access of the Dray (R318, R320). Log 45 (DEDUCED). -/
def drayFault (s : State) (c : Copy) (b : CopyBad) : State :=
  let acc := if b.table then 4 else if b.write then 1 else 0
  let pa := if b.table then 0 else leafPA s c.tenancy b.va
  match c.w.bind (weaveOf s) with
  | some wv => postFault s c.tenancy (weaveFault s wv b.kind acc 2 b.slot b.va pa 0)
  | none =>
    postFault s c.tenancy { kind := b.kind, die := dieOf c.shop, acc := acc, engine := 2, slot := b.slot, va := b.va, pa := pa,
                            lotid := 0, basket := 0, wid := 0, lanes := 0 }

/-- A failure ends the copy at its first failing element (R300). In a VERSIONED lot a FARFAULT with writes in the open version
is a task trap. -/
def failCopy (s : State) (id : Nat) (c : Copy) (b : CopyBad) : State :=
  let s1 := modCopy s id (fun c => { c with status := b.status, faddr := BitVec.ofNat 64 b.va, ended := true })
  if b.status = 3 then
    let s2 := drayFault s1 c b
    match c.w.bind (weaveOf s) with
    | none => s2
    | some wv => if versioned s wv && !(versionOf s wv).isEmpty then taskTrap s2 wv.ids.basket 3 b.slot b.va b.kind else s2
  else s1

/-- Data that ECC cannot correct is not delivered: the task trap of cause 1 (R336). -/
def poisonCopy (s : State) (c : Copy) : State :=
  match c.w.bind (weaveOf s) with
  | some wv => taskTrap s wv.ids.basket 1 0 (rawAt c true c.next) 0
  | none => s

/-- The writes that a visited unit sets going (R291): of device memory, or of the same bytes in every destination basket that there still
is (R297). -/
def unitFlights (s : State) (c : Copy) (n : Nat) (vals : List (List Byte)) : Got (List Flight) :=
  let home := c.dests.headD 0
  if dDSP c.desc = 0 then
    (unitWrites s c n vals).next (fun ws => .ok (ws.map (fun x => { dest := home, at_ := 0, pas := x.1, slots := x.2.1, data := x.2.2 })))
  else
    let o := rawAt c false n
    let data := vals.headD []
    .ok ((c.dests.filter (fun b => (look s.baskets b).isSome)).map (fun b =>
      { dest := b, at_ := o, slots := [], data := data,
        pas := if dDSP c.desc = 1 then spPas b o data.length else (List.range data.length).map (fun i => tobKey b (o + i)) }))

/-- Visit units of the present chunk, at most n, until it ends or one does not come about: each is read, checked, and its writes set going. -/
def visitChunk : Nat → State → Nat → State
  | 0, s, _ => s
  | n + 1, s, id =>
    match look s.copies id with
    | none => s
    | some c =>
      if c.ended || decide (chunkEnd s c ≤ c.next) then s
      else
        let got := (if dDSP c.desc = 0 then unitAt s c c.next else .ok 1).next (fun u =>
          match readElems s c c.next u [] c.after with
          | (bs, v, .ok _) => (unitFlights s c c.next bs).next (fun fs => .ok (u, fs, v))
          | (_, _, .bad b) => .bad b
          | (_, _, .park y x) => .park y x
          | (_, _, .poison) => .poison)
        match got with
        | .bad b => failCopy s id c b
        | .poison => poisonCopy s c
        | .park why places => modCopy s id (fun c => { c with parked := some (why, places) })
        | .ok (u, fs, v) =>
          visitChunk n (modCopy (askLines s c.tenancy (srcBytes s c c.next u)) id (fun c => { c with
            next := c.next + u, after := v, parked := none, flying := c.flying ++ fs, left := c.dests })) id

/-- Perform one write of a copy (R298): it joins no version through the scratchpad, and changes no full/empty state. -/
def landFlight (s : State) (c : Copy) (v : View) (f : Flight) : Try × View :=
  if dDSP c.desc = 0 then copyWrite (askLines s c.tenancy f.pas) c v f.pas f.slots f.data
  else if (look s.baskets f.dest).isNone then (.ok s, v)
  else if dDSP c.desc = 1 then (.ok (spStore s f.dest f.at_ f.data []), wroteAccess v s.stamp f.pas)
  else (.ok (tobWrite s f.dest f.at_ f.data), joinView v (tobView f.dest s.stamp ((List.range f.data.length).map (fun i => f.at_ + i))))

/-- Perform the writes set going, but those that an event leaves for a later one: writes to different bytes are unordered, and a write stays
behind one before it to the same byte (R298). -/
def landFlights (stay : Nat → Bool) (id : Nat) : Nat → State → List Flight → List Flight → State
  | _, s, kept, [] => modCopy s id (fun c => { c with flying := kept })
  | i, s, kept, f :: rest =>
    match look s.copies id with
    | none => s
    | some c =>
      if stay i || kept.any (fun k => shares k.pas f.pas) then landFlights stay id (i + 1) s (kept ++ [f]) rest
      else
        match landFlight s c c.after f with
        | (.wait s1, _) => landFlights stay id (i + 1) s1 (kept ++ [f]) rest
        | (.ok s1, v) => landFlights stay id (i + 1) (modCopy s1 id (fun c => { c with after := v })) kept rest

/-- What a completion event of a copy publishes (R68, R297). -/
def copyMsg (s : State) (c : Copy) : Msg :=
  relMsg (.weave (match c.w.bind (weaveOf s) with | some wv => wv.shop | none => c.shop)) c.events.scope c.after

/-- Commit the open version before a completion event of a copy (R299); the event follows the commit (R66). -/
def copyCommit (s : State) (id : Nat) (c : Copy) : Try :=
  match c.w.bind (weaveOf s) with
  | none => .ok s
  | some wv =>
    if versioned s wv then
      match commitFor s c.events.op wv false with
      | .wait s1 => .wait s1
      | .ok s1 =>
        let seen := commitSeen s s1 wv
        .ok (modCopy s1 id (fun c => { c with after := joinView c.after seen }))
    else .ok s

/-- Count the bytes written (R443 DRAYB). Log 59 (DEDUCED). -/
def countDray (s : State) (c : Copy) (n : Nat) : State :=
  match c.w.bind (weaveOf s) with
  | some wv => if n = 0 then s else countW s wv 27 n
  | none => s

/-- The present chunk has been performed in a destination basket: its byte count lands (R296). -/
def chunkLand (s : State) (id b : Nat) : State :=
  match look s.copies id with
  | none => s
  | some c =>
    let n := (c.next - c.start) * dSize c.desc
    let s1 := modCopy (countDray s c n) id (fun c => { c with left := c.left.filter (fun x => decide (x ≠ b)) })
    if dBytes c.desc && !c.ended then engineLanding s1 b (dWord c.desc 5) n (some (copyMsg s1 c)) else s1

/-- Close the present chunk in the destination baskets that have all of it, once it has been visited to its end; after the last of them the
next chunk begins. -/
def closeChunk (s : State) (id : Nat) : State :=
  match look s.copies id with
  | none => s
  | some c =>
    let full := c.ended || decide (c.next = chunkEnd s c)
    let ready := c.left.filter (fun b => !(c.flying.any (fun f => decide (f.dest = b))))
    if !full || (ready.isEmpty && !c.left.isEmpty) || decide (c.next = c.start) then
      (if c.ended && decide (c.next = c.start) then modCopy s id (fun c => { c with left := [] }) else s)
    else
      match (if dBytes c.desc && !c.ended then copyCommit s id c else .ok s) with
      | .wait s1 => s1
      | .ok s1 =>
        let s2 := ready.foldl (fun s b => chunkLand s id b) s1
        modCopy s2 id (fun c =>
          if c.left = [] ∧ c.flying = [] then
            { c with start := c.next, landed := if c.ended then c.landed else c.landed + (c.next - c.start) * dSize c.desc }
          else c)

/-- The rest of a chunk begun (R160, R302). -/
def Copy.midChunk (c : Copy) : Bool := decide (c.left ≠ []) || decide (c.start < c.next)

/-- The basket of a copy's weave is on its shop. -/
def copyHere (s : State) (c : Copy) : Bool :=
  match c.w.bind (weaveOf s) with
  | some wv => (match basketOf s wv with | some B => B.resident | none => false)
  | none => c.w.isNone

/-- A copy of the same shop that was accepted before it and is not yet started comes first (R298): but for one whose gang is being
collected, which starts no chunk (R302). -/
def startsFirst (s : State) (id : Nat) (c : Copy) : Bool :=
  !c.begun && s.copies.any (fun p => decide (p.1 < id ∧ p.2.shop = c.shop) && !p.2.begun && copyHere s p.2 &&
    (match p.2.w.bind (weaveOf s) with | some wv => engineOn s wv | none => true))

/-- The Dray may act on a copy: its turn to start has come (R298), the weave's basket is there and, but for the rest of a chunk begun
(R160), not being collected, and everything before the push has been performed (R68, R302). -/
def copyMay (s : State) (id : Nat) (c : Copy) : Bool :=
  !(startsFirst s id c) &&
  (match c.w with
   | none => true
   | some w =>
     match weaveOf s w, look s.ops c.events.op with
     | some wv, some o => (engineOn s wv || (copyHere s c && c.midChunk)) && engineMay s c.events.op o
     | _, _ => false)

/-- The Dray starts a copy (R298): it takes over what its command follows (R68). Log 45 (DEDUCED). -/
def copyStart (s : State) (id : Nat) (c : Copy) : State :=
  if c.begun then s
  else
    let v := match look s.ops c.events.op with
      | some o => if c.w.isSome then joinView c.view (opView s o) else c.view
      | none => c.view
    modCopy s id (fun c => { c with begun := true, view := v, after := joinView c.after v })

/-- DRAY_CHUNK_DONE of copy a (R296, R302): the present chunk goes on until it ends, parks or fails, or for v units if v is not 0; of the
writes set going, those that `lines` numbers stay for a later event. Without a copy a, the Dray of shop v accepts what its q0 views
hold (R298). -/
def execDrayChunkDone (s : State) : Host.Outcome State Fault Refusal :=
  let id := s.ev.a
  match look s.copies id with
  | none => .next (drayAccept 128 s s.ev.v.toNat)
  | some c =>
    if !(copyMay s id c) then .next s
    else
      let s0 := copyStart s id c
      let units := if s.ev.v = 0 then chunkEnd s0 c - c.next else s.ev.v.toNat
      let s1 := visitChunk units s0 id
      let fs := match look s1.copies id with | some x => x.flying | none => []
      .next (closeChunk (landFlights (fun i => s.ev.lines.contains i) id 0 s1 [] fs) id)

/-! ### Completion (R294, R295, R300, R301) -/

/-- The completion of a Steward COPY packet (R149): the packet is complete, or its address fault is posted (R150). -/
def finishPacket (s : State) (id : Nat) (c : Copy) : State :=
  let s1 := { s with copies := del s.copies id }
  match c.packet with
  | none => s1
  | some (q, pindex) =>
    let Q := queueOf s1 q
    match look Q.packets pindex with
    | none => s1
    | some p =>
      if c.status = 0 then
        modQueue s1 q (fun Q => { Q with packets := del Q.packets pindex, done := joinView Q.done c.after })
      else
        stallOn (modQueue s1 q (fun Q => { Q with packets := edit Q.packets pindex (fun p => { p with unit := none }) })) q
          { reason := 0x0008, tag := p.tag, pindex := pindex, lotid := 0, basket := 0, detail := bytesOf 8 c.faddr.toNat,
            xflags := 0, respond := true } 0 0

/-- The weave records a failed copy (R301): the first since DRAYSTAT was last written gives STATUS and FADDR. -/
def noteFailed (wv : Weave) (c : Copy) : Weave :=
  if c.status = 0 then wv
  else
    let n := min (wv.drayCount + 1) 65535
    if wv.drayNoted then { wv with drayCount := n }
    else { wv with drayStatus := c.status, drayFaddr := c.faddr, drayCount := n, drayNoted := true }

/-- Bytes of a copy written to each destination (R295 DONE). -/
def copyBytes (c : Copy) : Nat := c.next * dSize c.desc

/-- The completion events of a copy in its destination baskets (R294): the rest of the byte count, the arrival or the fill. -/
def copyLand (s : State) (c : Copy) (msg : Msg) : State :=
  let value := BitVec.ofNat 32 (c.status * 2 ^ 24 + dWord c.desc 6 % 2 ^ 24)
  let all := c.total * dSize c.desc
  c.dests.foldl (fun s b =>
    let s' := if dBytes c.desc && decide (c.landed < all) then
        engineLanding s b (dWord c.desc 5) ((all - c.landed) % 2 ^ 32) (some msg)
      else s
    cwordEvents s' c.events b value msg) s

/-- The q1 entry of a copy (R295). -/
def copyResult (s : State) (c : Copy) : List Word :=
  let mask := if dWord c.desc 7 = 0 then 0 else
    c.dests.foldl (fun m b => match look s.baskets b with | some B => m + 2 ^ B.bid | none => m) 0
  [dWord c.desc 6, c.status + mask * 2 ^ 8, c.faddr.toNat % 2 ^ 32, c.faddr.toNat / 2 ^ 32,
    copyBytes c % 2 ^ 32, copyBytes c / 2 ^ 32].map (BitVec.ofNat 32)

/-- Every write of a copy has been performed. -/
def Copy.allDone (c : Copy) : Bool :=
  decide (c.left = [] ∧ c.flying = []) && (c.ended || decide (c.next = c.total ∧ c.start = c.next))

/-- DRAY_COPY_COMPLETE of copy a (R294): in each destination basket the rest of the byte count, the arrival or the fill; then
the q1 entry, the continuation and the flag together. -/
def execDrayCopyComplete (s : State) : Host.Outcome State Fault Refusal :=
  let id := s.ev.a
  match look s.copies id with
  | none => .next s
  | some c =>
    if !c.allDone then .next s
    else
      match c.w with
      | none => .next (drayAccept 128 (finishPacket s id c) c.shop)
      | some w =>
        match weaveOf s w with
        | none => .next s
        | some wv =>
          if copyHere s c && resultRoom s w wv 1 c.events.cmask then
            match copyCommit s id c with
            | .wait s1 => .next s1
            | .ok s1 =>
              match look s1.copies id with
              | none => .next s1
              | some c1 =>
                let msg := copyMsg s1 c1
                let s2 := copyLand s1 c1 msg
                let s3 := modWeave { s2 with copies := del s2.copies id } w (fun wv => noteFailed wv c1)
                .next (drayAccept 128 (finishCommand s3 c1.events 1 (copyResult s2 c1) msg) wv.shop)
          else .next s

end Sys2Proof.Machine
end

