-- ==== Sys2Proof/Machine/Gleaner.lean ====
section
/-!
DEFINITION. The Gleaner (spec/18_gleaner.md R362 to R376, spec/19_gleaner_select.md R377 to R386): GATHER, SCATTER, GCOMPACT,
GSTATUS, GREPLAY, GSELECT, and the events GLEANER_ACCEPT, GLEANER_STRAND_SETTLE and GSELECT_COMPLETE.
-/

namespace Sys2Proof.Machine

open Sys2Proof

/-! ### Slots and codes (R362, R368) -/

/-- A slot of a weave. -/
def gslot (wv : Weave) (n : Nat) : GSlot := (look wv.gslots n).getD {}

/-- Change a slot of a weave. -/
def modGslot (s : State) (w n : Nat) (f : GSlot → GSlot) : State :=
  modWeave s w (fun wv => { wv with gslots := put wv.gslots n (f (gslot wv n)) })

/-- A strand code (R368). -/
def strandCode (tag slot detail code : Nat) : Word := BitVec.ofNat 32 (tag * 2 ^ 16 + slot * 2 ^ 13 + detail * 2 ^ 4 + code)

/-- CODE of a strand in a slot. -/
def codeOf (g : GSlot) (k : Nat) : Nat := (cell g.code k).toNat % 16

/-- Strands of a slot whose CODE lies in a range. -/
def codeMask (g : GSlot) (lo hi : Nat) : Mask := maskOf (allStrands.filter (fun k => decide (lo ≤ codeOf g k ∧ codeOf g k ≤ hi)))

/-- Bytes nb of a slot's element (R364). -/
def gBytes (g : GSlot) : Nat := 2 ^ g.size

/-! ### The commands (R363 to R366) -/

/-- A CTL field of R365. -/
def gCtl (ctl : Word) (lo n : Nat) : Nat := ctl.toNat / 2 ^ lo % 2 ^ n

/-- What distinguishes GATHER, SCATTER and GCOMPACT: its kind, and the DLENs it may have. -/
structure GatherRow where
  kind : Nat
  dlen : List Nat
  deriving DecidableEq, Repr

/-- DLEN of SCATTER and GCOMPACT for a SIZE (R363). -/
def scatterDlen (size : Nat) : Nat := if size ≤ 2 then 4 else if size = 3 then 5 else 7

/-- The checks of R366 on a command's descriptor: the trap they give. Log 46 (DEDUCED). -/
def gatherTrap (c : Ctx) (f : ENG) (r : GatherRow) (ctl : Word) (cword : Nat) : Option Trap :=
  let size := gCtl ctl 6 3
  let d := f.dst.toNat
  let nr := sizeWords size
  if 4 < size then some (illegal c 8)
  else if r.kind = 0 ∧ d < 384 ∧ d % nr ≠ 0 then some (illegal c 4)
  else if r.kind = 0 ∧ d < 384 ∧ c.wv.hdr.vregs < d + nr then some (illegal c 5)
  else if (r.kind ≠ 0 ∧ f.dlen.toNat ≠ scatterDlen size) ∨ gCtl ctl 0 6 ≠ 0 ∨ (gCtl ctl 9 1 = 1 ∧ (r.kind ≠ 0 ∨ 1 < size)) ∨
      (gCtl ctl 11 2 ≠ 0 ∧ gCtl ctl 10 1 = 1) ∨ cwordOk cword f.cmask.toNat false = false then some (illegal c 8)
  else if c.wv.hdr.spad < cword + cwordBytes f.cmask.toNat false ∧ cwordBytes f.cmask.toNat false ≠ 0 then
    some { cls := 3, cause := 1, lanes := c.sp.mask, addr := max cword c.wv.hdr.spad, info := 3 }
  else none

/-- GATHER, SCATTER and GCOMPACT (R363): per strand; a command of no strand pushes nothing. Log 46 (DEDUCED). -/
def gatherPush (f : ENG) (r : GatherRow) (s : State) : Host.Outcome State Fault Refusal :=
  let dst : Opnd := if r.kind = 0 then { reg := f.dst.toNat, dst := true, cls := 33, cause := 8, eng := true } else engUnused f.dst
  issueRow s f.pn f.pred (engForm f dst (descOpnd f 1) r.dlen (decide (f.desc.toNat % 4 = 0))) (fun s c =>
    onFirst s c (fun _ =>
      if c.q = 0 then .done s
      else
        let ctl := descWord s c f c.low 2
        let cword := (descWord s c f c.low 3).toNat
        let regs := c.strands.foldl (fun m k =>
          (List.range (f.dlen.toNat + 1)).foldl (fun (m : Cells 32) j => setCell m (32 * j + k) (descWord s c f k j)) m) []
        let d := f.dst.toNat
        let dests := if d < 384 then dstKeys d (sizeWords (gCtl ctl 6 3)) c.q else []
        pushEng s c f 2 dests (fun s => s) (match gatherTrap c f r ctl cword with
          | some t => .inr (.trap t)
          | none => .inl { words := [ctl, BitVec.ofNat 32 cword], q := c.q, dst := if d < 384 then some d else none, regs := regs })))

/-- GATHER (R363, R367). -/
def execGather (f : ENG) (s : State) : Host.Outcome State Fault Refusal := gatherPush f { kind := 0, dlen := [3] } s

/-- SCATTER (R363, R367). -/
def execScatter (f : ENG) (s : State) : Host.Outcome State Fault Refusal := gatherPush f { kind := 1, dlen := [4, 5, 7] } s

/-- GCOMPACT (R363, R367). -/
def execGcompact (f : ENG) (s : State) : Host.Outcome State Fault Refusal := gatherPush f { kind := 2, dlen := [4, 5, 7] } s

/-- The slot that an entry of q2 names. -/
def entrySlot (e : Entry) : Nat :=
  if e.opc = 0xDA then dWord e.words 0 % 8 else gCtl (e.words.getD 0 0) 13 3

/-- The register and SIZE that the last command accepted or pushed on a slot names: those of a GREPLAY pushed after it (R374). -/
def replayDst (wv : Weave) (n : Nat) : Option Nat × Nat :=
  match ((viewEntries wv 2).filter (fun e => decide (0xD6 ≤ e.opc ∧ e.opc ≤ 0xD8 ∧ entrySlot e = n))).getLast? with
  | some e => (e.dst, gCtl (e.words.getD 0 0) 6 3)
  | none => ((gslot wv n).dst, (gslot wv n).size)

/-- The words that a GREPLAY of a slot may write (R168, R374). -/
def replayDests (wv : Weave) (n mask : Nat) : List Nat :=
  match replayDst wv n with
  | (some d, size) => dstKeys d (sizeWords size) (BitVec.ofNat 32 mask)
  | (none, _) => []

/-- GREPLAY (R363, R374): acts once for the weave. -/
def execGreplay (f : ENG) (s : State) : Host.Outcome State Fault Refusal :=
  issueRow s f.pn f.pred (engForm f (engUnused f.dst) (descOpnd f 3) [2] true) (fun s c =>
    onFirst s c (fun _ =>
      if c.once then
        let d := (List.range 3).map (descWord s c f c.low)
        let cw := dWord d 2
        let n := cwordBytes f.cmask.toNat false
        pushEng s c f 2 (replayDests c.wv (dWord d 0 % 8) (dWord d 1)) (fun s => s)
          (if dWord d 0 / 8 % 2 ^ 13 ≠ 0 ∨ cwordOk cw f.cmask.toNat false = false then .inr (badDesc c)
           else if c.wv.hdr.spad < cw + n ∧ n ≠ 0 then .inr (badBounds c (max cw c.wv.hdr.spad) 3)
           else .inl { words := d, q := c.q })
      else .done s))

/-! ### GSTATUS (R373) -/

/-- Strands of a slot, of those that `told` names, are observed DONE by the strands m (R372, R168): their words are in the registers from now
on. -/
def observeStrands (s : State) (w n : Nat) (told m : Mask) : State :=
  match weaveOf s w with
  | none => s
  | some wv =>
    let g := gslot wv n
    let done := told &&& codeMask g 1 1
    if done = 0 then s
    else
      let s1 := modWeave s w (fun wv => learn wv m (fun y =>
        { y with view := joinView y.view g.after, seen := (y.seen ++ g.seen).eraseDups }))
      match look s1.ops g.op with
      | none => s1
      | some o =>
        let mine (k : Nat) : Bool := decide (k < 20000) && done.getLsbD (k % 32)
        let ws := (boundWords s1 g.op o).filter (fun p => mine p.1)
        modWeave { s1 with ops := put s1.ops g.op { o with
            bound := o.bound.map (fun b => b.filter (fun p => !(mine p.1))), dests := o.dests.filter (fun k => !(mine k)) } } w
          (fun wv => putWords wv ws)

/-- What GSTATUS reads from a slot (R373) in a strand. -/
def gstatusValue (g : GSlot) (sel k : Nat) : Nat :=
  match sel with
  | 0 => (cell g.code k).toNat
  | 1 => (codeMask g 1 1).toNat
  | 2 => (codeMask g 3 6).toNat
  | 3 => (codeMask g 2 2).toNat
  | _ => if g.state = 0 then 0
    else g.tag * 2 ^ 16 + g.state * 2 ^ 8 + g.kind * 2 ^ 6 + (strandsOf (codeMask g 1 1)).length

/-- GSTATUS (R373): a slot as it stands at issue. -/
def execGstatus (f : RRR) (s : State) : Host.Outcome State Fault Refusal :=
  let sel := modOPX f.mod / 8
  let n := modOPX f.mod % 8
  issueRow s f.pn f.pred
    { ops := [dstIn (if sel = 0 then 33 else 35) f.dst, unused f.sa, unused f.sb, unused f.sc],
      modOk := decide (modRM f.mod = 0) && !(modSAT f.mod) && decide (modTYPE f.mod = 0) && decide (sel ≤ 4) } (fun s c =>
    if sel = 0 || c.once then
      let g := gslot c.wv n
      let s1 := writeDst s c f.dst.toNat 1 (gstatusValue g sel)
      .done (if sel = 0 then observeStrands s1 c.w n c.q c.q else if sel = 1 then observeStrands s1 c.w n 0xFFFFFFFF c.sp.mask else s1)
    else .done s)

/-! ### Acceptance (R362, R367, R374) -/

/-- Accepted commands of a shop's Gleaner (R362, R377). -/
def gleanerCount (s : State) (shop : Nat) : Nat :=
  (s.weaves.foldl (fun a p => if p.2.shop = shop ∧ engineOn s p.2 then
      a + (p.2.gslots.filter (fun x => decide (x.2.state = 1))).length else a) 0) +
    (s.selects.filter (fun p => decide (p.2.shop = shop) &&
      (match weaveOf s p.2.w with | some v => engineOn s v | none => false))).length

/-- The address field of a strand in an entry. -/
def entryAddr (e : Entry) (k : Nat) : Nat := (cell e.regs k).toNat + 2 ^ 32 * (cell e.regs (32 + k)).toNat

/-- The effective address of strand k of a new command (R367). -/
def entryEA (e : Entry) (kind nb space k : Nat) : Nat :=
  if kind = 2 then
    let u := (lowestStrand e.q).getD 0
    let rank := ((strandsOf e.q).filter (fun j => decide (j < k))).length
    if space = 0 then (entryAddr e u + nb * rank) % 2 ^ 64 else entryAddr e u + nb * rank
  else entryAddr e k

/-- The slot after the acceptance of a new command (R367). Log 46 (DEDUCED). -/
def acceptGather (g : GSlot) (e : Entry) : GSlot :=
  let ctl := e.words.getD 0 0
  let size := gCtl ctl 6 3
  let kind := e.opc - 0xD6
  let space := gCtl ctl 10 1
  let ks := strandsOf e.q
  let words := if size = 3 then 2 else if size = 4 then 4 else 1
  let dat (k : Nat) : List Byte :=
    (List.range words).flatMap (fun j => bytesOf 4 (cell e.regs (32 * (4 + j) + k)).toNat)
  { state := 1, kind := kind, tag := gCtl ctl 16 16, dst := e.dst, size := size, sx := decide (gCtl ctl 9 1 = 1), space := space,
    cop := gCtl ctl 11 2, cword := dWord e.words 1, ea := ks.map (fun k => (k, entryEA e kind (2 ^ size) space k)),
    data := if kind = 0 then [] else ks.map (fun k => (k, (dat k).take (2 ^ size))),
    code := ks.map (fun k => (k, strandCode (gCtl ctl 16 16) (gCtl ctl 13 3) 0 2)), op := e.op, cmask := e.cmask, scope := e.scope,
    view := joinView e.view g.after, rel := e.rel }

/-- The slot after the acceptance of a GREPLAY (R374). -/
def acceptReplay (g : GSlot) (n : Nat) (e : Entry) : GSlot :=
  let tag := dWord e.words 0 / 2 ^ 16
  let S := codeMask g 3 6 &&& e.words.getD 1 0
  { g with state := 1, tag := tag, cword := dWord e.words 2, op := e.op, cmask := e.cmask, scope := e.scope,
           view := joinView e.view g.after, rel := e.rel, began := false, seen := [], posted := [], parked := 0, places := [],
           code := (strandsOf S).foldl (fun m k => setCell m k (strandCode tag n 0 2)) g.code }

/-- The completion events of a command (R370), when no strand is PENDING and q3 has room; in a VERSIONED lot the open version is
committed first (R66). The slot is SETTLED with the last of them, which wait for an arrival or fill that is held. -/
def gleanerFinish (s : State) (w n : Nat) : State :=
  match weaveOf s w with
  | none => s
  | some wv =>
    let g := gslot wv n
    if g.state ≠ 1 ∨ codeMask g 2 2 ≠ 0 ∨ resultRoom s w wv 3 g.cmask = false ∨ (look s.ops g.op).any (fun o => o.fin.isSome) then s
    else
      match (if versioned s wv then commitFor s g.op wv false else .ok s) with
      | .wait s1 => s1
      | .ok s1 =>
        match weaveOf s1 w with
        | none => s1
        | some wv1 =>
          let msg := relMsg (agentOf wv1) g.scope (joinView (joinView g.view g.after) (if versioned s wv then commitSeen s s1 wv else []))
          let ev : Events := { op := g.op, w := w, cmask := g.cmask, scope := g.scope, cword := g.cword }
          let nf := (strandsOf (codeMask g 3 6)).length
          let nd := (strandsOf (codeMask g 1 1)).length
          let s2 := cwordEvents s1 ev wv1.ids.basket (BitVec.ofNat 32 (g.tag * 2 ^ 16 + nf * 2 ^ 8 + nd)) msg
          let s3 := match look s2.ops g.op with
            | some o => modWeave s2 w (fun wv => learn wv o.mask (fun y => { y with seen := (y.seen ++ g.seen).eraseDups }))
            | none => modGslot s2 w n (fun g => { g with state := 2 })
          finishCommand s3 ev 3 (allStrands.map (cell g.code)) msg

/-- The selection that a GSELECT entry asks for. -/
def selectOf (w : Nat) (wv : Weave) (e : Entry) : Select :=
  let d := e.words.take 8
  { w := w, shop := wv.shop, desc := d, view := e.view,
    events := { op := e.op, w := w, cmask := e.cmask, scope := e.scope, cword := dWord d 7 } }

/-- GLEANER_ACCEPT of the head of weave a's q2 view (R362, R374, R377): its slot must not be BUSY, and the shop holds fewer than 64
commands. -/
def execGleanerAccept (s : State) : Host.Outcome State Fault Refusal :=
  let w := s.ev.a
  match weaveOf s w with
  | none => .next s
  | some wv =>
    match viewEntries wv 2 with
    | [] => .next s
    | e :: _ =>
      if !(engineOn s wv) then .next s
      else if e.opc = 0 then .next (completeOp (dropHead s w 2) e.op false)
      else if 64 ≤ gleanerCount s wv.shop then .next s
      else if e.opc = 0xDB then
        let s1 := dropHead s w 2
        .next { s1 with selects := put s1.selects (freshKey s1.selects) (selectOf w wv e) }
      else
        let n := entrySlot e
        let g := gslot wv n
        if g.state = 1 then .next s
        else
          let s1 := modGslot (dropHead s w 2) w n (fun g => if e.opc = 0xDA then acceptReplay g n e else acceptGather g e)
          .next (gleanerFinish s1 w n)

/-! ### Strands (R367) -/

/-- How one strand's access stands. -/
inductive StrandTry where
  | code (code detail : Nat)
  | lost (slot kind : Nat) (table : Bool)
  | park (places : Parked)
  | go (pas slots : List Nat)
  | goSpad (off : Nat)
  deriving DecidableEq, Repr

/-- The checks of a strand (R367), the first failure first. -/
def strandTry (s : State) (wv : Weave) (g : GSlot) (k : Nat) : StrandTry :=
  let ea := (look g.ea k).getD 0
  let nb := gBytes g
  if g.space = 1 then
    if ea % nb ≠ 0 then .code 3 0
    else if wv.hdr.spad < ea + nb then .code 5 0
    else .goSpad ea
  else if 2 ^ 57 ≤ ea then .code 4 2
  else if ea % nb ≠ 0 then .code 3 0
  else
    match reach s wv.ids.tenancy (if g.kind = 0 then .read else .write) ea nb k
      (if g.parked.getLsbD k then (look g.places k).getD [] else []) with
    | .trap _ cause => .code 4 (if g.kind ≠ 0 ∧ loftWin ≤ ea then 2 else cause)
    | .lost sl kd tb => .lost sl kd tb
    | .park _ ps => .park ps
    | .ok pas slots _ => .go pas slots

/-- Set a strand's code. -/
def setCode (s : State) (w n k detail code : Nat) : State :=
  modGslot s w n (fun g => { g with code := setCell g.code k (strandCode g.tag n detail code) })

/-- A lower PENDING strand of a writing command touches a byte of this one: the higher strand writes last (R372, R55). -/
def lowerFirst (s : State) (wv : Weave) (g : GSlot) (k : Nat) (pas : List Nat) : Bool :=
  decide (g.kind ≠ 0) && (strandsOf (codeMask g 2 2)).any (fun j => decide (j < k) &&
    (match strandTry s wv g j with
     | .go p _ => shares p pas
     | .goSpad o => shares (spPas wv.ids.basket o (gBytes g)) pas
     | .park _ => decide (look g.ea j = look g.ea k)
     | _ => false))

/-- The words that a GATHER gives strand k. -/
def gatherWords (g : GSlot) (k : Nat) (bs : List Byte) : Tab Word :=
  match g.dst with
  | none => []
  | some d => dstWords d (sizeWords g.size) (maskOf [k]) (fun _ => extend g.size g.sx (natOfBytes bs))

/-- Words of the command's op from now on (R168). -/
def bindWords (s : State) (op : Nat) (ws : Tab Word) : State :=
  { s with ops := edit s.ops op (fun o => { o with bound := some (ws.foldl (fun t p => put t p.1 p.2) ((o.bound).getD [])) }) }

/-- A strand is DONE (R367, R443). -/
def strandDone (s : State) (w n k : Nat) (ws : Tab Word) : State :=
  match weaveOf s w with
  | none => s
  | some wv => setCode (countW (bindWords s (gslot wv n).op ws) wv 28 1) w n k 0 1

/-- A strand of a GATHER reads bytes (R367). -/
def readStrand (s : State) (w n k : Nat) (wv : Weave) (g : GSlot) (pas : List Nat) : State :=
  let r := readMem s g.view (versionOf s wv) true (g.op % 1024 * 4096 + 64 * k) pas
  let s1 := modGslot s w n (fun g => { g with after := joinView g.after r.view, seen := (g.seen ++ r.msgs).eraseDups })
  strandDone s1 w n k (gatherWords g k r.data)

/-- Perform a strand's access to the scratchpad. -/
def spadStrand (s : State) (w n k off : Nat) (wv : Weave) (g : GSlot) : State :=
  let b := wv.ids.basket
  if g.kind = 0 then readStrand s w n k wv g (spPas b off (gBytes g))
  else
    let bs := (look g.data k).getD []
    let s1 := spStore s b off bs g.rel
    strandDone (modGslot s1 w n (fun g => { g with after := wroteAccess g.after s.stamp (spPas b off bs.length) })) w n k []

/-- Perform a strand's access to device memory. -/
def memStrand (s : State) (w n k : Nat) (wv : Weave) (g : GSlot) (pas slots : List Nat) : State :=
  if g.kind = 0 then
    if pas.any (poisoned s wv.ids.tenancy) then taskTrap s wv.ids.basket 1 0 ((look g.ea k).getD 0) 0
    else readStrand s w n k wv g pas
  else
    let bs := (look g.data k).getD []
    if versioned s wv then
      match joinVersion s g.op wv { pa := pas.headD 0, slot := slots.headD 0, data := bs, msgs := g.rel } with
      | .wait s1 => s1
      | .ok s1 =>
        strandDone (modGslot s1 w n (fun g => { g with after := wroteVersion g.after wv.ids.basket (s1.stamp - 1) pas })) w n k []
    else
      let s1 := lotWrite s wv.ids.lot pas bs g.rel
      strandDone (modGslot s1 w n (fun g => { g with after := wroteAccess g.after s.stamp pas })) w n k []

/-- Strands whose access is unresolved under one lease slot fail together: one record (R318, R320), and the task trap of a
VERSIONED lot whose version holds writes (R369). Log 54 (DEDUCED). -/
def loseStrands (s : State) (w n sl kind : Nat) (tb : Bool) (wv : Weave) (g : GSlot) : State :=
  let ks := (strandsOf (codeMask g 2 2)).filter (fun j => decide (strandTry s wv g j = .lost sl kind tb))
  let va := (look g.ea (ks.headD 0)).getD 0
  let s1 := ks.foldl (fun s k => setCode s w n k kind 6) s
  let acc := if tb then 4 else if g.kind = 0 then 0 else 1
  let s2 := if g.posted.contains sl then s1
    else modGslot (postFault s1 wv.ids.tenancy
      (weaveFault s wv kind acc 3 sl va (if tb then 0 else leafPA s wv.ids.tenancy va) (maskOf ks))) w n
      (fun g => { g with posted := sl :: g.posted })
  if versioned s wv && !(versionOf s wv).isEmpty then taskTrap s2 wv.ids.basket 3 sl va kind else s2

/-- Before its first strand a command takes over what it follows (R68, R372). Log 46 (DEDUCED). -/
def gleanerStart (s : State) (w n : Nat) (g : GSlot) : State :=
  if g.began then s
  else
    match look s.ops g.op with
    | some o => modGslot s w n (fun g => { g with began := true, view := joinView g.view (opView s o) })
    | none => s

/-- GLEANER_STRAND_SETTLE of strand c of slot b of weave a (R367): the access of a PENDING strand comes about or fails; the command
completes when no strand is PENDING (R370). -/
def execGleanerStrandSettle (s : State) : Host.Outcome State Fault Refusal :=
  let w := s.ev.a
  let n := s.ev.b
  let k := s.ev.c
  match weaveOf s w with
  | none => .next s
  | some wv =>
    let g0 := gslot wv n
    if g0.state ≠ 1 || !(engineOn s wv) then .next s
    else if codeOf g0 k ≠ 2 ∨ (match look s.ops g0.op with | some o => engineMay s g0.op o | none => false) = false then
      .next (gleanerFinish s w n)
    else
      let s0 := gleanerStart s w n g0
      let wv1 := (weaveOf s0 w).getD wv
      let g := gslot wv1 n
      let s1 := match strandTry s0 wv1 g k with
        | .code code detail => setCode s0 w n k detail code
        | .park ps => modGslot s0 w n (fun g => { g with parked := g.parked ||| strandBit k, places := put g.places k ps })
        | .lost sl kind tb => loseStrands s0 w n sl kind tb wv1 g
        | .goSpad off => if lowerFirst s0 wv1 g k (spPas wv1.ids.basket off (gBytes g)) then s0 else spadStrand s0 w n k off wv1 g
        | .go pas slots =>
          if lowerFirst s0 wv1 g k pas then s0 else memStrand (askLines s0 wv1.ids.tenancy pas) w n k wv1 g pas slots
      .next (gleanerFinish s1 w n)

/-! ### GSELECT (R377 to R386) -/

/-- A field of GSELECT's CTL (R379). -/
def selCtl (d : List Word) (lo n : Nat) : Nat := dWord d 6 / 2 ^ lo % 2 ^ n

/-- Bytes of an output entry. -/
def selBytes (d : List Word) : Nat := if selCtl d 3 1 = 1 then 8 else 4

/-- The checks of R380 on a descriptor. -/
def selOk (d : List Word) (cmask : Nat) : Bool :=
  decide (selCtl d 8 8 = 0 ∧ selCtl d 0 1 = 0 ∧ selCtl d 4 2 ≠ 3) &&
  decide (1 ≤ dWord d 4 ∧ dWord d 4 ≤ 2 ^ 20 ∧ 1 ≤ dWord d 5 ∧ dWord d 5 ≤ min (dWord d 4) 1024) &&
  decide (dWord2 d 0 % 4 = 0 ∧ dWord2 d 2 % selBytes d = 0) &&
  (if selCtl d 2 1 = 1 then decide (dWord d 1 = 0) else decide (dWord2 d 0 < 2 ^ 57)) &&
  (if selCtl d 1 1 = 1 then decide (dWord d 3 = 0) else decide (dWord2 d 2 < 2 ^ 57)) &&
  cwordOk (dWord d 7) cmask false

/-- The lowest offset of GSELECT beyond SPAD (R380). -/
def selBeyond (d : List Word) (spad cmask : Nat) : Option Nat :=
  let range (on : Bool) (o n : Nat) : Option Nat := if on ∧ n ≠ 0 ∧ spad < o + n then some (max o spad) else none
  minOff (range (decide (selCtl d 2 1 = 1)) (dWord d 0) (4 * dWord d 4))
    (minOff (range (decide (selCtl d 1 1 = 1)) (dWord d 2) (selBytes d * dWord d 5))
      (range true (dWord d 7) (cwordBytes cmask false)))

/-- GSELECT (R377): acts once for the weave. -/
def execGselect (f : ENG) (s : State) : Host.Outcome State Fault Refusal :=
  issueRow s f.pn f.pred (engForm f (engUnused f.dst) (descOpnd f 3) [7] true) (fun s c =>
    onFirst s c (fun _ =>
      if c.once then
        let d := (List.range 8).map (descWord s c f c.low)
        pushEng s c f 2 [] (fun s => s)
          (if selOk d f.cmask.toNat = false then .inr (badDesc c)
           else
             match selBeyond d c.wv.hdr.spad f.cmask.toNat with
             | some o => .inr (badBounds c o 4)
             | none => .inl { words := d, q := c.q })
      else .done s))

/-- The class and value of a key (R381): an integer that rises with the value; −0 equals +0. -/
def keyRank (ktype : Nat) (x : Nat) : Nat × Int :=
  match ktype with
  | 0 =>
    if 0x7F800000 < x % 2 ^ 31 then (1, 0) else (0, if x.testBit 31 then -((x % 2 ^ 31 : Nat) : Int) else ((x % 2 ^ 31 : Nat) : Int))
  | 1 => (0, (BitVec.ofNat 32 x).toInt)
  | _ => (0, x)

/-- Key a ranks ahead of key b (R381). -/
def keyBefore (min : Bool) (a b : Nat × (Nat × Int)) : Bool :=
  if a.2.1 ≠ b.2.1 then decide (a.2.1 < b.2.1)
  else if a.2.1 = 0 ∧ a.2.2 ≠ b.2.2 then (if min then decide (a.2.2 < b.2.2) else decide (b.2.2 < a.2.2))
  else decide (a.1 < b.1)

/-- Insert into a list in an order. -/
def insertBy {α : Type} (lt : α → α → Bool) (x : α) : List α → List α
  | [] => [x]
  | y :: ys => if lt x y then x :: y :: ys else y :: insertBy lt x ys

/-- Keep the first k of a list in an order. -/
def firstBy {α : Type} (lt : α → α → Bool) (k : Nat) (xs : List α) : List α :=
  xs.foldl (fun acc x => (insertBy lt x acc).take k) []

/-- What GSELECT selects from the keys (R381): the indices in output order, the key of rank K − 1, and its ties. -/
def selectKeys (ktype k : Nat) (min idxord : Bool) (keys : List Nat) : List Nat × Nat × Nat :=
  let items := (List.range keys.length).zip (keys.map (keyRank ktype))
  let sel := firstBy (keyBefore min) k items
  let kth := sel.getLast?.getD (0, (0, 0))
  let out := if idxord then firstBy (fun (a b : Nat × (Nat × Int)) => decide (a.1 < b.1)) k sel else sel
  let ties := (items.filter (fun x => decide (x.2 = kth.2))).length - (sel.filter (fun x => decide (x.2 = kth.2))).length
  (out.map (fun x => x.1), keys.getD kth.1 0, ties)

/-- How the whole of a GSELECT's accesses stand. -/
inductive SelTry (α : Type) where
  | ok (a : α) | park (why : Stall) (places : Parked) | bad (b : CopyBad)
  deriving DecidableEq, Repr

/-- An access of a GSELECT (R382, R383). -/
def selAccess (s : State) (x : Select) (wv : Weave) (kind : Kind) (va n salt : Nat) : SelTry (List Nat × List Nat) :=
  let bad (status sl k : Nat) (tb : Bool) : SelTry (List Nat × List Nat) :=
    .bad { status := status, va := va, slot := sl, kind := k, table := tb, write := decide (kind = .write) }
  match reach s wv.ids.tenancy kind va n salt ((x.parked.map (fun p => p.2)).getD []) with
  | .ok pas slots _ => .ok (pas, slots)
  | .park why places => .park why places
  | .trap _ _ => bad 1 0 0 false
  | .lost sl k tb => bad 3 sl k tb

/-- The key reads of a GSELECT (R381 to R383): all of them, or the failure at the lowest address. Log 46 (DEDUCED). -/
def selKeys (s : State) (x : Select) (wv : Weave) : SelTry (List (List Nat × List Nat)) :=
  (List.range (dWord x.desc 4)).foldl (fun (a : SelTry (List (List Nat × List Nat))) i =>
    let va := (dWord2 x.desc 0 + 4 * i) % 2 ^ 64
    match a with
    | .park y z => .park y z
    | .bad b => .bad b
    | .ok xs =>
      if selCtl x.desc 2 1 = 1 then .ok (xs ++ [(spPas wv.ids.basket va 4, [])])
      else
        match selAccess s x wv .read va 4 (i % 32) with
        | .ok p => .ok (xs ++ [p])
        | .park y z => .park y z
        | .bad b => .bad b) (.ok [])

/-- The end of a GSELECT (R384). -/
def selFinish (s : State) (id : Nat) (x : Select) (wv : Weave) (status faddr count kth ties : Nat) (view : View) : State :=
  match (if versioned s wv then commitFor s x.events.op wv false else .ok s) with
  | .wait s1 => s1
  | .ok s1 =>
    if (look s1.selects id).isNone then s1
    else
      let msg := relMsg (agentOf wv) x.events.scope (joinView view (if versioned s wv then commitSeen s s1 wv else []))
      let tag := dWord x.desc 6 / 2 ^ 16
      let s2 := cwordEvents { s1 with selects := del s1.selects id } x.events wv.ids.basket
        (BitVec.ofNat 32 (tag * 2 ^ 16 + status)) msg
      finishCommand s2 x.events 3 ([tag * 2 ^ 16 + 0xF, status, faddr % 2 ^ 32, faddr / 2 ^ 32, count, kth, ties].map
        (BitVec.ofNat 32)) msg

/-- The record of an unresolved access of GSELECT (R383). -/
def selFault (s : State) (wv : Weave) (b : CopyBad) : State :=
  if b.status = 3 then
    postFault s wv.ids.tenancy (weaveFault s wv b.kind (if b.table then 4 else if b.write then 1 else 0) 3 b.slot b.va
      (if b.table then 0 else leafPA s wv.ids.tenancy b.va) 0)
  else s

/-- A GSELECT fails (R383, R385). -/
def selFail (s : State) (id : Nat) (x : Select) (wv : Weave) (b : CopyBad) (count : Nat) (view : View) : State :=
  let s1 := selFault s wv b
  if b.status = 3 && versioned s wv && !(versionOf s wv).isEmpty then taskTrap s1 wv.ids.basket 3 b.slot b.va b.kind
  else selFinish s1 id x wv b.status b.va count 0 0 view

/-- Write output entries of a GSELECT in order, at most n: until one fails, parks or waits for a version (R383, R385). -/
def selWrites : Nat → State → Nat → Nat → Select → Weave → SelOut → State
  | 0, s, _, id, x, _, o => { s with selects := put s.selects id { x with out := some o } }
  | n + 1, s, w, id, x, wv, o =>
    let keep (s : State) (p : Option (Stall × Parked)) : State :=
      if (look s.selects id).isSome then { s with selects := put s.selects id { x with out := some o, parked := p } } else s
    match o.entries[o.next]? with
    | none => if resultRoom s w wv 3 x.events.cmask then selFinish (keep s none) id x wv 0 0 o.next o.kth o.ties o.view else keep s none
    | some bs =>
      let va := (dWord2 x.desc 2 + selBytes x.desc * o.next) % 2 ^ 64
      if selCtl x.desc 1 1 = 1 then
        selWrites n (spStore s wv.ids.basket va bs []) w id x wv { o with
          next := o.next + 1, view := wroteAccess o.view s.stamp (spPas wv.ids.basket va bs.length) }
      else
        match selAccess s x wv .write va (selBytes x.desc) (o.next % 32) with
        | .park y z => keep s (some (y, z))
        | .bad b => if resultRoom s w wv 3 x.events.cmask then selFail (keep s none) id x wv b o.next o.view else keep s none
        | .ok (pas, slots) =>
          if versioned s wv then
            match joinVersion s x.events.op wv { pa := pas.headD 0, slot := slots.headD 0, data := bs } with
            | .wait s1 => keep s1 (some (.versionQuota, []))
            | .ok s1 =>
              if (look s1.selects id).isNone then s1
              else selWrites n (askLines s1 wv.ids.tenancy pas) w id { x with parked := none } wv { o with next := o.next + 1, view := wroteVersion o.view wv.ids.basket (s1.stamp - 1) pas }
          else
            selWrites n (askLines (lotWrite s wv.ids.lot pas bs []) wv.ids.tenancy pas) w id { x with parked := none } wv { o with next := o.next + 1, view := wroteAccess o.view s.stamp pas }

/-- The keys of a GSELECT as they are read: their values, the view that the reads leave (R381, R382). -/
def selRead (s : State) (wv : Weave) (view : View) (keys : List (List Nat × List Nat)) : List Nat × View :=
  (keys.zip (List.range keys.length)).foldl (fun (a : List Nat × View) k =>
    let r := readMem s view (versionOf s wv) true (4 * k.2) k.1.1
    (a.1 ++ [natOfBytes r.data], joinView a.2 r.view)) ([], view)

/-- GSELECT_COMPLETE of selection a (R381 to R385): the shop's oldest; it waits while a key parks, and otherwise reads every key, writes
its entries, or the next v of them if v is not 0, and completes. One that has begun its output goes on while its gang is collected. -/
def execGselectComplete (s : State) : Host.Outcome State Fault Refusal :=
  let id := s.ev.a
  match look s.selects id with
  | none => .next s
  | some x =>
    match weaveOf s x.w, look s.ops x.events.op with
    | some wv, some o =>
      let here := match basketOf s wv with | some B => B.resident | none => false
      let older := s.selects.any (fun p => decide (p.1 < id ∧ p.2.shop = x.shop) &&
        (match weaveOf s p.2.w with | some v => engineOn s v | none => false))
      let n := if s.ev.v = 0 then dWord x.desc 5 + 1 else s.ev.v.toNat
      match x.out with
      | some out => .next (if here then selWrites n s x.w id x wv out else s)
      | none =>
        if older || !(engineOn s wv) || !(engineMay s x.events.op o) || !(resultRoom s x.w wv 3 x.events.cmask) then .next s
        else
          let d := x.desc
          let view := joinView x.view (opView s o)
          match selKeys s x wv with
          | .park y z => .next { s with selects := put s.selects id { x with parked := some (y, z) } }
          | .bad b => .next (selFail s id x wv b 0 view)
          | .ok keys =>
            if keys.any (fun k => k.1.any (poisoned s wv.ids.tenancy)) then .next (taskTrap s wv.ids.basket 1 0 (dWord2 d 0) 0)
            else
              let rd := selRead s wv view keys
              let res := selectKeys (selCtl d 4 2) (dWord d 5) (decide (selCtl d 6 1 = 1)) (decide (selCtl d 7 1 = 1)) rd.1
              let entries := res.1.map (fun i => bytesOf 4 i ++ (if selBytes d = 8 then bytesOf 4 (rd.1.getD i 0) else []))
              .next (selWrites n (askLines s wv.ids.tenancy (keys.flatMap (fun k => k.1))) x.w id { x with parked := none } wv { entries := entries, kth := res.2.1, ties := res.2.2, view := rd.2 })
    | _, _ => .next s

end Sys2Proof.Machine
end

