-- ==== Sys2Proof/Machine/Courier.lean ====
section
/-!
DEFINITION. The Courier (spec/23_courier.md R420 to R433): collectives, sends and receives, RING.POP, and frames that arrive for
intake rings.
-/

namespace Sys2Proof.Machine

open Sys2Proof

/-! ### The commands (R423, R424) -/

/-- Bits of word 0 of a Courier descriptor. -/
def netF (d : List Word) (lo n : Nat) : Nat := dWord d 0 / 2 ^ lo % 2 ^ n

/-- Bytes of an element of a DTYPE 0 to 7 (R112). -/
def netSize (d : List Word) : Nat := typeBits (netF d 0 4) / 8

/-- The checks of R424 on a descriptor. -/
def netOk (opc : Nat) (d : List Word) (cmask : Nat) : Bool :=
  decide (dWord d 7 = 0) && cwordOk (dWord d 6) cmask false &&
  (if opc = 0xE9 then
    let dt := netF d 0 4
    decide (netF d 12 4 = 0 ∧ netF d 6 2 ≠ 3 ∧ netF d 4 2 ≠ 3 ∧ dt < 8) &&
      (decide (netF d 4 2 = 0) || decide (netF d 6 2 = 0)) && decide (1 ≤ dWord d 5 ∧ dWord d 5 ≤ 2 ^ 28) &&
      !(decide (6 ≤ dt ∧ netF d 4 2 = 0 ∧ dWord d 5 % 2 = 1)) &&
      decide (dWord2 d 1 < 2 ^ 57 ∧ dWord2 d 3 < 2 ^ 57 ∧ dWord2 d 1 % netSize d = 0 ∧ dWord2 d 3 % netSize d = 0)
  else
    decide (netF d 12 4 = 0 ∧ netF d 0 7 = 0 ∧ dWord2 d 1 < 2 ^ 57 ∧ dWord d 3 ≠ 0 ∧ dWord d 4 < 64))

/-- In a VERSIONED lot a push to q6 or of LAUNCH.D first commits as a release at level 3 does (R333): once everything before it has been
performed. Until then it has not issued. Log 35 (DEDUCED). -/
def pushCommit (s : State) (c : Ctx) : State ⊕ Effect :=
  if !(versioned s c.wv) then .inl s
  else if !(issueMay s c .fence 2) then .inr (.stay s (some .memory))
  else
    match commitTry s none c.wv c.w true 1 with
    | .wait s1 => .inr (.stay s1 (some .memory))
    | .ok s1 =>
      let seen := commitSeen s s1 c.wv
      .inl (modWeave s1 c.w (fun wv => learnView wv c.sp.mask seen))

/-- Push a Courier command: its checks, then in a VERSIONED lot the commit (R333), then its entry. Log 35 (DEDUCED). -/
def netPush (f : ENG) (s : State) (c : Ctx) : Effect :=
  onFirst s c (fun _ =>
    if c.once then
      let d := (List.range 8).map (descWord s c f c.low)
      let n := cwordBytes f.cmask.toNat false
      if netOk (c.word.extractLsb' 56 8).toNat d f.cmask.toNat = false then badDesc c
      else if n ≠ 0 ∧ c.wv.hdr.spad < dWord d 6 + n then badBounds c (max (dWord d 6) c.wv.hdr.spad) 7
      else if !(pushRoom s c.wv 6) then .hold s .queueFull .retry
      else
        match pushCommit s c with
        | .inr e => e
        | .inl s1 =>
            match weaveOf s1 c.w with
            | none => .gone s1
            | some wv => pushEng s1 { c with wv := wv } f 6 [] (fun s => s) (.inl { words := d, q := c.q })
    else .done s)

/-- The fields of a Courier command. -/
def netForm (f : ENG) : Form := engForm f (engUnused f.dst) (descOpnd f 3) [7] true

/-- NET.COLL (R423). -/
def execNetColl (f : ENG) (s : State) : Host.Outcome State Fault Refusal := issueRow s f.pn f.pred (netForm f) (netPush f)

/-- NET.SEND (R423). -/
def execNetSend (f : ENG) (s : State) : Host.Outcome State Fault Refusal := issueRow s f.pn f.pred (netForm f) (netPush f)

/-! ### Local buffers (R425 to R428) -/

/-- An EMPTY slot that a local access met: slot, under a table read, virtual address, far address; whether it writes. -/
abbrev NetAbsent := Nat × Bool × Nat × Nat × Bool

/-- How one local access stands: its bytes; a failure; it waits, with the EMPTY slot that it met if it did. -/
inductive NetAt where
  | ok (pas : List Nat) | bad (b : CopyBad) | wait (absent : Option NetAbsent) (why : Stall) (places : Parked)
  deriving DecidableEq, Repr

/-- How the whole of a command's local accesses of one buffer stand: places where there are any, the first failure. -/
inductive NetTry (α : Type) where
  | park (absent : List NetAbsent) (why : Stall) (places : Parked) | ok (got : List (Option α)) (bad : Option CopyBad)
  deriving DecidableEq, Repr

/-- Check a local access of n bytes (R315, R319, R427): a page without the right, an SHRO page and the Loft window are PROTECTION; one that
finds an EMPTY slot waits for the reply to its record, as R320 does not name the Courier. -/
def netReach (s : State) (t op : Nat) (was : Parked) (kind : Kind) (va n salt : Nat) : NetAt :=
  let w := decide (kind = .write)
  let x := checkStrand s t kind (salt % 32) va n
  let failed (sl : Nat) : Bool := (fillFailed s t (some op) 0 0 sl).isSome
  let far (sl k : Nat) (tb : Bool) : NetAt := .bad { status := 3, va := va, slot := sl, kind := k, table := tb, write := w }
  match x.trap, parkedGone was (x.slots ++ (x.empty.map (fun e => e.1)).toList), x.empty, x.lost with
  | some _, _, _, _ => .bad { status := 2, va := va, write := w }
  | none, some (sl, k), _, _ => far sl k false
  | none, none, some (sl, tb, _), _ => if failed sl then far sl 1 tb else .wait (some (sl, tb, va, if tb then 0 else leafPA s t va, w)) .lease []
  | none, none, none, some (sl, _) => far sl 6 true
  | none, none, none, none =>
    if x.busy then .wait none .lease []
    else if x.pas.any (fun p => decide (loftBase ≤ p)) || x.leaf.any (fun l => l.shro) then .bad { status := 2, va := va, write := w }
    else
      match opFare s t op x.pas x.slots with
      | .go => .ok x.pas
      | .park why => .wait none why (placesOf x.pas x.slots)
      | .absent sl => .wait (some (sl, false, va, x.pas.headD 0, w)) .lease (placesOf x.pas x.slots)
      | .dead sl k => far sl k false

/-- Check `count` consecutive elements of n bytes. -/
def netPlaces (s : State) (t op : Nat) (was : Parked) (kind : Kind) (va n count : Nat) : NetTry (List Nat) :=
  (List.range count).foldl (fun (a : NetTry (List Nat)) i =>
    match a, netReach s t op was kind (va + n * i) n (i % 32) with
    | .park xs a ps, .wait y b qs => .park (xs ++ y.toList) (parkFirst a b) (ps ++ qs)
    | .park xs a ps, _ => .park xs a ps
    | .ok _ _, .wait y b qs => .park y.toList b qs
    | .ok xs bad, .ok pas => .ok (xs ++ [some pas]) bad
    | .ok xs bad, .bad b => .ok (xs ++ [none]) (match bad with | some b0 => some b0 | none => some b)) (.ok [] none)

/-- Combine two elements of a DTYPE under a ROP (R425). -/
def netCombine (dt rop a b : Nat) : Nat :=
  let w := typeBits dt
  let signed := decide (dt = 0 ∨ dt = 2)
  match rop, decide (dt < 4) with
  | 0, true => addW w a b
  | 1, true => minW signed w a b
  | 2, true => maxW signed w a b
  | 0, false => (fAdd (fmtD dt) 0 a b).val
  | 1, false => (fMin (fmtD dt) a b).val
  | _, _ => (fMax (fmtD dt) a b).val

/-- The local buffers of a command: the address and bytes read, the address, bytes of an element and elements written (R425,
R426). -/
structure NetShape where
  src    : Nat
  srcLen : Nat
  dst    : Nat
  size   : Nat
  count  : Nat
  deriving DecidableEq, Repr

/-- Ranks of the command's communicator, and this device's rank. -/
def netRanks (s : State) (x : NetCmd) : Nat × Nat :=
  let m := (look (tenOf s x.tenancy).comms x.comm).getD {}
  (m.nranks, m.myrank)

/-- The buffers of a command, given what the network brings. -/
def netShape (s : State) (x : NetCmd) (data : List (List Byte)) : NetShape :=
  let d := x.desc
  let r := (netRanks s x).1
  if x.opc = 0xE9 then
    let es := netSize d
    let n := dWord d 5
    { src := dWord2 d 1, srcLen := if netF d 6 2 = 1 then n else r * n, dst := dWord2 d 3, size := es,
      count := if netF d 6 2 = 0 then n else r * n }
  else if netF d 7 1 = 1 then
    { src := 0, srcLen := 0, dst := dWord2 d 1, size := 1, count := min (dWord d 3) ((data.headD []).length) }
  else { src := dWord2 d 1, srcLen := dWord d 3, dst := 0, size := 1, count := 0 }

/-- The bytes of a list from an offset. -/
def sliceOf (bs : List Byte) (o n : Nat) : List Byte := (bs.drop o).take n

/-- The elements that a command writes, in order; `none` where the data for it is missing. `own` is what SRC held, `data` each
member's block as the network brings it. Log 49 (DEDUCED). -/
def netData (s : State) (x : NetCmd) (own : List (Option (List Byte))) (data : List (List Byte)) : List (Option (List Byte)) :=
  let d := x.desc
  let (ranks, me) := netRanks s x
  let n := dWord d 5
  let es := netSize d
  let elem (q i : Nat) : Option (List Byte) :=
    if q = me then own.getD (if netF d 6 2 = 1 then i else me * n + i) none
    else
      let bs := sliceOf (data.getD q []) (es * i) es
      if bs.length = es then some bs else none
  if x.opc = 0xE9 then
    if netF d 6 2 = 0 then
      (List.range n).map (fun i =>
        let parts := (List.range ranks).map (fun q => elem q i)
        if parts.any Option.isNone then none
        else
          match parts.filterMap (fun p => p) with
          | [] => none
          | p :: ps => some (bytesOf es (ps.foldl (fun a b => netCombine (netF d 0 4) (netF d 4 2) a (natOfBytes b)) (natOfBytes p))))
    else (List.range ranks).flatMap (fun q => (List.range n).map (elem q))
  else if netF d 7 1 = 1 then ((data.headD []).take (dWord d 3)).map (fun b => some [b])
  else []

/-- Write the elements of a command (R427, R428): all of them under OK and TRUNC; otherwise each byte, or not. Gives the bytes
written. -/
def netWrite (s : State) (whole : Bool) (v : View) : List (Option (List Nat) × Option (List Byte)) → Nat → State × Nat × View
  | [], n => (s, n, v)
  | (some pas, some bs) :: r, n =>
    if whole then netWrite (clearPoison (writeAccess s pas bs []) pas) whole (wroteAccess v s.stamp pas) r (n + bs.length)
    else
      let some1 := (pas.zip bs).filter (fun p => decide (choose s (p.1 % 2 ^ 24) 2 = 0))
      let s1 := some1.foldl (fun s p => clearPoison (writeMem s p.1 [p.2] []) [p.1]) s
      netWrite s1 whole (wroteView v (s1.stamp - 1) (some1.map (fun p => p.1))) r (n + some1.length)
  | _ :: r, n => netWrite s whole v r n

/-- The fault record of a Courier access (R318); ENGINE of it is not given: a free value. Log 49 (DEDUCED). -/
def netInfo (s : State) (x : NetCmd) (kind slot va pa : Nat) (table write : Bool) : FaultInfo :=
  { kind := kind, die := x.die, acc := if table then 4 else if write then 1 else 0, engine := (freeWord s 6).toNat % 256,
    slot := slot, va := va, pa := pa, lotid := x.ids.lotid.toNat, basket := x.linear, wid := x.ids.wid, lanes := 0 }

/-- The record of an unresolved access (R427): a KIND 1 failure has its own already (R319). -/
def netFault (s : State) (x : NetCmd) (b : CopyBad) : State :=
  if b.status = 3 ∧ b.kind ≠ 1 then
    postFault s x.tenancy (netInfo s x b.kind b.slot b.va (if b.table then 0 else leafPA s x.tenancy b.va) b.table b.write)
  else s

/-- Post the records of the EMPTY slots that a command's accesses met: one for each slot, which awaits a reply (R318, R319). -/
def netAbsent (s : State) (x : NetCmd) (xs : List NetAbsent) : State :=
  xs.foldl (fun s y => postAbsent s x.tenancy (netInfo s x 1 y.1 y.2.2.1 y.2.2.2.1 y.2.1 y.2.2.2.2) (some x.events.op) x.ids.wid 0) s

/-- What a command's own work comes to. -/
inductive NetDone where
  | wait (absent : List NetAbsent) (why : Stall) (places : Parked)
  | poison
  | done (s : State) (status bytes rank : Nat) (after : View)
  deriving DecidableEq, Repr

/-- Carry out a command with what the network brings (R425 to R428). Log 49 (DEDUCED). -/
def netRun (s : State) (x : NetCmd) (view : View) (reply : NetReply) : NetDone :=
  let none32 := 0xFFFFFFFF
  if reply.mismatch then .done s 1 0 none32 view
  else
    let h := netShape s x reply.blocks
    let was := (x.parked.map (fun p => p.2)).getD []
    match netPlaces s x.tenancy x.events.op was .read h.src h.size h.srcLen, netPlaces s x.tenancy x.events.op was .write h.dst h.size h.count with
    | .park xs a ps, .park ys b qs => .wait (xs ++ ys) (parkFirst a b) (ps ++ qs)
    | .park xs a ps, .ok _ _ => .wait xs a ps
    | .ok _ _, .park ys b qs => .wait ys b qs
    | .ok rd b1, .ok wr b2 =>
      if rd.any (fun p => p.any (fun pas => pas.any (poisoned s x.tenancy))) then .poison
      else
        let own := ((List.range rd.length).zip rd).map (fun p => p.2.map (fun pas => readMem s view [] true (64 * p.1) pas))
        let v := own.foldl (fun v r => match r with | some r => joinView v r.view | none => v) view
        let bad := match b1 with | some b => some b | none => b2
        let els := netData s x (own.map (fun r => r.map (fun r => r.data))) reply.blocks
        let lacks := decide (bad = none) && (els.any Option.isNone)
        let status := if bad.any (fun b => decide (b.status = 3)) then 3 else if bad.isSome then 2
          else if reply.failed.isSome || lacks then 4
          else if x.opc = 0xEA ∧ netF x.desc 7 1 = 1 ∧ dWord x.desc 3 < (reply.blocks.headD []).length then 6 else 0
        let rank := if status = 2 ∨ status = 3 then (netRanks s x).2 else if status = 4 then reply.failed.getD none32 else none32
        let s0 := askLines s x.tenancy ((rd ++ wr).flatMap (fun p => p.getD []))
        let s1 := send s0 (.frame x.comm x.number (own.flatMap (fun r => match r with | some r => r.data | none => [])))
        let s2 := match bad with | some b => netFault s1 x b | none => s1
        let (s3, n, v1) := netWrite s2 (decide (status = 0 ∨ status = 6)) v (wr.zip els) 0
        .done s3 status n rank v1

/-! ### Acceptance and completion (R425, R427, R429) -/

/-- The completion events of a command whose work is done (R429): they wait until its basket is on its shop and its q7 entry has
room. Log 49 (DEDUCED). -/
def netFinish (s : State) (id : Nat) : State :=
  match look s.net id with
  | none => s
  | some x =>
    match x.result, weaveOf s x.w, look s.ops x.events.op with
    | some (status, bytes, rank), some wv, some _ =>
      if engineOn s wv = false ∨ resultRoom s x.w wv 7 x.events.cmask = false then s
      else
        match (if versioned s wv then commitFor s x.events.op wv false else .ok s) with
        | .wait s1 => s1
        | .ok s1 =>
          if (weaveOf s1 x.w).isNone then s1
          else
            let seen := if versioned s wv then commitSeen s s1 wv else []
            let msg := relMsg (agentOf wv) x.events.scope (joinView x.after seen)
            let idw := netF x.desc 16 16 * 2 ^ 16 + status
            let s2 := cwordEvents { s1 with net := del s1.net id } x.events wv.ids.basket (BitVec.ofNat 32 idw) msg
            finishCommand s2 x.events 7 ([idw, x.opc, min bytes (2 ^ 32 - 1), rank].map (BitVec.ofNat 32)) msg
    | some _, _, _ => { s with net := del s.net id }
    | none, _, _ => s

/-- Accept a command of a weave (R425): the collectives of a communicator are numbered in the order of their acceptance. A
communicator that is not enabled gives NOCOMM; in a replay pass other than the last the command ends with PEER (R449).
Log 49 (DEDUCED). -/
def netAccept (s : State) (w : Nat) (e : Entry) : State :=
  match weaveOf s w with
  | none => s
  | some wv =>
    let d := e.words
    let t := wv.ids.tenancy
    let k := netF d 8 4
    let m := (look (tenOf s t).comms k).getD {}
    let inner := (innerPass s wv.ids.lot).isSome
    let bad := !m.enable || decide (e.opc = 0xEA ∧ m.nranks ≤ dWord d 4)
    let early := if inner then 4 else if bad then 5 else 0
    let x : NetCmd :=
      { w := w, die := dieOf wv.shop, opc := e.opc, desc := d, comm := k, tenancy := t, number := m.numbered,
        events := { op := e.op, w := w, cmask := e.cmask, scope := e.scope, cword := dWord d 6 }, view := e.view, since := s.time,
        ids := wv.ids, shop := wv.shop, linear := (match basketOf s wv with | some B => B.linear | none => 0),
        result := if early = 0 then none else some (early, 0, 0xFFFFFFFF), after := e.view }
    let s1 := dropHead s w 6
    let s2 := if early = 0 ∧ e.opc = 0xE9 then
        setTen s1 t { tenOf s1 t with comms := put (tenOf s1 t).comms k { m with numbered := m.numbered + 1 } }
      else if inner then passFlag s1 wv.ids.lot 2 else s1
    let id := freshKey s2.net
    netFinish { s2 with net := put s2.net id x } id

/-- The view that a command's reads follow, once everything that its weave did before the push has been performed (R68). -/
def netView (s : State) (x : NetCmd) : Option View :=
  match look s.ops x.events.op with
  | none => some x.view
  | some o => if engineMay s x.events.op o then some (joinView x.view (opView s o)) else none

/-- A command's work with what the network brings, then its completion events. -/
def netStep (s : State) (id : Nat) (reply : NetReply) : State :=
  match look s.net id with
  | none => s
  | some x =>
    if x.result.isSome then netFinish s id
    else
      match netView s x with
      | none => s
      | some v =>
        match netRun s x v reply with
        | .wait xs why ps => netAbsent { s with net := put s.net id { x with parked := some (why, ps.eraseDups) } } x xs
        | .poison =>
          let s1 := { s with net := del s.net id }
          if (weaveOf s x.w).isSome then taskTrap s1 x.ids.basket 1 0 0 0 else s1
        | .done s1 st n rank after =>
          netFinish { s1 with net := put s1.net id { x with result := some (st, n, rank), after := after, parked := none } } id

/-- NET_COMMAND_COMPLETE (R425, R429): with c = 1 the Courier accepts the oldest q6 command of shop a; otherwise command a goes on with
what the network brings. -/
def execNetCommandComplete (s : State) : Host.Outcome State Fault Refusal :=
  if s.ev.c = 1 then
    match oldestHead s s.ev.a 6 with
    | some (w, e) => .next (if e.opc = 0 then s else netAccept s w e)
    | none => .next s
  else .next (netStep s s.ev.a s.ev.reply)

/-- NET_PEER_TIMEOUT (R427): member b of command a has been unreachable for 100 ms. -/
def execNetPeerTimeout (s : State) : Host.Outcome State Fault Refusal :=
  match look s.net s.ev.a with
  | none => .next s
  | some x =>
    if s.time < x.since + 10 ^ 8 then .next s
    else .next (netStep s s.ev.a { s.ev.reply with mismatch := false, failed := some s.ev.b })

/-! ### Intake rings (R430 to R433) -/

/-- RING.POP (R433). -/
def execRingPop (f : RRR) (s : State) : Host.Outcome State Fault Refusal :=
  issueRow s f.pn f.pred
    { ops := [dstIn 3 f.dst 4 3, srcIn 51 f.sa 1 3, unused f.sb 3, unused f.sc 3], modOk := decide (f.mod.toNat < 2), waits := true }
    (fun s c =>
    if c.once then
      match ringPop s c.w c.q ((srcWord s c f.sa.toNat c.low).toNat % 256) (f.mod.getLsbD 0) with
      | none => .hold s .queueEmpty .retry
      | some (s1, ws) =>
        let v := natOfBytes (ws.flatMap (bytesOf 4))
        .done (writeDst s1 c f.dst.toNat 4 (fun _ => v))
    else .done s)

/-- CONSIDX as the port unit reads it when a frame would find the ring full (R432): a value in the order of its writes, none older
than a write performed 1 µs ago, as an acquire at level 3; a value below the last taken, or above PRODIDX, is ignored (R431). Log 49 (DEDUCED). -/
def takeConsIdx (s : State) (r : Nat) : State :=
  let R := ringOf s r
  let va := R.rbase.toNat + 0x80
  match access s R.tenancy va .read 0 with
  | .ok pa _ _ =>
    let pas := (List.range 8).map (fun i => pa + i)
    let evs := ((look s.lines (lineOf pa)).getD {}).evs
    let lo := evs.foldl (fun m e => if e.time + 1000 ≤ s.time ∧ e.byte < pa + 8 ∧ pa < e.byte + e.data.length then max m e.stamp else m) 0
    let d := r / 64
    let rd := readMem s (pas.foldl (fun v p => raiseView v p lo) (portView s d)) [] true 0 pas
    let x := natOfBytes rd.data
    let s1 := { s with portViews := put s.portViews d (joinView rd.view (taken s.maxlevel (.courier d) 3 rd.msgs)) }
    if R.consTaken ≤ x ∧ x ≤ R.accepted.toNat then modRing s1 r (fun R => { R with consTaken := x }) else s1
  | _ => s

/-- Write an accepted frame into its slot (R72, R431): each of the port unit's writes follows those before it. Log 49 (DEDUCED). -/
def ringAccept (s : State) (r : Nat) (f : Frame) (slotKey : Nat) : State :=
  let R := ringOf s r
  let d := r / 64
  let n := R.accepted.toNat
  let va := ringSlotVA R n
  let rel (s : State) : List Msg := [relMsg (.courier d) 3 (portView s d)]
  let s1 := if ringSlots R ≤ n then portWrite s d R va (List.replicate 16 0) [] else s
  let s2 := portWrite s1 d R (va + 16) f.payload (rel s1)
  let desc := bytesOf 8 (n + 1) ++ bytesOf 4 f.payload.length ++ bytesOf 1 slotKey ++ bytesOf 1 (if f.encrypted then 1 else 0) ++ [0, 0]
  let s3 := portWrite s2 d R va desc (rel s2)
  modRing (portWrite s3 d R R.rbase.toNat (bytesOf 8 (n + 1)) (rel s3)) r (fun R => { R with accepted := R.accepted + 1 })

/-- FRAME_RECEIVE (R430 to R432): the frame takes its one fate; at a port that is down nothing arrives (R454). -/
def execFrameReceive (s : State) : Host.Outcome State Fault Refusal :=
  let f := s.ev.frame
  let d := f.port % 4
  if !(s.netup.getLsbD d) then .next s
  else
  match s.rings.find? (fun p => decide (p.1 / 64 = d) && p.2.enable && decide (p.2.residx = f.residx)) with
  | none => .next { s with noring := setCell s.noring d (cell s.noring d + 1) }
  | some (r, R) =>
    let key := (List.range 256).find? (fun k => match look s.keys (256 * d + k) with
      | some x => x.valid && decide (x.said = f.said ∧ x.tenancy = R.tenancy)
      | none => false)
    if f.malformed || decide (2 ^ R.log2slot - 16 < f.payload.length) then
      .next (modRing s r (fun R => { R with malformed := R.malformed + 1 }))
    else if (f.encrypted && key.isNone) || (!f.encrypted && R.reqsec) then .next (modRing s r (fun R => { R with nokey := R.nokey + 1 }))
    else if f.encrypted && !f.authentic then .next (modRing s r (fun R => { R with auth := R.auth + 1 }))
    else
      let slotKey := if f.encrypted then key.getD 0 else 0
      let full (s : State) : Bool := decide (ringSlots R ≤ R.accepted.toNat - (ringOf s r).consTaken)
      let s1 := if full s then takeConsIdx s r else s
      if full s1 then
        match R.policy with
        | 0 => .next (modRing s1 r (fun R => { R with full := R.full + 1 }))
        | 1 =>
          let lost := decide ((ringOf s1 r).consTaken ≤ R.accepted.toNat - ringSlots R)
          .next (ringAccept (modRing s1 r (fun R => { R with full := if lost then R.full + 1 else R.full })) r f slotKey)
        | _ => .next s1
      else .next (ringAccept s1 r f slotKey)

end Sys2Proof.Machine
end

