-- ==== Sys2Proof/Machine/Loom.lean ====
section
/-!
DEFINITION. The Loom (spec/20_loom.md R387 to R404, spec/21_loom_splints.md R405 to R418): commands and their rendezvous, operand
reads, products, splints, completion, accumulator banks.
-/

namespace Sys2Proof.Machine

open Sys2Proof

/-! ### The gang register (R390, R391) -/

/-- NMEMB of a gang register. -/
def gangN (g : BitVec 64) : Nat := (g.extractLsb' 42 3).toNat

/-- The wid of member i. -/
def gangMember (g : BitVec 64) (i : Nat) : Nat := (g.extractLsb' (5 * i) 5).toNat

/-- The member that holds quarter q. -/
def gangHolder (g : BitVec 64) (q : Nat) : Nat := (g.extractLsb' (30 + 3 * q) 3).toNat

/-- The wids of the members. -/
def gangWids (g : BitVec 64) : List Nat := (List.range (gangN g)).map (gangMember g)

/-- Quarters that member i holds below quarter q. -/
def gangBelow (g : BitVec 64) (i q : Nat) : Nat := ((List.range q).filter (fun p => decide (gangHolder g p = i))).length

/-- Quarters that the weave of a wid holds. -/
def gangQuarters (g : BitVec 64) (wid : Nat) : Nat :=
  ((List.range 4).filter (fun q => decide (gangMember g (gangHolder g q) = wid))).length

/-- A value that GANG.SET accepts for a weave (R391). -/
def gangOk (g : BitVec 64) (wid nweaves : Nat) : Bool :=
  let n := gangN g
  decide (2 ≤ n ∧ n ≤ 6 ∧ g.extractLsb' 45 19 = 0) &&
    (List.range 6).all (fun i => decide (i < n) || decide (gangMember g i = 0)) &&
    decide ((gangWids g).eraseDups = gangWids g) && (gangWids g).all (fun x => decide (x < nweaves)) &&
    (List.range 4).all (fun q => decide (gangHolder g q < n)) && (gangWids g).contains wid

/-- GANG.SET (R391). -/
def execGangSet (f : RRR) (s : State) : Host.Outcome State Fault Refusal :=
  issueRow s f.pn f.pred { ops := [unused f.dst, srcIn 2 f.sa 2, unused f.sb, unused f.sc], modOk := modZero16 f.mod } (fun s c =>
    if c.once then
      let g := BitVec.ofNat 64 (srcN s c f.sa.toNat 0 2)
      if gangOk g c.wv.ids.wid c.wv.ids.nweaves then .done (modWeave s c.w (fun wv => { wv with gang := g }))
      else .trap (illegal c 3)
    else .done s)

/-! ### Descriptors (R395, R406) -/

/-- Bits of descriptor word k. -/
def lF (d : List Word) (k lo n : Nat) : Nat := (d.getD k 0).toNat / 2 ^ lo % 2 ^ n

/-- K-steps of a command (R395, R406). -/
def lSteps (d : List Word) : Nat := lF d 0 12 4 + 1

/-- The splint count S, and the planes P that LOOM.SPLIT writes (R406). -/
def lS (d : List Word) : Nat := lF d 0 8 4
/-- P = max(S, 2). -/
def lP (d : List Word) : Nat := max (lS d) 2

/-- The row of the table of R396 that a type belongs to; `none` for a type that the opcode does not take. -/
def typeRow (mx : Bool) (t : Nat) : Option Nat :=
  if t ≠ 13 ∧ 8 ≤ t ∧ t ≤ 11 then some 2
  else if t = 12 then some 3
  else if mx then (if t = 13 then some 5 else none)
  else if t = 13 ∨ t = 14 then some 0
  else if t = 15 then some 1
  else if t = 6 ∨ t = 7 then some 4
  else none

/-- Storage width of an element (R393). -/
def storeBits (t : Nat) : Nat := if t = 12 ∨ t = 15 then 4 else if t = 6 ∨ t = 7 then 16 else 8

/-- Registers per quarter and K-step (R393). -/
def quarterRegs (t : Nat) : Nat := 2 * storeBits t

/-- Scale blocks per K-step (R399). -/
def scaleBlocks (d : List Word) : Nat := if lF d 0 11 1 = 1 then 4 else 2

/-- Scale registers per quarter (R399). -/
def scaleRegs (d : List Word) : Nat := (scaleBlocks d * lSteps d + 3) / 4

/-- The fields of a command's descriptor are well formed (R397, R407 row 1). Log 47 (DEDUCED). -/
def loomFieldsOk (opc : Nat) (d : List Word) : Bool :=
  let zero (k lo : Nat) : Bool := decide ((d.getD k 0).toNat < 2 ^ lo)
  let even32 (x : Nat) : Bool := decide (x % 32 = 0)
  let sOk : Bool := decide (1 ≤ lS d ∧ lS d ≤ 12)
  match opc with
  | 0xDC =>
    let r := typeRow false (lF d 0 0 4)
    r.isSome && decide (r = typeRow false (lF d 0 4 4)) && decide ((lF d 0 8 1 = 1) ↔ (r = some 0 ∨ r = some 1)) &&
      !(decide (lF d 0 9 1 = 1 ∧ lF d 0 8 1 = 0)) && decide (lF d 0 11 1 = 0) && zero 1 19 && even32 (lF d 1 0 19) &&
      zero 2 22 && even32 (lF d 2 0 16) && decide (lF d 2 16 6 % 2 = 0) && zero 3 9
  | 0xDD =>
    let r := typeRow true (lF d 0 0 4)
    r.isSome && decide (r = typeRow true (lF d 0 4 4)) && decide (lF d 0 8 2 = 0) && zero 1 19 && even32 (lF d 1 0 19) &&
      zero 2 22 && even32 (lF d 2 0 16) && decide (lF d 2 16 6 % 2 = 0) && zero 3 9 && zero 4 19 && zero 5 9
  | 0xDE =>
    sOk && decide (lF d 0 0 6 = 0) && zero 1 19 && even32 (lF d 1 0 19) && zero 2 16 && even32 (lF d 2 0 16) &&
      (if lF d 0 7 1 = 0 then zero 3 19 && even32 (lF d 3 0 19) && zero 4 19 && even32 (lF d 4 0 19) && zero 5 16 && even32 (lF d 5 0 16)
       else zero 3 9 && zero 4 9 && zero 5 0)
  | 0xDF =>
    sOk && decide (lF d 0 0 7 = 0) && zero 1 19 && even32 (lF d 1 0 19) && zero 2 22 && even32 (lF d 2 0 16) &&
      decide (lF d 2 16 6 % 4 = 0 ∧ lF d 2 16 6 + 4 * lS d ≤ 64) && zero 3 9
  | _ =>
    sOk && decide (lF d 0 12 4 = 0 ∧ lF d 0 0 6 = 0) && zero 1 19 && even32 (lF d 1 0 19) && zero 2 22 && decide (lF d 2 0 16 = 0) &&
      decide (lF d 2 16 6 % 4 = 0 ∧ lF d 2 16 6 + 4 * lS d ≤ 64) && zero 3 22 && decide (lF d 3 9 7 = 0) &&
      (if lF d 0 6 1 = 1 then decide (lF d 3 16 6 % 4 = 0 ∧ lF d 3 16 6 + 4 ≤ 64) else decide (lF d 3 16 6 % 2 = 0))

/-- The vector registers of a weave that holds nq quarters that a command reads or writes: first register, count (R397, R407 row
2). Log 47 (DEDUCED). -/
def loomRegs (opc : Nat) (d : List Word) (nq : Nat) : List (Nat × Nat) :=
  if nq = 0 then []
  else
    match opc with
    | 0xDC => [(lF d 3 0 9, nq * quarterRegs (lF d 0 4 4) * lSteps d)]
    | 0xDD => [(lF d 3 0 9, nq * quarterRegs (lF d 0 4 4) * lSteps d), (lF d 5 0 9, nq * scaleRegs d)]
    | 0xDE => if lF d 0 7 1 = 0 then [] else [(lF d 3 0 9, lP d * nq * 16 * lSteps d), (lF d 4 0 9, nq)]
    | 0xDF => [(lF d 3 0 9, lP d * nq * 16 * lSteps d)]
    | _ => [(lF d 3 0 9, nq)]

/-- The rows of TOB bytes that a command reads or writes: first offset, bytes between rows, rows, bytes per row (R397, R407 row
3). -/
def loomTob (opc : Nat) (d : List Word) : List (Nat × Nat × Nat × Nat) :=
  let k := 64 * lSteps d
  match opc with
  | 0xDC => [(lF d 1 0 19, lF d 2 0 16, 128, lSteps d * 8 * storeBits (lF d 0 0 4))]
  | 0xDD =>
    let n := scaleBlocks d * lSteps d
    [(lF d 1 0 19, lF d 2 0 16, 128, lSteps d * 8 * storeBits (lF d 0 0 4)), (lF d 4 0 19, n, 128, n)]
  | 0xDE =>
    let es := if lF d 0 6 1 = 1 then 8 else 4
    if lF d 0 7 1 = 0 then
      [(lF d 1 0 19, lF d 2 0 16, 128, k * es), (lF d 3 0 19, lF d 5 0 16, 128 * lP d, k), (lF d 4 0 19, 0, 1, 256)]
    else [(lF d 1 0 19, lF d 2 0 16, k, 128 * es)]
  | 0xDF => [(lF d 1 0 19, lF d 2 0 16, 128 * lP d, k)]
  | _ => [(lF d 1 0 19, 0, 1, 256)]

/-- The lowest TOB offset at or beyond a limit among rows. -/
def tobBeyond (limit : Nat) (rows : List (Nat × Nat × Nat × Nat)) : Option Nat :=
  rows.foldl (fun a r => (List.range r.2.2.1).foldl (fun a i =>
    let o := r.1 + i * r.2.1
    if limit < o + r.2.2.2 then minOff a (some (max o limit)) else a) a) none

/-- The banks that an operation reads or writes, and those it writes (R395, R406, R413). -/
def loomBanks (opc : Nat) (d : List Word) : List Nat × List Nat :=
  let run (a n : Nat) : List Nat := (List.range n).map (fun i => a + i)
  match opc with
  | 0xDC => (run (lF d 2 16 6) 2, run (lF d 2 16 6) 2)
  | 0xDD => (run (lF d 2 16 6) 2, run (lF d 2 16 6) 2)
  | 0xDE => ([], [])
  | 0xDF => (run (lF d 2 16 6) (4 * lS d), run (lF d 2 16 6) (4 * lS d))
  | _ =>
    let out := run (lF d 3 16 6) (if lF d 0 6 1 = 1 then 4 else 2)
    (run (lF d 2 16 6) (4 * lS d) ++ out, out)

/-- A started operation finds every bank that it names held, and LOOM.FIN's results lie apart from its diagonals or over them
(R397, R407). -/
def loomBanksOk (B : Basket) (opc : Nat) (d : List Word) : Bool :=
  (loomBanks opc d).1.all (fun a => (look B.accMap a).isSome) &&
    (decide (opc ≠ 0xE0) ||
      !((loomBanks opc d).2.any (fun a => decide (lF d 2 16 6 ≤ a ∧ a < lF d 2 16 6 + 4 * lS d))) ||
      decide (lF d 3 16 6 = lF d 2 16 6 ∧ lF d 0 6 1 = 1))

/-! ### Head queues and the rendezvous (R392) -/

/-- The weave of a basket with a wid. -/
def weaveOfWid (s : State) (B : Basket) (wid : Nat) : Option (Nat × Weave) :=
  B.weaves.foldl (fun a w => match a, weaveOf s w with
    | none, some wv => if wv.ids.wid = wid then some (w, wv) else none
    | a, _ => a) none

/-- The head of a weave is ready: every member that it lists has a head. -/
def headReady (s : State) (B : Basket) (w : Nat) : Bool :=
  match weaveOf s w with
  | none => false
  | some wv =>
    match wv.heads with
    | [] => false
    | e :: _ => (gangWids e.gang).all (fun x => match weaveOfWid s B x with
      | some (_, y) => !(y.heads.isEmpty)
      | none => false)

/-- A list in an order that the spec leaves open. Log 48 (DESIGN CHOICE). -/
def anyOrder (s : State) (salt : Nat) (xs : List Nat) : List Nat :=
  ((List.range xs.length).zip xs).foldl (fun acc p =>
    let i := choose s (salt + p.1) (acc.length + 1)
    acc.take i ++ [p.2] ++ acc.drop i) []

/-- Note the heads that have become ready, behind those that were. Log 48 (DESIGN CHOICE). -/
def noteReady (s : State) (b : Nat) : State :=
  match look s.baskets b with
  | none => s
  | some B =>
    let old := B.loomReady.filter (headReady s B)
    let new := B.weaves.filter (fun w => !(old.contains w) && headReady s B w)
    modBasket s b (fun B => { B with loomReady := old ++ anyOrder s 60000 new })

/-- The Loom takes commands of a weave's q4 view, in push order, while its head queue has room. -/
def takeHeads (wv : Weave) : Nat → Weave
  | 0 => wv
  | n + 1 =>
    match viewEntries wv 4 with
    | [] => wv
    | e :: es =>
      if e.opc = 0 ∨ 8 ≤ wv.heads.length then wv
      else takeHeads { wv with heads := wv.heads ++ [e], queues := if es = [] then del wv.queues 4 else put wv.queues 4 es } n

/-- The Loom accepts commands of a weave (R392). -/
def loomAccept (s : State) (w : Nat) : State :=
  match weaveOf s w with
  | none => s
  | some wv => noteReady (setWeave s w (takeHeads wv ((viewEntries wv 4).length + 1))) wv.ids.basket

/-- Change the note of a weave's command. -/
def modCmd (s : State) (w op : Nat) (f : LoomCmd → LoomCmd) : State :=
  modWeave s w (fun wv => { wv with loomCmds := wv.loomCmds.map (fun c => if c.op = op then f c else c) })

/-- The opcode is LOOM.SPLIT, LOOM.SPL or LOOM.FIN. -/
def splint (opc : Nat) : Bool := decide (0xDE ≤ opc)

/-- The operation may start: a splint operation runs alone among the operations that share a member with it (R416). -/
def loomMayStart (s : State) (id : Nat) (x : LoomOp) : Bool :=
  s.loom.all (fun p => decide (id ≤ p.1) || decide (p.2.status ≠ 0) || !(splint p.2.opc || splint x.opc) ||
    p.2.parts.all (fun a => x.parts.all (fun b => decide (a.1 ≠ b.1))))

/-- Start an operation that may start: status BANK where a bank that it names is not held (R397, R407). -/
def loomStart (s : State) (id : Nat) : State :=
  match look s.loom id with
  | none => s
  | some x =>
    if x.started.isSome || decide (x.status ≠ 0) || !(loomMayStart s id x) then s
    else
      let ok := match look s.baskets x.basket with | some B => loomBanksOk B x.opc x.desc | none => false
      let s1 := { s with loom := put s.loom id { x with started := some s.steps, status := if ok then 0 else 2 } }
      x.parts.foldl (fun s p => modCmd s p.1 p.2.op (fun c => { c with started := true })) s1

/-- K-steps in all: LOOM.SPL over its passes; one act for LOOM.SPLIT and LOOM.FIN (R411). -/
def loomTotal (opc : Nat) (d : List Word) : Nat :=
  match opc with
  | 0xDF => lS d * (lS d + 1) / 2 * lSteps d
  | 0xDE => 1
  | 0xE0 => 1
  | _ => lSteps d

/-! ### Completion (R400) -/

/-- Every member's command may complete: what its weave did before has been performed, and its status entry has room. -/
def loomMayEnd (s : State) (x : LoomOp) : Bool :=
  x.parts.all (fun p => match weaveOf s p.1, look s.ops p.2.op with
    | some wv, some o => engineMay s p.2.op o && resultRoom s p.1 wv 5 p.2.cmask
    | _, _ => true)

/-- A member's command completes (R400). LOOM.SPLIT's registers stay subject to R168 until the matching LOOM.WAIT or an OFENCE. -/
def endPart (s : State) (x : LoomOp) (status : Nat) (v : View) (p : Nat × Entry) : State :=
  match weaveOf s p.1, look s.ops p.2.op with
  | some wv, some o =>
    let msg := relMsg (agentOf wv) 0 v
    let idw := lF p.2.words 0 16 16 * 2 ^ 16 + status
    let s1 := modCmd s p.1 p.2.op (fun c => { c with result := some (if status = 0 then 0 else idw) })
    let words := [idw, if splint x.opc && decide (x.opc ≠ 0xDF) then 0 else x.step, p.2.opc].map (BitVec.ofNat 32)
    let ev : Events := { op := p.2.op, w := p.1, cmask := p.2.cmask, scope := 0, cword := 0 }
    if o.bound.isNone then finishCommand s1 ev 5 words msg
    else
      let s2 := if p.2.cmask.testBit 0 then postResult s1 p.1 5 words (some msg) else s1
      let s3 := observeOp s2 p.2.op (some msg)
      let s4 := { s3 with ops := edit s3.ops p.2.op (fun o => { o with flags := [] }) }
      retireCheck (modWeave s4 p.1 (fun wv => { wv with flags := o.flags.foldl dropFlag wv.flags, guard := 0 })) p.1
  | _, _ => s

/-- End an operation that has committed its last K-step or failed, if every member's command may complete. -/
def loomEnd (s : State) (id : Nat) : State :=
  match look s.loom id with
  | none => s
  | some x =>
    if (x.status = 0 ∧ x.step < x.steps) ∨ loomMayEnd s x = false then s
    else
      match x.parts with
      | [] => s
      | p :: _ =>
        match (match weaveOf s p.1 with
          | some wv => if versioned s wv then commitFor s p.2.op wv false else .ok s
          | none => .ok s) with
        | .wait s1 => s1
        | .ok s1 =>
          if (look s1.loom id).isNone then s1
          else
            let seen := match weaveOf s p.1 with
              | some wv => if versioned s wv then commitSeen s s1 wv else []
              | none => []
            let v := x.parts.foldl (fun v p => match look s1.ops p.2.op with
              | some o => joinView v (opView s1 o)
              | none => v) (joinView x.view seen)
            x.parts.foldl (fun s p => endPart s x x.status v p) { s1 with loom := del s1.loom id }

/-- LOOM_RENDEZVOUS in basket a (R392): the ready head that became ready first is resolved: one operation of equal heads, or
MISMATCH for every member. -/
def execLoomRendezvous (s : State) : Host.Outcome State Fault Refusal :=
  let b := s.ev.a
  match look s.baskets b with
  | none => .next s
  | some B =>
    match B.loomReady with
    | [] => .next s
    | w :: _ =>
      match weaveOf s w with
      | none => .next s
      | some wv =>
        match wv.heads with
        | [] => .next s
        | h :: _ =>
          if engineOn s wv = false ∨ headReady s B w = false then .next s
          else
            let ms := (gangWids h.gang).filterMap (weaveOfWid s B)
            let parts := ms.filterMap (fun p => match p.2.heads with | e :: _ => some (p.1, e) | [] => none)
            let equal := parts.all (fun p => decide (p.2.opc = h.opc ∧ p.2.words = h.words ∧ p.2.gang = h.gang))
            let v := parts.foldl (fun v p => joinView v p.2.view) []
            let s1 := parts.foldl (fun s p => modWeave s p.1 (fun wv => { wv with heads := wv.heads.drop 1 })) s
            let s2 := modBasket s1 b (fun B => { B with loomReady := B.loomReady.filter (fun x => !((parts.map (fun p => p.1)).contains x)) })
            let x : LoomOp := { basket := b, opc := h.opc, desc := h.words, gang := h.gang, parts := parts,
                                steps := loomTotal h.opc h.words, view := v }
            let id := freshKey s2.loom
            let s3 :=
              if equal then loomStart { s2 with loom := put s2.loom id x } id
              else
                let s3 := parts.foldl (fun s p =>
                  { s with loom := put s.loom (freshKey s.loom) { x with opc := p.2.opc, parts := [p], status := 1, view := p.2.view } }) s2
                (List.range parts.length).foldl (fun s i => loomEnd s (id + i)) s3
            .next (noteReady (parts.foldl (fun s p => loomAccept s p.1) (loomEnd s3 id)) b)

/-! ### Operand reads (R70, R416) -/

/-- The vector register word that a member holds, with what its finished LOOM.SPLIT commands wrote. -/
def loomNow (s : State) (w : Nat) (wv : Weave) (key : Nat) : Word :=
  s.ops.foldl (fun x p =>
    if p.2.w = w ∧ p.2.kind = .engine ∧ !(p.2.covered.contains key) then
      match p.2.bound with
      | some ws => (look ws key).getD x
      | none => x
    else x) (cell wv.vreg key)

/-- The register word that the Loom reads from a member (R70): a free value where the weave has written it since the issue; otherwise what
it held at the issue, or before a write that no OFENCE covers. Log 27 (DESIGN CHOICE), 48 (DESIGN CHOICE). -/
def loomWord (s : State) (p : Nat × Entry) (r k : Nat) : Word :=
  match weaveOf s p.1 with
  | none => 0
  | some wv =>
    let key := vKey r k
    let wrote := wv.loomCmds.any (fun x => decide (x.op = p.2.op) && x.wrote.contains key)
    if wrote && !(wv.dead.contains key) then freeWord s (p.1 % 64 * 32768 + key)
    else
      let olds := (look p.2.vlog key).getD []
      (cell p.2.regs key :: olds).getD (choose s (p.1 % 64 * 32768 + key) (olds.length + 1)) 0

/-- The TOB byte that the Loom reads (R70): the last write that an OFENCE of a participant covers, or a later one.
Log 48 (DESIGN CHOICE). -/
def loomByte (s : State) (x : LoomOp) (B : Basket) (off : Nat) : Byte :=
  match look B.tobHist off with
  | none => cell B.tob off
  | some h =>
    let cover := x.parts.foldl (fun m p => max m ((look p.2.tview (tobKey x.basket off)).getD 0)) 0
    let issue := x.parts.foldl (fun m p => min m p.2.stamp) s.stamp
    let base := ((h.filter (fun e => decide (e.1 ≤ cover))).getLast?.getD (0, 0)).2
    let later := h.filter (fun e => decide (cover < e.1))
    if later.any (fun e => decide (issue ≤ e.1)) then (freeWord s (2 ^ 22 + off)).setWidth 8
    else (base :: later.map (fun e => e.2)).getD (choose s (2 ^ 22 + off) (later.length + 1)) base

/-- TOB bytes as a number. -/
def loomBytes (s : State) (x : LoomOp) (B : Basket) (off n : Nat) : Nat :=
  natOfBytes ((List.range n).map (fun i => loomByte s x B (off + i)))

/-- The fields of w bits of a number, the lowest first (R76). -/
def fieldsOf (w n v : Nat) : List Nat := (List.range n).map (fun i => v / 2 ^ (w * i) % 2 ^ w)

/-- The part of the member that holds a column's quarter. -/
def holderPart (x : LoomOp) (col : Nat) : Nat × Entry := x.parts.getD (gangHolder x.gang (col / 32)) (0, { words := [] })

/-- Quarters that the holder of a column's quarter holds below it. -/
def holderBelow (x : LoomOp) (col : Nat) : Nat := gangBelow x.gang (gangHolder x.gang (col / 32)) (col / 32)

/-- Quarters that the holder of a column's quarter holds. -/
def holderCount (x : LoomOp) (col : Nat) : Nat := gangBelow x.gang (gangHolder x.gang (col / 32)) 4

/-- Consecutive register words of a column's strand as a number. -/
def loomColumn (s : State) (x : LoomOp) (col r n : Nat) : Nat :=
  natOfBytes ((List.range n).flatMap (fun i => bytesOf 4 (loomWord s (holderPart x col) (r + i) (col % 32)).toNat))

/-! ### LOOM.MM and LOOM.MX (R398, R399) -/

/-- An accumulated word and the counters that it steps (R401): 1 LNAN, 2 LINV, 4 LOVF, 8 LSATC. -/
abbrev LRes := BitVec 32 × Nat

/-- One element of an F32 K-step (R398). -/
def macF (as bs : List Num) (c : BitVec 32) : LRes :=
  let cv := fdec fmt32 c.toNat
  let nan : BitVec 32 := 0x7FC00000
  if as.any isNaN || bs.any isNaN || isNaN cv then (nan, 1)
  else
    let ps := (as.zip bs).map (fun p => nmul p.1 p.2)
    if ps.any Option.isNone then (nan, 2)
    else
      match nsum 0 (cv :: ps.filterMap (fun p => p)) with
      | none => (nan, 2)
      | some y =>
        let r := fenc fmt32 y 0 false 0
        (BitVec.ofNat 32 r.val, if r.fl &&& flagOF ≠ 0 then 4 else 0)

/-- One element of an I32 K-step (R398). -/
def macI (sat : Bool) (as bs : List Int) (c : BitVec 32) : LRes :=
  let y := c.toInt + (as.zip bs).foldl (fun a p => a + p.1 * p.2) 0
  if sat && decide (y < -2 ^ 31) then (0x80000000, 8)
  else if sat && decide (2 ^ 31 - 1 < y) then (0x7FFFFFFF, 8)
  else (BitVec.ofInt 32 y, 0)

/-- Add to a counter that saturates (R401). -/
def addSat (a n : Nat) : Nat := min (a + n) (2 ^ 32 - 1)

/-- Step the exception counters by the results of a commit (R401). Log 59 (DEDUCED). -/
def countLoom (B : Basket) (fl : List Nat) : Basket :=
  let n (bit : Nat) : Nat := (fl.filter (fun x => decide (x = bit))).length
  { B with lnan := addSat B.lnan (n 1), linv := addSat B.linv (n 2), lovf := addSat B.lovf (n 4), lsat := addSat B.lsat (n 8) }

/-- Column `col` of B in K-step t as element patterns (R393). -/
def columnOf (s : State) (x : LoomOp) (t col : Nat) : List Nat :=
  let ty := lF x.desc 0 4 4
  let nr := quarterRegs ty
  fieldsOf (storeBits ty) 64
    (loomColumn s x col (lF x.desc 3 0 9 + holderBelow x col * nr * lSteps x.desc + t * nr) nr)

/-- Row `i` of A in K-step t as element patterns (R393). -/
def rowOf (s : State) (x : LoomOp) (B : Basket) (t i : Nat) : List Nat :=
  let w := storeBits (lF x.desc 0 0 4)
  fieldsOf w 64 (loomBytes s x B (lF x.desc 1 0 19 + i * lF x.desc 2 0 16 + 8 * w * t) (8 * w))

/-- The values of a row or column: plain, or scaled by the scale of each block (R399). -/
def valuesOf (mx : Bool) (ty nb : Nat) (scale : Nat → Nat) (xs : List Nat) : List Num :=
  if mx then ((List.range 64).zip xs).map (fun p => mxVal ty (scale (p.1 * nb / 64)) p.2) else xs.map (decodeType ty)

/-- Row values of an F32 operation. -/
def rowVals (s : State) (x : LoomOp) (B : Basket) (t i : Nat) : List Num :=
  let nb := scaleBlocks x.desc
  valuesOf (decide (x.opc = 0xDD)) (lF x.desc 0 0 4) nb
    (fun k => (loomByte s x B (lF x.desc 4 0 19 + i * nb * lSteps x.desc + nb * t + k)).toNat) (rowOf s x B t i)

/-- Column values of an F32 operation. -/
def columnVals (s : State) (x : LoomOp) (t col : Nat) : List Num :=
  let nb := scaleBlocks x.desc
  valuesOf (decide (x.opc = 0xDD)) (lF x.desc 0 4 4) nb
    (fun k =>
      let jx := nb * t + k
      (loomWord s (holderPart x col) (lF x.desc 5 0 9 + holderBelow x col * scaleRegs x.desc + jx / 4) (col % 32)).toNat /
        2 ^ (8 * (jx % 4)) % 256)
    (columnOf s x t col)

/-- The words of the tile after K-step t, with the counters they step (R398). -/
def mmStep (s : State) (x : LoomOp) (B : Basket) (t : Nat) : List LRes :=
  let tile := if t = 0 ∧ lF x.desc 0 10 1 = 1 then List.replicate 16384 0#32
    else sliceCells B.acc (8192 * lF x.desc 2 16 6) 16384
  if lF x.desc 0 8 1 = 1 then
    let ta := lF x.desc 0 0 4
    let tb := lF x.desc 0 4 4
    let int (ty v : Nat) : Int := valOf (decide (ty ≠ 14)) (typeBits ty) v
    let rows := (List.range 128).map (fun i => (rowOf s x B t i).map (int ta))
    let cols := (List.range 128).map (fun j => (columnOf s x t j).map (int tb))
    (tile.zip (rows.flatMap (fun r => cols.map (fun c => (r, c))))).map
      (fun p => macI (decide (lF x.desc 0 9 1 = 1)) p.2.1 p.2.2 p.1)
  else
    let rows := (List.range 128).map (rowVals s x B t)
    let cols := (List.range 128).map (columnVals s x t)
    (tile.zip (rows.flatMap (fun r => cols.map (fun c => (r, c))))).map (fun p => macF p.2.1 p.2.2 p.1)

/-- Commit K-step t of LOOM.MM or LOOM.MX. -/
def commitMM (s : State) (x : LoomOp) (B : Basket) (t : Nat) : Basket :=
  let rs := mmStep s x B t
  countLoom { B with acc := spliceCells B.acc (8192 * lF x.desc 2 16 6) (rs.map (fun r => r.1)) } (rs.map (fun r => r.2))

/-! ### LOOM.SPL (R410 to R412) -/

/-- The pair of planes of pass p, in the order of R411. -/
def splPair (sn p : Nat) : Nat × Nat :=
  ((List.range sn).flatMap (fun d => (List.range (d + 1)).map (fun a => (a + 1, d + 1 - a)))).getD p (1, 1)

/-- Row i of plane m of A in K-step t (R408). -/
def planeRow (s : State) (x : LoomOp) (B : Basket) (m t i : Nat) : List Nat :=
  let st := lF x.desc 2 0 16
  fieldsOf 8 64 (loomBytes s x B (lF x.desc 1 0 19 + (m - 1) * 128 * st + i * st + 64 * t) 64)

/-- Column j of plane m of B in K-step t (R408). -/
def planeColumn (s : State) (x : LoomOp) (m t j : Nat) : List Nat :=
  let r := 16 * lSteps x.desc
  fieldsOf 8 64 (loomColumn s x j (lF x.desc 3 0 9 + (m - 1) * holderCount x j * r + holderBelow x j * r + 16 * t) 16)

/-- The splint of an element of plane m: a marked element counts 0 (R411). -/
def splintVal (mark v : Nat) : Int := if mark = 0x80 then 0 else signedOf 8 v

/-- An element of an operand, as its planes give it (R412): 4 NaN, 1 +Inf, 2 −Inf; otherwise 0, or 8 and 9 for a positive and a
negative nonzero splint first. -/
def planeClass (planes : List Nat) : Nat :=
  if planes.getD 0 0 = 0x80 then
    (if planes.getD 1 0 = 1 then 1 else if planes.getD 1 0 = 0xFF then 2 else 4)
  else
    match planes.find? (fun v => decide (v ≠ 0)) with
    | none => 0
    | some v => if v < 128 then 8 else 9

/-- The term of a pair of elements of which one is marked (R412); `none` where neither is. -/
def markTerm (a b : Nat) : Option Nat :=
  let inf (c : Nat) : Bool := decide (c = 1 ∨ c = 2)
  let neg (c : Nat) : Bool := decide (c = 2 ∨ c = 9)
  if a = 4 ∨ b = 4 then some 4
  else if !(inf a || inf b) then none
  else if a = 0 ∨ b = 0 then some 5
  else some (if neg a != neg b then 2 else 1)

/-- STATE combined with a term (R412). -/
def joinState (st x : Nat) : Nat :=
  if st = 4 ∨ x = 4 then 4
  else if st = 5 ∨ x = 5 then 5
  else if st = 0 then x
  else if x = 0 ∨ st = x then st
  else 5

/-- STATE as it reads: 3, 6 and 7 read as 4 (R410). -/
def readState (v : Nat) : Nat := if v = 3 ∨ v = 6 ∨ v = 7 then 4 else v

/-- The 64-bit entries of a list of words. -/
def entriesOf : List (BitVec 32) → List Nat
  | lo :: hi :: r => (lo.toNat + 2 ^ 32 * hi.toNat) :: entriesOf r
  | _ => []

/-- The words of 64-bit entries. -/
def entryPairs (es : List Nat) : List (BitVec 32) := es.flatMap (fun e => [BitVec.ofNat 32 e, BitVec.ofNat 32 (e / 2 ^ 32)])

/-- An entry of a diagonal after a K-step (R411): the sum wraps at 48 bits, which counts in LSATC. -/
def diagStep (first : Bool) (e : Nat) (sum : Int) (st : Nat) : Nat × Nat :=
  let y := signedOf 48 (e % 2 ^ 48) + sum
  (narrow 48 y + (if first then 2 ^ 48 * st else 0), if y < -2 ^ 47 ∨ 2 ^ 47 ≤ y then 8 else 0)

/-- Commit a K-step of LOOM.SPL: its pass and K-step follow from the steps committed (R411, R412). -/
def commitSPL (s : State) (x : LoomOp) (B : Basket) (step : Nat) : Basket :=
  let sn := lS x.desc
  let acc0 := lF x.desc 2 16 6
  let pr := splPair sn (step / lSteps x.desc)
  let t := step % lSteps x.desc
  let base := 8192 * (acc0 + 4 * (pr.1 + pr.2 - 2))
  let B0 := if step = 0 ∧ lF x.desc 0 7 1 = 1 then
      { B with acc := spliceCells B.acc (8192 * acc0) (List.replicate (32768 * sn) 0#32) } else B
  let first := decide (pr = (1, 1))
  let valsA (m i : Nat) : List Nat := planeRow s x B0 m t i
  let valsB (m j : Nat) : List Nat := planeColumn s x m t j
  let split (f : Nat → Nat → List Nat) (m i : Nat) : List Int := ((f 1 i).zip (f m i)).map (fun p => splintVal p.1 p.2)
  let classes (f : Nat → Nat → List Nat) (i : Nat) : List Nat :=
    if first then
      let ps := (List.range (lP x.desc)).map (fun m => f (m + 1) i)
      (List.range 64).map (fun k =>
        let v := ps.map (fun p => p.getD k 0)
        planeClass (if v.getD 0 0 = 0x80 then v else v.take sn))
    else []
  let rows := (List.range 128).map (fun i => (split valsA pr.1 i, classes valsA i))
  let cols := (List.range 128).map (fun j => (split valsB pr.2 j, classes valsB j))
  let old := entriesOf (sliceCells B0.acc base 32768)
  let rs := (old.zip (rows.flatMap (fun r => cols.map (fun c => (r, c))))).map (fun p =>
    let sum := (p.2.1.1.zip p.2.2.1).foldl (fun (a : Int) q => a + q.1 * q.2) 0
    let st := (p.2.1.2.zip p.2.2.2).foldl (fun st q => match markTerm q.1 q.2 with
      | some y => joinState st y
      | none => st) (readState (p.1 / 2 ^ 48 % 8))
    diagStep first p.1 sum st)
  countLoom { B0 with acc := spliceCells B0.acc base (entryPairs (rs.map (fun r => r.1))) } (rs.map (fun r => r.2))

/-! ### LOOM.SPLIT (R408, R409) -/

/-- The exponent of a line (R409): the largest exponent of its nonzero finite elements, or 0. -/
def lineExp (xs : List Num) : Int :=
  match xs.filterMap (fun x => match x with
    | .fin _ m e => if m = 0 then none else some (expOf m e + 1)
    | _ => none) with
  | [] => 0
  | e :: es => es.foldl max e

/-- The splints of |r| for r below 1, as a fixed-point number m × 2^−n: P groups of seven bits, truncated (R409). -/
def cutBits (neg : Bool) (p : Nat) (m : Nat) (e : Int) : List Nat :=
  (List.range p).map (fun i =>
    let sh := e + 7 * (i + 1 : Nat)
    let q := (if 0 ≤ sh then m * 2 ^ sh.toNat else m / 2 ^ (-sh).toNat) % 128
    if neg then narrow 8 (-(q : Int)) else q)

/-- The planes of an element of a line with exponent `ex` (R409). -/
def cutElem (p : Nat) (ex : Int) (y : Num) : List Nat :=
  match y with
  | .fin neg m e => cutBits neg p m (e - ex)
  | .inf neg => 0x80 :: (if neg then 0xFF else 0x01) :: List.replicate (p - 2) 0
  | .nan _ => List.replicate 1 0x80 ++ List.replicate (p - 1) 0

/-- The lines of LOOM.SPLIT's source: each line's elements in order of k (R408). -/
def splitLines (s : State) (x : LoomOp) (B : Basket) : List (List Num) :=
  let f64 := decide (lF x.desc 0 6 1 = 1)
  let es := if f64 then 8 else 4
  let k := 64 * lSteps x.desc
  let o := lF x.desc 1 0 19
  let st := lF x.desc 2 0 16
  let elem (off : Nat) : Num := fdec (if f64 then fmt64 else fmt32) (loomBytes s x B off es)
  (List.range 128).map (fun i => (List.range k).map (fun n =>
    elem (if lF x.desc 0 7 1 = 0 then o + i * st + n * es else o + n * st + i * es)))

/-- Write TOB bytes that later Loom operations read as they stand (R416). -/
def tobSet (B : Basket) (off : Nat) (bs : List Byte) : Basket :=
  let n := bs.length
  { B with
    tob := spliceCells B.tob off bs
    tobHist := B.tobHist.filter (fun p => decide (p.1 < off)) ++ ((List.range n).zip bs).map (fun p => (off + p.1, [(0, p.2)])) ++
      B.tobHist.filter (fun p => decide (off + n ≤ p.1)) }

/-- LOOM.SPLIT of side A: its rows are written in an order that the spec leaves open. Log 48 (DESIGN CHOICE). -/
def splitA (s : State) (x : LoomOp) (lines : List (Int × List (List Nat))) : State :=
  let dst := lF x.desc 3 0 19
  let st := lF x.desc 5 0 16
  let rows := lines.length * lP x.desc
  let bytes (xs : List Nat) : List Byte := xs.map (BitVec.ofNat 8)
  let row (n : Nat) : Nat × List Byte :=
    if n = rows then (lF x.desc 4 0 19, lines.flatMap (fun l => bytesOf 2 (narrow 16 l.1)))
    else
      let i := n % 128
      let m := n / 128
      (dst + m * 128 * st + i * st, bytes ((lines.getD i (0, [])).2.map (fun e => e.getD m 0)))
  modBasket s x.basket (fun B => (anyOrder s 0 (List.range (rows + 1))).foldl (fun B n => tobSet B (row n).1 (row n).2) B)

/-- The register words that LOOM.SPLIT of side B writes in the member of index i (R408). -/
def splitWords (s : State) (x : LoomOp) (lines : List (Int × List (List Nat))) (i : Nat) : Tab Word :=
  let n := lSteps x.desc
  let nq := gangBelow x.gang i 4
  let qs := (List.range 4).filter (fun q => decide (gangHolder x.gang q = i))
  let planes : Tab Word := qs.flatMap (fun q => (List.range 32).flatMap (fun k =>
    let cut := (lines.getD (32 * q + k) (0, [])).2
    (List.range (lP x.desc)).flatMap (fun m => (List.range (16 * n)).map (fun r =>
      let byte (e : Nat) : Nat := (cut.getD (4 * r + e) []).getD m 0
      (vKey (lF x.desc 3 0 9 + m * nq * 16 * n + gangBelow x.gang i q * 16 * n + r) k,
        BitVec.ofNat 32 (byte 0 + 2 ^ 8 * byte 1 + 2 ^ 16 * byte 2 + 2 ^ 24 * byte 3))))))
  let exps : Tab Word := qs.flatMap (fun q => (List.range 32).map (fun k =>
    (vKey (lF x.desc 4 0 9 + gangBelow x.gang i q) k, BitVec.ofInt 32 (lines.getD (32 * q + k) (0, [])).1)))
  if choose s i 2 = 0 then exps ++ planes else planes ++ exps

/-- Later Loom commands of a weave read words that LOOM.SPLIT wrote as they stand (R416). -/
def splitSeen (s : State) (w : Nat) (ws : Tab Word) : State :=
  let set (m : Cells 32) : Cells 32 := ws.reverse.foldl (fun m p => setCell m p.1 p.2) m
  let clear (t : Tab (List Word)) : Tab (List Word) := t.filter (fun p => !(ws.any (fun q => decide (q.1 = p.1))))
  let upd (e : Entry) : Entry := { e with regs := set e.regs, vlog := clear e.vlog }
  let s1 := { s with loom := s.loom.map (fun p =>
    (p.1, { p.2 with parts := p.2.parts.map (fun q => if q.1 = w then (q.1, upd q.2) else q) })) }
  modWeave s1 w (fun wv => { wv with
    vlog := clear wv.vlog
    heads := wv.heads.map upd
    queues := match look wv.queues 4 with
      | some es => put wv.queues 4 (es.map upd)
      | none => wv.queues })

/-- Carry out LOOM.SPLIT (R409). -/
def runSplit (s : State) (x : LoomOp) (B : Basket) : State :=
  let lines := (splitLines s x B).map (fun l =>
    let e := lineExp l
    (e, l.map (cutElem (lP x.desc) e)))
  if lF x.desc 0 7 1 = 0 then splitA s x lines
  else
    ((List.range x.parts.length).zip x.parts).foldl (fun s p =>
      let ws := splitWords s x lines p.1
      splitSeen { s with ops := edit s.ops p.2.2.op (fun o => { o with bound := some ws }) } p.2.1 ws) s

/-! ### LOOM.FIN (R413) -/

/-- One result of LOOM.FIN: the bits and the counter it steps. -/
def finElem (f : Fmt) (addc : Bool) (cin : Nat) (st : Nat) (ex : Int) (ds : List Int) : Nat × Nat :=
  let cv := if addc then fdec f cin else .fin false 0 0
  if st = 4 ∨ isNaN cv then (canonNaN f, 1)
  else if st = 5 then (canonNaN f, 2)
  else if st = 1 ∨ st = 2 then
    (if cv = .inf (decide (st = 1)) then (canonNaN f, 2) else (infBits f (decide (st = 2)), 0))
  else
    match cv with
    | .inf _ => (cin, 0)
    | _ =>
      let v := ds.foldl (fun (a : Int) d => a * 128 + d) 0
      let n := ds.length
      if v = 0 ∧ ds.all (fun d => decide (d = 0)) ∧ addc = true then
        (match cv with
          | .fin neg m _ => if m = 0 then (if neg then 2 ^ (f.ebits + f.mbits) else 0, 0) else (cin, 0)
          | _ => (cin, 0))
      else
        match nsum 0 [cv, .fin (decide (v < 0)) v.natAbs (ex - 7 * ((n : Int) + 1))] with
        | some (.fin neg m e) =>
          if m = 0 then (0, 0)
          else
            let r := fenc f (.fin neg m e) 0 false 0
            (r.val, if r.fl &&& flagOF ≠ 0 then 4 else 0)
        | _ => (0, 0)

/-- Carry out LOOM.FIN. -/
def runFin (s : State) (x : LoomOp) (B : Basket) : Basket :=
  let sn := lS x.desc
  let f64 := decide (lF x.desc 0 6 1 = 1)
  let addc := decide (lF x.desc 0 7 1 = 1)
  let out := 8192 * lF x.desc 3 16 6
  let diags := (List.range sn).map (fun d => entriesOf (sliceCells B.acc (8192 * (lF x.desc 2 16 6 + 4 * d)) 32768))
  let cins := if f64 then entriesOf (sliceCells B.acc out 32768) else (sliceCells B.acc out 16384).map (fun w => w.toNat)
  let ea := (List.range 128).map (fun i => signedOf 16 (loomBytes s x B (lF x.desc 1 0 19 + 2 * i) 2))
  let eb := (List.range 128).map (fun j => (loomWord s (holderPart x j) (lF x.desc 3 0 9 + holderBelow x j) (j % 32)).toInt)
  let exps := ea.flatMap (fun a => eb.map (fun b => a + b))
  let cols (n : Nat) (ls : List (List Nat)) : List (List Nat) :=
    ls.foldr (fun l acc => (l.zip acc).map (fun p => p.1 :: p.2)) (List.replicate n [])
  let rs := ((cols 16384 diags).zip (cins.zip exps)).map (fun p =>
    finElem (if f64 then fmt64 else fmt32) addc p.2.1 (readState (p.1.getD 0 0 / 2 ^ 48 % 8)) p.2.2
      (p.1.map (fun e => signedOf 48 (e % 2 ^ 48))))
  let words := if f64 then entryPairs (rs.map (fun r => r.1)) else rs.map (fun r => BitVec.ofNat 32 r.1)
  countLoom { B with acc := spliceCells B.acc out words } (rs.map (fun r => r.2))

/-! ### K-steps (R398, R403, R404, R411, R417) -/

/-- The operation's basket runs on its shop. -/
def loomOn (s : State) (x : LoomOp) : Bool :=
  match look s.baskets x.basket with
  | some B => B.resident
  | none => false

/-- The operation's gang is being collected (R404). Log 47 (DEDUCED). -/
def loomCollected (s : State) (x : LoomOp) : Bool :=
  match look s.baskets x.basket with
  | some B => (match look s.gangs B.gang with | some g => g.collecting | none => false)
  | none => false

/-- Operations that started earlier and are not complete share no bank that either writes (R403). Log 47 (DEDUCED). -/
def loomTurn (s : State) (id : Nat) (x : LoomOp) : Bool :=
  let b := loomBanks x.opc x.desc
  s.loom.all (fun p =>
    let o := loomBanks p.2.opc p.2.desc
    decide (id ≤ p.1) || decide (p.2.basket ≠ x.basket) || decide (p.2.status ≠ 0) || decide (p.2.steps ≤ p.2.step) ||
      p.2.started.isNone || (o.2.all (fun a => !(b.1.contains a)) && o.1.all (fun a => !(b.2.contains a))))

/-- LOOM_KSTEP_COMMIT of operation a (R398, R411): the operation starts, commits its next K-step, and completes after its last. -/
def execLoomKstepCommit (s : State) : Host.Outcome State Fault Refusal :=
  let id := s.ev.a
  match look (loomStart s id).loom id with
  | none => .next s
  | some x =>
    if loomOn s x = false ∨ loomCollected s x = true then .next s
    else
      let s1 := loomStart s id
      if x.status ≠ 0 ∨ x.steps ≤ x.step then .next (loomEnd s1 id)
      else if x.started.isNone ∨ (splint x.opc ∧ x.opc ≠ 0xDF) ∨ loomTurn s1 id x = false then .next s1
      else
        let s2 := modBasket s1 x.basket (fun B => if x.opc = 0xDF then commitSPL s1 x B x.step else commitMM s1 x B x.step)
        let s3 := match x.parts with
          | p :: _ => (match weaveOf s2 p.1 with | some wv => countW s2 wv 29 1 | none => s2)
          | [] => s2
        .next (loomEnd { s3 with loom := put s3.loom id { x with step := x.step + 1 } } id)

/-- LOOM_SPLIT_FIN_COMPLETE of operation a (R409, R413, R417): the operation starts, acts whole, and completes; one that has
started goes on while its gang is collected. -/
def execLoomSplitFinComplete (s : State) : Host.Outcome State Fault Refusal :=
  let id := s.ev.a
  match look s.loom id with
  | none => .next s
  | some x0 =>
    if loomOn s x0 = false ∨ (loomCollected s x0 = true ∧ x0.started = none) then .next s
    else
      let s1 := loomStart s id
      match look s1.loom id, look s1.baskets x0.basket with
      | some x, some B =>
        if x.status ≠ 0 ∨ x.steps ≤ x.step then .next (loomEnd s1 id)
        else if x.started.isNone ∨ splint x.opc = false ∨ x.opc = 0xDF ∨ loomTurn s1 id x = false then .next s1
        else
          let s2 := if x.opc = 0xDE then runSplit s1 x B else modBasket s1 x.basket (runFin s1 x)
          .next (loomEnd { s2 with loom := edit s2.loom id (fun x => { x with step := 1 }) } id)
      | _, _ => .next s1

/-! ### The commands (R394, R397, R405, R407) -/

/-- Push a Loom command: its checks, its entry, the note for LOOM.WAIT. -/
def loomPush (f : ENG) (dlen : Nat) (s : State) (c : Ctx) : Effect :=
  let opc := (c.word.extractLsb' 56 8).toNat
  let g := c.wv.gang
  if gangN g = 0 then badDesc c
  else if c.once then
    let d := (List.range (dlen + 1)).map (descWord s c f c.low)
    let nq := gangQuarters g c.wv.ids.wid
    let banks := loomBanks opc d
    let op := s.nextOp
    let named := (loomRegs opc d nq).flatMap (fun r => (List.range r.2).map (fun i => r.1 + i))
    let dests := if opc = 0xDE then
        (loomRegs opc d nq).flatMap (fun r => (List.range r.2).flatMap (fun i => allStrands.map (vKey (r.1 + i)))) else []
    let accept (s : State) : State := loomAccept (modWeave s c.w (fun wv => { wv with
      loomCmds := wv.loomCmds ++ [{ op := op, banks := banks.2, names := banks.1, gang := g, vregs := named }] })) c.w
    let ready := renameRegs s c (if opc = 0xDE then [] else named) (if opc = 0xDE then named else [])
    let go (s : State) : Effect := pushEng s c f 4 dests accept
      (if loomFieldsOk opc d = false then .inr (badDesc c)
       else if (loomRegs opc d nq).any (fun r => decide (c.wv.hdr.vregs < r.1 + r.2)) then .inr (.trap (illegal c 5))
       else
         match tobBeyond (c.wv.hdr.tobBanks * 16384) (loomTob opc d) with
         | some o => .inr (badBounds c o 5)
         | none => .inl { words := d ++ List.replicate (32 - d.length) 0, gang := g, q := c.q, regs := c.wv.vreg,
                          vlog := c.wv.vlog, tview := c.wv.fencedT })
    match ready with
    | .refill s1 =>
      if loomFieldsOk opc d && !((loomRegs opc d nq).any (fun r => decide (c.wv.hdr.vregs < r.1 + r.2))) then .stay s1 (some .spill) else go s
    | .go s1 => go s1
  else .done s

/-- The fields of a Loom command: every condition of R397 and R407 row 1 is cause 8. Log 47 (DEDUCED). -/
def loomForm (f : ENG) (dlen : Nat) : Form :=
  { engForm f (engUnused f.dst) (descOpnd f 3) [dlen] (decide (f.cmask.toNat ≤ 1 ∧ f.scope = 0 ∧ f.coff = 0)) with modCause := 8 }

/-- LOOM.MM (R394). -/
def execLoomMm (f : ENG) (s : State) : Host.Outcome State Fault Refusal := issueRow s f.pn f.pred (loomForm f 3) (loomPush f 3)

/-- LOOM.MX (R394). -/
def execLoomMx (f : ENG) (s : State) : Host.Outcome State Fault Refusal := issueRow s f.pn f.pred (loomForm f 5) (loomPush f 5)

/-- LOOM.SPLIT (R405). -/
def execLoomSplit (f : ENG) (s : State) : Host.Outcome State Fault Refusal := issueRow s f.pn f.pred (loomForm f 5) (loomPush f 5)

/-- LOOM.SPL (R405). -/
def execLoomSpl (f : ENG) (s : State) : Host.Outcome State Fault Refusal := issueRow s f.pn f.pred (loomForm f 3) (loomPush f 3)

/-- LOOM.FIN (R405). -/
def execLoomFin (f : ENG) (s : State) : Host.Outcome State Fault Refusal := issueRow s f.pn f.pred (loomForm f 3) (loomPush f 3)

/-! ### LOOM.WAIT and OFENCE (R400, R402) -/

/-- The keys under which a held LOOM.WAIT notes which commands it waits for. -/
def loomKey : Nat := 90000

/-- The op number that bounds what a held instruction waits for: the one noted at its first issue, or the next one. -/
def heldLimit (s : State) (c : Ctx) : Nat :=
  match c.held with
  | some h => ((look h.srcs loomKey).getD 0).toNat + 2 ^ 32 * ((look h.srcs (loomKey + 1)).getD 0).toNat
  | none => s.nextOp

/-- The register words of finished LOOM.SPLIT commands below an op number are in their registers for good. Log 48 (DESIGN CHOICE). -/
def landSplits (s : State) (w limit : Nat) : State :=
  (s.ops.filter (fun p => decide (p.1 < limit ∧ p.2.w = w ∧ p.2.kind = .engine ∧ p.2.flags = []) && p.2.bound.isSome)).foldl
    (fun s p => finishOp s p.1 false) s

/-- LOOM.WAIT (R400): waits for the Loom commands pushed before it; 0, or the status of the earliest that failed. Log 47 (DEDUCED). -/
def execLoomWait (f : RRR) (s : State) : Host.Outcome State Fault Refusal :=
  issueRow s f.pn f.pred
    { ops := [dstIn 34 f.dst 1 3, unused f.sa 3, unused f.sb 3, unused f.sc 3], modOk := modZero16 f.mod, waits := true } (fun s c =>
    if c.once then
      let limit := heldLimit s c
      let mine := c.wv.loomCmds.filter (fun x => decide (x.op < limit))
      if mine.any (fun x => x.result.isNone) then
        .hold s (if mine.any (fun x => x.result.isNone && !x.started) then .loomRendezvous else .flag) .retry
          [(loomKey, BitVec.ofNat 32 limit), (loomKey + 1, BitVec.ofNat 32 (limit / 2 ^ 32))]
      else
        let failed := ((mine.filterMap (fun x => x.result)).find? (fun r => decide (r ≠ 0))).getD 0
        let s1 := modWeave (landSplits s c.w limit) c.w (fun wv =>
          let rest := wv.loomCmds.filter (fun x => decide (limit ≤ x.op))
          let freed := (mine.flatMap (fun x => x.vregs)).filter (fun r =>
            !(rest.any (fun x => x.vregs.contains r)) && allStrands.all (fun k => wv.dead.contains (vKey r k)))
          unmapRegs { wv with loomCmds := rest, dead := if rest = [] then [] else wv.dead } freed)
        .done (writeDst s1 c f.dst.toNat 1 (fun _ => failed))
    else .done s)

/-- OFENCE (R402): holds the weave's issue until every register write of its earlier instructions has been performed. -/
def execOfence (f : RRR) (s : State) : Host.Outcome State Fault Refusal :=
  issueRow s f.pn f.pred (bareForm f false) (fun s c =>
    if c.once then
      if s.ops.any (fun p => decide (p.2.w = c.w ∧ p.2.dests ≠ []) && !(decide (p.2.kind = .engine ∧ p.2.flags = []))) then
        .stay (modWeave s c.w (fun wv => { wv with ofence := some c.slot }))
      else
        let b := c.wv.ids.basket
        .done (modWeave (landSplits s c.w s.nextOp) c.w (fun wv => { wv with
          ofence := none
          vlog := []
          fencedT := (viewOf wv c.sp.mask).filter (fun p => decide (tobKey b 0 ≤ p.1 ∧ p.1 < tobKey (b + 1) 0)) }))
    else .done s)

/-! ### Accumulator banks (R387 to R389, R403) -/

/-- The size of a tenancy's context pool in bytes (R460), and what its baskets have reserved of it (R156). -/
def poolSize (s : State) (t : Nat) : Nat := ((tenOf s t).tcfg.extractLsb' 32 16).toNat * 2 ^ 20

/-- Bytes of the context pool that baskets of a tenancy have reserved. -/
def poolUsed (s : State) (t : Nat) : Nat :=
  s.baskets.foldl (fun a p => match look s.lots p.2.lot with
    | some l => if l.tenancy = t then a + p.2.pool else a
    | none => a) 0

/-- Physical accumulator banks of a shop that are free, the lowest first. Log 47 (DEDUCED). -/
def accFree (h : Shop) : List Nat := (List.range 64).filter (fun p => !(h.accUsed.contains p))

/-- A basket obtains banks: the logical numbers from a, each zero (R387). -/
def accTake (s : State) (b a n : Nat) : State :=
  match look s.baskets b with
  | none => s
  | some B =>
    let ps := (accFree (shopOf s B.shop)).take n
    let s1 := modShop s B.shop (fun h => { h with accUsed := h.accUsed ++ ps })
    modBasket s1 b (fun B => { B with
      accMap := ((List.range n).zip ps).foldl (fun m p => put m (a + p.1) p.2) B.accMap
      acc := B.acc.filter (fun p => decide (p.1 < 8192 * a ∨ 8192 * (a + n) ≤ p.1)) })

/-- A basket gives banks back (R388). -/
def accGive (s : State) (b : Nat) (as : List Nat) : State :=
  match look s.baskets b with
  | none => s
  | some B =>
    let held := as.filter (fun a => (look B.accMap a).isSome)
    let ps := held.filterMap (look B.accMap)
    let back := min (32768 * held.length) B.poolAcc
    modBasket (modShop s B.shop (fun h => { h with accUsed := h.accUsed.filter (fun p => !(ps.contains p)) })) b (fun B => { B with
      accMap := B.accMap.filter (fun p => !(held.contains p.1))
      acc := B.acc.filter (fun p => !(held.contains (p.1 / 8192)))
      pool := B.pool - back
      poolAcc := B.poolAcc - back })

/-- The modifier fields of an accumulator instruction that must be zero. -/
def accMod (m : BitVec 16) (hi : Nat) : Bool := decide (m.toNat % 2 ^ 8 < 2 ^ hi ∧ m.toNat / 2 ^ 8 = 0)

/-- ACC.ALLOC (R388). -/
def execAccAlloc (f : RRR) (s : State) : Host.Outcome State Fault Refusal :=
  let n := modOPX f.mod % 64 + 1
  issueRow s f.pn f.pred
    { ops := [dstIn 35 f.dst, unused f.sa, unused f.sb, unused f.sc], modOk := accMod f.mod 6, waits := true } (fun s c =>
    if c.once then
      match basketOf s c.wv with
      | none => .done s
      | some B =>
        match (List.range 64).find? (fun a => decide (a % 2 = 0 ∧ a + n ≤ 64) &&
            (List.range n).all (fun i => (look B.accMap (a + i)).isNone)) with
        | none => .done (writeDst s c f.dst.toNat 1 (fun _ => 0xFFFFFFFF))
        | some a =>
          if (accFree (shopOf s B.shop)).length < n ∨ poolSize s c.wv.ids.tenancy < poolUsed s c.wv.ids.tenancy + 32768 * n then
            .hold s .accAlloc .retry
          else
            let s1 := modBasket (accTake s c.wv.ids.basket a n) c.wv.ids.basket (fun B => { B with
              pool := B.pool + 32768 * n, poolAcc := B.poolAcc + 32768 * n })
            .done (writeDst s1 c f.dst.toNat 1 (fun _ => a))
    else .done s)

/-- ACC.FREE (R388): waits while a Loom operation of the basket that is not complete names one of the banks. -/
def execAccFree (f : RRR) (s : State) : Host.Outcome State Fault Refusal :=
  let n := modOPX f.mod % 64 + 1
  issueRow s f.pn f.pred
    { ops := [unused f.dst, srcIn 51 f.sa, unused f.sb, unused f.sc], modOk := accMod f.mod 6, waits := true } (fun s c =>
    if c.once then
      let a := (srcWord s c f.sa.toNat c.low).toNat
      let as := (List.range 64).filter (fun x => decide (a ≤ x ∧ x < a + n))
      let busy := s.weaves.any (fun p => decide (p.2.ids.basket = c.wv.ids.basket) &&
        p.2.loomCmds.any (fun x => x.result.isNone && x.names.any (fun y => as.contains y)))
      if busy then .hold s .accAlloc .retry else .done (accGive s c.wv.ids.basket as)
    else .done s)

/-- A bank that a started operation writes, for a weave whose matching LOOM.WAIT has not completed (R70, R403): one of its own
commands, or a command of an operation of which it is no member. Log 48 (DESIGN CHOICE). -/
def bankHot (s : State) (wv : Weave) (w a : Nat) : Bool :=
  s.weaves.any (fun p => decide (p.2.ids.basket = wv.ids.basket) && p.2.loomCmds.any (fun x =>
    x.started && x.banks.contains a && (decide (p.1 = w) || !((gangWids x.gang).contains wv.ids.wid))))

/-- The trap of an accumulator access out of range (R389). Log 47 (DEDUCED). -/
def accTrap (c : Ctx) (a o : Nat) : Effect := badBounds c (32768 * a + 4 * o) 6

/-- The bank and the word offset of ACC.RD and ACC.WR, checked for n rows (R389). -/
def accPlace (s : State) (c : Ctx) (f : RRR) (n : Nat) : (Nat × Nat) ⊕ Effect :=
  let a := (srcWord s c f.sa.toNat c.low).toNat
  let o := (srcWord s c f.sb.toNat c.low).toNat
  match basketOf s c.wv with
  | none => .inr (accTrap c a o)
  | some B => if (look B.accMap a).isNone ∨ o % 32 ≠ 0 ∨ 8192 < o + 32 * n then .inr (accTrap c a o) else .inl (a, o)

/-- ACC.RD (R389). -/
def execAccRd (f : RRR) (s : State) : Host.Outcome State Fault Refusal :=
  let n := modOPX f.mod % 16 + 1
  issueRow s f.pn f.pred
    { ops := [{ reg := f.dst.toNat, dst := true, cls := 1, wide := n, range := true }, srcIn 51 f.sa, srcIn 51 f.sb, unused f.sc],
      modOk := accMod f.mod 4 } (fun s c =>
    if c.q = 0 then .done s
    else
      match accPlace s c f n with
      | .inr e => e
      | .inl (a, o) =>
        let hot := bankHot s c.wv c.w a
        let acc := match basketOf s c.wv with | some B => B.acc | none => []
        .done (writeWords s c.w ((strandsOf c.q).flatMap (fun k => (List.range n).map (fun r =>
          (vKey (f.dst.toNat + r) k,
            if hot then freeWord s (32 * r + k) else cell acc (8192 * a + o + 32 * r + k)))))))

/-- Write accumulator words; a bank that a started operation writes keeps a free value (R403). -/
def accStore (s : State) (c : Ctx) (ws : List (Nat × Word)) : State :=
  modBasket s c.wv.ids.basket (fun B => { B with acc := ws.foldl (fun m p =>
    setCell m p.1 (if bankHot s c.wv c.w (p.1 / 8192) then freeWord s p.1 else p.2)) B.acc })

/-- ACC.WR (R389). -/
def execAccWr (f : RRR) (s : State) : Host.Outcome State Fault Refusal :=
  let n := modOPX f.mod % 16 + 1
  issueRow s f.pn f.pred
    { ops := [unused f.dst, srcIn 51 f.sa, srcIn 51 f.sb, { reg := f.sc.toNat, cls := 1, wide := n, range := true }],
      modOk := accMod f.mod 4 } (fun s c =>
    if c.q = 0 then .done s
    else
      match accPlace s c f n with
      | .inr e => e
      | .inl (a, o) => .done (accStore s c ((strandsOf c.q).flatMap (fun k => (List.range n).map (fun r =>
          (8192 * a + o + 32 * r + k, srcWord s c (f.sc.toNat + r) k))))))

/-- ACC.CLR (R389). -/
def execAccClr (f : RRR) (s : State) : Host.Outcome State Fault Refusal :=
  let n := modOPX f.mod % 64 + 1
  issueRow s f.pn f.pred
    { ops := [unused f.dst, srcIn 51 f.sa, unused f.sb, unused f.sc], modOk := accMod f.mod 6 } (fun s c =>
    if c.once then
      let a := (srcWord s c f.sa.toNat c.low).toNat
      let held := match basketOf s c.wv with
        | some B => (List.range n).all (fun i => (look B.accMap (a + i)).isSome)
        | none => false
      if 63 < a + n - 1 ∨ held = false then accTrap c a 0
      else .done (accStore s c ((List.range (8192 * n)).map (fun i => (8192 * a + i, 0))))
    else .done s)

end Sys2Proof.Machine
end

