-- ==== Sys2Proof/Machine/System.lean ====
section
/-!
DEFINITION. The system class and what stands beside it: SRD and SWR (spec/08_bench.md R188), ISYNC and DRAIN (R180), debug and
counters (spec/24_scrivener.md R441), GTWAIT (R435), versions and the Loft (spec/16_depot_loft.md R341, R344, R346), CAPQ and PGQ
(spec/15_reeve.md R325, R326), the pushes of PREF.T (R329) and LAUNCH.D (spec/07_steward.md R158), reserved opcodes (spec/05_encoding.md
R126).
-/

namespace Sys2Proof.Machine

open Sys2Proof

/-! ### The SYS format (R117) -/

/-- A SYS register field that holds 511; one that names any register is cause 3. Log 72 (DESIGN CHOICE). -/
def sysNone (r : BitVec 9) : Opnd := unused r 3

/-- A scalar register, or an even pair of them; anything else raises cause 3. -/
def sysReg (r : BitVec 9) (isDst : Bool) (wide : Nat) (orNone : Bool) : Opnd :=
  { reg := r.toNat, dst := isDst, cls := if orNone then 34 else 2, wide := wide, cause := 3 }

/-- The field is even, or holds 511. Log 25 (DEDUCED). -/
def sysEven (r : BitVec 9) : Bool := decide (r.toNat % 2 = 0 ∨ r.toNat = 511)

/-- A SYS instruction whose fields, outside its table, raise cause 3. -/
def sysForm (f : SYS) (d a : Opnd) (ok : Bool) (waits : Bool := false) : Form :=
  { ops := [d, a], modOk := decide (f.rsv = 0 ∧ f.sreg = 0) && ok, waits := waits }

/-! ### System registers (R188, R219, R301, R345, R401, R433) -/

/-- Bits of a system register: 32 or 64; `none` where no chapter defines one. -/
def sregBits (n : Nat) : Option Nat :=
  match n with
  | 0x10 => some 64
  | 0x11 => some 32
  | 0x20 => some 64
  | 0x21 => some 32
  | 0x30 => some 32
  | 0x31 => some 64
  | 0x40 => some 32
  | 0x50 => some 32
  | 0x51 => some 32
  | 0x52 => some 32
  | 0x53 => some 32
  | 0x54 => some 64
  | 0x55 => some 64
  | 0x60 => some 32
  | _ => none

/-- The registers that SWR may write. -/
def sregWritable (n : Nat) : Bool := [0x30, 0x50, 0x51, 0x52, 0x53, 0x60].contains n

/-- Virtual address of a weave's trap block (R156, R185). Log 1 (DESIGN CHOICE), 31 (DESIGN CHOICE). -/
def trapBlockVA (B : Basket) (w : Nat) : Nat := B.ctxVA.toNat + 4096 * ((B.weaves.takeWhile (fun x => decide (x ≠ w))).length)

/-- Bits of a mask over the four split slots. -/
def slotBits (wv : Weave) (p : Split → Bool) : Nat :=
  (List.range 4).foldl (fun a n => match look wv.splits n with
    | some sp => if p sp then a + 2 ^ n else a
    | none => a) 0

/-- The value of a system register as a weave reads it. -/
def sregValue (s : State) (w : Nat) (wv : Weave) (n : Nat) : Nat :=
  let B : Basket := (basketOf s wv).getD { lot := 0, gang := 0, bid := 0, linear := 0, shop := 0, ctxVA := 0, weaves := [] }
  match n with
  | 0x10 => trapBlockVA B w
  | 0x11 => slotBits wv (fun sp => sp.handler) * 2 ^ 12 + slotBits wv (fun _ => true) * 2 ^ 8 + wv.stack.length % 256
  | 0x20 => (shopOf s wv.shop).bankrole.toNat
  | 0x21 => wv.hdr.tobBanks * 2 ^ 24 + (wv.hdr.spad + 16383) / 16384 * 2 ^ 19 + wv.hdr.spad
  | 0x30 => wv.drayStatus * 2 ^ 24 + wv.drayCount
  | 0x31 => wv.drayFaddr.toNat
  | 0x40 => s.loftPeriod * 2 ^ 16 + 260
  | 0x50 => B.lnan
  | 0x51 => B.linv
  | 0x52 => B.lovf
  | 0x53 => B.lsat
  | 0x54 => wv.gang.toNat
  | 0x55 => (List.range 64).foldl (fun a k => if (look B.accMap k).isSome then a + 2 ^ k else a) 0
  | 0x60 => wv.ringbind.toNat
  | _ => 0

/-- Write a system register. -/
def sregWrite (s : State) (w : Nat) (wv : Weave) (n : Nat) (v : Word) : State :=
  let basket (f : Basket → Basket) : State := modBasket s wv.ids.basket f
  match n with
  | 0x30 => modWeave s w (fun wv => { wv with
      drayStatus := v.toNat / 2 ^ 24
      drayCount := v.toNat % 2 ^ 16
      drayNoted := false
      drayFaddr := if v = 0 then 0 else wv.drayFaddr })
  | 0x50 => basket (fun B => { B with lnan := v.toNat })
  | 0x51 => basket (fun B => { B with linv := v.toNat })
  | 0x52 => basket (fun B => { B with lovf := v.toNat })
  | 0x53 => basket (fun B => { B with lsat := v.toNat })
  | 0x60 => modWeave s w (fun wv => { wv with ringbind := v &&& 0x1FF })
  | _ => s

/-- SRD (R188). -/
def execSrd (f : SYS) (s : State) : Host.Outcome State Fault Refusal :=
  let n := f.sreg.toNat
  let wide := (sregBits n).getD 32 / 32
  issueRow s f.pn f.pred
    { ops := [sysReg f.dst true wide false, sysNone f.sa], modOk := decide (f.rsv = 0 ∧ f.imm = 0) && (sregBits n).isSome } (fun s c =>
    if c.once then .done (writeDst s c f.dst.toNat wide (fun _ => sregValue s c.w c.wv n)) else .done s)

/-- SWR (R188). -/
def execSwr (f : SYS) (s : State) : Host.Outcome State Fault Refusal :=
  let n := f.sreg.toNat
  issueRow s f.pn f.pred
    { ops := [sysNone f.dst, sysReg f.sa false 1 false], modOk := decide (f.rsv = 0 ∧ f.imm = 0) && sregWritable n } (fun s c =>
    if c.once then .done (sregWrite s c.w c.wv n (srcWord s c f.sa.toNat c.low)) else .done s)

/-! ### ISYNC, DRAIN, GTWAIT (R180, R435) -/

/-- ISYNC (R180): the weave's fetches from now on follow what any strand of the weave knows, and use no cached translation of a code
page. -/
def execIsync (f : SYS) (s : State) : Host.Outcome State Fault Refusal :=
  issueRow s f.pn f.pred (sysForm f (sysNone f.dst) (sysNone f.sa) (decide (f.imm = 0))) (fun s c =>
    if c.once then
      let s1 := setReeve s c.wv.ids.tenancy (fun r => { r with cache := r.cache.filter (fun e => !((leafAt e.1 e.1 e.2.1 e.2.2).x)) })
      .done (modWeave s1 c.w (fun wv => { wv with fview := joinView wv.fview (viewOf wv 0xFFFFFFFF) }))
    else .done s)

/-- An operation in flight has not completed: all but a LOOM.SPLIT that has run, which stands for its words (R70). Log 48 (DESIGN CHOICE). -/
def incomplete (o : Op) : Bool := !(decide (o.kind = .engine ∧ o.flags = []) && o.bound.isSome)

/-- DRAIN (R180): waits until every long-latency operation that the weave issued before has completed, whether a flag tracks it or not. -/
def execDrain (f : SYS) (s : State) : Host.Outcome State Fault Refusal :=
  issueRow s f.pn f.pred (sysForm f (sysNone f.dst) (sysNone f.sa) (decide (f.imm = 0)) true) (fun s c =>
    if c.once then
      let limit := heldLimit s c
      if s.ops.any (fun p => decide (p.1 < limit ∧ p.2.w = c.w) && incomplete p.2) then
        .hold s .flag .retry [(loomKey, BitVec.ofNat 32 limit), (loomKey + 1, BitVec.ofNat 32 (limit / 2 ^ 32))]
      else .done s
    else .done s)

/-- GTWAIT (R435): waits until global time is at least the pair a, and writes it to d. -/
def execGtwait (f : SYS) (s : State) : Host.Outcome State Fault Refusal :=
  issueRow s f.pn f.pred
    (sysForm f (sysReg f.dst true 2 true) (sysReg f.sa false 2 false) (decide (f.imm = 0) && sysEven f.dst && sysEven f.sa) true)
    (fun s c =>
    if c.once then
      let a := srcN s c f.sa.toNat c.low 2
      if a ≤ s.time then .done (writeDst s c f.dst.toNat 2 (fun _ => s.time % 2 ^ 64))
      else match c.held with
        | some _ => .stay s
        | none => .hold s .pause (.gtime a)
    else .done s)

/-! ### Debug and counters (R441) -/

/-- BKPT (R441): the debug trap, class 6, CAUSE 1. -/
def execBkpt (f : SYS) (s : State) : Host.Outcome State Fault Refusal :=
  issueRow s f.pn f.pred (sysForm f (sysNone f.dst) (sysNone f.sa) true) (fun s c =>
    if c.once then .trap { cls := 6, cause := 1, lanes := c.sp.mask, info := f.imm.toNat } else .done s)

/-- Write a trace record of the issuing split. -/
def traceIssue (s : State) (c : Ctx) (kind data : Nat) : State :=
  trace s c.wv.ids.tenancy c.wv.shop kind c.wv.ids.wid c.slot c.pc c.sp.mask c.wv.ids.lotid data

/-- TRACE (R441): a USER record. -/
def execTrace (f : SYS) (s : State) : Host.Outcome State Fault Refusal :=
  issueRow s f.pn f.pred (sysForm f (sysNone f.dst) (sysNone f.sa) true) (fun s c =>
    .done (if c.once then traceIssue s c 3 f.imm.toNat else s))

/-- TRACEV (R441): a USER record with a register's value. -/
def execTracev (f : SYS) (s : State) : Host.Outcome State Fault Refusal :=
  let vec := decide (f.sa.toNat < 384)
  issueRow s f.pn f.pred
    (sysForm f (sysNone f.dst) { reg := f.sa.toNat, cls := 3, wide := if vec then 1 else 2, cause := 3 }
      (decide (f.imm = 0) && (vec || sysEven f.sa))) (fun s c =>
    .done (if c.once then traceIssue s c 3 (srcN s c f.sa.toNat c.low (if vec then 1 else 2)) else s))

/-- PMARK (R441): MARK, and a MARK record. -/
def execPmark (f : SYS) (s : State) : Host.Outcome State Fault Refusal :=
  issueRow s f.pn f.pred (sysForm f (sysNone f.dst) (sysNone f.sa) true) (fun s c =>
    .done (if c.once then traceIssue (modWeave s c.w (fun wv => { wv with mark := f.imm })) c 4 f.imm.toNat else s))

/-- CNTRD (R441): a counter of the weave's shop. -/
def execCntrd (f : SYS) (s : State) : Host.Outcome State Fault Refusal :=
  let n := f.imm.toNat
  issueRow s f.pn f.pred
    (sysForm f (sysReg f.dst true 2 false) (sysNone f.sa) (decide (n < 4) && sysEven f.dst)) (fun s c =>
    if c.once then
      let h := shopOf s c.wv.shop
      let x := cell h.cntctl n
      let v := if x.getLsbD 26 && decide ((x.extractLsb' 28 4).toNat = c.wv.ids.tenancy) then (cell h.cnt n).toNat else 0
      .done (writeDst s c f.dst.toNat 2 (fun _ => v))
    else .done s)

/-! ### Versions and the Loft (R341, R344, R346) -/

/-- CKPT (R341): commits the open version; in a plain lot it does nothing. -/
def execCkpt (f : SYS) (s : State) : Host.Outcome State Fault Refusal :=
  issueRow s f.pn f.pred (sysForm f (sysNone f.dst) (sysNone f.sa) (decide (f.imm = 0))) (fun s c =>
    .done (if c.once && versioned s c.wv then newOp s c .ckpt [] 0 0 else s))

/-- VSTAT (R341): CKCOUNT, then VERSIONED, REPLAYABLE and the size of the open version. -/
def execVstat (f : SYS) (s : State) : Host.Outcome State Fault Refusal :=
  issueRow s f.pn f.pred
    (sysForm f (sysReg f.dst true 2 false) (sysNone f.sa) (decide (f.imm = 0) && sysEven f.dst)) (fun s c =>
    if c.once then
      let (ck, n) := match basketOf s c.wv with
        | some B => (B.ckcount, (versionLines B.version).length)
        | none => (0, 0)
      let hi := (if versioned s c.wv then 2 ^ 31 else 0) + (if ck = 0 then 2 ^ 30 else 0) + min n (2 ^ 30 - 1)
      .done (writeDst s c f.dst.toNat 2 (fun _ => ck + 2 ^ 32 * hi))
    else .done s)

/-- The checks of a strand of LOFT.LD (R344, R342): alignment, then its own partition. Log 25 (DEDUCED). -/
def checkLoft (s : State) (c : Ctx) (f : MemF) (k : Nat) : Chk :=
  let n := bytesSize f
  let ea := eaOf s c f k
  let d := (tenOf s c.wv.ids.tenancy).depot
  let lo := loftWin + 65536 * d.lbase
  let x : Chk :=
    if lo ≤ ea ∧ ea + n ≤ lo + 65536 * d.lsize then
      { strand := k, pas := (List.range n).map (fun i => loftBase + (ea - loftWin) + i), slots := List.replicate n 257 }
    else { strand := k, trap := some (4, 2, ea, 0) }
  x.addIf (decide (ea % n ≠ 0)) 2 3 ea 0

/-- LOFT.LD (R344): reads the local Loft into registers, or into the TOB. -/
def execLoftLd (f : MemF) (s : State) : Host.Outcome State Fault Refusal :=
  let tob := f.mx.getLsbD 0
  let sx := f.mx.getLsbD 1
  let d := f.ds.toNat
  issueRow s f.pn f.pred
    { ops := [{ reg := d, dst := !tob, cls := if tob then 9 else 41, wide := if tob then 1 else dataWide f, cause := 7, eng := true },
              { reg := f.base.toNat, cls := 11, wide := 2, cause := 7 }],
      modOk := decide (f.mx.toNat < 4) && !(sx && (tob || decide (1 < f.size.toNat))) && decide (regIndex f.base.toNat % 2 = 0),
      modCause := 7,
      memOk := decide (f.size.toNat ≤ 4 ∧ f.scope = 0 ∧ f.ann = 0 ∧ f.cop = 0) } (fun s c =>
    if c.q = 0 then .done s
    else
      let n := bytesSize f
      let cs := c.strands.map (fun k =>
        let x := checkLoft s c f k
        if tob then
          let off := srcN s c d k 1
          (x.addIf (decide (off % n ≠ 0)) 2 3 (eaOf s c f k) 0).addIf (decide (c.wv.hdr.tobBanks * 16384 < off + n)) 3 1 off 1
        else x)
      onChecked s c .read cs (fun s =>
        let lanes := cs.map (fun x => laneOf s c f x [] (if tob then srcN s c d x.strand 1 else 0))
        .done (newOp s c (.loftLoad f.size.toNat sx (if tob then .none else destOf d) tob lanes)
          (if tob then [] else dstKeys d (dataWide f) c.q) 0 0)))

/-- LOFT.WAITR (R346): waits until at least n ns remain before the next refresh window. -/
def execLoftWaitr (f : SYS) (s : State) : Host.Outcome State Fault Refusal :=
  issueRow s f.pn f.pred (sysForm f (sysReg f.dst true 1 true) (sysNone f.sa) true true) (fun s c =>
    if c.once then
      let p := s.loftPeriod
      let r := s.time % p
      if 260 ≤ r ∧ min f.imm.toNat (p - 260) ≤ p - r then .done (writeDst s c f.dst.toNat 1 (fun _ => p - r))
      else .hold s .loftRefresh .retry
    else .done s)

/-! ### CAPQ and PGQ (R323, R325, R326) -/

/-- CAP of a tenancy (R323). -/
def capReg (s : State) (t : Nat) : Nat :=
  let r := (tenOf s t).reeve
  r.quota * 2 ^ 40 + r.retired * 2 ^ 16 + r.capEvents

/-- The grain holds dirty bytes (R311). -/
def grainDirty (s : State) (g : Nat) : Bool := s.dirty.any (fun p => decide (grainOf p.1 = g))

/-- Grains that a tenancy holds in the near tier. -/
def tenGrains (s : State) (t : Nat) : Tab Grain := s.grains.filter (fun p => decide (p.2.tenancy = t))

/-- RESIDENT of a tenancy (R323). -/
def residentReg (s : State) (t : Nat) : Nat :=
  let gs := tenGrains s t
  gs.length * 2 ^ 40 + (gs.filter (fun p => grainDirty s p.1)).length * 2 ^ 16

/-- CAPQ (R326). -/
def execCapq (f : SYS) (s : State) : Host.Outcome State Fault Refusal :=
  issueRow s f.pn f.pred
    (sysForm f (sysReg f.dst true 2 false) (sysNone f.sa) (decide (f.imm.toNat < 2) && sysEven f.dst)) (fun s c =>
    if c.once then
      let t := c.wv.ids.tenancy
      let v := if f.imm = 0 then capReg s t else residentReg s t
      .done (writeDst s c f.dst.toNat 2 (fun _ => v))
    else .done s)

/-- The form of PGQ for an operation (R325): a range, or every translation; privileged for INV and INVALL. -/
def pgqForm (f : SYS) (op : Nat) (range priv : Bool) : Form :=
  { sysForm f (sysNone f.dst) (if range then sysReg f.sa false 2 false else sysNone f.sa)
      (decide ((f.imm.extractLsb' 14 2).toNat = op) && (if range then sysEven f.sa else decide (f.imm.extractLsb' 0 14 = 0))) with
    priv := priv }

/-- Grains that PGQ names: 1 to 16,384. -/
def pgqN (f : SYS) : Nat := (f.imm.extractLsb' 0 14).toNat + 1

/-- PGQ.INV and PGQ.EVICT: the VA is a multiple of 65,536, or the ALIGN trap, cause 5. -/
def pgqRange (s : State) (c : Ctx) (f : SYS) (ann scope : Nat) (kind : Nat → OpKind) : Effect :=
  if c.once then
    let va := srcN s c f.sa.toNat c.low 2
    if va % 65536 ≠ 0 then .trap { cls := 2, cause := 5, lanes := c.sp.mask, addr := va }
    else .done (newOp s c (kind va) [] ann scope)
  else .done s

/-- PGQ.INV (R325): takes the release action at scope 3, then drops the translations that cover a range. Log 63 (DEDUCED). -/
def execPgqInv (f : SYS) (s : State) : Host.Outcome State Fault Refusal :=
  issueRow s f.pn f.pred (pgqForm f 0 true true) (fun s c => pgqRange s c f 2 3 (fun va => .invalidate va (pgqN f) false))

/-- PGQ.INVALL (R325): drops every translation of the tenancy. Log 63 (DEDUCED). -/
def execPgqInvall (f : SYS) (s : State) : Host.Outcome State Fault Refusal :=
  issueRow s f.pn f.pred (pgqForm f 1 false true) (fun s c =>
    .done (if c.once then newOp s c (.invalidate 0 0 true) [] 2 3 else s))

/-- PGQ.EVICT (R325): writes back and drops the evictable grains of a range. -/
def execPgqEvict (f : SYS) (s : State) : Host.Outcome State Fault Refusal :=
  issueRow s f.pn f.pred (pgqForm f 2 true false) (fun s c =>
    pgqRange s c f 0 0 (fun va => .evict ((List.range (pgqN f)).map (fun i => (va + 65536 * i) % 2 ^ 64))))

/-! ### PREF.T and LAUNCH.D (R329, R158) -/

/-- The extents of a prefetch descriptor: E0, E1, E2. -/
def prefOk (d : List Word) : Bool :=
  let e (k : Nat) : Nat := dWord d k
  decide (e 2 ≠ 0 ∧ 1 ≤ e 3 ∧ e 3 ≤ 65536 ∧ 1 ≤ e 4 ∧ e 4 ≤ 65536 ∧ e 2 * e 3 * e 4 ≤ 2 ^ 36 ∧ e 7 < 16)

/-- PREF.T (R329): pushes a prefetch descriptor. -/
def execPrefT (f : ENG) (s : State) : Host.Outcome State Fault Refusal :=
  issueRow s f.pn f.pred
    (engForm f (engUnused f.dst) (descOpnd f 3) [7] (!(f.cmask.getLsbD 0) && !(f.cmask.getLsbD 1 && f.cmask.getLsbD 2))) (fun s c =>
    onFirst s c (fun _ =>
      if c.once then
        let d := (List.range 8).map (descWord s c f c.low)
        pushEng s c f 8 [] (fun s => s) (if prefOk d then .inl { words := d, q := c.q } else .inr (badDesc c))
      else .done s))

/-- LAUNCH.D (R158): pushes a launch descriptor; the push is a release at level 3, which commits in a VERSIONED lot (R66, R333). -/
def execLaunchD (f : ENG) (s : State) : Host.Outcome State Fault Refusal :=
  issueRow s f.pn f.pred
    (engForm f (engUnused f.dst) (descOpnd f 2) [15] (!(f.cmask.getLsbD 0) && !(f.cmask.getLsbD 1 && f.cmask.getLsbD 2))) (fun s c =>
    onFirst s c (fun _ =>
      if c.once then
        let d := (List.range 16).map (descWord s c f c.low)
        if !(pushRoom s c.wv 11) then .hold s .queueFull .retry
        else
          match pushCommit s c with
          | .inr e => e
          | .inl s1 =>
            match weaveOf s1 c.w with
            | none => .gone s1
            | some wv => pushEng s1 { c with wv := wv } f 11 [] (fun s => s) (.inl { words := d, q := c.q })
      else .done s))

/-! ### Reserved opcodes (R126) -/

/-- A reserved opcode raises the illegal-instruction trap, cause 1. -/
def execReservedOpcode (_w : DWord) (s : State) : Host.Outcome State Fault Refusal :=
  issueRow s 0 7 { ops := [] } (fun _ c => .trap (illegal c 1))

end Sys2Proof.Machine
end

