-- ==== Sys2Proof/Machine/Launch.lean ====
section
/-!
DEFINITION. What a launch is checked for and what it creates (spec/02_execution_model.md R34, R38; spec/06_assembler.md R139
to R141; spec/07_steward.md R147 to R150, R155 to R158; spec/16_depot_loft.md R334; spec/24_scrivener.md R447, R448).
-/

namespace Sys2Proof.Machine

open Sys2Proof

/-- A little-endian field of n bytes at offset o. -/
def fieldAt (bs : List Byte) (o n : Nat) : Nat := natOfBytes ((bs.drop o).take n)

/-- Bit b of a number. -/
def bitAt (x b : Nat) : Nat := x / 2 ^ b % 2

/-! ### The role header (R139 to R141) -/

/-- The disposition code of class c in TRAPDISP (R140). -/
def dispAt (td c : Nat) : Nat := td / 4 ^ c % 4

/-- The first of conditions 1 to 3 of R141 that a header at an address breaks; 0 for none. -/
def hdrFails (addr : Nat) (bs : List Byte) : Nat :=
  let f := fieldAt bs
  let classes := List.range 9
  if f 0 4 ≠ 0x4B484A42 ∨ f 4 2 ≠ 1 ∨ f 6 2 ≠ 64 ∨ addr % 64 ≠ 0 ∨ f 8 2 < 1 ∨ 384 < f 8 2 ∨ 64 < f 0x0A 1 ∨ 16 < f 0x0B 1 ∨
      1 < f 0x0C 1 ∨ f 0x0E 1 < 1 ∨ 4 < f 0x0E 1 ∨ f 0x0E 1 ≤ f 0x0D 1 ∨ f 0x0F 1 < 1 ∨ 32 < f 0x0F 1 ∨ 507904 < f 0x10 4 ∨
      31 < f 0x14 1 ∨ 64 < f 0x15 1 ∨ f 0x16 1 < 1 ∨ 12 < f 0x16 1 ∨ f 0x28 2 < 1 ∨ 31 < (f 0x10 4 + 16383) / 16384 + f 0x14 1 ∨
      classes.any (fun c => decide (dispAt (f 0x18 4) c = 3) || (decide (dispAt (f 0x18 4) c = 2) && decide (c ≠ 7))) then 1
  else if 4 ≤ f 0x17 1 ∨ 2 ^ 18 ≤ f 0x18 4 ∨ f 0x2C 20 ≠ 0 then 2
  else if f 0x1C 4 = 0 ∧ classes.any (fun c => decide (dispAt (f 0x18 4) c = 1)) then 3
  else 0

/-- The header that 64 bytes hold. -/
def hdrOf (addr : Nat) (bs : List Byte) : Hdr :=
  let f := fieldAt bs
  { addr := BitVec.ofNat 64 addr, vregs := f 8 2, sregs := f 0x0A 1, tregs := f 0x0B 1, renamed := decide (f 0x0C 1 = 1),
    role := f 0x0D 1, nroles := f 0x0E 1, weaves := f 0x0F 1, spad := f 0x10 4, tobBanks := f 0x14 1, accBanks := f 0x15 1,
    gang := f 0x16 1, flags := f 0x17 1, trapDisp := BitVec.ofNat 32 (f 0x18 4), handler := BitVec.ofNat 32 (f 0x1C 4),
    liveOff := BitVec.ofNat 64 (f 0x20 8), liveCount := f 0x28 2, vquota := f 0x2A 2 }

/-- What the Steward reads of a tenancy's bytes: the newest, none of which it can read, or a lease to be renewed first (R307, R315). -/
inductive HdrRead where
  | ok (data : List Byte) | bad | wait
  deriving DecidableEq, Repr

/-- The Steward reads bytes of a tenancy. -/
def stewardRead (s : State) (t va n : Nat) : HdrRead :=
  let bytes := (List.range n).map (fun i => agentByte s t ((va + i) % 2 ^ 64) .read)
  if bytes.any Option.isNone then .bad
  else if bytes.any (fun b => decide (b = some none)) then .wait
  else .ok (bytes.map (fun b => match b.join with | some pa => readByte s pa | none => 0))

/-- How a range of n bytes fares, from one byte of each page (R305). -/
def rangeFare (s : State) (t lo n : Nat) : HdrRead :=
  let probes := lo :: (lo + n - 1) :: (List.range (n / 65536 + 1)).map (fun i => min (65536 * (lo / 65536 + i + 1)) (lo + n - 1))
  let rs := probes.map (fun a => stewardRead s t a 1)
  if rs.contains .bad then .bad else if rs.contains .wait then .wait else .ok []

/-- How a liveness table fares: its records, and the part of the range pool that each names (R142). -/
def tableFare (s : State) (t lo n : Nat) : HdrRead :=
  match rangeFare s t lo (64 * n) with
  | .ok _ =>
    let rs : List HdrRead := (List.range n).map (fun i =>
      match stewardRead s t (lo + 64 * i + 0x3C) 4 with
      | .ok bs => if fieldAt bs 0 1 = 0 then HdrRead.ok [] else rangeFare s t (lo + 64 * n + 8 * fieldAt bs 1 3) (8 * fieldAt bs 0 1)
      | r => r)
    if rs.contains .bad then .bad else if rs.contains .wait then .wait else .ok []
  | r => r

/-- The bytes of a header, if the tenancy can read it and its liveness table (R141). -/
def readHdr (s : State) (t va : Nat) : HdrRead :=
  match stewardRead s t va 64 with
  | .ok bs =>
    match tableFare s t ((va + fieldAt bs 0x20 8) % 2 ^ 64) (max 1 (fieldAt bs 0x28 2)) with
    | .ok _ => .ok bs
    | r => r
  | r => r

/-- The fields on which the headers of a launch must agree (R141). -/
def agreeKey (h : Hdr) : Bool × List Nat :=
  (h.renamed, [h.nroles, h.spad, h.tobBanks, h.accBanks, h.gang, h.flags, h.vquota])

/-- What the check of a launch gives: a refusal, its reason and DETAIL (R150), or the role headers in role order. -/
inductive LaunchCheck where
  | refuse (reason : Nat) (detail : List Byte)
  | ok (hdrs : List Hdr)
  /-- a lease is to be renewed before the headers can be read (R307, R315) -/
  | wait
  deriving DecidableEq, Repr

/-- The role headers that a LAUNCH packet names, with their index k (R148): a lot has at least one role (R35). -/
def namedHdrs (pkt : List Byte) : List (Nat × Nat) :=
  ((List.range 4).map (fun k => (k, fieldAt pkt (8 + 8 * k) 8))).filter (fun p => decide (p.1 = 0 ∨ p.2 ≠ 0))

/-- The least (condition, k) of a list of failures. Log 36 (DEDUCED). -/
def leastFail : List (Nat × Nat) → Option (Nat × Nat)
  | [] => none
  | p :: ps =>
    match leastFail ps with
    | none => some p
    | some q => if q.1 < p.1 ∨ (q.1 = p.1 ∧ q.2 < p.2) then some q else some p

/-- The checks of R34 and R141 on a LAUNCH packet of a tenancy (R148). Log 36 (DEDUCED). -/
def checkLaunch (s : State) (t : Nat) (pkt : List Byte) (priv : Bool) : LaunchCheck :=
  let x := fieldAt pkt 0x28 4
  let y := fieldAt pkt 0x2C 4
  let z := fieldAt pkt 0x30 4
  let g := fieldAt pkt 0x34 1
  let versioned := decide (bitAt (fieldAt pkt 1 1) 1 = 1)
  if x = 0 ∨ y = 0 ∨ z = 0 ∨ g = 0 ∨ 12 < g ∨ 2 ^ 32 < x * y * z * g then .refuse 0x0003 []
  else
    let named := namedHdrs pkt
    let got := named.map (fun p => (p.1, p.2, readHdr s t p.2))
    let hs := got.filterMap (fun p => match p.2.2 with | .ok bs => some (p.1, hdrOf p.2.1 bs) | _ => none)
    let unread := (got.filter (fun p => decide (p.2.2 = .bad))).map (fun p => (10, p.1))
    let own := (got.filterMap (fun p => match p.2.2 with | .ok bs => some (hdrFails p.2.1 bs, p.1) | _ => none)).filter
      (fun p => decide (p.1 ≠ 0))
    let nr := (hs.map (fun p => p.2.nroles)).headD 0
    let roles := decide (unread = []) && !(decide (hs.length = nr) && (List.range nr).all (fun r => hs.any (fun p => decide (p.2.role = r)))
      && hs.all (fun p => decide (p.1 < nr)))
    let each (c : Nat) (f : Hdr → Bool) : List (Nat × Nat) := (hs.filter (fun p => f p.2)).map (fun p => (c, p.1))
    let fails := own ++ unread ++ (if roles then [(4, 0)] else []) ++
      (if 32 < hs.foldl (fun a p => a + p.2.weaves) 0 then [(5, 0)] else []) ++
      (if hs.any (fun p => hs.any (fun q => decide (agreeKey p.2 ≠ agreeKey q.2))) then [(6, 0)] else []) ++
      each 7 (fun h => decide (h.gang ≠ g)) ++ each 8 (fun h => h.flags.testBit 0 && !versioned) ++
      each 9 (fun h => h.flags.testBit 1 && !priv)
    if got.any (fun p => decide (p.2.2 = .wait)) then .wait
    else match leastFail fails with
    | some (c, k) => .refuse 0x0002 [BitVec.ofNat 8 k, BitVec.ofNat 8 c]
    | none => .ok ((List.range nr).filterMap (fun r => (hs.find? (fun p => decide (p.2.role = r))).map (fun p => p.2)))

/-! ### What a basket needs, and where it may go (R38, R155 to R157) -/

/-- Weave-registers that the carving reserves (R157). -/
def needRegs (hs : List Hdr) : Nat := hs.foldl (fun a h => a + (if h.renamed then min h.vregs 32 else h.vregs) * h.weaves) 0

/-- Weaves of a basket (R35). -/
def needWeaves (hs : List Hdr) : Nat := hs.foldl (fun a h => a + h.weaves) 0

/-- Scratchpad banks of a basket (R139). -/
def spBanks (hs : List Hdr) : Nat := ((hs.map (fun h => (h.spad + 16383) / 16384)).headD 0)

/-- TOB banks of a basket. -/
def tobBanksOf (hs : List Hdr) : Nat := (hs.map (fun h => h.tobBanks)).headD 0

/-- Accumulator banks of a basket at placement. -/
def accBanksOf (hs : List Hdr) : Nat := (hs.map (fun h => h.accBanks)).headD 0

/-- Bytes of the context pool that a basket reserves (R156). -/
def needPool (hs : List Hdr) : Nat :=
  hs.foldl (fun a h => a + h.weaves * (4096 + 128 * h.vregs)) 0 + 16384 * (spBanks hs + tobBanksOf hs) + 32768 * accBanksOf hs

/-- Frames that a basket's spill arena takes of the tenancy's quota (R156, R26): 2,048 bytes for each weave, and in renamed mode its
vector registers. Log 40 (DEDUCED). -/
def needArena (hs : List Hdr) : Nat :=
  (hs.foldl (fun a h => a + h.weaves * (2048 + (if h.renamed then 128 * h.vregs else 0))) 0 + 65535) / 65536

/-- Frames that the spill arenas of a tenancy have reserved, and may (R26, R311). Log 40 (DEDUCED). -/
def arenaUsed (s : State) (t : Nat) : Nat :=
  s.baskets.foldl (fun a p => match look s.lots p.2.lot with
    | some l => if l.tenancy = t then a + p.2.arena else a
    | none => a) 0

/-- Frames of the tenancy's quota in which spill arenas may stand. -/
def arenaRoom (s : State) (t : Nat) : Nat := (tenOf s t).reeve.quota - (tenOf s t).reeve.retired

/-- A tenancy holds the arcades of TARC: it is SEALED and not FREE. -/
def holdsArcades (T : Tenancy) : Bool := sealedTen T && decide (T.state ≠ 0)

/-- An arcade of the package is sealed (R29). -/
def arcadeSealed (s : State) (a : Nat) : Bool := s.tenancies.any (fun p => holdsArcades p.2 && p.2.tarc.getLsbD a)

/-- The shop has its four counters assigned to the tenancy (R447). -/
def countersOf (s : State) (t shop : Nat) : Bool :=
  (List.range 4).all (fun c =>
    let x := cell (shopOf s shop).cntctl c
    x.getLsbD 26 && decide ((x.extractLsb' 28 4).toNat = t))

/-- A shop that the work of a lot may use (R29, R155, R447). -/
def shopAllowed (s : State) (t : Nat) (replay : Bool) (shop : Nat) : Bool :=
  let T := tenOf s t
  decide (shop < 192) && (if sealedTen T then T.tarc.getLsbD (arcadeOf shop) else !(arcadeSealed s (arcadeOf shop))) &&
    (!replay || countersOf s t shop)

/-- The windows of shops in which a gang of g baskets may stand (R38): a die for g = 1, three adjacent arcades of a die
otherwise. -/
def windows (g : Nat) : List (List Nat) :=
  (List.range 4).flatMap (fun d =>
    if g = 1 then [(List.range 48).map (fun i => 48 * d + i)]
    else (List.range 10).map (fun a => (List.range 12).map (fun i => 48 * d + 4 * a + i)))

/-- The shop quota of a tenancy (R155): none for a SEALED one. -/
def shopQuota (T : Tenancy) : Nat := if sealedTen T then 192 else (T.tcfg.extractLsb' 56 8).toNat

/-- Some die could hold one gang within the tenancy's shops and quotas, were its shops empty (R150 reason 0x0004). Log 40 (DEDUCED). -/
def canFit (s : State) (t : Nat) (hs : List Hdr) (g : Nat) (replay : Bool) : Bool :=
  decide (needRegs hs ≤ 8192 ∧ g * needPool hs ≤ poolSize s t ∧ g * needArena hs ≤ arenaRoom s t ∧ g ≤ shopQuota (tenOf s t)) &&
    (windows g).any (fun w => decide (g ≤ (w.filter (shopAllowed s t replay)).length))

/-! ### The lot -/

/-- A lotid that no lot of the tenancy has had (R36): which one is free. Log 37 (DESIGN CHOICE). -/
def newLotid (s : State) (t : Nat) : BitVec 32 :=
  let used := ((s.lots.filter (fun p => decide (p.2.tenancy = t))).map (fun p => p.2.lotid.toNat))
  let x := (freeWord s 9).toNat
  let tries := (List.range (used.length + 2)).map (fun i => (x + i) % 2 ^ 32)
  BitVec.ofNat 32 ((tries.find? (fun y => decide (y ≠ 0) && !(used.contains y))).getD 1)

/-- The lot of a checked LAUNCH packet (R148, R153): PENDING. -/
def lotOf (s : State) (t q pindex : Nat) (pkt : List Byte) (hs : List Hdr) (priv : Bool) (view : View) : Lot :=
  { lotid := newLotid s t, tenancy := t, queue := q, pindex := pindex, tag := BitVec.ofNat 32 (fieldAt pkt 4 4),
    versioned := decide (bitAt (fieldAt pkt 1 1) 1 = 1), x := fieldAt pkt 0x28 4, y := fieldAt pkt 0x2C 4, z := fieldAt pkt 0x30 4,
    gsize := fieldAt pkt 0x34 1, hdrs := hs, args := BitVec.ofNat 64 (fieldAt pkt 0x38 8), priv := priv, waiting := s.time, bare := s.time,
    start := view }

/-- Before the first gang of replay pass k is placed: counters cleared, events chosen, the lot filter set (R448). -/
def beginPass (s : State) (t k : Nat) (lotid : BitVec 32) : State :=
  let ev (c : Nat) : BitVec 64 := (cell (tenOf s t).scriv.evset (4 * (k - 1) + c)).setWidth 64
  { s with shops := s.shops.map (fun p =>
      let mine (c : Nat) : Bool :=
        let x := cell p.2.cntctl c
        x.getLsbD 26 && decide ((x.extractLsb' 28 4).toNat = t)
      let cs := (List.range 4).filter mine
      (p.1, { p.2 with
        cnt := cs.foldl (fun m c => setCell m c 0) p.2.cnt
        cntctl := cs.foldl (fun m c =>
          setCell m c (lotid.setWidth 64 <<< 32 ||| (cell m c &&& 0xF4000000) ||| 0x08000000 ||| ev c)) p.2.cntctl })) }

/-- Enter a lot. A lot whose packet starts while its tenancy is in REPLAY is a replay lot (R447). -/
def enterLot (s : State) (key : Nat) (l : Lot) (replay : Bool) : State :=
  let np := (tenOf s l.tenancy).scriv.npass
  if replay then beginPass { s with lots := put s.lots key { l with npass := np, passReq := np, pass := 1, passFrom := s.stamp } } l.tenancy 1 l.lotid
  else { s with lots := put s.lots key l }

end Sys2Proof.Machine
end

