-- ==== Sys2Proof/Machine/Queues.lean ====
section
/-!
DEFINITION. The work queues of the Steward and their packets (spec/07_steward.md R144 to R152, R158; spec/16_depot_loft.md R339,
R343): register writes, the start of a packet, each kind of packet, the replies of the runtime, and device-side launch. In each
event a is a queue and b a packet index, unless it is said otherwise.
-/

namespace Sys2Proof.Machine

open Sys2Proof

/-! ### Queue state -/

/-- QSTAT.STATE (R144, R151, R152): 0 DISABLED, 1 RUNNING, 2 WAITING, 3 STALLED, 4 SUSPENDED, 5 ABORTED, 6 EXFULL. Which of several
shows, and what WAITING means, is the model's choice: log 72 (DESIGN CHOICE). -/
def queueState (Q : Queue) : Nat :=
  if !Q.enable then 0
  else if Q.aborted then 5
  else if !Q.heldRec.isEmpty then 6
  else if !Q.stalled.isEmpty then 3
  else if Q.suspend then 4
  else if Q.packets.any (fun p => decide (p.2.kind = 3) || !p.2.begun) then 2
  else 1

/-- The queue may start a packet: it is enabled, not ABORTED, EXFULL or STALLED (R151, R152). -/
def queueOpen (Q : Queue) : Bool := Q.enable && !Q.aborted && Q.heldRec.isEmpty && Q.stalled.isEmpty

/-- LAUNCH packets whose lots are complete or HALTED leave the table; the Steward knows what their lots did (R73, R153).
Log 38 (DEDUCED). -/
def reapPackets (s : State) (q : Nat) : State :=
  let covered := (queueOf s q).packets.filter (fun p => decide (p.2.kind = 1) && p.2.begun && (match p.2.unit with
    | some L => (match look s.lots L with | some l => decide (2 ≤ l.state) | none => true)
    | none => false))
  match covered with
  | [] => s
  | _ => modQueue s q (fun Q => { Q with
      packets := Q.packets.filter (fun p => !(covered.contains p))
      done := covered.foldl (fun v p => match p.2.unit.bind (look s.lots) with | some l => joinView v l.view | none => v) Q.done })

/-- Every packet of the queue that was read before packet i is complete. -/
def earlierDone (Q : Queue) (i : Nat) : Bool := Q.packets.all (fun p => decide (i ≤ p.1))

/-- Post a record that awaits a reply and stall the queue (R150, R151); `started`: RDIDX counts the packet. -/
def failPacket (s : State) (q i reason : Nat) (tag : BitVec 32) (detail : List Byte) (started : Bool) : State :=
  stallOn s q { reason := reason, tag := tag, pindex := i, lotid := 0, basket := 0, detail := detail, xflags := 0, respond := true }
    0 0 started

/-- Put an event of the Steward next. Log 13 (DEDUCED). -/
def soon (s : State) (i : Instr) (a : EventArgs) : State := { s with agenda := .event i a :: s.agenda }

/-! ### Reading packets (R146, R147, R149) -/

/-- The byte ranges that the layout of a KIND defines after the common header (R148, R149). -/
def definedBytes : Nat → List (Nat × Nat)
  | 1 => [(8, 64)]
  | 2 => [(8, 32)]
  | 3 => [(8, 25), (28, 32)]
  | 4 => [(8, 28)]
  | 5 => [(8, 32)]
  | _ => []

/-- Offsets of the offending fields of a packet (R147, R149, R343). -/
def offending (s : State) (t : Nat) (host : Bool) (p : List Byte) : List Nat :=
  let f := fieldAt p
  let kind := f 0 1
  let ifs (l : List (Bool × Nat)) : List Nat := (l.filter (fun x => x.1)).map (fun x => x.2)
  let d := (tenOf s t).depot
  ifs [(decide (6 < kind), 0), (decide (4 ≤ f 1 1) || (decide (bitAt (f 1 1) 1 = 1) && decide (kind ≠ 1)), 1), (decide (f 2 2 ≠ 0), 2)] ++
  ((List.range 56).map (fun i => i + 8)).filter (fun i => decide (f i 1 ≠ 0) &&
    (definedBytes kind).all (fun r => decide (i < r.1 ∨ r.2 ≤ i))) ++
  ifs [(decide (kind = 1) && host && decide (f 0x35 3 ≠ 0), 0x35),
    (decide (kind = 2) && decide (f 0x18 8 < 1 ∨ 2 ^ 40 < f 0x18 8), 0x18),
    (decide (kind = 3 ∨ kind = 4) && decide (f 8 8 % 8 ≠ 0), 8),
    (decide (kind = 3) && decide (2 < f 0x18 1), 0x18),
    (decide (kind = 4) && decide (1 < f 0x18 1), 0x18), (decide (kind = 4) && decide (1 < f 0x19 1), 0x19),
    (decide (kind = 4) && decide (2047 < f 0x1A 2), 0x1A),
    (decide (kind = 5) && decide (f 8 8 % 64 ≠ 0), 8),
    (decide (kind = 5) && decide (f 0x10 8 % 64 ≠ 0 ∨ 65536 * d.lsize < f 0x10 8), 0x10),
    (decide (kind = 5) && decide (f 0x18 8 % 64 ≠ 0 ∨ 65536 * d.lsize < f 0x10 8 + f 0x18 8), 0x18)]

/-- The offset of the first offending field of a malformed packet; `none` for a well-formed one. Log 36 (DEDUCED). -/
def malformedAt (s : State) (t : Nat) (host : Bool) (p : List Byte) : Option Nat :=
  (offending s t host p).foldl (fun m o => match m with | some x => some (min x o) | none => some o) none

/-- The address of packet n (R146). -/
def packetVA (Q : Queue) (n : Nat) : Nat := (Q.qbase.toNat + 64 * (n % 2 ^ Q.log2size)) % 2 ^ 64

/-- The first of n bytes that an agent cannot read. Log 36 (DEDUCED). -/
def firstBad (s : State) (t va n : Nat) : Nat :=
  match (List.range n).find? (fun i => (agentRead s t (va + i) 1).isNone) with
  | some i => va + i
  | none => va

/-- The event that acts on a packet of a KIND. Log 13 (DEDUCED). -/
def kindEvent : Nat → Instr
  | 0 => .nopPacket
  | 1 => .launchPacket
  | 2 => .copyPacket
  | 3 => .waitsigPacket
  | 4 => .signalPacket
  | 5 => .loftwritePacket
  | _ => .fencePacket

/-- What the Steward reads as packet i of a queue: an acquire at level 3 (R146, R73). -/
def packetRead (s : State) (q i : Nat) : AgentGot :=
  agentReadAs s .steward (queueOf s q).tenancy (packetVA (queueOf s q) i) 64 (queueOf s q).view 3 (1000 * (q + 1))

/-- Read packet i of a queue and enter it, to start next (R146, R147); or refuse it (R150); or wait for a lease (R307, R315).
Log 36 (DEDUCED). -/
def readPacket (s : State) (q i : Nat) (started : Bool) : State :=
  let Q := queueOf s q
  match packetRead s q i with
  | .wait => s
  | .fail va => failPacket s q i 0x0005 0 (bytesOf 8 va) started
  | .ok p view =>
    let tag := BitVec.ofNat 32 (fieldAt p 4 4)
    match malformedAt s Q.tenancy true p with
    | some o => failPacket s q i 0x0001 tag (bytesOf 8 o) started
    | none =>
      let pk : Packet := { kind := fieldAt p 0 1, flags := fieldAt p 1 1, tag := tag, body := p }
      soon (modQueue s q (fun Q => { Q with packets := put Q.packets i pk, view := joinView Q.view view })) (kindEvent pk.kind)
        { a := q, b := i, c := choose s 11 192 }

/-- A packet that keeps later packets from being read: one that has not started, WAITSIG, LOFTWRITE, FENCE (R149). One that carries BARRIER
and has started keeps none: log 72 (DESIGN CHOICE). Log 36 (DEDUCED). -/
def blocking (p : Packet) : Bool := !p.begun || [3, 5, 6].contains p.kind

/-- Post held records while the ring has room and its lease lets them be written (R152, R315). -/
def postHeld : Nat → State → Nat → State
  | 0, s, _ => s
  | n + 1, s, q =>
    match (queueOf s q).heldRec with
    | [] => s
    | r :: rs => if exFull (queueOf s q) || exBusy s q then s else postHeld n (exWrite (modQueue s q (fun Q => { Q with heldRec := rs })) q r) q

/-- PACKET_START (R146): the Steward reads the next packet. -/
def execPacketStart (s : State) : Host.Outcome State Fault Refusal :=
  let q := s.ev.a
  let s1 := reapPackets (postHeld (queueOf s q).heldRec.length s q) q
  let Q := queueOf s1 q
  let i := Q.rdidx.toNat
  if !(queueOpen Q) || s.d3hot || decide (Q.wridx.toNat ≤ i) || Q.packets.any (fun p => blocking p.2) then .next s1
  else if 2 ^ Q.log2size < Q.wridx.toNat - i then .next (failPacket s1 q i 0x0006 0 (bytesOf 8 Q.wridx.toNat) false)
  else .next (readPacket s1 q i false)

/-! ### Starting a packet -/

/-- A packet of a kind that may start now (R147, R149): it has been read, and with BARRIER, or as a FENCE, every earlier packet is
complete. Log 36 (DEDUCED). -/
def mayStart (s : State) (q i kind : Nat) : Option Packet :=
  let Q := queueOf s q
  match look Q.packets i with
  | none => none
  | some p =>
    if decide (p.kind = kind) && !p.begun && queueOpen Q && (!(decide (bitAt p.flags 0 = 1) || decide (kind = 6)) || earlierDone Q i)
    then some p else none

/-- The packet starts: RDIDX counts it. -/
def begin (s : State) (q i : Nat) (f : Packet → Packet) : State :=
  modQueue s q (fun Q => { Q with
    rdidx := if Q.rdidx.toNat ≤ i then BitVec.ofNat 64 (i + 1) else Q.rdidx
    packets := edit Q.packets i (fun p => { f p with begun := true }) })

/-- The packet is complete. -/
def completePacket (s : State) (q i : Nat) : State := modQueue s q (fun Q => { Q with packets := del Q.packets i })

/-- A packet whose start is refused: it leaves the table and the queue stalls (R150, R151). Log 36 (DEDUCED). -/
def refusePacket (s : State) (q i reason : Nat) (tag : BitVec 32) (detail : List Byte) : State :=
  failPacket (completePacket s q i) q i reason tag detail (decide (i < (queueOf s q).rdidx.toNat))

/-- What a packet's work follows (R73): the host's write of the index, and with BARRIER every earlier packet. Log 38 (DEDUCED). -/
def packetView (Q : Queue) (p : Packet) : View := if bitAt p.flags 0 = 1 then joinView Q.view Q.done else Q.view

/-- NOP_PACKET (R149): complete at its start. -/
def execNopPacket (s : State) : Host.Outcome State Fault Refusal :=
  let q := s.ev.a
  let s1 := reapPackets s q
  match mayStart s1 q s.ev.b 0 with
  | none => .next s
  | some _ => .next (completePacket (begin s1 q s.ev.b id) q s.ev.b)

/-- A LOFTWRITE of the tenancy has been read and is not complete (R149). Log 39 (DEDUCED), 60 (DEDUCED). -/
def loftwriteOpen (s : State) (t : Nat) : Bool :=
  s.queues.any (fun p => decide (p.2.tenancy = t) && p.2.packets.any (fun x => decide (x.2.kind = 5)))

/-- A lot of the tenancy is PENDING or RUNNING. -/
def lotsOpen (s : State) (t : Nat) : Bool := s.lots.any (fun p => decide (p.2.tenancy = t ∧ p.2.state < 2))

/-- LAUNCH_PACKET (R148): the checks; then the lot, PENDING. -/
def execLaunchPacket (s : State) : Host.Outcome State Fault Refusal :=
  let q := s.ev.a
  let i := s.ev.b
  let s1 := reapPackets s q
  let Q := queueOf s1 q
  let t := Q.tenancy
  match mayStart s1 q i 1 with
  | none => .next s
  | some p =>
    if loftwriteOpen s t then .next s
    else
      match checkLaunch s1 t p.body Q.priv with
      | .refuse reason detail => .next (refusePacket s1 q i reason p.tag detail)
      | .wait => .next s1
      | .ok hs =>
        let l := lotOf s1 t q i p.body hs Q.priv (packetView Q p)
        let replay := decide ((tenOf s t).scriv.state = 2)
        if (l.versioned && decide ((tenOf s t).depot.dways = 0)) || !(canFit s t hs l.gsize replay) then
          .next (refusePacket s1 q i 0x0004 p.tag [])
        else
          let key := freshKey s1.lots
          .next (begin (enterLot s1 key l replay) q i (fun p => { p with unit := some key }))

/-- The descriptor of a linear copy of bytes (R149). -/
def linearDesc (src dst : Nat) : List Word := ([src, src / 2 ^ 32, dst, dst / 2 ^ 32] ++ List.replicate 12 0).map (BitVec.ofNat 32)

/-- COPY_PACKET (R149): the Dray of shop c performs a linear copy: of a shop that the tenancy's work may use (R155), with room for one more
copy (R298, R15). -/
def execCopyPacket (s : State) : Host.Outcome State Fault Refusal :=
  let q := s.ev.a
  let i := s.ev.b
  let s1 := reapPackets s q
  let Q := queueOf s1 q
  match mayStart s1 q i 2 with
  | none => .next s
  | some p =>
    if !(shopAllowed s1 Q.tenancy false s.ev.c) || decide (128 ≤ drayCount s1 s.ev.c) then .next s1
    else
    let key := freshKey s1.copies
    let c : Copy :=
      { w := none, shop := s.ev.c, tenancy := Q.tenancy, desc := linearDesc (fieldAt p.body 8 8) (fieldAt p.body 0x10 8),
        events := { op := 0, w := 0, cmask := 0, scope := 0, cword := 0 }, total := fieldAt p.body 0x18 8, view := packetView Q p,
        after := packetView Q p, packet := some (q, i) }
    .next (begin { s1 with copies := put s1.copies key c } q i (fun p => { p with unit := some key }))

/-! ### WAITSIG (R149, R150) -/

/-- An access of a packet is parked. -/
def parkPacket (s : State) (q i : Nat) (ps : Parked) : State :=
  modQueue s q (fun Q => { Q with packets := edit Q.packets i (fun p => { p with parked := ps }) })

/-- COND of a WAITSIG packet holds of a value. -/
def condHolds (p : Packet) (x : Nat) : Bool :=
  let v := fieldAt p.body 0x10 8
  match fieldAt p.body 0x18 1 with
  | 0 => decide (v ≤ x)
  | 1 => decide (x = v)
  | _ => decide (x ≠ v)

/-- The packet waits: it has started, and no report of it awaits a reply. -/
def waitsNow (Q : Queue) (i : Nat) : Option Packet :=
  match look Q.packets i with
  | some p => if decide (p.kind = 3) && p.begun && !Q.stalled.any (fun x => decide (x.pindex = i)) then some p else none
  | none => none

/-- Read the signal word as an acquire at level 3 (R149): the packet completes if it satisfies COND. -/
def pollSignal (s : State) (q i : Nat) : State :=
  let Q := queueOf s q
  match waitsNow Q i with
  | none => s
  | some p =>
    let va := fieldAt p.body 8 8
    match reach s Q.tenancy .read va 8 0 p.parked with
    | .park _ ps => parkPacket s q i ps
    | .trap _ _ => failPacket s q i 0x0008 p.tag (bytesOf 8 va) true
    | .lost _ _ _ => failPacket s q i 0x0008 p.tag (bytesOf 8 va) true
    | .ok pas _ _ =>
      let r := readMem s Q.view [] true 0 pas
      let x := natOfBytes r.data
      if condHolds p x then
        completePacket (modQueue s q (fun Q => { Q with
          view := joinView (joinView Q.view r.view) (taken s.maxlevel .steward 3 r.msgs) })) q i
      else modQueue s q (fun Q => { Q with packets := edit Q.packets i (fun p => { p with last := BitVec.ofNat 64 x }) })

/-- WAITSIG_PACKET (R149): later packets do not start; the word is read at once. -/
def execWaitsigPacket (s : State) : Host.Outcome State Fault Refusal :=
  let q := s.ev.a
  let i := s.ev.b
  let s1 := reapPackets s q
  match mayStart s1 q i 3 with
  | none => .next s
  | some p =>
    let us := fieldAt p.body 0x1C 4
    .next (pollSignal (begin s1 q i (fun p => { p with deadline := if us = 0 then 0 else s.time + 1000 * us })) q i)

/-- WAITSIG_POLL (R149): the word is read again. -/
def execWaitsigPoll (s : State) : Host.Outcome State Fault Refusal := .next (pollSignal s s.ev.a s.ev.b)

/-- WAITSIG_TIMEOUT (R150): reason 0x0007, with the last value read. -/
def execWaitsigTimeout (s : State) : Host.Outcome State Fault Refusal :=
  match waitsNow (queueOf s s.ev.a) s.ev.b with
  | none => .next s
  | some p =>
    if p.deadline = 0 ∨ s.time < p.deadline then .next s
    else .next (failPacket s s.ev.a s.ev.b 0x0007 p.tag (bytesOf 8 p.last.toNat) true)

/-! ### SIGNAL, FENCE (R149) -/

/-- The SIGNAL may be performed: every earlier completion-bearing packet and every earlier SIGNAL is complete, and no report of it
awaits a reply. -/
def signalReady (Q : Queue) (i : Nat) : Bool :=
  Q.packets.all (fun p => decide (i ≤ p.1) || !([1, 2, 4, 5].contains p.2.kind)) && !Q.stalled.any (fun x => decide (x.pindex = i))

/-- The waiting WAITSIGs on an address of a tenancy read again. -/
def repoll (s : State) (t va : Nat) : State :=
  let ws := s.queues.flatMap (fun p =>
    if p.2.tenancy = t then (p.2.packets.filter (fun x => decide (x.2.kind = 3) && x.2.begun && decide (fieldAt x.2.body 8 8 = va))).map
      (fun x => (p.1, x.1)) else [])
  { s with agenda := ws.map (fun w => .event .waitsigPoll { a := w.1, b := w.2 }) ++ s.agenda }

/-- Perform a SIGNAL: the write, or the add, a read-modify-write that goes on with what it read published (R59, R64), as a release at
level 3; then VEC. -/
def performSignal (s : State) (q i : Nat) : State :=
  let Q := queueOf s q
  match look Q.packets i with
  | none => s
  | some p =>
    let va := fieldAt p.body 8 8
    let add := decide (fieldAt p.body 0x18 1 = 1)
    if !(p.begun && decide (p.kind = 4) && signalReady Q i) then s
    else
      match reach s Q.tenancy (if add then .atomic else .write) va 8 0 p.parked with
      | .park _ ps => parkPacket s q i ps
      | .trap _ _ => failPacket s q i 0x0008 p.tag (bytesOf 8 va) true
      | .lost _ _ _ => failPacket s q i 0x0008 p.tag (bytesOf 8 va) true
      | .ok pas _ _ =>
        let (bs, seen) := newest s pas
        let v := fieldAt p.body 0x10 8
        let msgs := (if add then seen else []) ++ [relMsg .steward 3 (joinView Q.view Q.done)]
        let s0 := clearPoison (writeAccess s pas (bytesOf 8 (if add then (natOfBytes bs + v) % 2 ^ 64 else v)) msgs.eraseDups) pas
        let s1 := modQueue s0 q (fun Q => { Q with view := wroteAccess Q.view s.stamp pas })
        let s2 := if fieldAt p.body 0x19 1 = 1 then send s1 (.msix (fieldAt p.body 0x1A 2)) else s1
        repoll (completePacket s2 q i) Q.tenancy va

/-- SIGNAL_PACKET (R149): it starts; it is performed when what it waits for is complete. -/
def execSignalPacket (s : State) : Host.Outcome State Fault Refusal :=
  let q := s.ev.a
  let i := s.ev.b
  let s1 := reapPackets s q
  match mayStart s1 q i 4 with
  | some _ => .next (performSignal (begin s1 q i id) q i)
  | none => .next (performSignal s1 q i)

/-- FENCE_PACKET (R149): every earlier packet is complete; a release at level 3: what the queue's work did happens before later
packets, and before whatever a later SIGNAL of the queue releases. -/
def execFencePacket (s : State) : Host.Outcome State Fault Refusal :=
  let q := s.ev.a
  let s1 := reapPackets s q
  match mayStart s1 q s.ev.b 6 with
  | none => .next s
  | some _ =>
    let s2 := completePacket (begin s1 q s.ev.b id) q s.ev.b
    .next (modQueue s2 q (fun Q => { Q with view := joinView Q.view Q.done }))

/-! ### LOFTWRITE (R149, R343) -/

/-- LOFTWRITE_PACKET (R149): it starts when every lot of the tenancy that has been read is complete. -/
def execLoftwritePacket (s : State) : Host.Outcome State Fault Refusal :=
  let q := s.ev.a
  let s1 := reapPackets s q
  match mayStart s1 q s.ev.b 5 with
  | none => .next s
  | some _ => if lotsOpen s (queueOf s1 q).tenancy then .next s else .next (begin s1 q s.ev.b id)

/-- What happens before the reads of a LOFTWRITE (R343, R73): what the queue has seen, and every event of the tenancy's complete lots. -/
def tenancyView (s : State) (q : Nat) : View :=
  let Q := queueOf s q
  let v := s.queues.foldl (fun v p => if p.2.tenancy = Q.tenancy then joinView v p.2.done else v) Q.view
  s.lots.foldl (fun v p => if p.2.tenancy = Q.tenancy then joinView v p.2.view else v) v

/-- The 64-byte units of SRC, each if it can be read, as acquire reads at level 3 from a view on, and what is then known (R343).
Log 39 (DEDUCED). -/
def loftUnits (s : State) (t va n : Nat) (was : Parked) (v : View) : Parked ⊕ (List (Option (List Byte)) × View) :=
  (List.range (n / 64)).foldl (fun r k =>
    match r with
    | .inl ps => .inl ps
    | .inr (us, v) =>
      match reach s t .read (va + 64 * k) 64 k was with
      | .park _ ps => .inl ps
      | .trap _ _ => .inr (us ++ [none], v)
      | .lost _ _ _ => .inr (us ++ [none], v)
      | .ok pas _ _ =>
        let r := readMem s v [] false (64 * k % 2 ^ 24) pas
        .inr (us ++ [some r.data], joinView r.view (taken s.maxlevel .steward 3 r.msgs))) (.inr ([], v))

/-- LOFTWRITE_COMPLETE (R343): outside a refresh window the last byte is in every die's Loft and the packet is complete; a fault on
SRC ends the copy, and each unit that could be read has been written or not. Log 39 (DEDUCED). -/
def execLoftwriteComplete (s : State) : Host.Outcome State Fault Refusal :=
  let q := s.ev.a
  let i := s.ev.b
  let Q := queueOf s q
  match look Q.packets i with
  | none => .next s
  | some p =>
    let va := fieldAt p.body 8 8
    let n := fieldAt p.body 0x18 8
    if !(p.begun && decide (p.kind = 5)) || s.inWindow || Q.stalled.any (fun x => decide (x.pindex = i)) then .next s
    else
      match loftUnits s Q.tenancy va n p.parked (tenancyView s q) with
      | .inl ps => .next (parkPacket s q i ps)
      | .inr (us, view) =>
        let base := 65536 * (tenOf s Q.tenancy).depot.lbase + fieldAt p.body 0x10 8
        let bad := us.findIdx? (fun u => u.isNone)
        let put1 (L : Tab Byte) (x : Option (List Byte) × Nat) : Tab Byte :=
          match x.1 with
          | none => L
          | some bs =>
            if bad.isNone || decide (choose s (x.2 % 2 ^ 24) 2 = 0) then splice L (base + 64 * x.2) bs
            else L
        let s1 := modQueue { s with loft := (us.zip (List.range us.length)).foldl put1 s.loft } q (fun Q => { Q with
          view := joinView Q.view view })
        match bad with
        | none => .next (completePacket s1 q i)
        | some k => .next (failPacket s1 q i 0x0008 p.tag (bytesOf 8 (firstBad s Q.tenancy (va + 64 * k) 64)) true)

/-! ### Replies (R151, R339) -/

/-- ABORT (R151): the packet and every packet up to WRIDX are discarded; every lot of the queue that is not complete halts; a gang whose
collection is under way is first saved (R162). The other reports of the queue that await a reply, and its held records, go with it:
log 72 (DESIGN CHOICE). Log 38 (DEDUCED). -/
def abortQueue (s : State) (q i : Nat) : State :=
  let s1 := modQueue s q (fun Q => { Q with
    rdidx := Q.wridx, aborted := true, stalled := [], heldRec := [], packets := Q.packets.filter (fun p => decide (p.1 < i)) })
  (s.lots.filter (fun p => decide (p.2.queue = q ∧ p.2.state < 2))).foldl (fun s p => stopLotBut s (collectingGangs s) p.1) s1

/-- SKIP of a stopped gang (R339): its baskets count as retired without a commit. -/
def skipGang (s : State) (L gid : Nat) : State :=
  lotOver { s with lots := edit s.lots L (fun l =>
    { l with stopped := l.stopped.filter (fun x => decide (x.1 ≠ gid)), retired := l.retired + l.gsize }) } L

/-- RESUME of a stopped gang (R339): it will be dispatched again. -/
def resumeGang (s : State) (L gid : Nat) : State :=
  { s with lots := edit s.lots L (fun l =>
    match l.stopped.find? (fun x => decide (x.1 = gid)) with
    | some (_, _, prio) => { l with stopped := l.stopped.filter (fun x => decide (x.1 ≠ gid)), again := l.again ++ [(gid, prio)] }
    | none => l) }

/-- The gang that a task trap stopped was REPLAYABLE (R333). -/
def replayableGang (s : State) (L gid : Nat) : Bool :=
  match look s.lots L with
  | some l => l.stopped.any (fun x => decide (x.1 = gid) && x.2.1)
  | none => false

/-- Act on the reply to a report of a queue (R151, R339). Log 61 (DEDUCED). -/
def takeReply (s : State) (q : Nat) (x : Stalled) (r : Nat) : State :=
  let task := decide (x.reason = 0x0110)
  if r = 0 ∨ 3 < r ∨ (r = 1 ∧ task = true ∧ replayableGang s x.lot x.gid = false) ∨
      (r = 1 ∧ task = false ∧ x.started = true ∧ packetRead s q x.pindex = .wait) then s
  else
    let s1 := modQueue s q (fun Q => { Q with stalled := Q.stalled.filter (fun y => decide (y ≠ x)) })
    if r = 3 then abortQueue s1 q x.pindex
    else if task then (if r = 1 then resumeGang s1 x.lot x.gid else skipGang s1 x.lot x.gid)
    else if r = 1 then (if x.started then readPacket (completePacket s1 q x.pindex) q x.pindex true else s1)
    else
      modQueue s1 q (fun Q => { Q with
        packets := del Q.packets x.pindex
        rdidx := if Q.rdidx.toNat ≤ x.pindex then BitVec.ofNat 64 (x.pindex + 1) else Q.rdidx })

/-- RESPONSE of a record, as it stands; 0 while the record is held (R151, R152). -/
def responseOf (s : State) (q : Nat) (x : Stalled) : Nat :=
  let Q := queueOf s q
  let posted := (Q.exwr - BitVec.ofNat 32 x.recIdx).toNat
  if posted = 0 ∨ 2 ^ 31 ≤ posted then 0
  else
    match agentRead s Q.tenancy (Q.exbase.toNat + 64 * (x.recIdx % 2 ^ Q.exlog2) + 0x3C) 4 with
    | some bs => natOfBytes bs
    | none => 0

/-- RESPONSE_POLL (R151): the replies to the reports of a STALLED queue are read. -/
def execResponsePoll (s : State) : Host.Outcome State Fault Refusal :=
  let q := s.ev.a
  let s := postHeld (queueOf s q).heldRec.length s q
  .next ((queueOf s q).stalled.foldl (fun s x =>
    if (queueOf s q).stalled.contains x then takeReply s q x (responseOf s q x) else s) s)

/-! ### Writes of queue registers (R144 to R146, R152, R154, R159) -/

/-- The host writes WRIDX (R146): a lower value is ignored; a STALLED queue reads RESPONSE (R151). What the host wrote before it
happens before the lots that the packets launch (R73). Log 15 (DESIGN CHOICE). -/
def writeIndex (s : State) (q : Nat) (v : BitVec 64) : State :=
  if v.toNat < (queueOf s q).wridx.toNat then s
  else
    let s1 := modQueue s q (fun Q => { Q with wridx := v, view := joinView Q.view s.hostView })
    if (queueOf s q).stalled.isEmpty then s1 else soon s1 .responsePoll { a := q }

/-- WRIDX_WRITE (R146). -/
def execWridxWrite (s : State) : Host.Outcome State Fault Refusal := .next (writeIndex s s.ev.a s.ev.v)

/-- DOORBELL_WRITE (R144): c bytes at offset b of the doorbell page of queue a; 8 bytes at offset 0 act as a write of WRIDX, every
other access is ignored. -/
def execDoorbellWrite (s : State) : Host.Outcome State Fault Refusal :=
  .next (if s.ev.b = 0 ∧ s.ev.c = 8 then writeIndex s s.ev.a s.ev.v else s)

/-- The configuration lets ENABLE be set (R145). -/
def queueOk (Q : Queue) : Bool :=
  decide (6 ≤ Q.log2size ∧ Q.log2size ≤ 20 ∧ 4 ≤ Q.exlog2 ∧ Q.exlog2 ≤ 16 ∧ Q.qbase.toNat % (64 * 2 ^ Q.log2size) = 0 ∧
    Q.exbase.toNat % (64 * 2 ^ Q.exlog2) = 0)

/-- QUEUE_ENABLE (R145, R454): refused with CFGERR, before the stages 0 to 3 of bring-up too, or accepted: RDIDX := WRIDX, EXIDX := 0. -/
def execQueueEnable (s : State) : Host.Outcome State Fault Refusal :=
  let Q := queueOf s s.ev.a
  if Q.enable then .next s
  else if queueOk Q && decide (s.stage.extractLsb' 0 4 = 15) then
    .next (modQueue s s.ev.a (fun Q => { Q with
      enable := true, cfgerr := false, aborted := false, rdidx := Q.wridx, exrd := 0, exwr := 0, stalled := [], heldRec := [],
      packets := Q.packets.filter (fun p => p.2.begun && !(Q.stalled.any (fun x => decide (x.pindex = p.1)))) }))
  else .next (modQueue s s.ev.a (fun Q => { Q with cfgerr := true }))

/-- QUEUE_DISABLE (R145): no further packet is read; lots already read run on. -/
def execQueueDisable (s : State) : Host.Outcome State Fault Refusal :=
  .next (modQueue s s.ev.a (fun Q => { Q with enable := false }))

/-- Resident gangs of a queue's lots that are not being collected. -/
def gangsOfQueue (s : State) (q : Nat) : List Nat :=
  (s.gangs.filter (fun p => p.2.resident && (match look s.lots p.2.lot with
    | some l => decide (l.queue = q)
    | none => false))).map (fun p => p.1)

/-- QUEUE_SUSPEND (R159): SUSPEND is set; the Steward pre-empts every resident gang of the queue's lots. -/
def execQueueSuspend (s : State) : Host.Outcome State Fault Refusal :=
  let s1 := modQueue s s.ev.a (fun Q => { Q with suspend := true })
  .next { s1 with agenda :=
    (gangsOfQueue s s.ev.a).map (fun g => .event .preemptRequest { a := g, cause := .suspend }) ++ s1.agenda }

/-- QUEUE_UNSUSPEND (R159): gangs of the queue's lots may be placed and restored again. -/
def execQueueUnsuspend (s : State) : Host.Outcome State Fault Refusal :=
  .next (modQueue s s.ev.a (fun Q => { Q with suspend := false }))

/-- PRIO_WRITE (R154): gangs whose shops are not yet chosen take the new priority. -/
def execPrioWrite (s : State) : Host.Outcome State Fault Refusal :=
  .next (modQueue s s.ev.a (fun Q => { Q with prio := s.ev.v.toNat % 8 }))

/-- EXRD_WRITE (R152): the host has consumed records; held ones are posted. -/
def execExrdWrite (s : State) : Host.Outcome State Fault Refusal :=
  let s1 := modQueue s s.ev.a (fun Q => { Q with exrd := s.ev.v.setWidth 32 })
  .next (postHeld (queueOf s1 s.ev.a).heldRec.length s1 s.ev.a)

/-! ### Device-side launch (R158) -/

/-- The completion events of a child launch occur at once, as for a lot of no baskets; the word at CWORD is touched unless it failed
its check. -/
def childOver (s : State) (e : Entry) (w b cword : Nat) (touch : Bool) : State :=
  let msg := relMsg .steward 3 e.view
  let ev : Events := { op := e.op, w := w, cmask := if touch then e.cmask else e.cmask &&& 9, scope := e.scope, cword := cword }
  completeCommand (cwordEvents s ev b 0 msg) e.op { result := none, msg := some msg }

/-- LAUNCH_D_ACCEPT (R158): the Steward takes the head of q11 of weave a, once everything before the push has been performed. An image
that breaks R147 alone is refused as one that fails R148, with cause 2: log 72 (DESIGN CHOICE). -/
def execLaunchDAccept (s : State) : Host.Outcome State Fault Refusal :=
  let w := s.ev.a
  match weaveOf s w with
  | none => .next s
  | some wv =>
    match viewEntries wv 11, look s.lots wv.ids.lot with
    | e :: _, some par =>
      match look s.ops e.op with
      | none => .next s
      | some o =>
        if !(engineOn s wv) || !(engineMay s e.op o) then .next s
        else if e.opc = 0 then .next (completeOp (dropHead s w 11) e.op false)
        else
          let s1 := dropHead s w 11
          let t := wv.ids.tenancy
          let b := wv.ids.basket
          let pkt := (e.words.take 16).flatMap (fun x => bytesOf 4 x.toNat)
          let cword := fieldAt pkt 0x35 3
          let uses := cwordBytes e.cmask false
          let badWord := decide (uses ≠ 0) && (decide (cword % uses ≠ 0) || decide (wv.hdr.spad < cword + uses))
          let check := checkLaunch s1 t pkt wv.ids.priv
          if check = .wait then .next s
          else
          let cause :=
            if fieldAt pkt 0 1 ≠ 1 then 1
            else if (malformedAt s1 t false pkt).isSome || (match check with | .ok _ => false | _ => true) then 2
            else if badWord then 3
            else if 15 < par.depth + 1 then 4 else 0
          let rec1 (reason : Nat) (detail : List Byte) : ExRec :=
            { reason := reason, tag := BitVec.ofNat 32 (fieldAt pkt 4 4), pindex := par.pindex,
              lotid := if choose s 8 2 = 0 then 0 else par.lotid, basket := 0, detail := detail, xflags := 0, respond := false }
          if cause ≠ 0 then
            let detail := bytesOf 4 par.lotid.toNat ++ bytesOf 4 cause ++ pkt.take 8 ++ bytesOf 8 o.pc.toNat
            .next (childOver (postEx s1 par.queue (rec1 0x0009 detail)) e w b cword (!badWord))
          else
            match check with
            | .wait => .next s
            | .refuse _ _ => .next s1
            | .ok hs =>
              let replay := (replayRoot s par.depth.succ wv.ids.lot).isSome
              let view := joinView e.view (opView s o)
              let l : Lot := { lotOf s1 t par.queue par.pindex pkt hs wv.ids.priv view with
                prio := some (match look s.gangs wv.ids.gang with | some g => g.prio | none => 0), parent := some wv.ids.lot,
                depth := par.depth + 1, basketOf := b,
                events := some { op := e.op, w := w, cmask := e.cmask, scope := e.scope, cword := cword } }
              if (l.versioned && decide ((tenOf s t).depot.dways = 0)) || !(canFit s t hs l.gsize replay) then
                .next (childOver (postEx s1 par.queue (rec1 0x0004 (bytesOf 4 par.lotid.toNat))) e w b cword true)
              else .next (enterLot s1 (freshKey s1.lots) l false)
    | _, _ => .next s

end Sys2Proof.Machine
end

