-- ==== Sys2Proof/Machine/Placement.lean ====
section
/-!
DEFINITION. Gangs on shops (spec/02_execution_model.md R38, R46, R49 to R52; spec/07_steward.md R154 to R163;
spec/06_assembler.md R142, R143; spec/10_stockroom.md R239; spec/20_loom.md R404): placement, priority, pre-emption, saving and
restore.
-/

namespace Sys2Proof.Machine

open Sys2Proof

/-! ### Room on a shop (R38) -/

/-- Baskets that hold resources of a shop, but for those of some gangs. -/
def basketsOn (s : State) (shop : Nat) (skip : List Nat) : List Basket :=
  (s.baskets.filter (fun p => onShop s p.2 && decide (p.2.shop = shop) && !(skip.contains p.2.gang))).map (fun p => p.2)

/-- Live weaves of a basket. -/
def liveWeaves (s : State) (B : Basket) : List Nat := B.weaves.filter (fun w => (weaveOf s w).isSome)

/-- A sum over a list. -/
def total {α : Type} (xs : List α) (f : α → Nat) : Nat := xs.foldl (fun a x => a + f x) 0

/-- A shop has free what a basket of the headers needs: weave slots, which a basket gives back when it retires (R48), registers, banks with
one left to the cache, accumulator banks (R38, R139). -/
def shopFits (s : State) (hs : List Hdr) (weaves : Nat) (acc : Nat) (skip : List Nat) (shop : Nat) : Bool :=
  let bs := basketsOn s shop skip
  decide (total bs (fun B => B.seats.length) + weaves ≤ 64 ∧ total bs (fun B => B.regs) + needRegs hs ≤ 8192 ∧
    total bs (fun B => B.banks.length) + spBanks hs + tobBanksOf hs ≤ 31 ∧ total bs (fun B => B.accMap.length) + acc ≤ 64)

/-- Shops that hold resident work of a tenancy. -/
def heldShops (s : State) (t : Nat) (skip : List Nat) : List Nat :=
  ((s.baskets.filter (fun p => onShop s p.2 && !(skip.contains p.2.gang) && (match look s.lots p.2.lot with
    | some l => decide (l.tenancy = t)
    | none => false))).map (fun p => p.2.shop)).eraseDups

/-! ### Gangs that wait for shops (R155) -/

/-- A gang that waits for shops: of a lot and a gid; with its saved context if it has one. -/
structure Cand where
  lot    : Nat
  gid    : Nat
  saved  : Option Nat := none
  /-- the priority it kept, or would take now; what it has gained by waiting -/
  prio   : Nat
  gained : Nat
  since  : Nat := 0
  deriving DecidableEq, Repr

/-- Priority of a lot's gangs whose shops are chosen now (R154). -/
def lotPrio (s : State) (l : Lot) : Nat :=
  match l.prio with
  | some p => p
  | none => (queueOf s l.queue).prio

/-- A lot may have gangs placed: it is not over, its queue is not suspended, its replay pass has not ended, the device is in D0. -/
def lotWaits (s : State) (L : Nat) (l : Lot) : Bool :=
  decide (l.state < 2) && !(queueOf s l.queue).suspend && !s.d3hot && (match replayRoot s 16 L with
    | some r => (match look s.lots r with | some x => decide (x.rflags &&& 12 = 0) | none => true)
    | none => true)

/-- The gangs of a lot that wait: those to be dispatched again, the next in gid order, those saved. -/
def lotCands (s : State) (L : Nat) (l : Lot) : List Cand :=
  if lotWaits s L l then
    let gain := if lotPlaced s L then 0 else l.aged
    l.again.map (fun x => { lot := L, gid := x.1, prio := x.2, gained := gain, since := l.waiting }) ++
    (if l.nextGid < l.x * l.y * l.z then
      [{ lot := L, gid := l.nextGid, prio := lotPrio s l, gained := gain, since := l.waiting }] else []) ++
    (s.gangs.filter (fun p => decide (p.2.lot = L) && !p.2.resident)).map
      (fun p => { lot := L, gid := p.2.gid, saved := some p.1, prio := p.2.prio, gained := gain, since := p.2.since })
  else []

/-- Every gang that waits. -/
def cands (s : State) : List Cand := s.lots.flatMap (fun p => lotCands s p.1 p.2)

/-- Effective priority (R155): the gain of the lot's wait is added to a kept priority too. Log 40 (DEDUCED). -/
def effPrio (c : Cand) : Nat := min 7 (c.prio + c.gained)

/-- LOTID of a lot. -/
def lotidOf (s : State) (L : Nat) : Nat := match look s.lots L with | some l => l.lotid.toNat | none => 0

/-- The starvation guard owes a gang its restore (R51): the gang that had to make room is saved. -/
def owed (s : State) (c : Cand) : Bool :=
  s.guardPend.any (fun x => decide (c.saved = some x.2.2) && !(s.gangs.any (fun p => p.2.collecting && p.2.causes.contains .starvation
    && decide (p.2.lot = x.1))))

/-- The order of waiting gangs (R155): what the starvation guard owes (R51), effective priority, pre-empted gangs first, lower lotid,
lower gid. Log 19 (DEDUCED), 40 (DEDUCED). -/
def ranksBefore (s : State) (a b : Cand) : Bool :=
  let key (c : Cand) : List Nat := [if owed s c then 0 else 1, 7 - effPrio c, if c.saved.isSome then 0 else 1, lotidOf s c.lot, c.gid]
  decide (key a < key b)

/-- What a gang needs on each of its shops: weaves of each basket, accumulator banks, whether it reserves context anew. -/
def candNeeds (s : State) (c : Cand) (l : Lot) : List (Nat × Nat) :=
  match c.saved.bind (look s.gangs) with
  | some g => g.baskets.map (fun b => match look s.baskets b with
      | some B => ((liveWeaves s B).length, B.accMap.length)
      | none => (0, 0))
  | none => List.replicate l.gsize (needWeaves l.hdrs, accBanksOf l.hdrs)

/-- A waiting gang could be placed now, were some gangs not there (R38, R155, R156). -/
def placeable (s : State) (c : Cand) (skip : List Nat) : Bool :=
  match look s.lots c.lot with
  | none => false
  | some l =>
    let t := l.tenancy
    let replay := (replayRoot s 16 c.lot).isSome
    let needs := candNeeds s c l
    let w := needs.foldl (fun a n => max a n.1) 0
    let acc := needs.foldl (fun a n => max a n.2) 0
    let held := heldShops s t skip
    (c.saved.isSome || decide (poolUsed s t + l.gsize * needPool l.hdrs ≤ poolSize s t ∧
        arenaUsed s t + l.gsize * needArena l.hdrs ≤ arenaRoom s t)) &&
      (windows needs.length).any (fun ws =>
        let ok := ws.filter (fun h => shopAllowed s t replay h && shopFits s l.hdrs w acc skip h)
        let mine := (ok.filter (fun h => held.contains h)).length
        decide (needs.length ≤ ok.length ∧ held.length + (needs.length - mine) ≤ shopQuota (tenOf s t)))

/-- The Steward may place a waiting gang now: every waiting time has been counted (R155), and no gang that comes before it could be
placed. Log 40 (DEDUCED). -/
def turnOf (s : State) (c : Cand) : Bool :=
  s.lots.all (fun p => decide (2 ≤ p.2.state ∨ (s.time - p.2.bare) / 10 ^ 6 ≤ p.2.aged) || lotPlaced s p.1) &&
    (cands s).all (fun d => !(ranksBefore s d c) || decide (d.saved.isSome && c.saved = d.saved) || !(placeable s d []))

/-- PRIORITY_AGING (R155): lot a has waited another full millisecond with no gang placed. -/
def execPriorityAging (s : State) : Host.Outcome State Fault Refusal :=
  match look s.lots s.ev.a with
  | none => .next s
  | some l =>
    let n := (s.time - l.bare) / 10 ^ 6
    if lotPlaced s s.ev.a = false ∧ l.state < 2 ∧ l.aged < n then .next { s with lots := put s.lots s.ev.a { l with aged := n } } else .next s

/-! ### Choosing places (R38, R39) -/

/-- Weave slots in use on a bench of a shop (R38, R48). -/
def benchLoad (s : State) (shop bench : Nat) : Nat :=
  total (basketsOn s shop []) (fun B => (B.seats.filter (fun b => decide (b = bench))).length)

/-- The Steward's choice is one that R38, R39 and R155 allow: distinct shops of one window, each fitting, at most 16 weaves on a
bench, within the shop quota; mappings of the reservations that meet no other (R185). Log 40 (DEDUCED). -/
def placesOk (s : State) (c : Cand) (l : Lot) (ps : List Placement) : Bool :=
  let t := l.tenancy
  let needs := candNeeds s c l
  let shops := ps.map (fun p => p.shop)
  let held := heldShops s t []
  let span (p : Placement) : Nat × Nat := (p.ctxVA.toNat, p.ctxVA.toNat + 4096 * 32)
  let others := (s.baskets.filter (fun b => decide (c.saved ≠ some b.2.gang) && (match look s.lots b.2.lot with
    | some x => decide (x.tenancy = t)
    | none => false))).map (fun b => (b.2.ctxVA.toNat, b.2.ctxVA.toNat + 4096 * 32))
  let apart (a b : Nat × Nat) : Bool := decide (a.2 ≤ b.1 ∨ b.2 ≤ a.1)
  decide (ps.length = needs.length) && decide (shops.eraseDups = shops) &&
    (windows ps.length).any (fun w => shops.all (fun h => w.contains h)) &&
    (ps.zip needs).all (fun p => shopAllowed s t ((replayRoot s 16 c.lot).isSome) p.1.shop &&
      shopFits s l.hdrs p.2.1 p.2.2 [] p.1.shop && decide (p.1.benches.length = p.2.1) &&
      (List.range 4).all (fun b => decide (benchLoad s p.1.shop b + (p.1.benches.filter (fun x => decide (x = b))).length ≤ 16)) &&
      p.1.benches.all (fun b => decide (b < 4)) && decide (p.1.ctxVA.toNat % 4096 = 0 ∧ p.1.ctxVA.toNat + 4096 * 32 ≤ loftWin) &&
      others.all (apart (span p.1))) &&
    (ps.zip (List.range ps.length)).all (fun p => (ps.take p.2).all (fun q => apart (span p.1) (span q))) &&
    decide ((held ++ shops).eraseDups.length ≤ shopQuota (tenOf s t)) &&
    (c.saved.isSome || decide (poolUsed s t + l.gsize * needPool l.hdrs ≤ poolSize s t ∧
      arenaUsed s t + l.gsize * needArena l.hdrs ≤ arenaRoom s t))

/-- Banks that a basket takes (R218): which of the CACHE and IDLE banks is free; one CACHE bank stays. Log 40 (DEDUCED). -/
def takeBanks (s : State) (shop n : Nat) : List Nat :=
  let role := (shopOf s shop).bankrole
  let r (b : Nat) : Nat := (role.extractLsb' (2 * b) 2).toNat
  let k := choose s (shop % 2 ^ 16) 32
  let order := (List.range 32).map (fun i => (i + k) % 32)
  let keep := order.find? (fun b => decide (r b = 0))
  (order.filter (fun b => decide (r b = 0 ∨ r b = 3) && decide (keep ≠ some b))).take n

/-- Give a basket its banks, registers and accumulator banks on its shop (R156, R157). The L1 loses the lines of the CACHE banks that it
takes (R218, R192): which lines stood there is free, log 2 (DESIGN CHOICE). Log 12 (DESIGN CHOICE). -/
def seatBasket (s : State) (b : Nat) (hs : List Hdr) : State :=
  match look s.baskets b with
  | none => s
  | some B =>
    let banks := takeBanks s B.shop (spBanks hs + tobBanksOf hs)
    let sp := banks.take (spBanks hs)
    let ps := (accFree (shopOf s B.shop)).take B.accMap.length
    let role := (shopOf s B.shop).bankrole
    let s0 := if banks.any (fun n => decide (role.extractLsb' (2 * n) 2 = 0)) then
        loseLines s B.shop (fun l _ => decide (choose s (65536 + l % 65536) 2 = 0)) else s
    let s1 := modShop s0 B.shop (fun h => { h with
      bankrole := banks.foldl (fun r n => setRole r n (if sp.contains n then 1 else 2)) h.bankrole
      accUsed := h.accUsed ++ ps
      regsUsed := h.regsUsed + B.regs })
    modBasket s1 b (fun B => { B with
      banks := banks, accMap := (B.accMap.zip ps).map (fun p => (p.1.1, p.2)), resident := true, seated := s.steps })

/-! ### Placement (R156, R148) -/

/-- A weave at its creation (R35, R36, R84, R148). Log 12 (DESIGN CHOICE). -/
def newWeave (l : Lot) (h : Hdr) (ids : Ids) (shop bench : Nat) : Weave :=
  let w : Weave :=
    { ids := ids, hdr := h, shop := shop, bench := bench, splits := [(0, { pc := entryPC h, mask := 0xFFFFFFFF })],
      sreg := if 2 ≤ h.sregs then setCells [] 0 [l.args.extractLsb' 0 32, l.args.extractLsb' 32 32] else [],
      srst := setCells [] 0 (allStrands.map (fun k => BitVec.ofNat 32 (srInit 0 k))), fview := l.start }
  learnView w 0xFFFFFFFF l.start

/-- The wids of a basket with the header of each one's role (R35). -/
def widHdrs (hs : List Hdr) : List (Nat × Hdr) :=
  let all := hs.flatMap (fun h => List.replicate h.weaves h)
  (List.range all.length).zip all

/-- Place basket `bid` of a gang. -/
def placeBasket (s : State) (g L : Nat) (l : Lot) (gid bid : Nat) (p : Placement) : State :=
  let b := s.nextId
  let ws := widHdrs l.hdrs
  let B : Basket :=
    { lot := L, gang := g, bid := bid, linear := gid * l.gsize + bid, shop := p.shop, ctxVA := p.ctxVA,
      weaves := ws.map (fun x => b + 1 + x.1), seats := p.benches, regs := needRegs l.hdrs, pool := needPool l.hdrs,
      arena := needArena l.hdrs,
      accMap := (List.range (accBanksOf l.hdrs)).map (fun a => (a, 0)) }
  let ids (x : Nat × Hdr) : Ids :=
    { lot := L, lotid := l.lotid, tenancy := l.tenancy, gid := gid, gx := gid % l.x, gy := gid / l.x % l.y, gz := gid / (l.x * l.y),
      bid := bid, gsize := l.gsize, wid := x.1, stage := x.2.role, nweaves := ws.length, basket := b, gang := g, priv := l.priv,
      versioned := l.versioned }
  let s1 := { s with
    nextId := b + 1 + ws.length
    baskets := put s.baskets b B
    weaves := ws.foldl (fun t x => put t (b + 1 + x.1) (newWeave l x.2 (ids x) p.shop (p.benches.getD x.1 0))) s.weaves }
  let s2 := ws.foldl (fun s x => pokeBytes s ((List.range 64).map (trapPA (b + 1 + x.1)))
    ((List.range 16).flatMap (fun i => bytesOf 4 (freeWord s (6000 + 16 * x.1 + i)).toNat))) s1
  traceBasket (seatBasket s2 b l.hdrs) b 0

/-- Place a gang whole (R52): its baskets become resident together; its lot is RUNNING (R153). -/
def placeGang (s : State) (L : Nat) (l : Lot) (gid prio : Nat) (ps : List Placement) : State :=
  let g := s.nextId
  let s1 := (ps.zip (List.range ps.length)).foldl (fun s p => placeBasket s g L l gid p.2 p.1) { s with nextId := g + 1 }
  let bs := (s1.baskets.filter (fun p => decide (p.2.gang = g))).map (fun p => p.1)
  { s1 with
    gangs := put s1.gangs g { lot := L, gid := gid, prio := prio, baskets := bs }
    lots := edit s1.lots L (fun x => { x with
      state := max x.state 1
      nextGid := if gid = x.nextGid then gid + 1 else x.nextGid
      again := x.again.filter (fun y => decide (y.1 ≠ gid))
      waiting := s.time }) }

/-- GANG_PLACE (R156): the Steward places gang b of lot a on the places named. -/
def execGangPlace (s : State) : Host.Outcome State Fault Refusal :=
  match (cands s).find? (fun c => decide (c.lot = s.ev.a ∧ c.gid = s.ev.b) && c.saved.isNone), look s.lots s.ev.a with
  | some c, some l =>
    if placesOk s c l s.ev.places && turnOf s c then .next (placeGang s s.ev.a l c.gid c.prio s.ev.places) else .next s
  | _, _ => .next s

/-! ### Requests for pre-emption (R159, R51) -/

/-- The weaves of a gang. -/
def gangWeaves (s : State) (g : Nat) : List (Nat × Weave) := s.weaves.filter (fun p => decide (p.2.ids.gang = g))

/-- Home Clerks that hold atomics of weaves (R161). -/
def clerksOf (s : State) (ws : List Nat) : List AckUnit :=
  ((s.requests.filter (fun p => ws.contains p.2.w)).map (fun p => AckUnit.clerk p.2.home)).eraseDups

/-- Engines of the gang's shops that hold its work, and the home Clerks with its atomics (R161). -/
def ackUnits (s : State) (g : Nat) : List AckUnit :=
  let ws := gangWeaves s g
  let shops := (ws.map (fun p => p.2.shop)).eraseDups
  shops.flatMap (fun h =>
    let on (w : Nat) : Bool := ws.any (fun p => decide (p.1 = w ∧ p.2.shop = h))
    [AckUnit.weaves h] ++
    (if s.loom.any (fun p => p.2.parts.any (fun q => on q.1)) then [AckUnit.loom h] else []) ++
    (if s.copies.any (fun p => match p.2.w with | some w => on w | none => false) then [AckUnit.dray h] else []) ++
    (if s.selects.any (fun p => on p.2.w) || ws.any (fun p => on p.1 && p.2.gslots.any (fun x => decide (x.2.state = 1))) then
      [AckUnit.gleaner h] else []) ++
    (if s.net.any (fun p => on p.2.w) then [AckUnit.courier h] else []) ++
    (if s.prefetch.any (fun p => on p.2.w) then [AckUnit.runner h] else [])) ++
  clerksOf s (ws.map (fun p => p.1))

/-- The Steward requests the pre-emption of a resident gang (R159, R160); one collection serves several causes (R162). -/
def requestGang (s : State) (g : Nat) (cause : PreemptCause) : State :=
  match look s.gangs g with
  | none => s
  | some x =>
    if !x.resident || x.causes.contains cause then s
    else if x.collecting then { s with gangs := put s.gangs g { x with causes := x.causes ++ [cause] } }
    else { s with gangs := put s.gangs g { x with causes := [cause], collecting := true, awaited := ackUnits s g } }

/-- Insert into a list that a test orders. -/
def insertRank {α : Type} (lt : α → α → Bool) (x : α) : List α → List α
  | [] => [x]
  | y :: ys => if lt x y then x :: y :: ys else y :: insertRank lt x ys

/-- Sort a list. -/
def sortRank {α : Type} (lt : α → α → Bool) (xs : List α) : List α := xs.foldr (insertRank lt) []

/-- The sublists of k elements, in the list's order. Log 40 (DEDUCED). -/
def combos {α : Type} : Nat → List α → List (List α)
  | 0, _ => [[]]
  | _ + 1, [] => []
  | k + 1, x :: xs => (combos k xs).map (fun c => x :: c) ++ combos (k + 1) xs

/-- The gangs whose pre-emption would let a waiting gang be placed (R159): the fewest, of priority at least 2 below its own, the
lowest priority first, then the lot read last, then the highest gid, on shops that it may use. Log 40 (DEDUCED). -/
def victimsFor (s : State) (c : Cand) : Option (List Nat) :=
  match look s.lots c.lot with
  | none => none
  | some l =>
    let mayUse (g : Nat) : Bool := (gangWeaves s g).all (fun p => shopAllowed s l.tenancy false p.2.shop)
    let ok := s.gangs.filter (fun p => p.2.resident && decide (p.2.prio + 2 ≤ c.prio) && mayUse p.1)
    let last := s.lots.foldl (fun m p => max m p.1) 0
    let key (p : Nat × Gang) : List Nat := [p.2.prio, last - p.2.lot, 2 ^ 32 - p.2.gid]
    let order := (sortRank (fun a b => decide (key a < key b)) ok).map (fun p => p.1)
    (List.range (order.length + 1)).findSome? (fun k => (combos k order).find? (placeable s c))

/-- A gang has waited 20 µs for shops that the pre-emption of others would give it. -/
def priorityCase (s : State) (L gid : Nat) : Option (List Nat) :=
  match (cands s).find? (fun c => decide (c.lot = L ∧ c.gid = gid)) with
  | none => none
  | some c => if s.time < c.since + 20000 then none else victimsFor s c

/-- PRIORITY_WAIT_EXPIRE (R159): gang b of lot a has waited 20 µs. -/
def execPriorityWaitExpire (s : State) : Host.Outcome State Fault Refusal :=
  match priorityCase s s.ev.a s.ev.b with
  | none => .next s
  | some gs => .next (gs.foldl (fun s g => requestGang s g .priority) s)

/-- Every resident weave of a lot on a shop has a guard count of at least 65,536, and the lot has saved baskets (R51). -/
def starving (s : State) (shop L : Nat) : Bool :=
  let ws := s.weaves.filter (fun p => decide (p.2.ids.lot = L ∧ p.2.shop = shop) && (match basketOf s p.2 with
    | some B => B.resident
    | none => false))
  !ws.isEmpty && ws.all (fun p => decide (65536 ≤ p.2.guard)) && s.gangs.any (fun p => decide (p.2.lot = L) && !p.2.resident)

/-- The gang of the lot's resident basket on the shop with the highest linear basket id (R51). Log 19 (DEDUCED). -/
def guardVictim (s : State) (shop L : Nat) : Option Nat :=
  (s.baskets.foldl (fun (m : Option Basket) p =>
    if p.2.lot = L ∧ p.2.shop = shop ∧ p.2.resident then
      match m with
      | some B => if B.linear < p.2.linear then some p.2 else m
      | none => some p.2
    else m) none).map (fun B => B.gang)

/-- The gang of a lot's pre-empted basket with the lowest linear basket id (R51). -/
def guardNext (s : State) (L : Nat) : Option Nat :=
  (s.gangs.foldl (fun (m : Option (Nat × Nat)) p =>
    if p.2.lot = L ∧ p.2.resident = false then
      match m with
      | some (g, _) => if p.2.gid < g then some (p.2.gid, p.1) else m
      | none => some (p.2.gid, p.1)
    else m) none).map (fun x => x.2)

/-- What the starvation guard owes to gangs that still wait for their restore. -/
def guardOwes (s : State) : List (Nat × Nat × Nat) :=
  s.guardPend.filter (fun x => s.gangs.any (fun p => decide (p.1 = x.2.2) && !p.2.resident))

/-- STARVATION_GUARD (R51) on shop a for lot b: the victim is pre-empted, and the gang of the lot's pre-empted basket with the lowest linear
id is to be restored; then the guard counts of the lot's weaves on the shop are cleared. Log 19 (DEDUCED). -/
def execStarvationGuard (s : State) : Host.Outcome State Fault Refusal :=
  let owes := guardOwes s
  if starving s s.ev.a s.ev.b && !(owes.any (fun x => decide (x.1 = s.ev.b ∧ x.2.1 = s.ev.a))) then
    match guardVictim s s.ev.a s.ev.b, guardNext s s.ev.b with
    | some g, some r => .next { requestGang s g .starvation with guardPend := owes ++ [(s.ev.b, s.ev.a, r)] }
    | _, _ => .next s
  else .next s

/-- A gang that the starvation guard owed its restore is restored: the guard counts of its lot's weaves on the shop are cleared (R51). -/
def guardPaid (s : State) (g : Nat) : State :=
  let paid := s.guardPend.filter (fun x => decide (x.2.2 = g))
  if paid = [] then s
  else { s with
    guardPend := s.guardPend.filter (fun x => decide (x.2.2 ≠ g))
    weaves := s.weaves.map (fun p => if paid.any (fun x => decide (p.2.ids.lot = x.1 ∧ p.2.shop = x.2.1)) then (p.1, { p.2 with guard := 0 }) else p) }

/-- A cause of R159, or the entry to D3hot (R457), names the gang. -/
def causeHolds (s : State) (g : Nat) (x : Gang) (cause : PreemptCause) : Bool :=
  match look s.lots x.lot with
  | none => false
  | some l =>
    match cause with
    | .suspend => (queueOf s l.queue).suspend
    | .d3hot => s.d3hot
    | .sealing => !(sealedTen (tenOf s l.tenancy)) && (gangWeaves s g).any (fun p => arcadeSealed s (arcadeOf p.2.shop))
    | .priority => (match priorityCase s s.ev.b s.ev.c with | some gs => gs.contains g | none => false)
    | .starvation => (gangWeaves s g).any (fun p => starving s p.2.shop x.lot && decide (guardVictim s p.2.shop x.lot = some g))

/-- PREEMPT_REQUEST (R159) of gang a for the cause named; for priority, gang c of lot b is the one that waits. -/
def execPreemptRequest (s : State) : Host.Outcome State Fault Refusal :=
  match look s.gangs s.ev.a with
  | none => .next s
  | some x => if causeHolds s s.ev.a x s.ev.cause then .next (requestGang s s.ev.a s.ev.cause) else .next s

/-! ### Liveness records (R142, R143) -/

/-- The header word at a PC, as it now stands. -/
def headerAt (s : State) (t : Nat) (pc : DWord) : Option DWord :=
  match stewardRead s t pc.toNat 8 with
  | .ok bs => some (BitVec.ofNat 64 (natOfBytes bs))
  | _ => none

/-- P and LIVE of a clause header (R102). -/
def hdrP (h : DWord) : Bool := h.getLsbD 34
/-- LIVE. -/
def hdrLive (h : DWord) : Nat := (h.extractLsb' 16 16).toNat

/-- What is live at a boundary: vector registers, scalars, flags, predicates as bit masks; scratchpad ranges. -/
structure Live where
  v      : Nat := 0
  s      : Nat := 0
  f      : Nat := 0
  p      : Nat := 0
  ranges : List (Nat × Nat) := []
  deriving DecidableEq, Repr

/-- How a split stands to a pre-emption: not at a P boundary, or at one whose record cannot be read before a lease is renewed (R315); at one,
with its record; at one whose record is bad. -/
inductive Stand where
  | no | at1 (r : Live) | bad (hdr : DWord)
  deriving DecidableEq, Repr

/-- The record of an index, for a clause header: it is bad if it breaks R142 or cannot be read. -/
def liveRecord (s : State) (wv : Weave) (hdr : DWord) (k : Nat) : Stand :=
  let t := wv.ids.tenancy
  let tab := (wv.hdr.addr + wv.hdr.liveOff).toNat
  match stewardRead s t ((tab + 64 * k) % 2 ^ 64) 64 with
  | .wait => .no
  | .bad => .bad hdr
  | .ok r =>
    let f := fieldAt r
    let n := f 0x3C 1
    if 4096 ≤ f 0x38 2 ∨ 128 ≤ f 0x3A 1 ∨ f 0x3B 1 ≠ 0 ∨ 15 < n then .bad hdr
    else
      match stewardRead s t ((tab + 64 * wv.hdr.liveCount + 8 * f 0x3D 3) % 2 ^ 64) (8 * n) with
      | .wait => .no
      | .bad => .bad hdr
      | .ok pool =>
        let rs := (List.range n).map (fun j => (fieldAt pool (8 * j) 4, fieldAt pool (8 * j + 4) 4))
        if rs.any (fun x => decide (x.1 % 4 ≠ 0 ∨ x.2 % 4 ≠ 0 ∨ wv.hdr.spad < x.1 + x.2)) then .bad hdr
        else .at1 { v := f 0 48, s := f 0x30 8, f := f 0x38 2, p := f 0x3A 1, ranges := rs }

/-- Where a split stands (R45, R103, R143): at a boundary before a P clause. A trap that waits for a sibling stands as its split
does. -/
def standOf (s : State) (wv : Weave) (sp : Split) : Stand :=
  if sp.run.isSome then .no
  else
    match headerAt s wv.ids.tenancy sp.pc with
    | none => .no
    | some h =>
      if !(hdrP h) || decide (wv.hdr.liveCount ≤ hdrLive h) then .no else liveRecord s wv h (hdrLive h)

/-- The record of a weave: of every boundary at which its splits stand. Log 41 (DEDUCED). -/
def liveOf (s : State) (wv : Weave) : Live :=
  wv.splits.foldl (fun a p =>
    match standOf s wv p.2 with
    | .at1 r => { v := a.v ||| r.v, s := a.s ||| r.s, f := a.f ||| r.f, p := a.p ||| r.p, ranges := a.ranges ++ r.ranges }
    | _ => a) {}

/-! ### Acknowledgement and saving (R160, R161, R143) -/

/-- Vector registers that a weave's unfinished Loom commands will read (R404). Log 41 (DEDUCED). -/
def loomSaves (s : State) (w : Nat) (wv : Weave) : List Nat :=
  let q (g : BitVec 64) : Nat := gangQuarters g wv.ids.wid
  let es := wv.heads ++ (viewEntries wv 4).filter (fun e => decide (e.opc ≠ 0)) ++
    s.loom.flatMap (fun p => (p.2.parts.filter (fun x => decide (x.1 = w))).map (fun x => { x.2 with gang := p.2.gang }))
  (es.filter (fun e => decide (e.opc ≠ 0xDE))).flatMap (fun e => (loomRegs e.opc e.words (q e.gang)).flatMap (fun r => (List.range r.2).map (fun i => r.1 + i)))

/-- Registers that a held instruction of the weave writes, by field value (R143). -/
def heldDests (wv : Weave) : List Nat :=
  wv.splits.flatMap (fun p => match p.2.held with
    | some h => h.dests.flatMap (fun d => (List.range d.2).map (fun i => d.1 + i))
    | none => [])

/-- Predicates that a held instruction of the weave writes (R143): of VCMP, in its two forms (R246). No other instruction that writes a
predicate is ever held. -/
def heldPreds (wv : Weave) : List Nat :=
  wv.splits.filterMap (fun p => match p.2.held with
    | some h =>
      match (h.word.extractLsb' 56 8).toNat with
      | 0x5A => some (h.word.extractLsb' 0 3).toNat
      | 0x5B => some (h.word.extractLsb' 47 3).toNat
      | _ => none
    | none => none)

/-- What a weave holds once it is saved (R143): what its record does not name, and R143, R46 and R404 do not save, holds free values;
a flag that is not named is clear. The save is a release at level 3 by the weave (R67). Log 34 (DESIGN CHOICE), 41 (DEDUCED). -/
def saveWeave (s : State) (w : Nat) (wv : Weave) : Weave :=
  let r := liveOf s wv
  let held := heldDests wv
  let keepV := loomSaves s w wv ++ held
  let vreg := (List.range wv.hdr.vregs).foldl (fun m n =>
    if r.v.testBit n || keepV.contains n then m
    else setCells m (32 * n) (allStrands.map (fun k => freeWord s (100000 + w % 64 * 65536 + vKey n k)))) wv.vreg
  let sreg := (List.range wv.hdr.sregs).foldl (fun m n =>
    if r.s.testBit n || held.contains (384 + n) then m else setCell m n (freeWord s (100000 + w % 64 * 65536 + sKey n))) wv.sreg
  let pred := (List.range 7).foldl (fun m n =>
    if r.p.testBit n || (heldPreds wv).contains n then m else setCell m n (freeWord s (100000 + w % 64 * 65536 + 30000 + n))) wv.pred
  let view := viewOf wv 0xFFFFFFFF
  { learn wv 0xFFFFFFFF (fun y => { y with view := joinView y.view view, rel := (y.rel ++ [relMsg (agentOf wv) 3 view]).eraseDups }) with
            vreg := vreg, sreg := sreg, pred := pred, treg := [], yielded := false,
            mapped := [], spilled := (wv.spilled ++ wv.mapped).filter (fun n => r.v.testBit n || keepV.contains n), jspill := 0,
            flags := wv.flags.filter (fun p => decide (p.1 = 12) || r.f.testBit p.1) }

/-- Flags that the saved weave no longer counts: operations that set them leave them clear (R143). -/
def dropFlags (s : State) (w : Nat) (r : Live) : State :=
  { s with ops := s.ops.map (fun p =>
      if p.2.w = w then (p.1, { p.2 with flags := p.2.flags.filter (fun f => decide (f = 12) || r.f.testBit f) }) else p) }

/-- The scratchpad of a saved basket (R143, R239): bytes outside the live ranges hold free values, their words are EMPTY.
Log 41 (DEDUCED). -/
def saveSpad (s : State) (b size : Nat) (ranges : List (Nat × Nat)) : State :=
  let kept (o : Nat) : Bool := ranges.any (fun r => decide (r.1 ≤ o ∧ o < r.1 + r.2))
  let gone := (List.range size).filter (fun o => !(kept o))
  let s1 := gone.foldl (fun s1 o => spStore s1 b o [(freeWord s (7000000 + b % 16 * 2 ^ 19 + o)).setWidth 8] []) s
  modBasket s1 b (fun B => { B with full := B.full.filter kept, fillMsgs := B.fillMsgs.filter (fun p => kept p.1) })

/-- Requests of the pending buffer that are aimed at a basket. -/
def pendingFor (b : Nat) : Pending → Bool
  | .fill x _ _ _ _ _ => decide (x = b)
  | .engineArrive x _ _ _ => decide (x = b)
  | .weaveArrive x _ _ _ => decide (x = b)

/-- A basket whose acknowledgements are all in is saved (R161, R239): its pending requests leave its shop, and the Steward holds the
completions that come for it. Its shop's resources stay taken until its whole gang is saved. Log 41 (DEDUCED). -/
def holdBasket (s : State) (b : Nat) : State :=
  match look s.baskets b with
  | none => s
  | some B =>
    if !B.resident then s
    else
      let h := shopOf s B.shop
      let s1 := modShop s B.shop (fun h => { h with
        pending := h.pending.filter (fun p => !(pendingFor b p)), engWait := h.engWait.filter (fun p => !(pendingFor b p)) })
      settle (modBasket s1 b (fun B => { B with
        resident := false, savedPending := h.pending.filter (pendingFor b), heldEvents := h.engWait.filter (pendingFor b) })) B.shop

/-- The requests that were saved with a basket are held again on its shop, in the same order, and the completions held for it are applied
(R239). -/
def returnPending (s : State) (b : Nat) : State :=
  match look s.baskets b with
  | none => s
  | some B =>
    let s1 := modBasket s b (fun B => { B with savedPending := [], heldEvents := [] })
    let s2 := settle (B.savedPending.foldl (fun s p => holdRequest s B.shop p) s1) B.shop
    B.heldEvents.foldl (fun s p => settle (present s B.shop p) B.shop) s2

/-- A basket saved before its gang's collection was withdrawn goes on where it was (R161). -/
def unholdBasket (s : State) (b : Nat) : State :=
  match look s.baskets b with
  | none => s
  | some B => if B.resident then s else returnPending (modBasket s b (fun B => { B with resident := true })) b

/-- The context of a saved basket as its restore will find it (R143, R161): its weaves and its scratchpad. -/
def saveBasket (s : State) (b : Nat) : State :=
  match look s.baskets b with
  | none => s
  | some B =>
    let ws := (liveWeaves s B).filterMap (fun w => (weaveOf s w).map (fun wv => (w, wv)))
    let ranges := ws.flatMap (fun p => (liveOf s p.2).ranges)
    let size := (ws.map (fun p => p.2.hdr.spad)).headD 0
    let s1 := ws.foldl (fun s1 p => dropFlags (setWeave s1 p.1 (saveWeave s p.1 p.2)) p.1 (liveOf s p.2)) (traceBasket s b 1)
    let s2 := modBasket (saveSpad s1 b size ranges) b (fun B => { B with banks := [], seats := [] })
    releaseShop s2 B

/-- Lease slots of a tenancy with the identifiers that they hold (R163). -/
def leaseIdsOf (s : State) (t : Nat) : Tab (BitVec 64) :=
  ((tenOf s t).reeve.leases.filter (fun p => decide (p.2.state ≠ 0 ∧ p.2.state ≠ 5))).map (fun p => (p.1, p.2.id))

/-- Every basket of a gang is saved (R161): its shops are free; what a lot that has been aborted saved is discarded (R162).
Log 41 (DEDUCED). -/
def saveGang (s : State) (g : Nat) : State :=
  match look s.gangs g with
  | none => s
  | some x =>
    match look s.lots x.lot with
    | none => s
    | some l =>
      if 2 ≤ l.state then dropGang (x.baskets.foldl dropBasket s) g
      else
        let s1 := x.baskets.foldl saveBasket s
        nowBare { s1 with gangs := put s1.gangs g { x with
          resident := false, collecting := false, causes := [], awaited := [], since := s.time, leaseIds := leaseIdsOf s l.tenancy } } x.lot

/-- Nothing of a weave's operations is left that its benches and its shop's units still have to do (R160): engine commands, requests that
their home Clerks hold, and held arrivals (R239) may be. -/
def opsStopped (s : State) (h w : Nat) : Bool :=
  s.ops.all (fun o => decide (o.2.w ≠ w) || decide (o.2.kind = .engine) ||
    (match o.2.kind with | .clerk _ => s.requests.any (fun r => decide (r.2.op = o.1)) | _ => false) ||
    (shopOf s h).pending.any (fun q => match q with | .weaveArrive _ _ _ n => decide (n = o.1) | _ => false))

/-- A unit has stopped the victim's work (R160): splits at P boundaries, with no push held on a full queue (R45); no LOOM.SPLIT or LOOM.FIN
running; the Dray with no chunk begun (R302); no GSELECT that writes its output (R385); no Courier command; every atomic performed and its
return written (R284). Log 42 (DEDUCED). -/
def unitStopped (s : State) (g : Nat) (u : AckUnit) : Bool :=
  let ws := gangWeaves s g
  let on (h w : Nat) : Bool := ws.any (fun p => decide (p.1 = w ∧ p.2.shop = h))
  match u with
  | .weaves h =>
    (ws.filter (fun p => decide (p.2.shop = h))).all (fun p =>
      p.2.splits.all (fun x => (match standOf s p.2 x.2 with | .at1 _ => true | _ => false) &&
        x.2.held.all (fun y => decide (y.stall ≠ .queueFull))) && decide (p.2.farTraps = []) && opsStopped s h p.1)
  | .loom h => s.loom.all (fun p => p.2.started.isNone || !([0xDE, 0xE0].contains p.2.opc) || p.2.parts.all (fun q => !(on h q.1)))
  | .dray h => s.copies.all (fun p => match p.2.w with
      | none => true
      | some w => !(on h w) || (p.2.flying.isEmpty && !p.2.midChunk))
  | .gleaner h => s.selects.all (fun p => !(on h p.2.w) || p.2.out.isNone)
  | .courier h => s.net.all (fun p => !(on h p.2.w))
  | .runner _ => true
  | .clerk home =>
    s.requests.all (fun p => decide (p.2.home ≠ home) || !(ws.any (fun q => decide (q.1 = p.2.w)))) &&
    s.ops.all (fun o => (match o.2.kind with | .clerk _ => s.requests.any (fun r => decide (r.2.op = o.1)) | _ => true) ||
      !(ws.any (fun q => decide (q.1 = o.2.w))))

/-- The shop of a unit; none for a home Clerk, which acknowledges for the whole gang. -/
def unitShop : AckUnit → Option Nat
  | .weaves h | .loom h | .dray h | .gleaner h | .courier h | .runner h => some h
  | .clerk _ => none

/-- The acknowledgements of a basket are all in (R161): those of its shop, and those of the Clerks that hold its atomics. -/
def basketStopped (s : State) (x : Gang) (b : Nat) : Bool :=
  match look s.baskets b with
  | none => true
  | some B => x.awaited.all (fun u => decide (unitShop u ≠ some B.shop) && !((clerksOf s B.weaves).contains u))

/-- The first split of a shop of the gang that stands at a P clause whose record is bad (R143): its weave, slot and header. While the split
holds an instruction, or a trap of its own waits, the Steward waits for that to end: log 72 (DESIGN CHOICE). -/
def badRecord (s : State) (g : Nat) (u : AckUnit) : Option (Nat × Nat × DWord × DWord) :=
  match u with
  | .weaves h =>
    ((gangWeaves s g).filter (fun p => decide (p.2.shop = h))).findSome? (fun p =>
      p.2.splits.findSome? (fun x => match standOf s p.2 x.2 with
        | .bad hd => if x.2.held.isNone && x.2.late.isNone then some (p.1, x.1, x.2.pc, hd) else none
        | _ => none))
  | _ => none

/-- PREEMPT_ACK (R161): a unit of gang a acknowledges; a basket whose acknowledgements are all in is saved, and after the last one the gang's
shops are free. The Clerks that hold atomics of a shop's weaves once its benches have stopped are awaited too (R284). A bad liveness record
raises the illegal-clause trap instead, cause 7 (R143). -/
def execPreemptAck (s : State) : Host.Outcome State Fault Refusal :=
  let g := s.ev.a
  match look s.gangs g with
  | none => .next s
  | some x =>
    if !x.collecting || !(x.awaited.contains s.ev.unit) then .next s
    else
      match badRecord s g s.ev.unit with
      | some (w, slot, pc, hd) =>
        .next (deliver s w slot { idx := 255, pc := pc, nextpc := 0, word := hd, held := false }
          { cls := 1, cause := 7, lanes := match (weaveOf s w).bind (fun wv => look wv.splits slot) with | some sp => sp.mask | none => 0 })
      | none =>
        if unitStopped s g s.ev.unit then
          let more := match s.ev.unit with
            | .weaves h => clerksOf s (((gangWeaves s g).filter (fun p => decide (p.2.shop = h))).map (fun p => p.1))
            | _ => []
          let left := (x.awaited ++ more).eraseDups.filter (fun u => decide (u ≠ s.ev.unit))
          let y := { x with awaited := left }
          let s1 := { s with gangs := put s.gangs g y }
          let s2 := (y.baskets.filter (basketStopped s1 y)).foldl holdBasket s1
          if left = [] then .next (saveGang s2 g) else .next s2
        else .next s

/-- Child completions that waited for a basket's restore are applied (R239). -/
def lateChildren (s : State) (b : Nat) : State :=
  (s.lots.filter (fun p => decide (p.2.basketOf = b ∧ p.2.state = 2) && p.2.events.isSome)).foldl (fun s p =>
    let s1 := lotEvents s p.1 p.2
    match p.2.events with
    | some e => retireCheck s1 e.w
    | none => s1) s

/-- PREEMPT_WITHDRAW (R161): the policy core withdraws a priority or SUSPEND cause of gang a before the last acknowledgement; with
no cause left the gang runs on, as if it had not been made. -/
def execPreemptWithdraw (s : State) : Host.Outcome State Fault Refusal :=
  match look s.gangs s.ev.a with
  | none => .next s
  | some x =>
    if x.collecting && x.causes.contains s.ev.cause && decide (s.ev.cause = .priority ∨ s.ev.cause = .suspend) then
      let left := x.causes.filter (fun c => decide (c ≠ s.ev.cause))
      if left = [] then
        let s1 := { s with gangs := put s.gangs s.ev.a { x with causes := [], collecting := false, awaited := [] } }
        let s2 := x.baskets.foldl unholdBasket s1
        let shops := (x.baskets.filterMap (look s.baskets)).map (fun B => B.shop)
        .next (shops.foldl (drayAccept 128) (x.baskets.foldl lateChildren s2))
      else .next { s with gangs := put s.gangs s.ev.a { x with causes := left } }
    else .next s

/-! ### Restore (R46, R163, R239) -/

/-- A split of a restored weave: a held instruction is retried, a WAITL with wake code 1 (R214); a split that stands at its role's
entry must start a P clause (R107). Log 41 (DEDUCED), 42 (DEDUCED). -/
def restoreSplit (wv : Weave) (sp : Split) : Split :=
  { sp with
    needP := sp.needP || decide (sp.pc = entryPC wv.hdr)
    held := sp.held.map (fun h => { h with
      restored := true
      wait := match h.wait with
        | .monitor l u none => .monitor l u (some 1)
        | .noWatch u => .monitor 0 u (some 1)
        | x => x }) }

/-- A weave as it is restored on a place (R163): an acquire at level 3 (R67), over what its strands have read, and over what the saves of its
basket's weaves released; in renamed mode its registers fill its reserve, and the rest stands in the spill arena (R157, R173), with the join
entries beyond the bench's 16 (R178). Log 41 (DEDUCED), 73 (DEDUCED). -/
def restoreWeave (maxlevel : Nat) (view : View) (shop bench : Nat) (wv : Weave) : Weave :=
  let wv1 := { wv with
    shop := shop, bench := bench, splits := wv.splits.map (fun y => (y.1, restoreSplit wv y.2))
    mapped := wv.spilled.take (reserveOf wv.hdr), spilled := wv.spilled.drop (reserveOf wv.hdr), jspill := wv.stack.length - 16 }
  let seen := allStrands.flatMap (fun k => (syncOf wv k).seen)
  learnView wv1 0xFFFFFFFF (joinView view (taken maxlevel (.weave shop) 3 seen))

/-- Lease slots of a tenancy whose identifier at a save is now absent or another one (R163). -/
def changedLeases (s : State) (t : Nat) (ids : Tab (BitVec 64)) : List Nat :=
  (ids.filter (fun p =>
    let l := leaseOf s t p.1
    decide (l.state = 0 ∨ l.state = 5 ∨ l.id ≠ p.2))).map (fun p => p.1)

/-- The parked accesses of a restored gang's engine commands whose lease has gone are handled as revocation does (R163): they become
unresolved with KIND 4. -/
def noteRevoked (s : State) (ws slots : List Nat) : State :=
  if slots = [] then s
  else
    let mark (p : Parked) : Parked := markParked 4 slots.contains p
    { s with
      copies := s.copies.map (fun c =>
        (c.1, if c.2.w.any ws.contains then { c.2 with parked := c.2.parked.map (fun p => (p.1, mark p.2)) } else c.2))
      selects := s.selects.map (fun c =>
        (c.1, if ws.contains c.2.w then { c.2 with parked := c.2.parked.map (fun p => (p.1, mark p.2)) } else c.2))
      weaves := s.weaves.map (fun p =>
        (p.1, if ws.contains p.1 then { p.2 with gslots := p.2.gslots.map (fun g => (g.1, { g.2 with places := g.2.places.map (fun q => (q.1, mark q.2)) })) }
              else p.2)) }

/-- Restore a basket on a place. Log 41 (DEDUCED). -/
def restoreBasket (s : State) (b : Nat) (hs : List Hdr) (p : Placement) : State :=
  match look s.baskets b with
  | none => s
  | some B =>
    let live := liveWeaves s B
    let view := basketView s b
    let s1 := modBasket s b (fun B => { B with shop := p.shop, ctxVA := p.ctxVA, seats := p.benches })
    let s2 := (live.zip (List.range live.length)).foldl (fun s x => modWeave s x.1 (restoreWeave s.maxlevel view p.shop (p.benches.getD x.2 0))) s1
    let s3 := seatBasket s2 b hs
    let s4 := acquireAction { s3 with
      copies := s3.copies.map (fun c => (c.1, if (c.2.w.any (fun w => live.contains w)) then { c.2 with shop := p.shop } else c.2))
      selects := s3.selects.map (fun c => (c.1, if live.contains c.2.w then { c.2 with shop := p.shop } else c.2)) } p.shop 3
    traceBasket s4 b 2

/-- GANG_RESTORE (R163): the saved gang a is placed on the places named and its context reloaded. -/
def execGangRestore (s : State) : Host.Outcome State Fault Refusal :=
  let g := s.ev.a
  match look s.gangs g, (cands s).find? (fun c => decide (c.saved = some g)) with
  | some x, some c =>
    match look s.lots x.lot with
    | none => .next s
    | some l =>
      if placesOk s c l s.ev.places && turnOf s c then
        let ws := (gangWeaves s g).map (fun p => p.1)
        let s1 := (x.baskets.zip s.ev.places).foldl (fun s p => restoreBasket s p.1 l.hdrs p.2) s
        let s2 := noteRevoked { s1 with
          gangs := put s1.gangs g { x with resident := true, leaseIds := [] }
          lots := edit s1.lots x.lot (fun l => { l with aged := 0 }) } ws (changedLeases s l.tenancy x.leaseIds)
        let s3 := guardPaid (x.baskets.foldl returnPending s2) g
        .next ((s.ev.places.map (fun p => p.shop)).foldl (drayAccept 128) (x.baskets.foldl lateChildren s3))
      else .next s
  | _, _ => .next s

end Sys2Proof.Machine
end

