-- ==== Sys2Proof/Machine/Frames.lean ====
section
/-!
DEFINITION. The near tier as the Reeves keep it (spec/15_reeve.md R304, R309 to R311, R316): frames, allowances, fills, eviction,
and a lease slot's loss.
-/

namespace Sys2Proof.Machine

open Sys2Proof

/-- Frames of the near tier (R309), and of one die. -/
def framesAll : Nat := 12582912
/-- Frames of one die's three stacks. -/
def dieFrames : Nat := 3145728

/-- Grains that a tenancy holds on a die (R309). -/
def grainsOn (s : State) (t d : Nat) : List (Nat × Grain) :=
  s.grains.filter (fun p => decide (p.2.tenancy = t ∧ homeDie (keyGrain p.1) = d))

/-- Frames that a tenancy may hold on a die (R304): a quarter of QUOTA − RETIRED, the remainder one each to the lowest dies. -/
def allowance (s : State) (t d : Nat) : Nat :=
  let r := (tenOf s t).reeve
  let n := r.quota - r.retired
  n / 4 + (if d < n % 4 then 1 else 0)

/-! ### Parked accesses -/

/-- An access is parked at a place that the test names by tenancy, lease slot and far grain (R310, R315): of an operation, an engine's
command, the fetch of a clause, a packet, or the commit of an open version. -/
def parkedOn (s : State) (hit : Nat → Nat → Nat → Bool) : Bool :=
  let here (t : Nat) (ps : Parked) : Bool := ps.any (fun p => hit t p.2.1 p.1)
  s.ops.any (fun o => decide (o.2.parkMask ≠ 0) && o.2.kind.places.any (fun x =>
    o.2.parkMask.getLsbD x.1 && (x.2.1.zip x.2.2).any (fun p => hit (opTenancy s o.2) p.2 (grainOf p.1)))) ||
  s.copies.any (fun c => c.2.parked.any (fun p => here c.2.tenancy p.2)) ||
  s.selects.any (fun x => (weaveOf s x.2.w).any (fun wv => x.2.parked.any (fun p => here wv.ids.tenancy p.2))) ||
  s.net.any (fun x => x.2.parked.any (fun p => here x.2.tenancy p.2)) ||
  s.weaves.any (fun w =>
    w.2.gslots.any (fun g => g.2.places.any (fun p => g.2.parked.getLsbD p.1 && decide (codeOf g.2 p.1 = 2) && here w.2.ids.tenancy p.2)) ||
    w.2.splits.any (fun x => here w.2.ids.tenancy x.2.fetching)) ||
  s.queues.any (fun q => q.2.packets.any (fun p => here q.2.tenancy p.2.parked)) ||
  s.baskets.any (fun b => decide (b.2.commitWait ≠ 0) && (look s.lots b.2.lot).any (fun l =>
    b.2.version.any (fun x => hit l.tenancy x.slot (grainOf x.pa))))

/-- An access waits for the fill of a grain under a slot (R310). -/
def fillWanted (s : State) (t slot g : Nat) : Bool := parkedOn s (fun t1 sl g1 => decide (t1 = t ∧ sl = slot ∧ g1 = g))

/-- Accesses of the grain of a key are parked (R311). -/
def grainParked (s : State) (k : Nat) : Bool :=
  parkedOn s (fun t sl g => decide (g = keyGrain k) && decide (grainKey s t sl (65536 * g) = k))

/-- A Clerk holds a line of the grain of a key for a request that it has accepted (R276, R311). -/
def grainHeld (s : State) (k : Nat) : Bool :=
  s.requests.any (fun r => decide (r.2.sent ≠ 0) && r.2.lanes.any (fun l => l.pas.any (fun pa => decide (grainOf pa = keyGrain k))))

/-- The grain of a key has dirty bytes (R311): an SHRO grain in a frame of a SEALED tenancy's own never has. -/
def keyDirty (s : State) (k : Nat) : Bool := decide (keyGrain k = k) && grainDirty s k

/-- A grain may be evicted (R311, R430): one that is dirty only under a lease that lets it be written back (R315). Log 52 (DESIGN CHOICE). -/
def evictable (s : State) (k : Nat) (G : Grain) : Bool :=
  !G.moving && !G.pinned && !(grainParked s k) && !(grainHeld s k) && (!(keyDirty s k) || leaseOk (leaseOf s G.tenancy G.slot))

/-- No repair window holds up the write-back of the grain of a key (R354, R361). -/
def mayFlush (s : State) (k : Nat) : Bool :=
  match look s.grains k with
  | some G => !(keyDirty s k && frameRepairing s G.frame)
  | none => true

/-- Every L1 loses the lines of a grain: the WAITLs that watch them wake with code 1 (R214, R311). -/
def loseGrainLines (s : State) (g : Nat) : State :=
  ((s.weaves.map (fun p => p.2.shop)).eraseDups).foldl (fun s h => loseLines s h (fun l _ => decide (l / 512 = g))) s

/-- The dirty bytes of a grain reach the pool (R311): it is clean, and its lines leave the caches. Log 67 (DEDUCED). -/
def flushGrain (s : State) (g : Nat) : State :=
  let ds := s.dirty.filter (fun p => decide (grainOf p.1 = g))
  loseGrainLines { s with
    far := ds.foldl (fun m p => setCell m p.1 p.2) s.far, dirty := s.dirty.filter (fun p => decide (grainOf p.1 ≠ g)) } g

/-- Write the grain of a key back if it is dirty and drop it (R311). -/
def evictGrain (s : State) (k : Nat) : State :=
  let s1 := if keyDirty s k then flushGrain s k else loseGrainLines s (keyGrain k)
  { s1 with grains := del s1.grains k }

/-- Drop the grain of a key: data not written back is lost (R316). Log 67 (DEDUCED). -/
def dropGrain (s : State) (k : Nat) : State :=
  let s0 := loseGrainLines s (keyGrain k)
  if keyGrain k = k then
    dropLines { s0 with dirty := s0.dirty.filter (fun p => decide (grainOf p.1 ≠ k)), grains := del s0.grains k } (65536 * k) 65536
  else { s0 with grains := del s0.grains k }

/-- A lease that is present, of any tenancy, covers a line; `but` leaves one slot out. -/
def lineLeased (s : State) (but : Nat × Nat) (line : Nat) : Bool :=
  s.tenancies.any (fun T => T.2.reeve.leases.any (fun l =>
    decide ((T.1, l.1) ≠ but ∧ l.2.state ≠ 0 ∧ l.2.state ≠ 5 ∧ l.2.base ≤ 128 * line ∧ 128 * line < l.2.base + l.2.size)))

/-- The lease of a slot is over: what its lines have held is no longer there to be read, but where another lease covers them (R27, R28).
Log 52 (DESIGN CHOICE). -/
def forgetRange (s : State) (t slot : Nat) : State :=
  let l := leaseOf s t slot
  { s with lines := s.lines.filter (fun p =>
      decide (128 * p.1 < l.base) || decide (l.base + l.size ≤ 128 * p.1) || lineLeased s (t, slot) p.1) }

/-- A frame of a die that holds no grain and is not retired: which one is free. Log 52 (DESIGN CHOICE). -/
def freeFrame (s : State) (d : Nat) : Option Nat :=
  let lo := dieFrames * d
  let used := (s.grains.map (fun p => p.2.frame) ++ s.retiredFrames).filter (fun f => decide (lo ≤ f ∧ f < lo + dieFrames))
  let k := choose s (8000 + d) dieFrames
  if dieFrames ≤ used.length + s.pinned / 4 then none
  else ((List.range (used.length + 1)).map (fun i => lo + (k + i) % dieFrames)).find? (fun f => !(used.contains f))

/-- The access counter of a grain now (R328): what it was when it was last set or halved, and those of the line requests since then that
missed L2 and the Depot: how many of them did is free. Log 52 (DESIGN CHOICE). -/
def hotness (s : State) (salt : Nat) (p : Nat × Grain) : Nat :=
  min 15 (p.2.counter + choose s (8000000 + salt % 4096 * 1024 + p.1 % 1024) (p.2.asked + 1))

/-- The victim among some grains (R311): the lowest access counter, then the earliest filled. Log 52 (DESIGN CHOICE). -/
def pickGrain (s : State) (gs : List (Nat × Grain)) (salt : Nat) : Option Nat :=
  (gs.foldl (fun (best : Option (Nat × Nat × Nat)) p =>
    let h := hotness s salt p
    match best with
    | none => some (h, p.2.filled, p.1)
    | some (h0, f0, _) => if h < h0 ∨ (h = h0 ∧ p.2.filled < f0) then some (h, p.2.filled, p.1) else best) none).map
    (fun b => b.2.2)

/-- Room in a tenancy's allowance on a die for one more grain (R310): after the eviction of as many grains as it takes, of those that
the test admits; `none` where too few can go. -/
def roomFor (may : State → Nat → Grain → Bool) : Nat → State → Nat → Nat → Option State
  | 0, _, _, _ => none
  | n + 1, s, t, d =>
    if (grainsOn s t d).length < allowance s t d then some s
    else if allowance s t d = 0 then none
    else
      match pickGrain s ((grainsOn s t d).filter (fun p => may s p.1 p.2)) (8100 + n % 4096) with
      | none => none
      | some g => if mayFlush s g then roomFor may n (evictGrain s g) t d else none

/-- A grain is written into a frame whole: what its sectors held is covered (R355). -/
def coverFrame (s : State) (f : Nat) : State :=
  { s with tinkers := s.tinkers.map (fun p => (p.1, { p.2 with poison := p.2.poison.filter (fun k => decide (k / 2048 ≠ f)) })) }

/-- Put a grain into a frame: resident, clean, counted from 0 (R310); no repair window is open on a part of the frame (R354). -/
def placeGrain (s : State) (t slot g : Nat) : Option State :=
  ((freeFrame s (homeDie g)).filter (fun f => !(frameRepairing s f))).map (fun f =>
    { coverFrame s f with
      grains := put s.grains (grainKey s t slot (65536 * g))
        { tenancy := t, slot := slot, frame := f, filled := s.time, shro := (leaseOf s t slot).rights.testBit 2 } })

/-- The slot serves fills of a grain (R310, R315): ACTIVE, RENEWING or ENDING, and it holds the grain. -/
def slotFills (s : State) (t slot g : Nat) : Bool :=
  let l := leaseOf s t slot
  leaseOk l && decide (l.base ≤ 65536 * g ∧ 65536 * g < l.base + l.size)

/-- Fill a grain that is not resident (R310); `none` where it must wait. Log 52 (DESIGN CHOICE), 67 (DEDUCED). -/
def fillGrain (s : State) (t slot g : Nat) : Option State :=
  if (look s.grains (grainKey s t slot (65536 * g))).isSome || !(slotFills s t slot g) then none
  else
    let d := homeDie g
    (roomFor evictable (s.grains.length + 2) s t d).bind (fun s1 => placeGrain s1 t slot g)

/-- Evict grains of a tenancy until its count fits its allowance on every die (R311). -/
def fitQuota : Nat → State → Nat → State
  | 0, s, _ => s
  | n + 1, s, t =>
    match (List.range 4).find? (fun d => decide (allowance s t d < (grainsOn s t d).length) &&
        (grainsOn s t d).any (fun p => evictable s p.1 p.2)) with
    | none => s
    | some d =>
      match pickGrain s ((grainsOn s t d).filter (fun p => evictable s p.1 p.2)) (8200 + n % 4096) with
      | none => s
      | some g => if mayFlush s g then fitQuota n (evictGrain s g) t else s

/-- GRAIN_FILL_COMPLETE (R310): the fill of grain a under slot c of tenancy b ends, if an access waits for it; accesses parked on it
proceed. Grains above a lowered QUOTA that have become evictable go first (R311). -/
def execGrainFillComplete (s : State) : Host.Outcome State Fault Refusal :=
  let s0 := fitQuota s.grains.length s s.ev.b
  if fillWanted s0 s.ev.b s.ev.c s.ev.a then .next ((fillGrain s0 s.ev.b s.ev.c s.ev.a).getD s0) else .next s0

/-- QUOTA_WRITE (R304, R311): TCTL.QUOTA of tenancy a becomes v; ignored where the QUOTA values would add up to more than the
frames that are neither retired nor pinned. -/
def execQuotaWrite (s : State) : Host.Outcome State Fault Refusal :=
  let t := s.ev.a
  let q := (s.ev.v.extractLsb' 0 24).toNat
  let others := (List.range 16).foldl (fun a u => if u = t then a else a + (tenOf s u).reeve.quota) 0
  if 16 ≤ t ∨ framesAll - s.retiredFrames.length - s.pinned < others + q then .next s
  else
    let s1 := setReeve s t (fun r => { r with quota := q })
    .next (fitQuota s1.grains.length s1 t)

/-! ### Lease slots (R312, R314, R316) -/

/-- Grains of a lease that are resident. -/
def leaseGrains (s : State) (t slot : Nat) : List Nat :=
  (s.grains.filter (fun p => decide (p.2.tenancy = t ∧ p.2.slot = slot))).map (fun p => p.1)

/-- Of these, the dirty ones. -/
def leaseDirty (s : State) (t slot : Nat) : List Nat := (leaseGrains s t slot).filter (keyDirty s)

/-- The 64 bytes of a lease slot (R312). Log 53 (DEDUCED). -/
def leaseImage (s : State) (t slot : Nat) : List Byte :=
  let l := leaseOf s t slot
  bytesOf 8 l.id.toNat ++ bytesOf 8 l.base ++ bytesOf 8 l.size ++ bytesOf 8 l.expiry ++ bytesOf 2 l.node ++
    [BitVec.ofNat 8 l.rights, BitVec.ofNat 8 l.state] ++ bytesOf 2 l.replica ++ [0, 0] ++ bytesOf 8 l.deadline ++
    bytesOf 4 (leaseGrains s t slot).length ++ bytesOf 4 (leaseDirty s t slot).length ++ bytesOf 8 0

/-- Drop every translation that names a slot (R308, R316). -/
def dropSlotPages (s : State) (t slot : Nat) : State :=
  setReeve s t (fun r => { r with cache := r.cache.filter (fun p => decide ((p.2.2.extractLsb' 52 8).toNat ≠ slot)) })

/-- The reply to a q9 command (R327): 32 words on the weave's view of q9's replies. Where the view is full, it is held with the
command's completion (R170). Log 53 (DEDUCED). -/
def replyQ9 (s : State) (op status dropped : Nat) (tag : Word) (image : List Byte) : State :=
  match look s.ops op with
  | none => s
  | some o =>
    match weaveOf s o.w with
    | none => s
    | some wv =>
      let words := [BitVec.ofNat 32 status] ++ (List.range 16).map (fun i => BitVec.ofNat 32 (natOfBytes ((image.drop (4 * i)).take 4))) ++
        [BitVec.ofNat 32 dropped] ++ List.replicate 13 0 ++ [tag]
      let room := decide ((viewEntries wv 25).length < queueDepth 9)
      let msg := relMsg (.reeve (dieOf wv.shop)) 0 []
      let s1 := modWeave s o.w (fun wv => { wv with queues := put wv.queues 25 (viewEntries wv 25 ++
        [{ words := words, msg := some msg, op := op, opc := if room then 0 else 1 }]) })
      if room then completeOp s1 op true else s1

/-- The q9 command outstanding on a slot gets its reply (R327). -/
def replySlot (s : State) (t slot status : Nat) : State :=
  let l := leaseOf s t slot
  match l.cmd with
  | none => s
  | some (_, op, tag) => replyQ9 (setLease s t slot { l with cmd := none }) op status l.dropped tag (leaseImage s t slot)

/-- Event 0x0203 or 0x0204 of a slot, or 0x0202 with its DEADLINE (R324). -/
def leaseEvent (s : State) (t slot reason : Nat) (two four : Nat) (deadline : Nat) : State :=
  let l := leaseOf s t slot
  postEvent s t reason (bytesOf 2 slot ++ bytesOf 2 two ++
    (if reason = 0x0202 then bytesOf 8 l.id.toNat ++ bytesOf 8 deadline else bytesOf 4 four ++ bytesOf 8 l.id.toNat))

/-- The basket has a write or an atomic that is not yet performed, of an operation or of an engine, at a place that the test names by lease slot
and far grain (R316, R336). Log 54 (DEDUCED). -/
def writesAt (s : State) (B : Basket) (hit : Nat → Nat → Bool) : Bool :=
  let at1 (ps : Parked) : Bool := ps.any (fun p => hit p.2.1 p.1)
  let zip (pas slots : List Nat) : Bool := (pas.zip slots).any (fun p => hit p.2 (grainOf p.1))
  s.ops.any (fun p => B.weaves.contains p.2.w && p.2.kind.access.2 && p.2.kind.places.any (fun x => zip x.2.1 x.2.2)) ||
  s.copies.any (fun c => c.2.w.any B.weaves.contains &&
    (c.2.flying.any (fun f => zip f.pas f.slots) || (decide (dDSP c.2.desc = 0) && c.2.parked.any (fun p => at1 p.2)))) ||
  s.selects.any (fun x => B.weaves.contains x.2.w && x.2.out.isSome && x.2.parked.any (fun p => at1 p.2)) ||
  s.net.any (fun x => B.weaves.contains x.2.w && x.2.parked.any (fun p => at1 p.2)) ||
  B.weaves.any (fun w => (weaveOf s w).any (fun wv => wv.gslots.any (fun g => decide (g.2.kind ≠ 0) &&
    g.2.places.any (fun p => g.2.parked.getLsbD p.1 && decide (codeOf g.2 p.1 = 2) && at1 p.2))))

/-- The basket has a write or an atomic under a slot that is not yet performed (R316). Log 54 (DEDUCED). -/
def writesUnder (s : State) (B : Basket) (slot : Nat) : Bool := writesAt s B (fun sl _ => decide (sl = slot))

/-- Every access that is parked under a slot of a tenancy ends unresolved with the KIND of the slot's loss (R316). -/
def loseParked (s : State) (t slot kind : Nat) : State :=
  let mark (t1 : Nat) (ps : Parked) : Parked := if t1 = t then markParked kind (fun sl => decide (sl = slot)) ps else ps
  let why (t1 : Nat) (p : Option (Stall × Parked)) : Option (Stall × Parked) := p.map (fun p => (p.1, mark t1 p.2))
  { s with
    ops := s.ops.map (fun o =>
      if decide (o.2.parkMask ≠ 0) && decide (opTenancy s o.2 = t) then
        let ks := (o.2.kind.places.filter (fun x => o.2.parkMask.getLsbD x.1 && x.2.2.contains slot)).map (fun x => x.1)
        (o.1, { o.2 with lost := o.2.lost ++ ks.eraseDups.map (fun k => (k, slot, kind)) })
      else o)
    copies := s.copies.map (fun c => (c.1, { c.2 with parked := why c.2.tenancy c.2.parked }))
    selects := s.selects.map (fun x => (x.1, match weaveOf s x.2.w with
      | some wv => { x.2 with parked := why wv.ids.tenancy x.2.parked }
      | none => x.2))
    net := s.net.map (fun x => (x.1, { x.2 with parked := why x.2.tenancy x.2.parked }))
    queues := s.queues.map (fun q => (q.1, { q.2 with packets := q.2.packets.map (fun p =>
      (p.1, { p.2 with parked := mark q.2.tenancy p.2.parked })) }))
    weaves := s.weaves.map (fun w => (w.1, { w.2 with
      gslots := w.2.gslots.map (fun g => (g.1, { g.2 with places := g.2.places.map (fun p => (p.1, mark w.2.ids.tenancy p.2)) }))
      splits := w.2.splits.map (fun x => (x.1, { x.2 with fetching := mark w.2.ids.tenancy x.2.fetching })) })) }

/-- A slot becomes LOST with a cause (R316): translations and grains dropped, accesses unresolved from now on, baskets with writes
under it trapped or halted, the event posted. An outstanding RENEW replies 1. Log 54 (DEDUCED). -/
def loseSlot (s : State) (t slot cause : Nat) : State :=
  let dirty := (leaseDirty s t slot).length
  let s1 := setLease s t slot { leaseOf s t slot with state := 5, cause := cause }
  let s2 := forgetRange ((leaseGrains s1 t slot).foldl dropGrain (dropSlotPages s1 t slot)) t slot
  let hit := (s2.baskets.filter (fun p => p.2.resident && (match look s2.lots p.2.lot with
    | some l => decide (l.tenancy = t)
    | none => false) && (p.2.version.any (fun x => decide (x.slot = slot)) || writesUnder s2 p.2 slot))).map (fun p => p.1)
  let s3 := hit.foldl (fun s b => taskTrap s b 3 slot 0 cause) (loseParked s2 t slot cause)
  let s4 := leaseEvent s3 t slot 0x0203 cause dirty 0
  match (leaseOf s4 t slot).cmd with
  | some (2, _, _) => replySlot s4 t slot 1
  | _ => s4

/-- A slot enters ENDING (R314): its DEADLINE, the event 0x0202; an outstanding RENEW replies 1. Log 54 (DEDUCED). -/
def endSlot (s : State) (t slot deadline cause : Nat) : State :=
  let s1 := leaseEvent (setLease s t slot { leaseOf s t slot with state := 4, deadline := deadline, cause := cause }) t slot 0x0202 0 0
    deadline
  match (leaseOf s1 t slot).cmd with
  | some (2, _, _) => replySlot s1 t slot 1
  | _ => s1

/-- A slot that is not EMPTY enters RELEASING (R314, R327): its translations go. -/
def releaseSlot (s : State) (t slot : Nat) : State :=
  let l := leaseOf s t slot
  if l.state = 0 then s
  else dropSlotPages (setLease s t slot { l with state := 6, deadline := 0, dropped := 0 }) t slot

/-- The bytes of an Amiop message (R313). -/
def amiopBytes (kind t status slot node : Nat) (id : BitVec 64) (size duration rights : Nat) (seq : BitVec 32) : List Byte :=
  [BitVec.ofNat 8 kind, 1, BitVec.ofNat 8 t, BitVec.ofNat 8 status] ++ bytesOf 2 slot ++ bytesOf 2 node ++ bytesOf 8 id.toNat ++
    bytesOf 8 0 ++ bytesOf 8 size ++ bytesOf 8 duration ++ bytesOf 4 0 ++ bytesOf 2 0 ++ bytesOf 2 rights ++ bytesOf 4 seq.toNat ++
    List.replicate 12 0

/-- Send an Amiop message of the device's own (R313). Log 16 (DESIGN CHOICE). -/
def sendAmiop (s : State) (kind t slot node : Nat) (id : BitVec 64) (size duration rights : Nat) : State :=
  let s1 := send s (.amiop (amiopBytes kind t 0 slot node id size duration rights s.amiopSeq))
  { s1 with amiopSeq := s1.amiopSeq + 1 }

/-- A RELEASING slot's write-back is over (R327): every grain of the lease is dropped, RELEASE is sent, the slot is EMPTY, the command
replies. Log 53 (DEDUCED). -/
def releaseDone (s : State) (t slot : Nat) (send : Bool) : State :=
  let l := leaseOf s t slot
  let s1 := forgetRange ((leaseGrains s t slot).foldl dropGrain s) t slot
  let s2 := if send then sendAmiop s1 3 t slot 0 l.id 0 0 0 else s1
  let s3 := setLease s2 t slot { ({} : Lease) with cmd := l.cmd, dropped := l.dropped }
  replySlot s3 t slot 0

end Sys2Proof.Machine
end

