-- ==== Sys2Proof/Machine/Tenancies.lean ====
section
/-!
DEFINITION. Tenancies (spec/01_engines.md R26 to R30, R460, R461; spec/13_clerk.md R272, R273) and host writes of management
registers that have no behaviour of their own (spec/00_scope.md R8, R9; each register's rule named at its arm).
-/

namespace Sys2Proof.Machine

open Sys2Proof

/-- A field of a register value. -/
def vBits (v : BitVec 64) (lo n : Nat) : Nat := (v.extractLsb' lo n).toNat

/-- Change a tenancy block. -/
def modTen (s : State) (t : Nat) (f : Tenancy → Tenancy) : State := setTen s t (f (tenOf s t))

/-- The other tenancies that are SEALED and not FREE. -/
def sealedOthers (s : State) (t : Nat) : List Tenancy :=
  ((List.range 16).filter (fun u => decide (u ≠ t) && holdsArcades (tenOf s u))).map (tenOf s)

/-- A field of a tenancy block is out of range, or the near tier lacks CTXPOOL MiB (R460 cause 5). -/
def tenFieldsBad (s : State) (T : Tenancy) : Bool :=
  let shut := sealedTen T
  let pool := vBits T.tcfg 32 16
  let quotas := (List.range 16).foldl (fun a u => if (tenOf s u).state = 1 then a + (tenOf s u).reeve.quota else a) 0
  decide (vBits T.tcfg 48 8 ≠ 0 ∨ vBits T.tcfg 8 24 ≠ 0 ∨ vBits T.tcfg 1 3 ≠ 0 ∨ vBits T.tarc 48 16 ≠ 0 ∨ pool = 0) ||
    (if shut then decide (vBits T.tarc 0 48 = 0)
     else decide (vBits T.tcfg 56 8 = 0 ∨ 192 < vBits T.tcfg 56 8 ∨ vBits T.tarc 0 48 ≠ 0 ∨ vBits T.tcfg 4 4 ≠ 0)) ||
    decide (framesAll < s.retiredFrames.length + s.pinned + quotas + 16 * pool)

/-- Every arcade of a die would be sealed (R30). -/
def dieFull (s : State) (arcades : BitVec 64) : Bool :=
  (List.range 4).any (fun d => (List.range 12).all (fun a => arcades.getLsbD (12 * d + a) || arcadeSealed s (12 * d + a)))

/-- The causes for which a CREATE is refused (R460). Log 51 (DEDUCED). -/
def createCauses (s : State) (t : Nat) : List Nat :=
  let T := tenOf s t
  let others := sealedOthers s t
  let shut := sealedTen T
  (if shut && decide (8 ≤ others.length) then [1] else []) ++
  (if shut && dieFull s T.tarc then [2] else []) ++
  (if shut && others.any (fun u => decide (u.tarc &&& T.tarc ≠ 0)) then [3] else []) ++
  (if shut && others.any (fun u => decide (vBits u.tcfg 4 4 &&& vBits T.tcfg 4 4 ≠ 0)) then [4] else []) ++
  (if tenFieldsBad s T then [5] else []) ++
  (if T.state ≠ 0 then [7] else [])

/-- The causes for which a DESTROY is refused (R460). Log 51 (DEDUCED). -/
def destroyCauses (s : State) (t : Nat) : List Nat :=
  (if s.queues.any (fun p => decide (p.2.tenancy = t) && p.2.enable) || lotsOpen s t then [6] else []) ++
  (if (tenOf s t).state ≠ 1 then [7] else [])

/-- Refuse a tenancy request (R460, R461); where several causes hold, which one is recorded is free. Log 51 (DEDUCED). -/
def refuseTen (s : State) (t cmd : Nat) (causes : List Nat) : State :=
  let cause := causes.getD (choose s 9000 causes.length) 5
  postMex (modTen s t (fun T => { T with refused := cause })) t cause cmd

/-- Accept a tenancy request (R460): BUSY with it. Log 51 (DEDUCED). -/
def busyTen (s : State) (t cmd : Nat) : State :=
  modTen s t (fun T => { T with refused := 0, state := 2, busyWith := cmd, keyWrites := 0 })

/-- TENANCY_CREATE (R460): the CREATE command of tenancy a is refused, or accepted; then every SHARED gang on the arcades asked for
is pre-empted. -/
def execTenancyCreate (s : State) : Host.Outcome State Fault Refusal :=
  let t := s.ev.a
  if 16 ≤ t then .next s
  else
    match createCauses s t with
    | [] =>
      let s1 := busyTen s t 1
      let T := tenOf s t
      let gs := (s1.gangs.filter (fun p => p.2.resident && sealedTen T &&
        (gangWeaves s1 p.1).any (fun w => T.tarc.getLsbD (arcadeOf w.2.shop)))).map (fun p => p.1)
      .next (gs.foldl (fun s g => requestGang s g .sealing) s1)
    | cs => .next (refuseTen s t 1 cs)

/-- The home set that a tenancy is to have for the arcades now sealed (R272). -/
def homesOwn (s : State) (u : Nat) : List Nat :=
  if holdsArcades (tenOf s u) then (List.range 48).filter (fun a => (tenOf s u).tarc.getLsbD a)
  else (List.range 48).filter (fun a => !(arcadeSealed s a))

/-- The home sets as they are to be in another state take the place of these once the Clerks have performed what they have accepted
(R273). Log 51 (DEDUCED). -/
def rehome (s s1 : State) : State :=
  let new := (List.range 16).foldl (fun (m : Tab (List Nat)) u =>
    if homesOwn s1 u = List.range 48 then del m u else put m u (homesOwn s1 u)) []
  if (List.range 16).all (fun u => decide (homesOwn s1 u = homeSet s u)) then { s with homesNext := none }
  else settleHomes { s with homesNext := some new }

/-- The home sets are those of another state: a change of them is over. -/
def rehomed (s s1 : State) : Bool := (List.range 16).all (fun u => decide (homesOwn s1 u = homeSet s u))

/-- A basket of another tenancy still holds resources of an arcade asked for. -/
def arcadesHeld (s : State) (t : Nat) : Bool :=
  sealedTen (tenOf s t) && s.baskets.any (fun p => onShop s p.2 && (tenOf s t).tarc.getLsbD (arcadeOf p.2.shop) &&
    (match look s.lots p.2.lot with | some l => decide (l.tenancy ≠ t) | none => false))

/-- TENANCY_CREATE_DONE (R460): the arcades of tenancy a are clear: the home sets change (R273), and once they have, the context pool's frames
are pinned, and it is LIVE. -/
def execTenancyCreateDone (s : State) : Host.Outcome State Fault Refusal :=
  let t := s.ev.a
  let T := tenOf s t
  if T.state = 2 ∧ T.busyWith = 1 ∧ arcadesHeld s t = false then
    let s1 := rehome s s
    if rehomed s1 s1 then
      .next { modTen s1 t (fun T => { T with state := 1, busyWith := 0 }) with pinned := s.pinned + 16 * vBits T.tcfg 32 16 }
    else .next s1
  else .next s

/-- TENANCY_DESTROY (R460): the DESTROY command of tenancy a is refused, or accepted; then every lease slot is released. -/
def execTenancyDestroy (s : State) : Host.Outcome State Fault Refusal :=
  let t := s.ev.a
  if 16 ≤ t then .next s
  else
    match destroyCauses s t with
    | [] => .next ((List.range 256).foldl (fun s n => releaseSlot s t n) (busyTen s t 2))
    | cs => .next (refuseTen s t 2 cs)

/-- The Loft bytes of a partition are cleared (R27, R331). Log 51 (DEDUCED). -/
def clearLoft (s : State) (lbase lsize : Nat) : State :=
  { s with
    loft := s.loft.filter (fun p => decide (p.1 < 65536 * lbase ∨ 65536 * (lbase + lsize) ≤ p.1))
    loftOpen := s.loftOpen.filter (fun x => decide (x.1 + x.2.1 ≤ 65536 * lbase ∨ 65536 * (lbase + lsize) ≤ x.1)) }

/-- What tenancy t held is cleared, its pool unpinned, its key erased (R460, R27). -/
def clearTen (s : State) (t : Nat) : State :=
  let T := tenOf s t
  let s1 := ((s.grains.filter (fun p => decide (p.2.tenancy = t))).map (fun p => p.1)).foldl dropGrain s
  let s2 := clearLoft s1 T.depot.lbase T.depot.lsize
  modTen { s2 with
    pinned := s2.pinned - 16 * vBits T.tcfg 32 16
    keys := s2.keys.map (fun p => if p.2.tenancy = t then (p.1, { p.2 with valid := false, key := 0, wrap := [] }) else p) } t
    (fun T => { T with state := 0, busyWith := 0, tcfg := 0, tarc := 0, key := 0 })

/-- TENANCY_DESTROY_DONE (R460, R27): every lease of tenancy a is released, and its arcades go back: the home sets change back (R273), and once
they have, what it held is cleared, and it is FREE. -/
def execTenancyDestroyDone (s : State) : Host.Outcome State Fault Refusal :=
  let t := s.ev.a
  let T := tenOf s t
  if T.state = 2 ∧ T.busyWith = 2 ∧ (T.reeve.leases.all (fun p => decide (p.2.state = 0))) then
    let free := modTen s t (fun T => { T with state := 0 })
    let s1 := rehome s free
    if rehomed s1 free then .next (clearTen s1 t) else .next s1
  else .next s

/-- TKEY_WRITE (R460): the next 64 bits of tenancy a's key, while it is FREE. -/
def execTkeyWrite (s : State) : Host.Outcome State Fault Refusal :=
  let T := tenOf s s.ev.a
  if s.ev.a < 16 ∧ T.state = 0 then
    let k := 64 * (T.keyWrites % 4)
    .next (modTen s s.ev.a (fun T => { T with
      key := (T.key &&& ~~~((0xFFFFFFFFFFFFFFFF#256) <<< k)) ||| (s.ev.v.setWidth 256 <<< k)
      keyWrites := T.keyWrites + 1 }))
  else .next s

/-! ### Registers with no behaviour of their own (R8, R9) -/

/-- A write in the tenancy blocks (R460): TCFG, TARC, while FREE. Reserved bits that are written stay visible to the check of cause
5. Log 51 (DEDUCED), 70 (DEDUCED). -/
def writeTen (s : State) (t o : Nat) (v : BitVec 64) : State :=
  if (tenOf s t).state ≠ 0 then s
  else if o = 0 then modTen s t (fun T => { T with tcfg := v })
  else if o = 8 then modTen s t (fun T => { T with tarc := v })
  else s

/-- A write in a Reeve block (R304). Log 70 (DEDUCED). -/
def writeReeve (s : State) (t o : Nat) (v : BitVec 64) : State :=
  let off := !(tenOf s t).reeve.en
  if o = 0 then setReeve s t (fun r => { r with
    rootLease := if off then vBits v 52 8 else r.rootLease
    rootTable := if off then vBits v 12 40 else r.rootTable
    en := v.getLsbD 0 })
  else if o = 8 then setReeve s t (fun r => { r with
    evqueue := vBits v 26 14, frlog2 := if off then vBits v 8 5 else r.frlog2, runen := v.getLsbD 7 })
  else if o = 0x10 then setReeve s t (fun r => { r with renewLead := vBits v 32 32, renewTmo := vBits v 0 32 })
  else if o = 0x18 then setReeve s t (fun r => { r with frbase := if off then v else r.frbase })
  else if o = 0x28 then setReeve s t (fun r => { r with frtmo := vBits v 0 32 })
  else s

/-- A write in a queue's block (R144, R145): the fields without an event of their own. Log 38 (DEDUCED), 70 (DEDUCED). -/
def writeQueue (s : State) (q o : Nat) (v : BitVec 64) : State :=
  let off := !(queueOf s q).enable
  if o = 0 then (if off then modQueue s q (fun Q => { Q with qbase := v }) else s)
  else if o = 8 then modQueue s q (fun Q =>
    if off then { Q with tenancy := vBits v 28 4, log2size := vBits v 23 5, exlog2 := vBits v 18 5, priv := v.getLsbD 1, exvec := vBits v 4 11 }
    else { Q with exvec := vBits v 4 11 })
  else if o = 0x20 then (if off then modQueue s q (fun Q => { Q with exbase := v }) else s)
  else s

/-- A write in a Scrivener block (R436): the fields without an event of their own. Log 70 (DEDUCED). -/
def writeScriv (s : State) (t o : Nat) (v : BitVec 64) : State :=
  let c := (tenOf s t).scriv
  let off := decide (c.state = 0) && !c.traceen
  let f (g : Scriv → Scriv) : State := if off then setScriv s t g else s
  if o = 0 then setScriv s t (fun c => { c with trmask := v.extractLsb' 16 16, slog2n := if off then vBits v 4 5 else c.slog2n })
  else if o = 8 then f (fun c => { c with sbase := v })
  else if o = 0x10 then setScriv s t (fun c => { c with srd := v.extractLsb' 32 32 })
  else if o = 0x18 then f (fun c => { c with tbase := v })
  else if o = 0x20 then setScriv s t (fun c => { c with trd := v.extractLsb' 32 32 })
  else if o = 0x28 then f (fun c => { c with rbase := v })
  else if o = 0x38 then f (fun c => { c with npass := vBits v 20 4, rlog2 := vBits v 16 4, tlog2 := vBits v 8 5, slog2 := vBits v 0 5 })
  else if 0x40 ≤ o ∧ o < 0x60 then
    let set (m : Cells 8) : Cells 8 := (List.range 8).foldl (fun m i => setCell m (o - 0x40 + i) (v.extractLsb' (8 * i) 8)) m
    f (fun c => { c with evset := set c.evset })
  else s

/-- Counter c of a shop belongs to a tenancy one of whose replay lots runs a pass: host writes to it are ignored (R448). -/
def counterLocked (s : State) (h c : Nat) : Bool :=
  let x := cell (shopOf s h).cntctl c
  x.getLsbD 26 && s.lots.any (fun p => decide (p.2.npass ≠ 0 ∧ p.2.state < 2 ∧ p.2.tenancy = (x.extractLsb' 28 4).toNat))

/-- A write in a shop's counter and breakpoint block (R442); reserved bits are ignored. Log 70 (DEDUCED). -/
def writeShop (s : State) (h o : Nat) (v : BitVec 64) : State :=
  if o < 0x40 ∧ counterLocked s h (o / 8 % 4) then s
  else if o < 0x20 then modShop s h (fun x => { x with cntctl := setCell x.cntctl (o / 8) (v &&& 0xFFFFFFFFFC0000FF) })
  else if o < 0x40 then modShop s h (fun x => { x with cnt := setCell x.cnt (o / 8 - 4) v })
  else if o % 16 = 0 then modShop s h (fun x => { x with bpaddr := setCell x.bpaddr ((o - 0x40) / 16) (v &&& 0xFFFFFFFFFFFFFFF8) })
  else modShop s h (fun x => { x with bpctl := setCell x.bpctl ((o - 0x40) / 16) (v &&& 0xFFFFFFFFFFFF0001) })

/-- A write in a Tinker block (R356): TCTL, and EVENTS, whose bits a 1 clears. Log 70 (DEDUCED). -/
def writeTinker (s : State) (k o : Nat) (v : BitVec 64) : State :=
  let T := (look s.tinkers k).getD {}
  if o = 0 then { s with tinkers := put s.tinkers k { T with
    thresh := vBits v 40 8, scrubh := vBits v 32 8, irqen := v.getLsbD 11, vec := vBits v 0 11 } }
  else if o = 0x10 then { s with tinkers := put s.tinkers k { T with events := T.events &&& ~~~(v.extractLsb' 0 4) } }
  else s

/-- A write of an intake ring's registers (R430), while it is not enabled. Log 50 (DEDUCED), 70 (DEDUCED). -/
def writeRing (s : State) (r o : Nat) (v : BitVec 64) : State :=
  if (ringOf s r).enable then s
  else if o = 0 then modRing s r (fun R => { R with rbase := v })
  else if o = 8 then modRing s r (fun R => { R with
    tenancy := vBits v 60 4, log2size := vBits v 55 5, log2slot := vBits v 51 4, residx := v.extractLsb' 32 16, reqsec := v.getLsbD 10,
    policy := vBits v 8 2, place := v.getLsbD 4 })
  else s

/-- Change a communicator. -/
def modComm (s : State) (t c : Nat) (f : Comm → Comm) : State :=
  modTen s t (fun T => { T with comms := put T.comms c (f ((look T.comms c).getD {})) })

/-- A write of a communicator's registers (R422), while it is not enabled. Log 49 (DEDUCED), 70 (DEDUCED). -/
def writeComm (s : State) (t c o : Nat) (v : BitVec 64) : State :=
  if ((look (tenOf s t).comms c).getD {}).enable then s
  else if o = 0 then modComm s t c (fun C => { C with nranks := vBits v 16 7, myrank := vBits v 8 6 })
  else if o = 8 then modComm s t c (fun C => { C with mbase := v })
  else s

/-- A write of a register of the package (R456, R458, R461). Log 70 (DEDUCED). -/
def writePackage (s : State) (o : Nat) (v : BitVec 64) : State :=
  if o = 0x10 then { s with capw := vBits v 0 16 }
  else if o = 0x18 then (if v.getLsbD 26 then { s with tripped := false } else s)
  else if o = 0x28 then (if s.attGo then s else { s with attaddr := v })
  else if o = 0x30 then { s with mexbase := v }
  else if o = 0x38 then { s with mexrd := v.extractLsb' 32 32 }
  else s

/-- REGISTER_WRITE (R9): an 8-byte host write of v at offset a of the Steward management block, to the fields that have no event of
their own. -/
def execRegisterWrite (s : State) : Host.Outcome State Fault Refusal :=
  let a := s.ev.a
  let v := s.ev.v
  let within (base stride n : Nat) : Bool := decide (base ≤ a ∧ a < base + stride * n)
  if a % 8 ≠ 0 then .next s
  else if a < 0x60 then .next (writePackage s a v)
  else if within 0x00100000 64 16384 then .next (writeQueue s ((a - 0x00100000) / 64) (a % 64) v)
  else if within 0x00200000 64 16 then .next (writeTen s ((a - 0x00200000) / 64) (a % 64) v)
  else if within 0x00300000 0x8000 16 then .next (writeReeve s ((a - 0x00300000) / 0x8000) (a % 0x8000) v)
  else if within 0x00380000 64 16 then
    .next (if a % 64 = 0 then modTen s ((a - 0x00380000) / 64) (fun T => { T with depot := { T.depot with
      vdefault := if vBits v 48 16 = 0 then 256 else vBits v 48 16, dways := min (vBits v 0 6) 32 } }) else s)
  else if within 0x00400000 0x10000 12 then .next (writeTinker s ((a - 0x00400000) / 0x10000) (a % 0x10000) v)
  else if within 0x00500000 64 256 then .next (writeRing s ((a - 0x00500000) / 64) (a % 64) v)
  else if within 0x00520000 0x400 16 then
    .next (writeComm s ((a - 0x00520000) / 0x400) (a % 0x400 / 64) (a % 64) v)
  else if within 0x00580000 0x100 16 then .next (writeScriv s ((a - 0x00580000) / 0x100) (a % 0x100) v)
  else if within 0x00600000 0x80 192 then .next (writeShop s ((a - 0x00600000) / 0x80) (a % 0x80) v)
  else .next s

end Sys2Proof.Machine
end

