-- ==== Sys2Proof/Machine/Reeve.lean ====
section
/-!
DEFINITION. The Reeve's events (spec/15_reeve.md): q9 commands (R327), Amiop messages (R313, R314, R317), lease times (R314), replies
to fault records (R319), back-invalidation (R322), the Runner (R328, R329), INVREQ (R304).
-/

namespace Sys2Proof.Machine

open Sys2Proof

/-! ### q9 (R327) -/

/-- Words that a q9 command uses, from word 0 on; none for an unknown operation. Log 53 (DEDUCED). -/
def q9Used (op : Nat) : Nat := match op with | 1 => 8 | 2 => 2 | 3 => 2 | 4 => 3 | 5 => 2 | _ => 0

/-- The record with a SEQ that awaits a reply (R319). -/
def awaiting (s : State) (t seq : Nat) : Option FaultRec :=
  (tenOf s t).reeve.faults.find? (fun f => decide (f.seq = seq) && f.taken.isNone)

/-- A q9 command is bad by its words (R327). Log 53 (DEDUCED). -/
def q9Bad (s : State) (t : Nat) (ws : List Nat) : Bool :=
  let op := ws.headD 0
  let n := ws.getD 1 0
  decide (q9Used op = 0) || ((ws.drop (q9Used op)).take (31 - q9Used op)).any (fun x => decide (x ≠ 0)) ||
    (if op = 4 then (awaiting s t n).isNone || !(decide (ws.getD 2 0 = 1 ∨ ws.getD 2 0 = 2)) else decide (255 < n))

/-- The slot image of a reply (R327); where the command names no slot, free words. Log 53 (DEDUCED). -/
def q9Image (s : State) (t : Nat) (ws : List Nat) : List Byte :=
  let n := ws.getD 1 0
  if ws.headD 0 ≠ 4 ∧ n < 256 then leaseImage s t n
  else (List.range 16).flatMap (fun i => bytesOf 4 (freeWord s (9100 + i)).toNat)

/-- Serve the oldest q9 command of a weave if its operation is one of those given (R327): in push order; a bad command replies 3,
a command to a slot whose ACQUIRE, RENEW or RELEASE is outstanding replies 2. Log 53 (DEDUCED). -/
def serveQ9 (s : State) (w : Nat) (mine : Nat → Bool) (go : State → Nat → Nat → Nat → Word → List Nat → State) : State :=
  match weaveOf s w with
  | none => s
  | some wv =>
    match viewEntries wv 9, basketOf s wv with
    | e :: _, some B =>
      let ws := e.words.map (fun x => x.toNat)
      let t := wv.ids.tenancy
      let tag := e.words.getD 31 0
      let slot := ws.getD 1 0
      if !B.resident || !(mine (ws.headD 0)) then s
      else
        let s1 := dropHead s w 9
        if q9Bad s t ws then replyQ9 s1 e.op 3 0 tag (q9Image s t ws)
        else if ws.headD 0 ≠ 4 ∧ (leaseOf s t slot).cmd.isSome then replyQ9 s1 e.op 2 0 tag (leaseImage s t slot)
        else go s1 t slot e.op tag ws
    | _, _ => s

/-- LEASE_ACQUIRE (R327): weave a's ACQUIRE: its message goes to the pool manager. -/
def execLeaseAcquire (s : State) : Host.Outcome State Fault Refusal :=
  .next (serveQ9 s s.ev.a (fun o => decide (o = 1)) (fun s t n op tag ws =>
    let l := leaseOf s t n
    if l.state = 0 ∨ l.state = 5 then
      sendAmiop (setLease s t n { l with cmd := some (1, op, tag) }) 1 t n (ws.getD 2 0 % 65536) 0
        (ws.getD 4 0 + 2 ^ 32 * ws.getD 5 0) (ws.getD 6 0 + 2 ^ 32 * ws.getD 7 0) (ws.getD 3 0)
    else replyQ9 s op 3 0 tag (leaseImage s t n)))

/-- Send RENEW for a slot (R313, R314); the DURATION that it asks for is free. -/
def sendRenew (s : State) (t n : Nat) : State :=
  sendAmiop (setLease s t n { leaseOf s t n with sent := s.time }) 2 t n 0 (leaseOf s t n).id 0
    ((freeWord s 9200).toNat + 2 ^ 32 * (freeWord s 9201).toNat) 0

/-- LEASE_RENEW (R327): weave a's RENEW. -/
def execLeaseRenew (s : State) : Host.Outcome State Fault Refusal :=
  .next (serveQ9 s s.ev.a (fun o => decide (o = 2)) (fun s t n op tag _ =>
    sendRenew (setLease s t n { leaseOf s t n with cmd := some (2, op, tag) }) t n))

/-- LEASE_RELEASE (R327): weave a's RELEASE: the slot enters RELEASING; an EMPTY slot replies 0 at once. -/
def execLeaseRelease (s : State) : Host.Outcome State Fault Refusal :=
  .next (serveQ9 s s.ev.a (fun o => decide (o = 3)) (fun s t n op tag _ =>
    if (leaseOf s t n).state = 0 then replyQ9 s op 0 0 tag (leaseImage s t n)
    else
      let s1 := releaseSlot s t n
      setLease s1 t n { leaseOf s1 t n with cmd := some (3, op, tag) }))

/-- LEASERD (R327): weave a's LEASERD, or a command of no known operation. -/
def execLeaserd (s : State) : Host.Outcome State Fault Refusal :=
  .next (serveQ9 s s.ev.a (fun o => decide (o = 5) || decide (q9Used o = 0)) (fun s t n op tag _ => replyQ9 s op 0 0 tag (leaseImage s t n)))

/-- The Reeve takes a reply to an awaiting record (R319): 1 RETRY, 2 FAIL. Log 53 (DEDUCED). -/
def takeResponse (s : State) (t seq r : Nat) : State :=
  setReeve s t (fun R =>
    let fs := if r = 1 then R.faults.filter (fun f => !(decide (f.seq = seq) && f.taken.isNone))
      else R.faults.map (fun f => if f.seq = seq ∧ f.taken = none then { f with taken := some r } else f)
    { R with faults := fs })

/-- The address of a fault record (R318). -/
def faultVA (s : State) (t index : Nat) : Nat :=
  let r := (tenOf s t).reeve
  r.frbase.toNat + 64 * (index % 2 ^ r.frlog2)

/-- FRRESP (R327, R319): weave a's FRRESP: the response of word 2 is taken and written into RESPONSE. -/
def execFrresp (s : State) : Host.Outcome State Fault Refusal :=
  .next (serveQ9 s s.ev.a (fun o => decide (o = 4)) (fun s t seq op tag ws =>
    match awaiting s t seq with
    | none => s
    | some f =>
      let r := ws.getD 2 0
      let s1 := (agentWrite s t (faultVA s t f.index + 0x3C) (bytesOf 4 r) []).getD s
      replyQ9 (takeResponse s1 t seq r) op 0 0 tag (leaseImage s1 t f.slot)))

/-! ### Replies to fault records (R319) -/

/-- FAULT_RESPONSE_POLL (R319): the Reeve reads RESPONSE of tenancy a's record with SEQ b. -/
def execFaultResponsePoll (s : State) : Host.Outcome State Fault Refusal :=
  match awaiting s s.ev.a s.ev.b with
  | none => .next s
  | some f =>
    match agentRead s s.ev.a (faultVA s s.ev.a f.index + 0x3C) 4 with
    | none => .next s
    | some bs =>
      let r := natOfBytes bs
      if r = 1 ∨ r = 2 then .next (takeResponse s s.ev.a s.ev.b r) else .next s

/-- FRTMO_EXPIRE (R319): the record with SEQ b of tenancy a has awaited a reply for FRTMO µs: the access becomes unresolved. -/
def execFrtmoExpire (s : State) : Host.Outcome State Fault Refusal :=
  match awaiting s s.ev.a s.ev.b with
  | none => .next s
  | some f =>
    let tmo := (tenOf s s.ev.a).reeve.frtmo
    if tmo ≠ 0 ∧ f.posted + 1000 * tmo ≤ s.time then .next (takeResponse s s.ev.a s.ev.b 2) else .next s

/-- Post a record that a full ring held (R319): its GTIME and SEQ are those of the posting. -/
def postHeldFault (s : State) (t : Nat) (f : FaultRec) : State :=
  let r := (tenOf s t).reeve
  let n := r.frwr.toNat
  let bs := f.bytes.take 0x30 ++ bytesOf 8 s.time ++ bytesOf 4 n ++ f.bytes.drop 0x3C
  let s1 := match agentWrite s t (faultVA s t n) bs [relMsg (.reeve 0) 3 []] with
    | none => setReeve s t (fun r => { r with frlost := min (r.frlost + 1) 1023 })
    | some s1 => send (setReeve s1 t (fun r => { r with frwr := r.frwr + 1 })) (.msix (queueOf s r.evqueue).exvec)
  setReeve s1 t (fun r => { r with faults := r.faults ++ [{ f with seq := n, index := n, posted := s.time, bytes := bs }] })

/-- Post held records while the ring has room. -/
def postHeldFaults : Nat → State → Nat → State
  | 0, s, _ => s
  | n + 1, s, t =>
    let r := (tenOf s t).reeve
    match r.heldFault with
    | [] => s
    | f :: fs => if faultFull r then s else postHeldFaults n (postHeldFault (setReeve s t (fun r => { r with heldFault := fs })) t f) t

/-- FRRD_WRITE (R319): the host's FRRD of tenancy a becomes v; held records are posted. -/
def execFrrdWrite (s : State) : Host.Outcome State Fault Refusal :=
  let s1 := setReeve s s.ev.a (fun r => { r with frrd := s.ev.v.extractLsb' 0 32 })
  .next (postHeldFaults ((tenOf s1 s.ev.a).reeve.heldFault.length + 1) s1 s.ev.a)

/-- INVREQ_GO (R304): the host writes GO of tenancy a; with c = 1 the PGQ.INVALL that it started completes. Log 53 (DEDUCED). -/
def execInvreqGo (s : State) : Host.Outcome State Fault Refusal :=
  if s.ev.c = 1 then
    .next (setReeve s s.ev.a (fun r => if r.invreq then { r with invreq := false, cache := [] } else r))
  else .next (setReeve s s.ev.a (fun r => { r with invreq := true }))

/-! ### Amiop messages from the pool manager (R313, R314, R317) -/

/-- Answer a message with ACK (R313). -/
def sendAck (s : State) (m : Amiop) (ok : Bool) : State :=
  send s (.amiop (amiopBytes 4 m.tenancy.toNat (if ok then 0 else 1) m.slot.toNat 0 0 0 0 0 m.seq))

/-- The kind, version, tenancy and slot of a message are those of a message of this kind (R313). Log 53 (DEDUCED). -/
def amiopOk (m : Amiop) (kind : Nat) : Bool :=
  decide (m.kind.toNat = kind ∧ m.version = 1 ∧ m.tenancy.toNat < 16 ∧ m.slot.toNat < 256)

/-- The message is one that another event takes (R313): the event named did not happen. -/
def otherKind (m : Amiop) (kind : Nat) : Bool := [0x81, 0x82, 0x83, 0x84, 0x85].contains m.kind.toNat && decide (m.kind.toNat ≠ kind)

/-- The slot that a message names, as it stands. -/
def msgLease (s : State) (m : Amiop) : Lease := leaseOf s m.tenancy.toNat m.slot.toNat

/-- A command of a kind is outstanding on a slot. -/
def outstanding (l : Lease) (k : Nat) : Bool := match l.cmd with | some (x, _, _) => decide (x = k) | none => false

/-- A GRANT is taken (R313, R314): the slot is EMPTY, RENEWING or EXPIRED, or it answers an outstanding ACQUIRE or RENEW.
Log 53 (DEDUCED). -/
def grantOk (l : Lease) (m : Amiop) : Bool :=
  decide (m.base.toNat % 65536 = 0 ∧ m.size.toNat % 65536 = 0) &&
    (decide (l.state = 0) || (decide (l.state = 5) && outstanding l 1) || decide (m.leaseid = l.id)) &&
    (decide (l.state = 0 ∨ l.state = 2 ∨ l.state = 3) ||
      (decide (l.state ≠ 6) && (outstanding l 1 || outstanding l 2)))

/-- GRANT (R313, R314): the slot is filled and ACTIVE; the command that it answers replies 0. -/
def execGrant (s : State) : Host.Outcome State Fault Refusal :=
  let m := s.ev.amiop
  let l := msgLease s m
  if otherKind m 0x81 then .next s
  else if amiopOk m 0x81 && grantOk l m then
    let t := m.tenancy.toNat
    let n := m.slot.toNat
    let l1 : Lease :=
      { l with id := m.leaseid, base := m.base.toNat, size := m.size.toNat, expiry := s.time + m.duration.toNat, node := m.node.toNat,
               rights := m.rights.toNat % 8, replica := m.replica.toNat, state := 1, cause := 0, dropped := 0 }
    .next (sendAck (replySlot (setLease s t n l1) t n 0) m true)
  else .next (sendAck s m false)

/-- REFUSE (R313, R314). -/
def execRefuse (s : State) : Host.Outcome State Fault Refusal :=
  let m := s.ev.amiop
  let l := msgLease s m
  let t := m.tenancy.toNat
  let n := m.slot.toNat
  if otherKind m 0x82 then .next s
  else if !(amiopOk m 0x82) then .next (sendAck s m false)
  else if m.leaseid = 0 ∧ outstanding l 1 ∧ (l.state = 0 ∨ l.state = 5) then .next (sendAck (replySlot s t n 1) m true)
  else if m.leaseid ≠ l.id then .next (sendAck s m false)
  else if l.state = 2 then .next (sendAck (endSlot s t n (l.expiry - 4000) 2) m true)
  else if l.state = 3 then .next (sendAck (loseSlot s t n 2) m true)
  else if outstanding l 2 then .next (sendAck (replySlot s t n 1) m false)
  else .next (sendAck s m false)

/-- REVOKE (R313, R314). -/
def execRevoke (s : State) : Host.Outcome State Fault Refusal :=
  let m := s.ev.amiop
  let l := msgLease s m
  let t := m.tenancy.toNat
  let n := m.slot.toNat
  let by1 := s.time + 1000 * m.grace.toNat
  if otherKind m 0x83 then .next s
  else if !(amiopOk m 0x83) || decide (m.leaseid ≠ l.id ∨ l.state = 0 ∨ l.state = 5) then .next (sendAck s m false)
  else if l.state = 3 then .next (sendAck (loseSlot s t n 4) m true)
  else if l.state = 6 then .next (sendAck (setLease s t n { l with deadline := by1 }) m true)
  else if l.state = 4 then
    .next (sendAck (setLease s t n { l with deadline := min l.deadline (min (l.expiry - 4000) by1), cause := 4 }) m true)
  else .next (sendAck (endSlot s t n (min (l.expiry - 4000) by1) 4) m true)

/-- REPLICA (R313): the slot's replica becomes the node named. -/
def execReplica (s : State) : Host.Outcome State Fault Refusal :=
  let m := s.ev.amiop
  let l := msgLease s m
  if otherKind m 0x85 then .next s
  else if amiopOk m 0x85 && decide (m.leaseid = l.id ∧ l.state ≠ 0) then
    .next (sendAck (setLease s m.tenancy.toNat m.slot.toNat { l with replica := m.replica.toNat }) m true)
  else .next (sendAck s m false)

/-- A slot's node has failed (R317, R314). Log 53 (DEDUCED). -/
def nodeFails (s : State) (t n : Nat) : State :=
  let l := leaseOf s t n
  let dirty := leaseDirty s t n
  if l.replica ≠ 0xFFFF then
    let s1 := setLease ((dirty.filter (mayFlush s)).foldl flushGrain s) t n { l with node := l.replica, replica := 0xFFFF }
    leaseEvent s1 t n 0x0204 l.replica dirty.length 0
  else if l.state = 6 then releaseDone (leaseEvent s t n 0x0203 5 dirty.length 0) t n false
  else loseSlot s t n 5

/-- NODEDOWN (R317): the pool manager's message, or (ok = false) the Reeve's own finding that every path to node a has failed. -/
def execNodedown (s : State) : Host.Outcome State Fault Refusal :=
  let m := s.ev.amiop
  let node := if s.ev.ok then m.node.toNat else s.ev.a
  let down (s : State) : State := (List.range 16).foldl (fun s t =>
    ((tenOf s t).reeve.leases.filter (fun p => decide (p.2.state ≠ 0 ∧ p.2.state ≠ 5 ∧ p.2.node = node))).foldl
      (fun s p => nodeFails s t p.1) s) s
  if !s.ev.ok then .next (down s)
  else if otherKind m 0x84 then .next s
  else if m.kind.toNat = 0x84 ∧ m.version = 1 then .next (sendAck (down s) m true)
  else .next (sendAck s m false)

/-! ### Times of a lease (R314) -/

/-- RENEW_LEAD_REACHED (R314): slot b of tenancy a is within RENEWLEAD of its EXPIRY. -/
def execRenewLeadReached (s : State) : Host.Outcome State Fault Refusal :=
  let l := leaseOf s s.ev.a s.ev.b
  let lead := 1000 * (tenOf s s.ev.a).reeve.renewLead
  if l.state = 1 ∧ 4000 < lead ∧ l.expiry ≤ s.time + lead then
    .next (sendRenew (setLease s s.ev.a s.ev.b { l with state := 2 }) s.ev.a s.ev.b)
  else .next s

/-- RENEW_RESEND (R314): RENEW is sent again 100 µs after the last. -/
def execRenewResend (s : State) : Host.Outcome State Fault Refusal :=
  let l := leaseOf s s.ev.a s.ev.b
  if (l.state = 2 ∨ l.state = 3) ∧ l.sent + 100000 ≤ s.time then .next (sendRenew s s.ev.a s.ev.b) else .next s

/-- EXPIRY_GUARD_REACHED (R314): slot b of tenancy a reaches EXPIRY − GUARD. -/
def execExpiryGuardReached (s : State) : Host.Outcome State Fault Refusal :=
  let l := leaseOf s s.ev.a s.ev.b
  let lead := 1000 * (tenOf s s.ev.a).reeve.renewLead
  let s1 := setLease s s.ev.a s.ev.b { l with state := 3, since := s.time }
  if s.time + 4000 < l.expiry then .next s
  else if l.state = 2 then .next s1
  else if l.state = 1 ∧ lead ≤ 4000 then .next (sendRenew s1 s.ev.a s.ev.b)
  else .next s

/-- RENEWTMO_EXPIRE (R314): slot b of tenancy a has been EXPIRED for RENEWTMO µs. -/
def execRenewtmoExpire (s : State) : Host.Outcome State Fault Refusal :=
  let l := leaseOf s s.ev.a s.ev.b
  if l.state = 3 ∧ l.since + 1000 * (tenOf s s.ev.a).reeve.renewTmo ≤ s.time then .next (loseSlot s s.ev.a s.ev.b 3) else .next s

/-- DEADLINE_REACHED (R314): an ENDING slot becomes LOST; a RELEASING slot drops and counts what is not yet written back and becomes
EMPTY. -/
def execDeadlineReached (s : State) : Host.Outcome State Fault Refusal :=
  let t := s.ev.a
  let n := s.ev.b
  let l := leaseOf s t n
  if s.time < l.deadline then .next s
  else if l.state = 4 then .next (loseSlot s t n l.cause)
  else if l.state = 6 ∧ l.deadline ≠ 0 then
    .next (releaseDone (setLease s t n { l with dropped := (leaseDirty s t n).length }) t n true)
  else .next s

/-- RELEASE_WRITEBACK_DONE (R314, R327): with `ok`, slot b of tenancy a, RELEASING, has written back every dirty grain; otherwise grain c of
it, ENDING or RELEASING, has been written back. Neither happens from its DEADLINE on, nor while a repair window holds it up (R354). -/
def execReleaseWritebackDone (s : State) : Host.Outcome State Fault Refusal :=
  let l := leaseOf s s.ev.a s.ev.b
  if !(decide (l.state = 6 ∧ (l.deadline = 0 ∨ s.time < l.deadline)) || decide (l.state = 4 ∧ s.time < l.deadline)) then .next s
  else if !s.ev.ok then
    .next (if (leaseDirty s s.ev.a s.ev.b).contains s.ev.c && mayFlush s s.ev.c then flushGrain s s.ev.c else s)
  else if l.state = 6 ∧ (leaseDirty s s.ev.a s.ev.b).all (mayFlush s) = true then .next (releaseDone ((leaseDirty s s.ev.a s.ev.b).foldl flushGrain s) s.ev.a s.ev.b true)
  else .next s

/-! ### Back-invalidation (R322) -/

/-- A read of a grain has begun and can still complete with the data that the device has (R322): an access of an operation that may proceed,
or one that waits for a fill which has a frame. Log 52 (DESIGN CHOICE). -/
def readsBegun (s : State) (g : Nat) : Bool :=
  s.ops.any (fun o => o.2.kind.access.1 && mayPerform s o.1 o.2 && o.2.kind.places.any (fun x =>
    x.2.1.any (fun pa => decide (grainOf pa = g)) && decide (laneFare s (opTenancy s o.2) o.1 o.2 x.1 x.2.1 x.2.2 = .go))) ||
  parkedOn s (fun t sl g1 => decide (g1 = g) && (fillGrain s t sl g).isSome)

/-- Bytes whose grain is not resident hold their newest value in the pool. -/
def toPool (s : State) (pas : List Nat) : State :=
  let out := pas.filter (fun pa => (look s.grains (grainOf pa)).isNone)
  { s with far := out.foldl (fun m pa => setCell m pa (readByte s pa)) s.far, dirty := s.dirty.filter (fun p => !(out.contains p.1)) }

/-- The bytes of a write of n bytes. -/
def spanOf (pa n : Nat) : List Nat := (List.range n).map (fun i => pa + i)

/-- A write of an agent outside the device takes effect (R53, R65): in the near tier where the grain is held, else in the pool. Log 15
(DESIGN CHOICE). -/
def poolWrite (s : State) (w : Nat × Nat × List Byte) : State :=
  let pas := spanOf w.2.1 w.2.2.length
  toPool (writeAccess s pas w.2.2 []) pas

/-- The grain that a snoop names is dropped, in every frame that holds it; one that is PRIV and dirty is written back first (R322). -/
def snoopGrain (s : State) (g : Nat) : State :=
  let shro (k : Nat) : Option Bool := (look s.grains k).map (fun G => G.shro)
  let s1 := ((List.range 16).map (fun t => ownKey t g)).foldl (fun s k => if (look s.grains k).isSome then dropGrain s k else s) s
  let s2 := match shro g with
    | some true => dropGrain s1 g
    | some false => evictGrain s1 g
    | none => s1
  if decide (shro g = some true) || (List.range 16).any (fun t => decide (shro (ownKey t g) = some true)) then
    { s2 with noFetch := if s2.noFetch.contains g then s2.noFetch else g :: s2.noFetch }
  else s2

/-- A snoop of a grain must wait: reads of it have begun, or a repair window holds up its write-back (R322, R361). -/
def snoopWaits (s : State) (g : Nat) : Bool := readsBegun s g || !(mayFlush s g)

/-- BISNP (R322): once every read of the grains that began before has completed, the grains of the lines named (line numbers) are dropped, dirty
PRIV ones written back first; BIRsp is sent, and the writes that caused the snoop take effect (R65). -/
def execBisnp (s : State) : Host.Outcome State Fault Refusal :=
  let gs := (s.ev.lines.map (fun l => l / 512)).eraseDups
  if gs.any (snoopWaits s) then .next s
  else
    let s1 := gs.foldl snoopGrain s
    let mine (w : Nat × Nat × List Byte) : Bool := gs.contains (grainOf w.2.1)
    let s2 := (s1.poolWrites.filter mine).foldl poolWrite { s1 with poolWrites := s1.poolWrites.filter (fun w => !(mine w)) }
    .next (send s2 .birsp)

/-! ### The Runner (R328, R329) -/

/-- RUNNER_COUNTER_HALVE (R328): every 2^20 cycles, every counter of the grains homed on die a is halved, after the line requests that missed
since the last halving have been counted. -/
def execRunnerCounterHalve (s : State) : Host.Outcome State Fault Refusal :=
  let n := (look s.halvings s.ev.a).getD 0 + 1
  if s.cycles < 2 ^ 20 * n then .next s
  else
    .next { s with
      halvings := put s.halvings s.ev.a n
      grains := s.grains.map (fun p =>
        if homeDie (keyGrain p.1) = s.ev.a then (p.1, { p.2 with counter := hotness s 9300 p / 2, asked := 0 }) else p) }

/-- The VA grains that a prefetch descriptor holds, in order of first touch (R329, R291). -/
def prefGrains (d : List Word) : List Nat :=
  let e (k : Nat) : Nat := dWord d k
  ((List.range (e 4)).flatMap (fun (k : Nat) => (List.range (e 3)).flatMap (fun (j : Nat) =>
    let va := (((dWord2 d 0 : Nat) : Int) + (k : Int) * dInt d 6 + (j : Int) * dInt d 5) % 2 ^ 64
    let lo := va.toNat
    (List.range ((lo + e 2 - 1) / 65536 + 1 - lo / 65536)).map (fun i => (lo / 65536 + i) % 2 ^ 48)))).eraseDups

/-- PRIO and KEEP of a prefetch (R329). -/
def prefPrio (p : Prefetch) : Nat := dWord p.desc 7 % 8

/-- Every grain of a prefetch is resident or skipped: its completion events (R329). Log 55 (DESIGN CHOICE). -/
def prefFinish (s : State) (id : Nat) (p : Prefetch) : State :=
  match weaveOf s p.w, look s.ops p.events.op with
  | some wv, some o =>
    if (match basketOf s wv with | some B => B.resident | none => false) && !(collecting s wv) && engineMay s p.events.op o then
      match (if versioned s wv ∧ p.events.cmask ≠ 0 then commitFor s p.events.op wv false else .ok s) with
      | .wait s1 => s1
      | .ok s1 =>
        if (weaveOf s1 p.w).isNone then s1
        else
          let msg := relMsg (agentOf wv) p.events.scope (opView s1 o)
          let off := { p.events with cword := choose s1 9400 (max 1 (wv.hdr.spad / 16)) * 16 }
          let v := BitVec.ofNat 32 (min p.skipped 65535 * 2 ^ 16 + min p.fetched 65535)
          let s2 := { s1 with prefetch := del s1.prefetch id }
          let s3 := if 16 ≤ wv.hdr.spad then cwordEvents s2 off wv.ids.basket v msg else s2
          finishCommand s3 p.events 8 [] msg
    else s
  | _, _ => { s with prefetch := del s.prefetch id }

/-- Accept a prefetch (R329): it names its grains again (R322). With the Runner off it has fetched nothing and is complete.
Log 55 (DESIGN CHOICE). -/
def prefAccept (s : State) (w : Nat) (e : Entry) : State :=
  match weaveOf s w with
  | none => s
  | some wv =>
    let gs := prefGrains e.words
    let on := (tenOf s wv.ids.tenancy).reeve.runen
    let p : Prefetch :=
      { w := w, die := dieOf wv.shop, desc := e.words, grains := if on then gs else [],
        events := { op := e.op, w := w, cmask := e.cmask, scope := e.scope, cword := 0 } }
    let id := freshKey s.prefetch
    let named : List Nat := gs.filterMap (fun g => match walk s wv.ids.tenancy (65536 * g) with
      | .leaf b sz x => some (grainOf (leafAt (65536 * g) b sz x).pa)
      | _ => none)
    let s1 := dropHead s w 8
    let s2 := { s1 with prefetch := put s1.prefetch id p, noFetch := s1.noFetch.filter (fun g => !(named.contains g)) }
    if p.grains = [] then prefFinish s2 id p else s2

/-- The informational record of a prefetch that met an EMPTY or a LOST slot, one for each slot (R318, R320). -/
def prefFault (s : State) (p : Prefetch) (kind slot va : Nat) (table : Bool) : State × Prefetch :=
  match weaveOf s p.w with
  | none => (s, p)
  | some wv =>
    if p.posted.contains slot then (s, p)
    else
      (postFault s wv.ids.tenancy
        (weaveFault s wv kind (if table then 4 else 0) 5 slot va (if table then 0 else leafPA s wv.ids.tenancy va) 0),
       { p with posted := slot :: p.posted })

/-- A clean grain whose counter is 0 (R329). Log 52 (DESIGN CHOICE). -/
def coldGrain (s : State) (g : Nat) (G : Grain) : Bool :=
  evictable s g G && !(keyDirty s g) && decide (hotness s 0 (g, G) = 0)

/-- The next grain of a prefetch: left as it is, fetched, or skipped (R329); its records. -/
def prefStep (s : State) (p : Prefetch) (t g : Nat) : State × Prefetch :=
  let va := 65536 * g
  let skip (x : State × Prefetch) : State × Prefetch := (x.1, { x.2 with skipped := x.2.skipped + 1 })
  if loftWin ≤ va then skip (s, p)
  else
    match access s t va .read 9500 with
    | .ok pa slot _ =>
      let gr := grainOf pa
      let l := leaseOf s t slot
      if (look s.grains (grainKey s t slot pa)).isSome then (s, p)
      else if l.state = 0 then skip (prefFault s p 1 slot va false)
      else if l.state = 5 then skip (prefFault s p (lostKind l) slot va false)
      else if !(slotFills s t slot gr) || s.noFetch.contains gr then skip (s, p)
      else
        match (roomFor coldGrain 2 s t (homeDie gr)).bind (fun s1 => placeGrain s1 t slot gr) with
        | none => skip (s, p)
        | some s1 =>
          let keep := (dWord p.desc 7).testBit 3
          ({ s1 with grains := edit s1.grains (grainKey s t slot pa) (fun G => { G with counter := if keep then 15 else G.counter }) },
           { p with fetched := p.fetched + 1 })
    | .empty slot table => skip (prefFault s p 1 slot va table)
    | .lost slot => skip (prefFault s p 6 slot va true)
    | _ => skip (s, p)

/-- No prefetch of the die comes before this one: higher PRIO, then earlier push (R329). -/
def prefFirst (s : State) (id : Nat) (p : Prefetch) : Bool :=
  s.prefetch.all (fun q => decide (q.1 = id) || decide (q.2.die ≠ p.die) || decide (q.2.grains = []) ||
    decide (prefPrio q.2 < prefPrio p) || (decide (prefPrio q.2 = prefPrio p) && decide (p.events.op < q.2.events.op)))

/-- RUNNER_GRAIN_FETCH (R329): with c = 1 the Runner of shop a's die accepts the oldest q8 command of the shop; otherwise prefetch a
goes on with its next grain, or completes. -/
def execRunnerGrainFetch (s : State) : Host.Outcome State Fault Refusal :=
  if s.ev.c = 1 then
    match oldestHead s s.ev.a 8 with
    | some (w, e) =>
      if e.opc = 0 then .next (completeOp (dropHead s w 8) e.op false)
      else if (s.prefetch.filter (fun p => decide (p.2.die = dieOf s.ev.a))).length < 256 then .next (prefAccept s w e)
      else .next s
    | none => .next s
  else
    match look s.prefetch s.ev.a with
    | none => .next s
    | some p =>
      match p.grains, weaveOf s p.w with
      | [], _ => .next (prefFinish s s.ev.a p)
      | _, none => .next { s with prefetch := del s.prefetch s.ev.a }
      | g :: gs, some wv =>
        if !(prefFirst s s.ev.a p) then .next s
        else
          let (s1, p0) := prefStep s p wv.ids.tenancy g
          let p1 := { p0 with grains := gs }
          let s2 := { s1 with prefetch := put s1.prefetch s.ev.a p1 }
          .next (if gs = [] then prefFinish s2 s.ev.a p1 else s2)

end Sys2Proof.Machine
end

