-- ==== Sys2Proof/Machine/Tinker.lean ====
section
/-!
DEFINITION. The Tinkers (spec/17_tinker.md R347 to R361): where a frame lies, ECC, scrub, spares, repair windows, and the retirement of
frames by the Reeve (spec/15_reeve.md R323, R324).
-/

namespace Sys2Proof.Machine

open Sys2Proof

/-- The Tinker of a stack. -/
def tinkerOf (s : State) (k : Nat) : Tinker := (look s.tinkers k).getD {}

/-- Change a stack's Tinker. -/
def modTinker (s : State) (k : Nat) (f : Tinker → Tinker) : State := { s with tinkers := put s.tinkers k (f (tinkerOf s k)) }

/-- EVENTS gains a bit (R356): VEC is raised where IRQEN is 1 and the bit is new. -/
def gainEvent (s : State) (k bit : Nat) : State :=
  let T := tinkerOf s k
  let s1 := modTinker s k (fun T => { T with events := T.events ||| (1#4 <<< bit) })
  if T.irqen && !(T.events.getLsbD bit) then send s1 (.msix T.vec) else s1

/-- The pseudo-channel, bank, row and column position of a sector of a frame (R347). -/
def sectorPlace (frame sector : Nat) : Nat × Nat × Nat × Nat :=
  let f := frame % 2 ^ 20
  let l := sector / 4
  ((l % 64) ^^^ (f % 64), f % 64, f / 64, 4 * (l / 64) + sector % 4)

/-- The key of a bank. -/
def bankKey (p b : Nat) : Nat := 64 * p + b

/-- The key of a row's corrected events at a column position; those of a TSV stand above all of them (R352). -/
def eventKey (p b r c : Nat) : Nat := (bankKey p b * 16384 + r) * 32 + c

/-- The key of a TSV of a channel. -/
def tsvKey (chan n : Nat) (command : Bool) : Nat := 2 ^ 40 + (2 * n + (if command then 1 else 0)) * 32 + chan

/-- The count that an amount used leaves of a budget. -/
def leftOf (t : Tab Nat) (k n : Nat) : Nat := n - (look t k).getD 0

/-- Corrected events of a row (R352). -/
def rowCount (T : Tinker) (p b r : Nat) : Nat :=
  (List.range 32).foldl (fun a c => a + (look T.counts (eventKey p b r c)).getD 0) 0

/-- Rows of a bank whose errors recur at a column position (R352). -/
def columnRows (T : Tinker) (p b c : Nat) : List Nat :=
  (T.counts.filter (fun x => decide (x.1 < 2 ^ 40 ∧ x.1 / 32 / 16384 = bankKey p b ∧ x.1 % 32 = c))).map (fun x => x.1 / 32 % 16384)

/-- THRESH as it acts (R356). -/
def threshOf (T : Tinker) : Nat := max 1 T.thresh

/-- The frame of a row (R359). -/
def rowFrame (k b r : Nat) : Nat := 2 ^ 20 * k + 64 * r + b

/-- Raise EXHAUSTED for frames of a stack (R359): their rows are marked failing, and the Reeve is told. -/
def raiseExhausted (s : State) (k : Nat) (fs : List Nat) : State :=
  let new := fs.filter (fun f => !((tinkerOf s k).failing.contains f))
  let s1 := modTinker s k (fun T => { T with failing := T.failing ++ new })
  { s1 with agenda := new.map (fun f => Act.event .exhausted { a := f }) ++ s1.agenda }

/-- A repair of a row is queued or in progress (R361). -/
def rowQueued (T : Tinker) (p b r : Nat) : Bool :=
  T.queued.any (fun x => decide (x.2.1 = p ∧ x.2.2.1 = b) &&
    (decide (x.1 = 1 ∧ x.2.2.2 = r) || decide (x.1 = 2 ∧ x.2.2.2 / 32 = r / 32)))

/-- Queue the repair of a failing row (R352): a spare row, a remap entry, or a granule where every error lies in one column; EXHAUSTED
where nothing is left. -/
def queueRow (s : State) (k p b r : Nat) : State :=
  let T := tinkerOf s k
  let cols := (List.range 32).filter (fun c => (look T.counts (eventKey p b r c)).isSome)
  let add (x : Nat × Nat × Nat × Nat) : State := modTinker s k (fun T => { T with queued := T.queued ++ [x] })
  if rowQueued T p b r ∨ T.failing.contains (rowFrame k b r) then s
  else if 0 < leftOf T.rowsUsed (bankKey p b) 8 then add (1, p, b, r)
  else if 0 < leftOf T.remapsUsed (bankKey p b) 2 then add (2, p, b, r / 32 * 32)
  else
    match cols with
    | [c] => if 0 < leftOf T.granulesUsed (bankKey p b) 4 then add (3, p, b, c) else raiseExhausted s k [rowFrame k b r]
    | _ => raiseExhausted s k [rowFrame k b r]

/-- Queue the repair of a column fault (R352, R359). -/
def queueColumn (s : State) (k p b c : Nat) : State :=
  let T := tinkerOf s k
  if T.queued.any (fun x => decide (x = (3, p, b, c))) then s
  else if 0 < leftOf T.granulesUsed (bankKey p b) 4 then modTinker s k (fun T => { T with queued := T.queued ++ [(3, p, b, c)] })
  else raiseExhausted s k ((columnRows T p b c).map (rowFrame k b))

/-- Queue the repair of a TSV (R352): its kind is kept in the bank field, 1 for a command/address TSV; with no spare left the channel
goes out of service (R360). -/
def queueTsv (s : State) (k chan n : Nat) (command : Bool) : State :=
  let T := tinkerOf s k
  let mine : Nat × Nat × Nat × Nat := (4, 2 * chan, if command then 1 else 0, n)
  if T.queued.contains mine ∨ T.failed.contains chan then s
  else if 0 < leftOf (if command then T.caUsed else T.dqUsed) chan (if command then 2 else 4) then
    modTinker s k (fun T => { T with queued := T.queued ++ [mine] })
  else
    let s1 := gainEvent (modTinker s k (fun T => { T with failed := T.failed ++ [chan] })) k 3
    raiseExhausted s1 k ((List.range (2 ^ 20)).map (fun f => 2 ^ 20 * k + f))

/-- A corrected error of a sector (R349, R352): its row and column position, or the TSV at fault, is counted; a count that reaches
THRESH queues a repair. Log 56 (DESIGN CHOICE). -/
def countError (s : State) (x : TinkerReq) : State :=
  let k := x.frame / 2 ^ 20
  let (p, b, r, c) := sectorPlace x.frame x.sector
  let bump (key : Nat) (s : State) : State := modTinker s k (fun T => { T with counts := put T.counts key ((look T.counts key).getD 0 + 1) })
  match x.tsv with
  | some n =>
    let s1 := bump (tsvKey (p / 2) n x.command) s
    if threshOf (tinkerOf s1 k) ≤ (look (tinkerOf s1 k).counts (tsvKey (p / 2) n x.command)).getD 0 then queueTsv s1 k (p / 2) n x.command
    else s1
  | none =>
    let s1 := bump (eventKey p b r c) s
    let T := tinkerOf s1 k
    let col := decide (threshOf T ≤ (columnRows T p b c).length)
    if col then queueColumn s1 k p b c
    else if threshOf T ≤ rowCount T p b r then queueRow s1 k p b r
    else s1

/-- A sector is found uncorrectable (R349, R356). Log 56 (DESIGN CHOICE). -/
def markUncorrectable (s : State) (frame sector : Nat) : State :=
  let k := frame / 2 ^ 20
  let key := frame * 2048 + sector
  gainEvent (modTinker s k (fun T => { T with
    poison := if T.poison.contains key then T.poison else key :: T.poison, uncorr := min (T.uncorr + 1) (2 ^ 32 - 1) })) k 1

/-- The grain that a frame holds. -/
def frameGrain (s : State) (frame : Nat) : Option (Nat × Grain) := s.grains.find? (fun p => decide (p.2.frame = frame))

/-- The place of a request is in the stack, and no window is open on its bank or channel (R353, R354). -/
def mayServe (s : State) (x : TinkerReq) : Bool :=
  decide (x.frame < framesAll ∧ x.sector < 2048) && (match frameGrain s x.frame with
    | some (g, G) => !(repairing s G (65536 * keyGrain g + 32 * x.sector))
    | none => !(lineRepairing s x.frame (x.sector / 4)))

/-- A read's error beyond detection, undetected (R349): the sector of a PRIV grain holds free bytes. Log 56 (DESIGN CHOICE). -/
def corruptSector (s : State) (x : TinkerReq) : State :=
  match frameGrain s x.frame with
  | none => s
  | some (g, G) =>
    if G.shro then markUncorrectable s x.frame x.sector
    else pokeBytes s ((List.range 32).map (fun i => 65536 * keyGrain g + 32 * x.sector + i))
      ((List.range 8).flatMap (fun i => bytesOf 4 (freeWord s (9600 + i)).toNat))

/-- TINKER_REQUEST (R348, R349): a request on a sector is performed. A write's data is what the sector's bytes are; a read's errors of
up to 2 symbols, or of one data TSV, are corrected; up to 4 make the sector uncorrectable; more may pass undetected. -/
def execTinkerRequest (s : State) : Host.Outcome State Fault Refusal :=
  let x := s.ev.treq
  if !(mayServe s x) || x.write then .next s
  else if x.errors = 0 ∧ x.tsv = none then .next s
  else if x.errors ≤ 2 ∨ (x.tsv.isSome ∧ x.command = false) then .next (countError s x)
  else if x.errors ≤ 4 ∨ choose s 9600 2 = 0 then .next (markUncorrectable s x.frame x.sector)
  else .next (corruptSector s x)

/-- SCRUB_STEP (R350): the scrub reads a sector and corrects it; an uncorrectable one drops a clean grain, and stays in a dirty one.
With c = 1 a pass of the stack is complete: its counts reset (R352). -/
def execScrubStep (s : State) : Host.Outcome State Fault Refusal :=
  let x := s.ev.treq
  if s.ev.c = 1 then .next (modTinker s (x.frame / 2 ^ 20) (fun T => { T with counts := [] }))
  else if !(mayServe s x) || (decide (x.errors = 0) && x.tsv.isNone) then .next s
  else if x.errors ≤ 2 ∨ (x.tsv.isSome ∧ x.command = false) then .next (countError s x)
  else
    let s1 := markUncorrectable s x.frame x.sector
    match frameGrain s1 x.frame with
    | some (g, _) => if keyDirty s1 g then .next s1 else .next (dropGrain s1 g)
    | none => .next s1

/-! ### Repair windows (R353) -/

/-- Windows of a repair (R353). -/
def windowsOf (kind : Nat) : Nat := match kind with | 2 => 32 | 3 => 16 | _ => 1

/-- The queue with the repair that goes next at its head (R353): one in progress stays; a TSV swap goes first. -/
def nextRepair (T : Tinker) : List (Nat × Nat × Nat × Nat) :=
  if T.closed ≠ 0 then T.queued
  else
    match T.queued.find? (fun x => decide (x.1 = 4)) with
    | some x => x :: T.queued.erase x
    | none => T.queued

/-- The spare of a repair is there (R352); opening its first window takes it (R356). Log 56 (DESIGN CHOICE). -/
def takeSpare (T : Tinker) (x : Nat × Nat × Nat × Nat) : Option Tinker :=
  let bk := bankKey x.2.1 x.2.2.1
  let ch := x.2.1 / 2
  let up (t : Tab Nat) (k : Nat) : Tab Nat := put t k ((look t k).getD 0 + 1)
  match x.1 with
  | 1 => if 0 < leftOf T.rowsUsed bk 8 then some { T with rowsUsed := up T.rowsUsed bk } else none
  | 2 => if 0 < leftOf T.remapsUsed bk 2 then some { T with remapsUsed := up T.remapsUsed bk } else none
  | 3 => if 0 < leftOf T.granulesUsed bk 4 then some { T with granulesUsed := up T.granulesUsed bk } else none
  | _ =>
    if x.2.2.1 = 1 then (if 0 < leftOf T.caUsed ch 2 then some { T with caUsed := up T.caUsed ch } else none)
    else (if 0 < leftOf T.dqUsed ch 4 then some { T with dqUsed := up T.dqUsed ch } else none)

/-- The window of a repair after `n` closed ones (R356): KIND, pseudo-channel, bank, row, opening time. Log 56 (DESIGN CHOICE). -/
def windowAt (x : Nat × Nat × Nat × Nat) (n now : Nat) : Nat × Nat × Nat × Nat × Nat :=
  match x.1 with
  | 1 => (1, x.2.1, x.2.2.1, x.2.2.2, now)
  | 2 => (2, x.2.1, x.2.2.1, x.2.2.2 + n, now)
  | 3 => (3, x.2.1, x.2.2.1, 1024 * n, now)
  | _ => (4, x.2.1, 0, 0, now)

/-- The repair at the head of the queue has no spare left (R352, R359, R360). Log 56 (DESIGN CHOICE). -/
def spareGone (s : State) (k : Nat) (x : Nat × Nat × Nat × Nat) : State :=
  let s1 := modTinker s k (fun T => { T with queued := T.queued.erase x })
  match x.1 with
  | 1 => queueRow s1 k x.2.1 x.2.2.1 x.2.2.2
  | 2 => raiseExhausted s1 k ((List.range 32).map (fun i => rowFrame k x.2.2.1 (x.2.2.2 + i)))
  | 3 => raiseExhausted s1 k ((columnRows (tinkerOf s1 k) x.2.1 x.2.2.1 x.2.2.2).map (rowFrame k x.2.2.1))
  | _ => queueTsv s1 k (x.2.1 / 2) x.2.2.2 (decide (x.2.2.1 = 1))

/-- REPAIR_WINDOW_OPEN (R353): stack a opens the next window of its repair, 10 µs or more after the last one, or the first of the next
repair. -/
def execRepairWindowOpen (s : State) : Host.Outcome State Fault Refusal :=
  let k := s.ev.a
  let T := tinkerOf s k
  if T.window.isSome ∨ 12 ≤ k then .next s
  else
    match nextRepair T with
    | [] => .next s
    | x :: rest =>
      let open1 (T : Tinker) : State :=
        { s with tinkers := put s.tinkers k { T with queued := x :: rest, window := some (windowAt x T.closed s.time) } }
      if T.closed ≠ 0 then .next (if T.shut + 10000 ≤ s.time then open1 T else s)
      else
        match takeSpare T x with
        | some T1 => .next (open1 T1)
        | none => .next (spareGone s k x)

/-- A sector lies in what a window copies. -/
def inWindowOf (k : Nat) (w : Nat × Nat × Nat × Nat × Nat) (key : Nat) : Bool :=
  let frame := key / 2048
  let (p, b, r, _) := sectorPlace frame (key % 2048)
  decide (frame / 2 ^ 20 = k) &&
    (if w.1 = 4 then decide (p / 2 = w.2.1 / 2)
     else decide (p = w.2.1 ∧ b = w.2.2.1) && (if w.1 = 3 then decide (r / 1024 = w.2.2.2.1 / 1024) else decide (r = w.2.2.2.1)))

/-- The counts of what a repair replaced are gone: its errors lay in the original. Log 56 (DESIGN CHOICE). -/
def repairedCounts (T : Tinker) (x : Nat × Nat × Nat × Nat) : Tab Nat :=
  T.counts.filter (fun c =>
    let mine := decide (c.1 < 2 ^ 40 ∧ c.1 / 32 / 16384 = bankKey x.2.1 x.2.2.1)
    let row := c.1 / 32 % 16384
    match x.1 with
    | 1 => !(mine && decide (row = x.2.2.2))
    | 2 => !(mine && decide (row / 32 = x.2.2.2 / 32))
    | 3 => !(mine && decide (c.1 % 32 = x.2.2.2))
    | _ => decide (c.1 ≠ tsvKey (x.2.1 / 2) x.2.2.2 (decide (x.2.2.1 = 1))))

/-- REPAIR_WINDOW_CLOSE (R353, R355, R357): the copy of stack a's window is verified and the remap switched; sectors found uncorrectable
(`lines`: frame × 2048 + sector) are poisoned. After the last window the repair is recorded. -/
def execRepairWindowClose (s : State) : Host.Outcome State Fault Refusal :=
  let k := s.ev.a
  let T := tinkerOf s k
  match T.window, T.queued with
  | some w, x :: rest =>
    let bad := s.ev.lines.filter (inWindowOf k w)
    let s1 := bad.foldl (fun s key => markUncorrectable s (key / 2048) (key % 2048)) s
    if T.closed + 1 < windowsOf x.1 then .next (modTinker s1 k (fun T => { T with window := none, closed := T.closed + 1, shut := s.time }))
    else
      .next (gainEvent (modTinker s1 k (fun T => { T with
        window := none, closed := 0, queued := rest, done := (T.done + 1) % 65536, map := T.map ++ [x],
        counts := repairedCounts T x })) k 0)
  | _, _ => .next s

/-! ### Retirement (R359, R323, R324) -/

/-- The basket's open version, which a saved basket keeps, or an unperformed write of it lies in a grain (R336 cause 2). -/
def writesGrain (s : State) (B : Basket) (g : Nat) : Bool :=
  B.version.any (fun x => decide (grainOf x.pa = g)) || writesAt s B (fun _ g1 => decide (g1 = g))

/-- Charge the retirement of a frame to a tenancy and post its CAPACITY event (R323, R324). -/
def chargeFrame (s : State) (t g dropped migrated : Nat) : State :=
  let s1 := setReeve s t (fun r => { r with retired := r.retired + 1 })
  let s2 := postEvent s1 t 0x0201 (bytesOf 8 (capReg s1 t) ++ bytesOf 8 (65536 * keyGrain g) ++ bytesOf 4 dropped ++ bytesOf 4 migrated)
  let s3 := setReeve s2 t (fun r => { r with capEvents := (r.capEvents + 1) % 65536 })
  fitQuota s3.grains.length s3 t

/-- Retire a frame (R359): a clean grain is dropped, a dirty one migrated, or lost with its writers' baskets where a sector is
uncorrectable. -/
def retireFrame (s : State) (f : Nat) (corrects : Bool) : State :=
  let s0 := { s with retiredFrames := f :: s.retiredFrames }
  match frameGrain s f with
  | none => s0
  | some (g, G) =>
    if !(keyDirty s g) then chargeFrame (dropGrain s0 g) G.tenancy g 1 0
    else if corrects && !((tinkerOf s (f / 2 ^ 20)).poison.any (fun k => decide (k / 2048 = f))) then
      chargeFrame { s0 with grains := put s0.grains g { G with moving := true } } G.tenancy g 0 1
    else
      let hit := (s.baskets.filter (fun p => (match look s.lots p.2.lot with
        | some l => decide (l.tenancy = G.tenancy)
        | none => false) && writesGrain s p.2 g)).map (fun p => p.1)
      chargeFrame (hit.foldl (fun s b => taskTrap s b 2 0 0 0) (dropGrain s0 g)) G.tenancy g 1 0

/-- EXHAUSTED (R359): the row of frame a is marked failing; the Reeve retires the frame. `ok`: every sector of its grain corrects. -/
def execExhausted (s : State) : Host.Outcome State Fault Refusal :=
  let f := s.ev.a
  let k := f / 2 ^ 20
  if (tinkerOf s k).failing.contains f && !(s.retiredFrames.contains f) then
    .next (gainEvent (modTinker (retireFrame s f s.ev.ok) k (fun T => { T with exh := min (T.exh + 1) (2 ^ 32 - 1) })) k 2)
  else .next s

/-- FRAME_MIGRATION_DONE (R359): grain a, whose frame is retired, stands in another frame of its tenancy's allowance; a repair window on a
bank of either frame holds it up (R361). -/
def execFrameMigrationDone (s : State) : Host.Outcome State Fault Refusal :=
  match look s.grains s.ev.a with
  | none => .next s
  | some G =>
    if G.moving then
      match (freeFrame s (homeDie (keyGrain s.ev.a))).filter (fun f => !(frameRepairing s f || frameRepairing s G.frame)) with
      | none => .next s
      | some f => .next { coverFrame s f with grains := put s.grains s.ev.a { G with frame := f, moving := false } }
    else .next s

end Sys2Proof.Machine
end

