-- ==== Sys2Proof/Machine/Scrivener.lean ====
section
/-!
DEFINITION. The Scrivener (spec/24_scrivener.md): the debug state, SYNC records, stall reasons and samples, the passes of a replay
lot, and the exchange of time with the host. Trace records and counters stand in Records.lean, the pass's memory in Completion.lean.
-/

namespace Sys2Proof.Machine

open Sys2Proof

/-! ### The debug state (R436) -/

/-- A ring's base is aligned to its size, and its size is in range (R436). -/
def ringFits (base : BitVec 64) (log2 entry lo hi : Nat) : Bool :=
  decide (lo ≤ log2 ∧ log2 ≤ hi ∧ base.toNat % (entry * 2 ^ log2) = 0)

/-- An EVSET byte of passes 1 to NPASS names a reserved event (R436, R443). -/
def evsetBad (c : Scriv) : Bool := (List.range (4 * c.npass)).any (fun i => decide (32 ≤ (cell c.evset i).toNat))

/-- A write of STATE and TRACEEN is accepted (R436). -/
def dbgOk (c : Scriv) (state : Nat) (traceen : Bool) : Bool :=
  decide (state < 3) &&
    (decide (state ≠ 1) || ringFits c.sbase c.slog2 32 4 20) &&
    (decide (state ≠ 2) || (ringFits c.rbase c.rlog2 64 4 12 && decide (1 ≤ c.npass ∧ c.npass ≤ 8) && !(evsetBad c))) &&
    (!traceen || ringFits c.tbase c.tlog2 32 4 20)

/-- DBGCTL_STATE_WRITE (R436): STATE and TRACEEN of tenancy a become those of v, or the write is refused. -/
def execDbgctlStateWrite (s : State) : Host.Outcome State Fault Refusal :=
  if 16 ≤ s.ev.a then .next s
  else
    let state := vBits s.ev.v 0 2
    let en := s.ev.v.getLsbD 12
    .next (setScriv s s.ev.a (fun c =>
      if dbgOk c state en then
        { c with state := state, traceen := en, cfgerr := false, synced := if en && !c.traceen then [] else c.synced }
      else { c with cfgerr := true }))

/-! ### SYNC records (R439) -/

/-- Tenancies that trace and have a weave resident on a shop. -/
def tracers (s : State) (shop : Nat) : List Nat :=
  (List.range 16).filter (fun t => (tenOf s t).scriv.traceen && s.weaves.any (fun p =>
    decide (p.2.ids.tenancy = t ∧ p.2.shop = shop) && (match basketOf s p.2 with | some B => B.resident | none => false)))

/-- The unit of a shop writes its SYNC records (R439). Log 58 (DESIGN CHOICE). -/
def syncShop (s : State) (shop : Nat) : State := (tracers s shop).foldl (fun s t => traceSync s t shop) s

/-- SYNC_TICK (R439): another 2^16 cycles of shop a have passed. -/
def execSyncTick (s : State) : Host.Outcome State Fault Refusal :=
  let n := s.cycles / 2 ^ 16
  if s.ev.a < 192 ∧ (shopOf s s.ev.a).syncAt < n then
    .next (syncShop (modShop s s.ev.a (fun h => { h with syncAt := n })) s.ev.a)
  else .next s

/-- PTM_EXCHANGE (R434): an exchange of time with the host succeeds and measures GTOFF v with error bound a, or fails. -/
def execPtmExchange (s : State) : Host.Outcome State Fault Refusal :=
  .next (if s.ev.ok then { s with gtoff := s.ev.v, gterr := BitVec.ofNat 16 s.ev.a, ptmlock := true }
    else { s with ptmlock := false, gterr := 0xFFFF })

/-! ### Stall reasons (R445, R190) -/

/-- The code of a stall reason (R445). Log 58 (DESIGN CHOICE). -/
def stallCode : Stall → Nat
  | .repair => 1
  | .lease => 2
  | .fill => 3
  | .loftRefresh => 4
  | .preemptDrain => 5
  | .versionQuota => 6
  | .accAlloc => 7
  | .loomRendezvous => 8
  | .barrier => 10
  | .fullEmpty => 11
  | .monitor => 12
  | .continuation => 13
  | .queueEmpty => 14
  | .queueFull => 15
  | .flag => 16
  | .joinWait => 17
  | .spill => 18
  | .memory => 19
  | .sibling => 21
  | .ready => 22
  | .running => 22
  | .pause => 23

/-- Why the accesses of an operation's strands that are parked wait (R190). -/
def laneWhys (s : State) (n : Nat) (o : Op) : List Stall :=
  (o.kind.places.filter (fun x => o.parkMask.getLsbD x.1)).filterMap (fun x =>
    match laneFare s (opTenancy s o) n o x.1 x.2.1 x.2.2 with
    | .park why => some why
    | .absent _ => some .lease
    | _ => none)

/-- A write of an operation waits for the version's quota (R334). -/
def opQuota (s : State) (n : Nat) (o : Op) : Bool :=
  match weaveOf s o.w with
  | none => false
  | some wv => versioned s wv && o.kind.access.2 && !o.releases && !o.performed && mayPerform s n o &&
      o.kind.places.any (fun x => decide (laneFare s wv.ids.tenancy n o x.1 x.2.1 x.2.2 = .go) && versionWaits s wv x.2.1)

/-- Why the accesses of an engine's command that are parked wait (R190, R300, R382). -/
def engineWhys (s : State) (n : Nat) (o : Op) : List Stall :=
  let copies := s.copies.filter (fun c => decide (c.2.events.op = n) && c.2.w.isSome)
  let wv := weaveOf s o.w
  copies.flatMap (fun c => (c.2.parked.map (fun p => p.1)).toList) ++
  (if wv.any (fun wv => versioned s wv && copies.any (fun c => c.2.flying.any (fun f => versionWaits s wv f.pas))) then [.versionQuota] else []) ++
  (s.selects.filter (fun x => decide (x.2.events.op = n))).flatMap (fun x => (x.2.parked.map (fun p => p.1)).toList) ++
  (s.net.filter (fun x => decide (x.2.events.op = n))).flatMap (fun x => (x.2.parked.map (fun p => p.1)).toList) ++
  (match wv with
   | none => []
   | some wv => (wv.gslots.filter (fun g => decide (g.2.op = n ∧ g.2.state = 1))).flatMap (fun g =>
       (strandsOf (g.2.parked &&& codeMask g.2 2 2)).filterMap (fun k =>
         match reach s wv.ids.tenancy (if g.2.kind = 0 then .read else .write) ((look g.2.ea k).getD 0) (gBytes g.2) k with
         | .park why _ => some why
         | _ => none)))

/-- Why the commit that an operation waits for does not come about (R332, R334). -/
def commitWhys (s : State) (o : Op) : List Stall :=
  match (weaveOf s o.w).bind (basketOf s) with
  | none => []
  | some B =>
    if B.commitWait = 0 ∨ o.performed then []
    else (if B.commitWait = 2 then [.versionQuota] else []) ++ (B.version.filterMap (fun x =>
      match commitFare s (opTenancy s o) x with
      | .park why => some why
      | .absent _ => some .lease
      | _ => none))

/-- The codes with which an operation in flight shows a parked access (R190). -/
def parkCodes (s : State) (n : Nat) (o : Op) : List Nat :=
  if o.performed then []
  else
    ((match o.kind with | .engine => engineWhys s n o | _ => laneWhys s n o ++ (if opQuota s n o then [.versionQuota] else [])) ++
      (if o.releases then commitWhys s o else [])).map stallCode

/-- A forced checkpoint of its basket's version runs for a write of the weave: its splits stall (R334). -/
def forcing (s : State) (w : Nat) (wv : Weave) : Bool :=
  match basketOf s wv with
  | none => false
  | some B => decide (B.commitWait = 2) && s.ops.any (fun p => decide (p.2.w = w) && (opQuota s p.1 p.2 ||
      (decide (p.2.kind = .engine) && (engineWhys s p.1 p.2).contains .versionQuota)))

/-- Flags on which a split waits: those of its next clause's WAIT mask, those of its WAITF, all of them for DRAIN. -/
def awaitedFlags (s : State) (wv : Weave) (sp : Split) : List Nat :=
  let named (m : BitVec 12) : List Nat := (List.range 12).filter (fun n => m.getLsbD n && (look wv.flags n).isSome)
  match sp.held with
  | some h =>
    let opc := (h.word.extractLsb' 56 8).toNat
    if opc = 0x0A then named (h.word.extractLsb' 0 12) else if opc = 0xFE then List.range 13 else []
  | none =>
    match headerAt s wv.ids.tenancy sp.pc with
    | some h => named (h.extractLsb' 44 12)
    | none => []

/-- The codes of the parked accesses of operations that a test names. -/
def parksOf (s : State) (w : Nat) (mine : Nat × Op → Bool) : List Nat :=
  (s.ops.filter (fun p => decide (p.2.w = w) && mine p)).flatMap (fun p => parkCodes s p.1 p.2)

/-- Why the fetch of a split's next clause is parked (R445). -/
def fetchCodes (s : State) (t : Nat) (sp : Split) : List Nat :=
  ((parkReason s t (sp.fetching.map (fun p => (65536 * p.1, p.2.1)))).map stallCode).toList

/-- The reasons of a live split that does not issue (R445): those that hold for certain, and those that timing decides.
Log 58 (DESIGN CHOICE). -/
def splitReasons (s : State) (w slot : Nat) (wv : Weave) (sp : Split) : List Nat × List Nat :=
  let always := (if collecting s wv then [5] else []) ++ (if wv.ofence = some slot then [9] else []) ++ (if forcing s w wv then [6] else [])
  let spills := if wv.hdr.renamed then [18] else []
  match sp.run, sp.stay with
  | some _, some why => (always ++ [stallCode why], [])
  | some _, none => (always ++ [19], parksOf s w (fun p => !(p.2.dests.isEmpty)))
  | none, _ =>
    if sp.late.isSome then (always ++ [21], [])
    else
      let fl := awaitedFlags s wv sp
      let parks := parksOf s w (fun p => p.2.flags.any (fun f => fl.contains f))
      match sp.held with
      | some h =>
        let mine := match h.wait with
          | .continuation _ _ => parksOf s w (fun p => decide (p.2.idx = h.idx ∧ p.2.pc = h.pc))
          | _ => []
        (always ++ parks ++ mine ++ [stallCode h.stall], spills)
      | none =>
        if fl ≠ [] then (always ++ parks ++ [16], [])
        else if sp.fetching ≠ [] then (always ++ fetchCodes s wv.ids.tenancy sp ++ [20], [])
        else (always ++ [22], [16, 20] ++ spills)

/-! ### Samples (R446) -/

/-- The place of a weave in the rotation of its bench: the step at which its basket was placed, its basket, its wid (R164). -/
def rotationKey (s : State) (wv : Weave) : List Nat :=
  [match basketOf s wv with | some B => B.seated | none => 0, wv.ids.basket, wv.ids.wid]

/-- The resident weaves of a bench in the order of its rotation (R164). -/
def rotation (s : State) (shop bench : Nat) : List Nat :=
  let ws := s.weaves.filter (fun p => decide (p.2.shop = shop ∧ p.2.bench = bench) && (match basketOf s p.2 with
    | some B => B.resident
    | none => false))
  (sortRank (fun a b => decide (rotationKey s a.2 < rotationKey s b.2)) ws).map (fun p => p.1)

/-- The rotation key of a weave. -/
def keyOfWeave (s : State) (w : Nat) : List Nat := match weaveOf s w with | some wv => rotationKey s wv | none => []

/-- A rotation turned so that it begins after the weave of a key, which may be gone. -/
def turned (s : State) (ws : List Nat) (last : List Nat) : List Nat :=
  ws.filter (fun w => decide (last < keyOfWeave s w)) ++ ws.filter (fun w => !(decide (last < keyOfWeave s w)))

/-- What one live split shows at a sample: it issued, or its lowest reason; timing decides where R445 leaves it.
Log 58 (DESIGN CHOICE). -/
def splitSample (s : State) (w slot : Nat) (wv : Weave) (sp : Split) : Nat :=
  if sp.run.isSome && decide (choose s (7000 + slot) 2 = 0) then 0
  else
    let (must, may) := splitReasons s w slot wv sp
    let on := ((List.range may.length).zip may).filter (fun p => decide (choose s (7100 + 64 * slot + p.1) 2 = 0))
    (must ++ on.map (fun p => p.2)).foldl min 31

/-- The next clause header of a split. -/
def nextHeader (sp : Split) : DWord := match sp.run with | some r => nextPC r.pc r.hdr | none => sp.pc

/-- The 32 bytes of a sample record (R446). Log 58 (DESIGN CHOICE). -/
def sampleBytes (s : State) (w : Nat) (wv : Weave) : List Byte :=
  let shown := wv.splits.map (fun p => (p.1, p.2, splitSample s w p.1 wv p.2))
  let codes := (shown.filter (fun x => decide (x.2.2 ≠ 0))).map (fun x => x.2.2)
  let reason := if codes = [] then 0 else codes.foldl min 31
  let issued := if shown.any (fun x => decide (x.2.2 = 0)) then 1 else 0
  let pc := match shown.find? (fun x => decide (x.2.2 = reason)) with
    | some x => nextHeader x.2.1
    | none => 0
  let live := (wv.splits.map (fun p => 2 ^ p.1)).foldl (fun a b => a + b) 0
  let b := match basketOf s wv with | some B => B.linear | none => 0
  bytesOf 8 pc.toNat ++ bytesOf 8 s.time ++ bytesOf 4 wv.ids.lotid.toNat ++ bytesOf 4 b ++
    [BitVec.ofNat 8 wv.ids.wid, BitVec.ofNat 8 wv.shop, BitVec.ofNat 8 (reason + 32 * issued), BitVec.ofNat 8 live] ++
    bytesOf 2 wv.mark.toNat ++ [0, 0]

/-- Post a sample to its tenancy's ring, or count it in SLOST (R437). Log 58 (DESIGN CHOICE). -/
def samplePost (s : State) (t : Nat) (bs : List Byte) : State :=
  let c := (tenOf s t).scriv
  let lost := setScriv s t (fun c => { c with slost := min (c.slost + 1) 65535 })
  if (c.swr - c.srd).toNat = 2 ^ c.slog2 then lost
  else
    match agentWrite s t (c.sbase.toNat + 32 * (c.swr.toNat % 2 ^ c.slog2)) bs [relMsg .scrivener 3 []] with
    | none => lost
    | some s1 => setScriv s1 t (fun c => { c with swr := c.swr + 1 })

/-- Logarithm of a bench's sampling interval (R446): the shortest of its sampling tenancies, else that of the weave whose turn it
is. -/
def sampleLog (s : State) (ws : List Nat) (w : Nat) : Nat :=
  let scrivOf (x : Nat) : Scriv := match weaveOf s x with | some wv => (tenOf s wv.ids.tenancy).scriv | none => {}
  match (ws.filter (fun x => decide ((scrivOf x).state = 1))).map (fun x => (scrivOf x).slog2n) with
  | [] => (scrivOf w).slog2n
  | n :: ns => ns.foldl min n

/-- SAMPLE_TICK (R446): bench b of shop a samples the weave after the one it sampled last. -/
def execSampleTick (s : State) : Host.Outcome State Fault Refusal :=
  let h := shopOf s s.ev.a
  let ws := rotation s s.ev.a s.ev.b
  match turned s ws ((look h.sampled s.ev.b).getD []) with
  | [] => .next s
  | w :: _ =>
    match weaveOf s w with
    | none => .next s
    | some wv =>
      let n := 2 ^ sampleLog s ws w
      if (look h.sampleAt s.ev.b).getD 0 / n < s.cycles / n then
        let s1 := modShop s s.ev.a (fun h => { h with sampled := put h.sampled s.ev.b (rotationKey s wv), sampleAt := put h.sampleAt s.ev.b s.cycles })
        .next (if (tenOf s wv.ids.tenancy).scriv.state = 1 then samplePost s1 wv.ids.tenancy (sampleBytes s w wv) else s1)
      else .next s

/-! ### Replay passes (R447 to R450) -/

/-- The sum of counter c over the shops on which it is assigned to the tenancy (R448). -/
def sumCount (s : State) (t c : Nat) : BitVec 64 :=
  s.shops.foldl (fun a p =>
    let x := cell p.2.cntctl c
    if x.getLsbD 26 && decide ((x.extractLsb' 28 4).toNat = t) then a + cell p.2.cnt c else a) 0

/-- FLAGS of a replay record (R450); bit 5 of the lot's flags carries ANYMIS from pass to pass. -/
def passFlags (l : Lot) : Nat :=
  let mis := decide (1 < l.pass ∧ l.hash ≠ l.hash1)
  (if mis then 1 else 0) + l.rflags % 16 / 2 * 2 + (if l.pass = l.npass ∧ l.rflags / 8 % 2 = 0 then 16 else 0) +
    (if mis || decide (l.rflags / 32 % 2 = 1) then 32 else 0)

/-- The event that counter c counts in the lot's present pass (R450): as the pass's start wrote it to the tenancy's shops (R448). -/
def passEvent (s : State) (l : Lot) (c : Nat) : Byte :=
  let mine (x : DWord) : Bool := x.getLsbD 26 && decide (x.extractLsb' 28 4 = BitVec.ofNat 4 l.tenancy ∧ x.extractLsb' 32 32 = l.lotid)
  match s.shops.find? (fun p => mine (cell p.2.cntctl c)) with
  | some p => (cell p.2.cntctl c).extractLsb' 0 8
  | none => cell (tenOf s l.tenancy).scriv.evset (4 * (l.pass - 1) + c)

/-- The 64 bytes of a replay record (R450). Log 57 (DEDUCED). -/
def passRecord (s : State) (l : Lot) : List Byte :=
  bytesOf 4 l.lotid.toNat ++ [BitVec.ofNat 8 l.pass, BitVec.ofNat 8 l.passReq, BitVec.ofNat 8 (passFlags l), 0] ++
    (List.range 4).map (passEvent s l) ++ [0, 0, 0, 0] ++
    (List.range 4).flatMap (fun c => bytesOf 8 (sumCount s l.tenancy c).toNat) ++ bytesOf 8 l.hash.toNat ++ bytesOf 8 s.time

/-- The present pass of a replay lot is over (R448, R449): trapped, over its capture, or every basket of it and of its child lots has
retired. Log 57 (DEDUCED). -/
def passOver (s : State) (L : Nat) (l : Lot) : Bool :=
  decide (l.npass ≠ 0 ∧ l.state < 2) && l.passRec.isNone &&
    (decide (l.rflags &&& 8 ≠ 0) || decide (l.rflags &&& 4 ≠ 0 ∧ l.pass < l.npass) ||
      (decide (l.retired = lotSize l) && (passChildren s L).isEmpty))

/-- The L1 of every shop that the tenancy may use loses its lines (R448). -/
def dropL1 (s : State) (t : Nat) : State :=
  ((List.range 192).filter (shopAllowed s t false)).foldl (fun s h => loseLines s h (fun _ _ => true)) s

/-- Go on after a pass whose record has been posted or lost (R448, R449): halt, complete, or run the next pass. Log 57 (DEDUCED). -/
def nextPass (s : State) (L : Nat) (l : Lot) : State :=
  let anymis := if passFlags l / 32 % 2 = 1 then 32 else 0
  if l.rflags &&& 8 ≠ 0 then { s with lots := put s.lots L { l with state := 3, passRec := none } }
  else if l.pass = l.npass then
    let l1 := { l with state := 2, passRec := none }
    match l.events with
    | some e => retireCheck (lotEvents { s with lots := put s.lots L l1 } L l1) e.w
    | none => { s with lots := put s.lots L l1 }
  else
    let k := l.pass + 1
    beginPass { s with lots := put s.lots L { l with
        pass := k, npass := if l.rflags &&& 4 ≠ 0 then k else l.npass, passRec := none, nextGid := 0, retired := 0, waiting := s.time,
        aged := 0, stopped := [], again := [], hash1 := if l.pass = 1 then l.hash else l.hash1, hash := 0, rflags := anymis,
        passFrom := s.stamp } } l.tenancy k l.lotid

/-- Post the record of a pass that has ended, if its ring has room (R437), and go on. Log 57 (DEDUCED). -/
def postPass (s : State) (L : Nat) : State :=
  match look s.lots L with
  | none => s
  | some l =>
    match l.passRec with
    | none => s
    | some bs =>
      let t := l.tenancy
      let c := (tenOf s t).scriv
      if 2 ≤ l.state ∨ (c.rwr - c.rrd).toNat = 2 ^ c.rlog2 then s
      else
        match agentWrite s t (c.rbase.toNat + 64 * (c.rwr.toNat % 2 ^ c.rlog2)) bs [relMsg .scrivener 3 []] with
        | none => nextPass (setScriv s t (fun c => { c with rlost := min (c.rlost + 1) 255 })) L l
        | some s1 => nextPass (setScriv s1 t (fun c => { c with rwr := c.rwr + 1 })) L l

/-- REPLAY_PASS_END (R448 to R450): the present pass of lot a is over: a pass over its capture is stopped; the counters are summed, the
pass's writes undone but after the last, the record posted. -/
def execReplayPassEnd (s : State) : Host.Outcome State Fault Refusal :=
  let L := s.ev.a
  match look s.lots L with
  | none => .next s
  | some l =>
    if passOver s L l then
      let inner := decide (l.pass < l.npass)
      let s1 := if inner && decide (l.rflags &&& 4 ≠ 0 ∧ l.rflags &&& 8 = 0) then stopPass s L 0 else s
      let s2 := { s1 with lots := edit s1.lots L (fun l => { l with passRec := some (passRecord s1 l) }) }
      let s3 := if inner then dropL1 (restorePass s2 L) l.tenancy else s2
      .next (postPass s3 L)
    else .next s

/-- RRD_WRITE (R437): the host writes RRD of tenancy a; records held for want of room are posted. -/
def execRrdWrite (s : State) : Host.Outcome State Fault Refusal :=
  if 16 ≤ s.ev.a then .next s
  else
    let s1 := setScriv s s.ev.a (fun c => { c with rrd := s.ev.v.extractLsb' 32 32 })
    let held := (s1.lots.filter (fun p => decide (p.2.tenancy = s.ev.a) && p.2.passRec.isSome)).map (fun p => p.1)
    .next (held.foldl postPass s1)

end Sys2Proof.Machine
end

