-- ==== Sys2Proof/Machine/Network.lean ====
section
/-!
DEFINITION. What the host sets up for the network (spec/23_courier.md): key slots (R421), communicators (R422), intake rings (R430).
-/

namespace Sys2Proof.Machine

open Sys2Proof

/-! ### Key slots (R421) -/

/-- A key slot, by 256 × port + k. Log 6 (DESIGN CHOICE). -/
def keyOf (s : State) (k : Nat) : KeySlot := (look s.keys k).getD {}

/-- The 40 bytes that five WRAP writes supply, as a number. -/
def wrapped (ws : List (BitVec 64)) : BitVec 320 :=
  BitVec.ofNat 320 (ws.foldr (fun w a => w.toNat + 2 ^ 64 * a) 0)

/-- KEY_WRAP_WRITE (R421): the next 8 bytes v of a wrapped key for slot a; the fifth write unwraps it under the key of the slot's
tenancy. Log 50 (DEDUCED). -/
def execKeyWrapWrite (s : State) : Host.Outcome State Fault Refusal :=
  if 1024 ≤ s.ev.a then .next s
  else
    let K := keyOf s s.ev.a
    let ws := K.wrap ++ [s.ev.v]
    let K1 : KeySlot :=
      if ws.length < 5 then { K with wrap := ws }
      else
        match Config.unwrapKey (tenOf s K.tenancy).key (wrapped ws) with
        | some key => { K with wrap := [], key := key, valid := true, kerr := false }
        | none => { K with wrap := [], key := 0, valid := false, kerr := true }
    .next { s with keys := put s.keys s.ev.a K1 }

/-- KEY_SLOT_CONFIG_WRITE (R421): SAID and TENANCY of slot a become those of v; the old key is erased. -/
def execKeySlotConfigWrite (s : State) : Host.Outcome State Fault Refusal :=
  if 1024 ≤ s.ev.a then .next s
  else
    .next { s with keys := put s.keys s.ev.a { keyOf s s.ev.a with
      said := s.ev.v.extractLsb' 32 32, tenancy := vBits s.ev.v 28 4, valid := false, key := 0, wrap := [] } }

/-! ### Communicators (R422) -/

/-- The member records at MBASE: endpoint, key slot, whether bytes 9 to 15 are zero; `none` where they cannot be read. -/
def memberRecords (s : State) (t : Nat) (mbase : BitVec 64) (n : Nat) : Option (List (BitVec 64 × Nat × Bool)) :=
  (agentRead s t mbase.toNat (16 * n)).map (fun bs => (List.range n).map (fun q =>
    let r := (bs.drop (16 * q)).take 16
    (BitVec.ofNat 64 (fieldAt r 0 8), fieldAt r 8 1, decide (fieldAt r 9 7 = 0))))

/-- A key slot is VALID at every port and belongs to the tenancy. Log 50 (DEDUCED). -/
def keyReady (s : State) (t k : Nat) : Bool :=
  (List.range 4).all (fun p => let K := keyOf s (256 * p + k); K.valid && decide (K.tenancy = t))

/-- The members of a communicator that may be enabled (R422). -/
def commMembers (s : State) (t : Nat) (C : Comm) : Option (List (BitVec 64 × Nat)) :=
  if C.nranks < 1 ∨ 64 < C.nranks ∨ C.nranks ≤ C.myrank ∨ C.mbase.toNat % 16 ≠ 0 then none
  else
    match memberRecords s t C.mbase C.nranks with
    | none => none
    | some rs => if rs.all (fun r => r.2.2 && keyReady s t r.2.1) then some (rs.map (fun r => (r.1, r.2.1))) else none

/-- COMM_ENABLE (R422): a write of v with ENABLE set to CCTL of communicator b of tenancy a. -/
def execCommEnable (s : State) : Host.Outcome State Fault Refusal :=
  let t := s.ev.a
  let c := s.ev.b
  if 16 ≤ t ∨ 16 ≤ c ∨ ((look (tenOf s t).comms c).getD {}).enable then .next s
  else
    let s1 := writeComm s t c 0 s.ev.v
    .next (modComm s1 t c (fun C =>
      match commMembers s1 t C with
      | some ms => { C with enable := true, cfgerr := false, members := ms }
      | none => { C with cfgerr := true }))

/-- COMM_DISABLE (R422): ENABLE of communicator b of tenancy a is cleared. -/
def execCommDisable (s : State) : Host.Outcome State Fault Refusal :=
  if 16 ≤ s.ev.a ∨ 16 ≤ s.ev.b then .next s
  else .next (modComm s s.ev.a s.ev.b (fun C => { C with enable := false }))

/-! ### Intake rings (R430) -/

/-- Bytes of a ring. -/
def ringBytes (R : Ring) : Nat := 2 ^ R.log2size

/-- Enabled rings of the die of ring r, but for r. -/
def ringsBeside (s : State) (r : Nat) : List Ring :=
  (s.rings.filter (fun p => decide (p.1 ≠ r ∧ p.1 / 64 = r / 64) && p.2.enable)).map (fun p => p.2)

/-- A setting of ENABLE is accepted (R430), but for the way quotas. Log 50 (DEDUCED). -/
def ringOk (s : State) (r : Nat) : Bool :=
  let R := ringOf s r
  let pinnedBytes := ((ringsBeside s r).filter (fun x => !x.place)).foldl (fun a x => a + ringBytes x) 0
  decide (16 ≤ R.log2size ∧ R.log2size ≤ 24 ∧ 8 ≤ R.log2slot ∧ R.log2slot ≤ 14 ∧ R.log2slot < R.log2size ∧ R.policy < 3 ∧
    R.rbase.toNat % ringBytes R = 0) &&
    !((ringsBeside s r).any (fun x => decide (x.residx = R.residx))) &&
    (R.place || decide (pinnedBytes + ringBytes R ≤ 48 * 2 ^ 20))

/-- The grains of a ring, each with the lease slot that serves it; pages without a translation have none. Log 50 (DEDUCED). -/
def ringGrains (s : State) (R : Ring) : List (Nat × Nat) :=
  (List.range (ringBytes R / 65536)).filterMap (fun i =>
    match access s R.tenancy (R.rbase.toNat + 65536 * i) .write 0 with
    | .ok pa slot _ => some (grainOf pa, slot)
    | _ => none)

/-- The enabled rings of a tenancy with a PLACE, but for r. -/
def ringsOf (s : State) (t r : Nat) (place : Bool) : List Ring :=
  (s.rings.filter (fun p => decide (p.1 ≠ r) && p.2.enable && decide (p.2.tenancy = t) && (p.2.place == place))).map (fun p => p.2)

/-- The 128-byte lines of a ring. -/
def ringLines (s : State) (R : Ring) : List Nat := (ringGrains s R).flatMap (fun g => (List.range 512).map (fun i => 512 * g.1 + i))

/-- A ring fits the way quota that its PLACE charges it to, beside the tenancy's other rings there (R26, R430): of L2, or of each set of the
Depot. Log 50 (DEDUCED). -/
def ringFits1 (s : State) (r : Nat) : Bool :=
  let R := ringOf s r
  let others := ringsOf s R.tenancy r R.place
  if R.place then
    let lines := ringLines s R ++ others.flatMap (ringLines s)
    lines.all (fun a => decide ((lines.filter (fun b => decide (Config.depotSet a = Config.depotSet b))).length ≤ depotWays s R.tenancy))
  else
    let beside := (ringsBeside s r).filter (fun x => decide (x.tenancy = R.tenancy) && !x.place)
    decide (beside.foldl (fun a x => a + ringBytes x) 0 + ringBytes R ≤ 128 * Config.l2Lines R.tenancy)

/-- Make a grain resident and not evictable (R430); `none` while no frame can be had. -/
def pinGrain (s : State) (t : Nat) (g : Nat × Nat) : Option State :=
  let s1 := match look s.grains g.1 with
    | some _ => some s
    | none => fillGrain s t g.2 g.1
  s1.map (fun s => { s with grains := edit s.grains g.1 (fun x => { x with pinned := true }) })

/-- Make every grain of a ring resident and not evictable. Log 50 (DEDUCED), 51 (DEDUCED). -/
def pinGrains (s : State) (t : Nat) : List (Nat × Nat) → Option State
  | [] => some s
  | g :: gs =>
    match pinGrain s t g with
    | none => none
    | some s1 => pinGrains s1 t gs

/-- RING_ENABLE (R430): a write of v with ENABLE set to the second register of ring a. It takes place once the ring's grains have frames. Log 50
(DEDUCED). -/
def execRingEnable (s : State) : Host.Outcome State Fault Refusal :=
  let r := s.ev.a
  if 256 ≤ r ∨ (ringOf s r).enable then .next s
  else
    let s1 := writeRing s r 8 s.ev.v
    let R := ringOf s1 r
    if !(ringOk s1 r && ringFits1 s1 r) then .next (modRing s1 r (fun R => { R with cfgerr := true }))
    else
      match pinGrains s1 R.tenancy (ringGrains s1 R) with
      | none => .next s
      | some s2 =>
        let s3 := ringWrite s2 R R.rbase.toNat (bytesOf 16 0) [relMsg (.courier (r / 64)) 3 []]
        .next (modRing s3 r (fun R => { R with
          enable := true, cfgerr := false, accepted := 0, full := 0, auth := 0, malformed := 0, nokey := 0, consTaken := 0 }))

/-- RING_DISABLE (R430): ENABLE of ring a is cleared; its grains may be evicted again, but for those of another enabled ring. -/
def execRingDisable (s : State) : Host.Outcome State Fault Refusal :=
  let r := s.ev.a
  let R := ringOf s r
  if 256 ≤ r ∨ R.enable = false then .next s
  else
    let s1 := modRing s r (fun R => { R with enable := false })
    let kept := (s1.rings.filter (fun p => p.2.enable)).flatMap (fun p => (ringGrains s1 p.2).map (fun g => g.1))
    .next ((ringGrains s R).foldl (fun s g =>
      if kept.contains g.1 then s else { s with grains := edit s.grains g.1 (fun x => { x with pinned := false }) }) s1)

end Sys2Proof.Machine
end

