-- ==== Sys2Proof/Machine/Package.lean ====
section
/-!
DEFINITION. The package (spec/25_package.md R452 to R459; spec/01_engines.md R23, R25; spec/16_depot_loft.md R331, R345;
spec/17_tinker.md R357): boot, bring-up, heat and power, D3hot, attestation, reset, and the Loft's partitions and refresh windows.
-/

namespace Sys2Proof.Machine

open Sys2Proof

/-! ### Boot and bring-up (R452 to R454) -/

/-- POWER_ON (R452): the boot ROM verifies every firmware image; ok: all of them pass. -/
def execPowerOn (s : State) : Host.Outcome State Fault Refusal :=
  .next (if s.powered then s else { s with powered := true, fwok := s.ev.ok })

/-- The bring-up stage that runs now (R453, R454): the first that has not ended, every image being verified and no stage of 0 to 3
having failed. Log 60 (DEDUCED). -/
def stageNow (s : State) : Option Nat :=
  if s.powered && s.fwok && decide (s.failed.extractLsb' 0 4 = 0) then (List.range 6).find? (fun n => !(s.stage.getLsbD n)) else none

/-- Set a bit. -/
def bitOn {n : Nat} (x : BitVec n) (k : Nat) : BitVec n := x ||| (1#n <<< k)

/-- Clear a bit. -/
def bitOff {n : Nat} (x : BitVec n) (k : Nat) : BitVec n := x &&& ~~~(1#n <<< k)

/-- A Tinker after the load of its repair map (R357): the spares that recorded repairs use are used. Log 60 (DEDUCED). -/
def loadMap (T : Tinker) : Tinker :=
  T.map.foldl (fun T x => (takeSpare T x).getD T)
    { T with rowsUsed := [], remapsUsed := [], granulesUsed := [], dqUsed := [], caUsed := [] }

/-- MAXLEVEL for the greatest switch-hop count found (R23). -/
def maxLevelOf (hops : Nat) : Nat := min (3 + hops) 7

/-- BRINGUP_STAGE_END (R453, R454, R357, R23): the stage that runs ends. Stages 0 to 3 pass or fail; stages 4 and 5 end whichever
ports trained. Log 60 (DEDUCED). -/
def execBringupStageEnd (s : State) : Host.Outcome State Fault Refusal :=
  match stageNow s with
  | none => .next s
  | some n =>
    let x := s.ev.stage
    if n < 4 then
      if x.passed then
        let s1 := { s with stage := bitOn s.stage n }
        .next (if n = 0 then { s1 with tinkers := s1.tinkers.map (fun p => (p.1, loadMap p.2)) } else s1)
      else .next { s with failed := bitOn s.failed n }
    else if n = 4 then
      .next { s with
        stage := bitOn s.stage 4, fabup := x.ports, maxlevel := maxLevelOf x.hops
        failed := if x.ports = 0 then bitOn s.failed 4 else s.failed }
    else
      let up := x.ports.setWidth 4
      .next { s with stage := bitOn s.stage 5, netup := up, failed := if up = 0 then bitOn s.failed 5 else s.failed }

/-- LINK_LOSS (R454): fabric port b (a = 0) or network port b (a = 1) loses its link. -/
def execLinkLoss (s : State) : Host.Outcome State Fault Refusal :=
  .next (if s.ev.a = 0 then { s with fabup := bitOff s.fabup s.ev.b }
    else if s.ev.a = 1 then { s with netup := bitOff s.netup s.ev.b } else s)

/-! ### Power and heat (R456) -/

/-- The effective power cap (R456). -/
def capOf (s : State) : Nat := min (max s.capw 1000) 3200

/-- The state that a device reset leaves (R456, R357): every register, cache and near-tier content at its reset value; the pool's
bytes and the repair maps are not the package's volatile state. `tripped` is what TRIPPED becomes. Log 60 (DEDUCED). -/
def resetDevice (s : State) (tripped : Bool) : State :=
  { State.reset with
    tripped := tripped, far := s.far.filter (fun c => decide (c.1 < trapBase))
    tinkers := (s.tinkers.filter (fun p => !(p.2.map.isEmpty))).map (fun p => (p.1, ({ map := p.2.map } : Tinker)))
    outbox := s.outbox, poolWrites := s.poolWrites, free := s.free, steps := s.steps, nextId := s.nextId, nextOp := s.nextOp
    utmax := s.utmax, tmax := s.tmax }

/-- The compute clock takes a step, 10 µs or more after its last one (R456). Log 60 (DEDUCED). -/
def clockTo (s : State) (clk : Nat) : State :=
  if s.clkAt + 10 ^ 4 ≤ s.time ∧ clk ≠ s.clk then { s with clk := clk, clkAt := s.time } else s

/-- CLOCK_STEP (R456): the sensors are read and the compute clock falls or rises by 100 MHz or stays; SYNC records follow a change
(R439); the Lofts' refresh period follows the Underlays' heat (R345). Log 11 (DESIGN CHOICE), 60 (DEDUCED). -/
def execClockStep (s : State) : Host.Outcome State Fault Refusal :=
  let x := s.ev.heat
  let hot := decide (100 ≤ x.tmax.toNat)
  let covered := decide (capOf s < x.power)
  let s1 := { s with utmax := x.utmax, tmax := x.tmax, loftNext := if 85 < x.utmax.toNat then 1950 else 3900 }
  let s2 :=
    if covered || hot then
      { clockTo s1 (max 10 (s.clk - 1)) with calmAt := s.time, capped := s.capped || covered, hot := s.hot || hot }
    else if s.calmAt + 10 ^ 6 ≤ s.time then
      let s2 := clockTo s1 (min 21 (s.clk + 1))
      { s2 with capped := s.capped && decide (s2.clk < 21), hot := s.hot && decide (s2.clk < 21) }
    else s1
  .next (if s2.clk = s.clk then s2 else (List.range 192).foldl syncShop s2)

/-- THERMAL_TRIP (R456): at a TMAX of 110 °C the device enters reset, and TRIPPED is set. -/
def execThermalTrip (s : State) : Host.Outcome State Fault Refusal :=
  .next (if 110 ≤ s.ev.heat.tmax.toNat then { resetDevice s true with tmax := s.ev.heat.tmax } else s)

/-- DEVICE_RESET (R357): a warm reset keeps TRIPPED. -/
def execDeviceReset (s : State) : Host.Outcome State Fault Refusal := .next (resetDevice s s.tripped)

/-- POWER_LOSS (R357): all state ends but what is recorded in the repair maps. -/
def execPowerLoss (s : State) : Host.Outcome State Fault Refusal := .next (resetDevice s false)

/-! ### D3hot (R457) -/

/-- D3HOT_ENTRY (R457): every resident gang is pre-empted; no packet is accepted until the return. -/
def execD3hotEntry (s : State) : Host.Outcome State Fault Refusal :=
  let s1 := { s with d3hot := true }
  .next (((s.gangs.filter (fun p => p.2.resident)).map (fun p => p.1)).foldl (fun s g => requestGang s g .d3hot) s1)

/-- D0_RETURN (R457): packets are accepted and saved gangs restored again. -/
def execD0Return (s : State) : Host.Outcome State Fault Refusal := .next { s with d3hot := false }

/-! ### Attestation (R458, R459) -/

/-- READY (R453). -/
def readyReg (s : State) : BitVec 64 :=
  BitVec.ofNat 64 (s.netup.toNat * 2 ^ 44 + s.fabup.toNat * 2 ^ 32 + s.failed.toNat * 2 ^ 16 + (if s.fwok then 64 else 0) + s.stage.toNat)

/-- ATTCTL_GO (R458): a write of v with GO set starts a report; ignored while one is under way. -/
def execAttctlGo (s : State) : Host.Outcome State Fault Refusal :=
  .next (if s.attGo || !(s.ev.v.getLsbD 0) then s else { s with attGo := true, attDone := false, attErr := false })

/-- Bytes 0x000 to 0x23F of a report (R459). -/
def reportHead (s : State) (nonce : BitVec 256) : List Byte :=
  bytesOf 4 0x54414A42 ++ bytesOf 2 1 ++ bytesOf 2 5 ++ bytesOf 8 Config.serial.toNat ++ bytesOf 32 nonce.toNat ++ bytesOf 8 s.time ++
    bytesOf 8 (readyReg s).toNat ++ (List.range 8).flatMap (fun i => bytesOf 64 (if i < 5 then (Config.measurement i).toNat else 0))

/-- A report (R459): 30,368 bytes. Log 6 (DESIGN CHOICE). -/
def report (s : State) (nonce : BitVec 256) : List Byte :=
  let head := reportHead s nonce
  head ++ (List.range 29792).map (Config.signatureByte head)

/-- ATTEST_COMPLETE (R459): with ok, the report, with the nonce as read from the buffer, is written over it and DONE is set; else the
buffer could not be read or written, and ERR is set. -/
def execAttestComplete (s : State) : Host.Outcome State Fault Refusal :=
  .next (if !s.attGo then s
    else if s.ev.ok then { send s (.hostWrite s.attaddr.toNat (report s s.ev.nonce)) with attGo := false, attDone := true }
    else { s with attGo := false, attErr := true })

/-! ### The Loft (R331, R345) -/

/-- A LOFTPART write is refused (R331). Log 60 (DEDUCED). -/
def loftPartBad (s : State) (t lbase lsize : Nat) : Bool :=
  decide (32768 < lbase + lsize) || lotsOpen s t ||
    (List.range 16).any (fun u =>
      let d := (tenOf s u).depot
      decide (u ≠ t ∧ 0 < lsize ∧ 0 < d.lsize ∧ lbase < d.lbase + d.lsize ∧ d.lbase < lbase + lsize))

/-- Mark the bytes of a partition as unspecified (R331). Log 60 (DEDUCED). -/
def openLoft (s : State) (lbase lsize : Nat) : State :=
  if lsize = 0 then s else { s with loftOpen := (65536 * lbase, 65536 * lsize, s.free) :: s.loftOpen }

/-- LOFTPART_WRITE (R331): tenancy a's partition becomes that of v, or the write is refused. -/
def execLoftpartWrite (s : State) : Host.Outcome State Fault Refusal :=
  let t := s.ev.a
  let lsize := vBits s.ev.v 32 16
  let lbase := vBits s.ev.v 0 16
  if 16 ≤ t then .next s
  else if loftPartBad s t lbase lsize then .next (modTen s t (fun T => { T with depot := { T.depot with cfgerr := true } }))
  else
    let old := (tenOf s t).depot
    let s1 := clearLoft (clearLoft s old.lbase old.lsize) lbase lsize
    .next (modTen (openLoft s1 lbase lsize) t (fun T => { T with depot := { T.depot with lsize := lsize, lbase := lbase, cfgerr := false } }))

/-- LOFT_WINDOW_START (R345): a refresh window begins. A change of PERIOD takes effect at a multiple of 3,900. -/
def execLoftWindowStart (s : State) : Host.Outcome State Fault Refusal :=
  let p := if s.time % 3900 < 260 then s.loftNext else s.loftPeriod
  .next (if !s.inWindow && decide (s.time % p < 260) then { s with inWindow := true, loftPeriod := p } else s)

/-- LOFT_WINDOW_END (R345): the window ends; the accesses parked in it may be served. -/
def execLoftWindowEnd (s : State) : Host.Outcome State Fault Refusal :=
  .next (if s.inWindow && decide (260 ≤ s.time % s.loftPeriod) then { s with inWindow := false } else s)

end Sys2Proof.Machine
end

