-- ==== Sys2Proof/Machine/Clause.lean ====
section
/-!
DEFINITION. The start of a clause (spec/05_encoding.md R100 to R108; spec/08_bench.md R164, R167; spec/02_execution_model.md R44;
spec/24_scrivener.md R444), the rotation of a bench (R164, R165, R50, R103), the trap of an unresolved access (spec/15_reeve.md R321), and the ends of waits that time brings
(spec/08_bench.md R179; spec/09_porter.md R214, R215; spec/24_scrivener.md R435).
-/

namespace Sys2Proof.Machine

open Sys2Proof

/-! ### Instruction fetch (R100, R101) -/

/-- How the fetch of clause words goes: the words and where their bytes lie; a wait, with the places of accesses that are parked; a trap,
with the header where that has been fetched; words that cannot be corrected. -/
inductive Fetch where
  | ok (pas : List Nat) (ws : List DWord)
  | wait (s : State) (places : Parked)
  | trap (s : State) (t : Trap) (hdr : Option DWord)
  | poison
  deriving DecidableEq, Repr

/-- A free 64-bit value. Log 1 (DESIGN CHOICE), 22 (DESIGN CHOICE). -/
def freeDWord (s : State) (salt : Nat) : DWord := (freeWord s salt) ++ (freeWord s (salt + 1))

/-- A class 5 trap (R321): KIND, address, SEQ and SLOT. Log 23 (DEDUCED). -/
def farTrap (kind : Nat) (lanes : Mask) (va seq slot : Nat) : Trap :=
  { cls := 5, cause := kind, lanes := lanes, addr := va, info := seq % 2 ^ 32 + slot * 2 ^ 32 }

/-- Fetch one word of a clause: its page must have execute right; the walk and the access may wait or end unresolved (R100, R307,
R315). A word that a store has changed since the weave's last ISYNC is the old or the new one (R101). Log 63 (DEDUCED). -/
def fetchWord (s : State) (w slot : Nat) (wv : Weave) (sp : Split) (va : Nat) : Fetch :=
  let t := wv.ids.tenancy
  let absent (sl acc engine pa : Nat) : Fetch :=
    .wait (postAbsent s t (weaveFault s wv 1 acc engine sl va pa sp.mask) none w slot) sp.fetching
  let seq := (tenOf s t).reeve.frwr.toNat
  let dead (sl kind engine acc pa : Nat) : Fetch :=
    .trap (postFault (dropWalks s t w slot) t (weaveFault s wv kind acc engine sl va pa sp.mask)) (farTrap kind sp.mask va seq sl) none
  match access s t va .fetch 61000 with
  | .prot c => .trap s { cls := 4, cause := c, lanes := sp.mask, addr := va } none
  | .loft _ => .trap s { cls := 4, cause := 1, lanes := sp.mask, addr := va } none
  | .busy => .wait s sp.fetching
  | .empty sl tb => absent sl (if tb then 4 else 3) 6 (if tb then 0 else leafPA s t va)
  | .lost sl => dead sl 6 6 4 0
  | .ok pa sl _ =>
    let pas := (List.range 8).map (fun i => pa + i)
    match parkedGone sp.fetching [sl] with
    | some (x, k) => dead x k 0 3 pa
    | none =>
      match fareAll s t (pas.map (fun p => (p, sl))) with
      | .park _ => .wait s (placesOf pas (List.replicate 8 sl))
      | .absent x => absent x 3 0 pa
      | .dead x k => dead x k 0 3 pa
      | .go =>
        if pas.any (poisoned s t) then .poison
        else .ok pas [BitVec.ofNat 64 (natOfBytes (readMem s wv.fview (versionOf s wv) true (62000 + va % 1024) pas).data)]

/-- Fetch n words from an address on. -/
def fetchWords (s : State) (w slot : Nat) (wv : Weave) (sp : Split) : Nat → Nat → Fetch
  | _, 0 => .ok [] []
  | va, n + 1 =>
    match fetchWord s w slot wv sp va with
    | .ok ps ws =>
      match fetchWords s w slot wv sp (va + 8) n with
      | .ok pr rest => .ok (ps ++ pr) (ws ++ rest)
      | e => e
    | e => e

/-- The words of a clause after its header. -/
def fetchRest (s : State) (w slot : Nat) (wv : Weave) (sp : Split) (pas : List Nat) (h : DWord) : Fetch :=
  match fetchWords s w slot wv sp (sp.pc.toNat + 8) (hdrCount h + 1) with
  | .ok pr ws => .ok (pas ++ pr) (h :: ws)
  | .trap s1 t _ => .trap s1 t (some h)
  | e => e

/-- Fetch the clause at the split's PC: its header, and COUNT + 1 words; a walk of the fetch that a reply has made unresolved traps, and
one that awaits a reply waits (R307, R319). Log 21 (DEDUCED). -/
def fetchClause (s : State) (w slot : Nat) (wv : Weave) (sp : Split) : Fetch :=
  let t := wv.ids.tenancy
  let first := fetchWord s w slot wv sp sp.pc.toNat
  match (failedWalks s t w slot).head? with
  | some f => .trap (dropWalks s t w slot) (farTrap 1 sp.mask f.va f.seq f.slot) (match first with | .ok _ [h] => some h | _ => none)
  | none =>
    if walkWaits s t w slot then .wait s sp.fetching
    else
      match first with
      | .ok pas [h] => fetchRest s w slot wv sp pas h
      | e => e

/-! ### The checks of R108 -/

/-- CLASS of a header (R102). -/
def hdrClass (h : DWord) : Nat := (h.extractLsb' 60 4).toNat

/-- The class of an opcode (R104). -/
def classOf (opc : Nat) : Nat :=
  if opc < 0x30 then 0 else if opc < 0x80 then 1 else if opc < 0xA0 then 2 else if opc < 0xB8 then 3 else if opc < 0xC8 then 4
  else if opc < 0xD4 then 5 else if opc < 0xF0 then 6 else 7

/-- The opcode of a word. -/
def opNat (x : DWord) : Nat := (x.extractLsb' 56 8).toNat

/-- Opcodes of the ENG format (R125). -/
def engOpc (opc : Nat) : Bool := decide ((0xD4 ≤ opc ∧ opc ≤ 0xE0 ∧ opc ≠ 0xD9) ∨ opc = 0xE9 ∨ opc = 0xEA ∨ opc = 0xEC ∨ opc = 0xED)

/-- Opcodes of the RRR format, whose words have SB and SC fields (R125). -/
def rrrOpc (opc : Nat) : Bool :=
  let ri := [0x31, 0x33, 0x35, 0x39, 0x46, 0x48, 0x4A, 0x4E, 0x50, 0x52, 0x54, 0x5B, 0x6F, 0x70, 0x7A, 0x7B]
  [0x00, 0x01, 0x04, 0x06, 0x08, 0xB1, 0xD9, 0xEB, 0xAA, 0xBA, 0xBB].contains opc || decide (0x0C ≤ opc ∧ opc ≤ 0x21) ||
    (decide (0x30 ≤ opc ∧ opc < 0xA0) && !(ri.contains opc)) || decide ((0xC3 ≤ opc ∧ opc ≤ 0xC6) ∨ (0xE1 ≤ opc ∧ opc ≤ 0xE8)) ||
    decide (0xC8 ≤ opc ∧ opc ≤ 0xCF)

/-- A field names a queue register (R118). -/
def queueField (x : DWord) (lo : Nat) : Bool := let r := (x.extractLsb' lo 9).toNat; decide (448 ≤ r ∧ r < 464)

/-- The DST field of the word names a queue register; the DST of VCMP's RI form is no register field (R246). -/
def queueDst (x : DWord) : Bool := decide (opNat x ≠ 0x5B) && queueField x 47

/-- A register field of the word names a queue register: it is a push, or it pops (R106). Log 21 (DEDUCED). -/
def namesQueue (x : DWord) : Bool :=
  queueDst x || queueField x 38 || (rrrOpc (opNat x) && (queueField x 29 || queueField x 20))

/-- The word must stand last in its clause (R106): a control transfer, a waiting instruction, a push. Log 21 (DEDUCED). -/
def mustEnd (x : DWord) : Bool :=
  let opc := opNat x
  [0x01, 0x02, 0x03, 0x04, 0x05, 0x06, 0x08, 0x09, 0x0A, 0xAB, 0xBC, 0xBD, 0xBE, 0xC1, 0xC3, 0xE1, 0xE3, 0xE4, 0xEB, 0xFA, 0xFE, 0xFF].contains opc ||
    engOpc opc || namesQueue x

/-- The first condition of R102 to R106 that a clause breaks, as the CAUSE of class 1 (R186, R126). Log 21 (DEDUCED). -/
def clauseFault (liveCount : Nat) (h : DWord) (ws : List DWord) : Option Nat :=
  let n := ws.length
  let placed (p : DWord × Nat) : Bool := decide (classOf (opNat p.1) = hdrClass h) || decide (opNat p.1 ≤ 0x0B ∧ p.2 + 1 = n)
  if 8 ≤ hdrClass h then some 1
  else if h.extractLsb' 32 2 ≠ 0 ∨ h.extractLsb' 0 16 ≠ 0 then some 2
  else if (if hdrP h then liveCount ≤ hdrLive h else hdrLive h ≠ 0) then some 3
  else if (ws.zip (List.range n)).any (fun p => !(placed p)) then some 4
  else if (ws.take (n - 1)).any mustEnd then some 5
  else none

/-! ### When a split may start a clause (R164, R44, R167) -/

/-- The word is a long-latency instruction (R166). -/
def longLatency (x : DWord) : Bool :=
  let opc := opNat x
  if 0xA0 ≤ opc ∧ opc < 0xC8 then
    !([0xA7, 0xA8, 0xAB, 0xAE, 0xB1, 0xBC, 0xBD, 0xBE, 0xC1, 0xC3].contains opc) && !(decide (opc = 0xAA) && decide (aAnn (x.extractLsb' 0 16) = 1))
  else decide (0xC8 ≤ opc ∧ opc < 0xD4) || engOpc opc || [0xF7, 0xF9, 0xFC].contains opc || queueDst x

/-- The clause's long-latency instructions would raise a count above 255 (R167). -/
def flagsFull (wv : Weave) (h : DWord) (ws : List DWord) : Bool :=
  let n := (ws.filter longLatency).length
  decide (0 < n) && (clauseFlags h).any (fun f => decide (255 < (look wv.flags f).getD 0 + n))

/-- Flags that a header's WAIT mask names. -/
def waitMask (h : DWord) : List Nat := (List.range 12).filter (fun n => h.getLsbD (44 + n))

/-- No flag that the WAIT mask names is set (R102). -/
def waitClear (wv : Weave) (h : DWord) : Bool := (waitMask h).all (fun n => !(flagSet wv n))

/-- The clause may run beside those that siblings run (R165, R44): none runs, or one runs whose plies are others, of the same class,
and neither WAIT mask names a set flag. -/
def mayPair (wv : Weave) (slot : Nat) (m : Mask) (h : DWord) : Bool :=
  match wv.splits.filter (fun p => decide (p.1 ≠ slot) && p.2.run.isSome) with
  | [] => true
  | [(_, so)] =>
    (match so.run with
     | none => true
     | some r => decide (hdrClass r.hdr = hdrClass h) && waitClear wv r.hdr) &&
      waitClear wv h && (pliesOf m).all (fun p => !((pliesOf so.mask).contains p))
  | _ => false

/-- The slot of the live split that holds the lowest strand of a mask (R321). Log 23 (DEDUCED). -/
def holderOf (wv : Weave) (m : Mask) : Option Nat :=
  match lowestStrand m with
  | none => none
  | some k => (wv.splits.find? (fun p => p.2.mask.getLsbD k)).map (fun p => p.1)

/-- A trap of an unresolved access waits for a split (R321). Log 23 (DEDUCED). -/
def farWaits (wv : Weave) (slot : Nat) : Bool := wv.farTraps.any (fun f => decide (holderOf wv f.lanes = some slot))

/-- A split may be considered for its next clause (R164, R402, R160): it is ready, its weave runs and holds no issue, no trap waits for
it, and it does not stop at this boundary for a pre-emption. -/
def mayStartClause (s : State) (slot : Nat) (wv : Weave) (sp : Split) : Bool :=
  splitReady sp && wv.ofence.isNone && !(farWaits wv slot) && (match basketOf s wv with | some B => B.resident | none => false) &&
    !(collecting s wv && decide (standOf s wv sp ≠ .no))

/-- The clause at a split's PC is there, no flag that its WAIT mask names is set, and its flags have room (R164, R102, R167); a fetch that
ends in a trap is there too. -/
def clauseThere (s : State) (w slot : Nat) (wv : Weave) (sp : Split) : Bool :=
  match fetchClause s w slot wv sp with
  | .ok _ (h :: ws) => waitClear wv h && !(flagsFull wv h ws)
  | .ok _ [] => false
  | .wait _ _ => false
  | .trap _ _ _ => true
  | .poison => true

/-- A split could start its clause if YIELD did not exclude its weave (R164); a forced checkpoint of its basket stalls it (R334).
Log 17 (DEDUCED). -/
def couldStart (s : State) (w slot : Nat) (wv : Weave) (sp : Split) : Bool :=
  mayStartClause s slot wv sp && !(forcing s w wv) && clauseThere s w slot wv sp

/-- The resident weaves of a bench in the order in which it visits them next (R164): after the one visited last. -/
def nextVisits (s : State) (shop bench : Nat) : List Nat :=
  turned s (rotation s shop bench) (((look s.benches (4 * shop + bench)).getD {}).last)

/-- A weave that has not yielded has a split that could start. -/
def hasReady (s : State) (w : Nat) : Bool :=
  match weaveOf s w with
  | none => false
  | some wv => !wv.yielded && wv.splits.any (fun p => couldStart s w p.1 wv p.2)

/-- YIELD excludes the weave (R103): it has yielded and no split of another weave of the bench has been selected since, and another weave
is ready, or the cycle after its clause's end is not over. Log 18 (DEDUCED). -/
def excluded (s : State) (w : Nat) (wv : Weave) : Bool :=
  wv.yielded && (decide (s.cycles < wv.yieldAt + 2) || (rotation s wv.shop wv.bench).any (fun x => decide (x ≠ w) && hasReady s x))

/-- The ready splits of a weave (R164), the one ready longest first, ties by the lower slot: slot, and when it became ready. -/
def readySplits (s : State) (w : Nat) : List (Nat × Nat) :=
  match weaveOf s w with
  | none => []
  | some wv =>
    if excluded s w wv then []
    else
      let rs := (wv.splits.filter (fun p => couldStart s w p.1 wv p.2)).map (fun p => (p.1, p.2.readyAt))
      sortRank (fun a b => decide (a.2 < b.2) || (decide (a.2 = b.2) && decide (a.1 < b.1))) rs

/-- A clause occupies the bench (R165): some instruction of it has not issued. -/
def benchBusy (s : State) (shop bench : Nat) : Bool :=
  s.weaves.any (fun p => decide (p.2.shop = shop ∧ p.2.bench = bench) && p.2.splits.any (fun x => x.2.run.isSome))

/-- What is left of a bench's visit: the weave, and its splits that were ready when the visit began and still are. -/
def visitLeft (s : State) (b : Bench) : Option (Nat × List (Nat × Nat)) :=
  match b.visit with
  | none => none
  | some w =>
    match b.left.filter (fun x => (readySplits s w).contains x) with
    | [] => none
    | xs => some (w, xs)

/-- The weave that a free bench visits, and the splits that it starts there, in order (R164): what is left of the present visit, else
the next weave of the rotation with a ready split. The rotation passes over the others at no cost, so that a ready split starts within
sixteen opportunities (R50). -/
def benchGives (s : State) (shop bench : Nat) : Option (Nat × List (Nat × Nat)) :=
  if benchBusy s shop bench then none
  else
    match visitLeft s ((look s.benches (4 * shop + bench)).getD {}) with
    | some x => some x
    | none => ((nextVisits s shop bench).map (fun w => (w, readySplits s w))).find? (fun x => !x.2.isEmpty)

/-! ### Breakpoints (R444) -/

/-- The breakpoints of the shop that match, with their ACTION. -/
def matches1 (s : State) (wv : Weave) (sp : Split) : List (Nat × Nat) :=
  if sp.handler ∨ sp.noBreak = some sp.pc then []
  else
    let h := shopOf s wv.shop
    ((List.range 4).filter (fun b =>
      let x := cell h.bpctl b
      let f (lo n : Nat) : Nat := (x.extractLsb' lo n).toNat
      x.getLsbD 0 && decide (f 16 2 ≠ 3 ∧ f 28 4 = wv.ids.tenancy ∧ cell h.bpaddr b = sp.pc &&& 0xFFFFFFFFFFFFFFF8) &&
        (!(x.getLsbD 27) || decide (x.extractLsb' 32 32 = wv.ids.lotid)) && (!(x.getLsbD 21) || decide (f 22 5 = wv.ids.wid)) &&
        (!(x.getLsbD 18) || decide (f 19 2 = wv.ids.stage)))).map (fun b => (b, ((cell h.bpctl b).extractLsb' 16 2).toNat))

/-- What the matches do (R444): BREAK records and counts; the lowest TRAP breakpoint. -/
def actBreaks (s : State) (w slot : Nat) (wv : Weave) (ms : List (Nat × Nat)) : State × Option Nat :=
  let s1 := ms.foldl (fun s m => if m.2 = 1 then traceWeave s w slot 6 m.1 else if m.2 = 2 then countW s wv 31 1 else s) s
  (s1, (ms.find? (fun m => decide (m.2 = 0))).map (fun m => m.1))

/-! ### CLAUSE_START -/

/-- The bench selects the weave: a weave of the bench that had yielded may be selected again (R103). Log 18 (DEDUCED). -/
def selectWeave (s : State) (w : Nat) (wv : Weave) : State :=
  { s with weaves := s.weaves.map (fun p =>
      if p.1 ≠ w ∧ p.2.shop = wv.shop ∧ p.2.bench = wv.bench ∧ p.2.yielded then (p.1, { p.2 with yielded := false }) else p) }

/-- The clause start observes the completions of the flags that its WAIT mask names (R68). Log 24 (DEDUCED). -/
def observeFlags (s : State) (w : Nat) (wv : Weave) (sp : Split) (h : DWord) : State :=
  let fs := waitMask h
  let ms := (fs.flatMap (fun f => (look wv.flagMsgs f).getD [])).eraseDups
  let s1 := observe s w sp.mask ms
  if ms = [] ∨ wv.splits.length ≠ 1 ∨ wv.stack ≠ [] then s1
  else modWeave s1 w (fun wv => { wv with flagMsgs := wv.flagMsgs.filter (fun p => !(fs.contains p.1)) })

/-- The clause runs: its words are held, its first instruction issues next. -/
def runClause (s : State) (w slot : Nat) (h : DWord) (ws : List DWord) : State :=
  modWeave s w (fun wv => { wv with
    yielded := h.getLsbD 35
    yieldAt := s.cycles
    splits := edit wv.splits slot (fun sp => { sp with
      run := some { pc := sp.pc, hdr := h, words := ws, idx := 0 }, needP := false, noBreak := none, readyAt := 0 }) })

/-- A split starts a clause whose words are there (R108, R444): the checks, the breakpoints, then the clause runs. -/
def beginClause (s : State) (w slot : Nat) (wv : Weave) (sp : Split) (h : DWord) (ws : List DWord) : State :=
  let s1 := traceWeave (countW (selectWeave (dropWalks s wv.ids.tenancy w slot) w wv) wv 2 1) w slot 2 0
  let at1 (next word : DWord) : TrapAt := { idx := 255, pc := sp.pc, nextpc := next, word := word, held := false }
  let bad (c : Nat) : State := deliver s1 w slot (at1 0 h) { cls := 1, cause := c, lanes := sp.mask }
  match clauseFault wv.hdr.liveCount h ws with
  | some c => bad c
  | none =>
    if sp.needP && !(hdrP h) then bad 6
    else
      match actBreaks s1 w slot wv (matches1 s wv sp) with
      | (s2, some b) => deliver s2 w slot (at1 sp.pc (freeDWord s 63100)) { cls := 6, cause := 2, lanes := sp.mask, info := b }
      | (s2, none) => runClause (observeFlags s2 w wv sp h) w slot h ws

/-- A split's fetch of its clause traps (R100, R321): NEXTPC is the boundary at which the split stands for an access that was unresolved,
and what R185 gives for a trap that is precise; there it is free where the header has not been fetched. Log 22 (DESIGN CHOICE). -/
def fetchTrap (s : State) (w slot : Nat) (wv : Weave) (sp : Split) (t : Trap) (hdr : Option DWord) : State :=
  let next := if t.cls = 5 ∧ t.cause ≠ 1 ∧ t.cause ≠ 6 then sp.pc
    else match hdr with
      | some h => nextPC sp.pc h
      | none => freeDWord s 63200
  deliver (traceWeave (countW (selectWeave s w wv) wv 2 1) w slot 2 0) w slot
    { idx := 255, pc := sp.pc, nextpc := next, word := freeDWord s 63202, held := false } t

/-- The fetch of a split's clause is over: it is parked nowhere. -/
def fetched (s : State) (w slot : Nat) : State := modSplit s w slot (fun sp => { sp with fetching := [] })

/-- The bench starts the clause of a split whose fetch is over (R164, R100). -/
def startClause (s : State) (w slot : Nat) (wv : Weave) (sp : Split) : State :=
  match fetchClause s w slot wv sp with
  | .wait s1 ps => modSplit s1 w slot (fun sp => { sp with fetching := ps })
  | .poison => taskTrap (fetched s w slot) wv.ids.basket 1 0 sp.pc.toNat 0
  | .trap s1 t hdr => fetchTrap (fetched s1 w slot) w slot wv sp t hdr
  | .ok _ [] => s
  | .ok pas (h :: ws) => beginClause (askLines (fetched s w slot) wv.ids.tenancy pas) w slot wv sp h ws

/-- The header of the clause that a split runs. -/
def runHdr (s : State) (w slot : Nat) : Option DWord :=
  ((weaveOf s w).bind (fun wv => (look wv.splits slot).bind (fun sp => sp.run))).map (fun r => r.hdr)

/-- The bench's visit goes on, or ends with a clause whose YIELD is 1 (R164). -/
def noteVisit (s : State) (bench w slot : Nat) (wv : Weave) (left : List (Nat × Nat)) : State :=
  let done := (runHdr s w slot).any (fun h => h.getLsbD 35) || left.isEmpty
  let b : Bench := { last := rotationKey s wv, visit := if done then none else some w, left := if done then [] else left }
  { s with benches := put s.benches bench b }

/-- A second split of the weave that may pair with the one just started starts in the same cycle (R164, R44). -/
def startPair (s : State) (bench w slot : Nat) : State :=
  let b := (look s.benches bench).getD {}
  match weaveOf s w, runHdr s w slot with
  | some wv, some _ =>
    let fits (x : Nat × Nat) : Bool :=
      match look wv.splits x.1 with
      | none => false
      | some sp => couldStart s w x.1 wv sp && (match fetchClause s w x.1 wv sp with
        | .ok _ (h :: _) => mayPair wv x.1 sp.mask h
        | _ => false)
    match b.left.find? fits with
    | none => s
    | some x =>
      match look wv.splits x.1 with
      | none => s
      | some sp => noteVisit (startClause s w x.1 wv sp) bench w x.1 wv (b.left.erase x)
  | _, _ => s

/-- CLAUSE_START (R164, R100 to R108): the clause of weave a's split in slot b is fetched; where it is the one that the bench's rotation
gives, the bench starts it, and with it the split that may pair with it. Log 17 (DEDUCED). -/
def execClauseStart (s : State) : Host.Outcome State Fault Refusal :=
  let w := s.ev.a
  let slot := s.ev.b
  match weaveOf s w with
  | none => .next s
  | some wv =>
    match look wv.splits slot with
    | none => .next s
    | some sp =>
      if !(mayStartClause s slot wv sp) then .next s
      else
        let bench := 4 * wv.shop + wv.bench
        match fetchClause s w slot wv sp, benchGives s wv.shop wv.bench with
        | .wait _ _, _ => .next (startClause s w slot wv sp)
        | _, some (w1, x :: left) =>
          if w1 = w ∧ x.1 = slot then .next (startPair (noteVisit (startClause s w slot wv sp) bench w slot wv left) bench w slot)
          else .next s
        | _, _ => .next s

/-! ### FAR_FAULT_TRAP (R321) -/

/-- Halt a lot for a class 5 trap that no live split takes (R321): as under HALT. Which slot the report names is free.
Log 22 (DESIGN CHOICE), 23 (DEDUCED). -/
def farHalt (s : State) (w : Nat) (wv : Weave) (f : FarTrap) (t : Trap) : State :=
  let slot := choose s 63300 4
  let x : TrapAt := { idx := f.idx, pc := f.pc, nextpc := freeDWord s 63302, word := f.word, held := false }
  let s1 := trace s wv.ids.tenancy wv.shop 5 wv.ids.wid 0xFF f.pc 0 wv.ids.lotid (5 * 256 + f.kind)
  let b := match basketOf s wv with | some B => B.linear | none => 0
  let recd := trapRecord s wv slot 0 x t 0
  haltReport (modWeave s1 w (fun wv => { wv with farTraps := [] })) wv.ids.lot 0x0105 b (recd.take 16 ++ bytesOf 8 t.addr) 0

/-- FAR_FAULT_TRAP (R321): the first trap of weave a whose split stands at a clause boundary, or that no live split holds. -/
def execFarFaultTrap (s : State) : Host.Outcome State Fault Refusal :=
  let w := s.ev.a
  match weaveOf s w with
  | none => .next s
  | some wv =>
    let may (f : FarTrap) : Bool :=
      match holderOf wv f.lanes with
      | none => true
      | some n => (match look wv.splits n with | some sp => splitReady sp | none => false)
    match wv.farTraps.find? may with
    | none => .next s
    | some f =>
      let t := farTrap f.kind f.lanes f.va f.seq f.slot
      let s1 := modWeave s w (fun wv => { wv with farTraps := wv.farTraps.erase f })
      match holderOf wv f.lanes with
      | none => .next (farHalt s w wv f t)
      | some n =>
        let pc := match look wv.splits n with | some sp => sp.pc | none => 0
        .next (deliver s1 w n { idx := f.idx, pc := f.pc, nextpc := pc, word := f.word, held := false } t)

/-! ### Waits that time ends -/

/-- The held instruction of a split. -/
def heldOf (s : State) (w slot : Nat) : Option Held := (weaveOf s w).bind (fun wv => (look wv.splits slot).bind (fun sp => sp.held))

/-- PAUSE_EXPIRE (R179): the interval of the PAUSE that the split in slot b of weave a holds is over. -/
def execPauseExpire (s : State) : Host.Outcome State Fault Refusal :=
  match heldOf s s.ev.a s.ev.b with
  | none => .next s
  | some h =>
    match h.wait with
    | .pause n => .next (if n ≤ s.cycles then boundary s s.ev.a s.ev.b (nextPC h.pc h.hdr) true else s)
    | _ => .next s

/-- GTWAIT_WAKE (R435): global time has reached what the GTWAIT in slot b of weave a awaits: it completes. -/
def execGtwaitWake (s : State) : Host.Outcome State Fault Refusal :=
  match heldOf s s.ev.a s.ev.b with
  | none => .next s
  | some h =>
    match h.wait with
    | .gtime n =>
      if n ≤ s.time then
        match execGtwait (sysOf h.word) { s with issuer := some (s.ev.a, s.ev.b) } with
        | .next s1 => .next { s1 with issuer := s.issuer }
        | _ => .next s
      else .next s
    | _ => .next s

/-- Give a held WAITL its wake code. -/
def wakeWait (s : State) (w slot : Nat) (wait : Wait) : State :=
  modSplit s w slot (fun sp => { sp with held := sp.held.map (fun h => { h with wait := wait }) })

/-- WAITL_TIMEOUT (R214): the WAITL in slot b of weave a has waited its 2^(8+k) cycles: code 2. -/
def execWaitlTimeout (s : State) : Host.Outcome State Fault Refusal :=
  match heldOf s s.ev.a s.ev.b with
  | none => .next s
  | some h =>
    match h.wait with
    | .monitor l n none => .next (if n ≤ s.cycles then wakeWait s s.ev.a s.ev.b (.monitor l n (some 2)) else s)
    | _ => .next s

/-- WATCH_UNAVAILABLE (R215): the WAITL in slot b of weave a found no free watch and has waited 256 cycles: code 1. -/
def execWatchUnavailable (s : State) : Host.Outcome State Fault Refusal :=
  match heldOf s s.ev.a s.ev.b with
  | none => .next s
  | some h =>
    match h.wait with
    | .noWatch n => .next (if n ≤ s.cycles then wakeWait s s.ev.a s.ev.b (.monitor 0 n (some 1)) else s)
    | _ => .next s

end Sys2Proof.Machine
end

