-- ==== Sys2Proof/Machine/Complete.lean ====
section
/-!
DEFINITION. The completion of the long-latency operations that no engine completes (spec/08_bench.md R166 to R168; spec/09_porter.md R199
to R210; spec/10_stockroom.md R224 to R238; spec/15_reeve.md R325; spec/16_depot_loft.md R334, R341, R344).
-/

namespace Sys2Proof.Machine

open Sys2Proof

/-- An operation with nothing left to do but to complete. -/
def performedOp (s : State) (n : Nat) (kind : OpKind → OpKind) : State :=
  { s with ops := edit s.ops n (fun o => { o with kind := kind o.kind, bound := some ((o.bound).getD []) }) }

/-- Perform PGQ.INV or PGQ.INVALL (R325): the translations of the tenancy are dropped in every shop. Log 63 (DEDUCED). -/
def performInvalidate (s : State) (n : Nat) (wv : Weave) (lo grains : Nat) (all : Bool) : State :=
  let cut (r : Reeve) : Reeve :=
    let kept := r.cache.filter (fun e => decide (e.1 + e.2.1 ≤ lo ∨ lo + 65536 * grains ≤ e.1))
    { r with cache := if all then [] else kept }
  performedOp (setReeve s wv.ids.tenancy cut) n (fun k => k)

/-- PGQ.EVICT at one grain of its range (R325): it is evicted, or passed over; `false`: its walk waits for a lease (R307), or its
write-back for a repair window (R354). -/
def evictAt (s : State) (t va : Nat) : State × Bool :=
  if 2 ^ 57 ≤ va then (s, true)
  else
    match translate s t va 0 with
    | .page l =>
      let k := grainKey s t l.slot l.pa
      (match look s.grains k with
       | some G =>
         if !l.shro && !G.shro && decide (G.tenancy = t) && evictable s k G then (if mayFlush s k then (evictGrain s k, true) else (s, false))
         else (s, true)
       | none => (s, true))
    | .busy _ => (s, false)
    | _ => (s, true)

/-- Perform PGQ.EVICT (R325): the resident, evictable grains of PRIV pages are written back and dropped; in a replay pass other than the
last none is (R449). -/
def performEvict (s : State) (n : Nat) (wv : Weave) (vas : List Nat) : State :=
  let t := wv.ids.tenancy
  if (innerPass s wv.ids.lot).isSome then performedOp (passFlag s wv.ids.lot 2) n (fun k => k)
  else
    let (s1, left) := vas.foldl (fun x va => match evictAt x.1 t va with
      | (s1, true) => (s1, x.2)
      | (s1, false) => (s1, x.2 ++ [va])) (s, ([] : List Nat))
    if left = [] then performedOp s1 n (fun k => k)
    else { s1 with ops := edit s1.ops n (fun o => { o with kind := .evict left }) }

/-- Perform CKPT (R341): the open version is committed, and the commit counts. Log 63 (DEDUCED). -/
def performCkpt (s : State) (n : Nat) (wv : Weave) : State :=
  match commitFor s n wv true with
  | .wait s1 => s1
  | .ok s1 => performedOp s1 n (fun k => k)

/-- Perform NBARR's arrival (R237). -/
def performArrive (s : State) (n : Nat) (o : Op) (wv : Weave) (bar k : Nat) : State :=
  performedOp (nbArrive s wv.ids.basket bar k (relMsg (agentOf wv) 0 (opView s o))).1 n (fun k => k)

/-- Loads that set the weave's load monitor (R215): LD, LDU, LDC; LDNF does so too. -/
def setsMonitor (o : Op) : Bool := [0xA0, 0xA2, 0xA4].contains o.opcode

/-- Perform what an operation can perform now. -/
def performOp (s : State) (n : Nat) (o : Op) (wv : Weave) : State :=
  match o.kind with
  | .load size sx dst uni lanes =>
    performLoad s n o wv lanes (loadWords o size sx dst uni) (setsMonitor o) (fun k => .load size sx dst uni k)
  | .loadNF size dst pn lanes bad line => performLoadNF s n o wv size dst pn lanes bad line
  | .store size lanes => performStore s n o wv lanes (fun _ l => l.data) (.store size)
  | .loadFmt d dst rows => performLoadFmt s n o wv d dst rows
  | .storeFmt rows => performStore s n o wv rows (fun _ l => l.data) .storeFmt
  | .loadTob size lanes => performTob s n o wv lanes (.loadTob size)
  | .storeTob size lanes => performStore s n o wv lanes (fun s l => tobRead s wv l.tob l.pas.length) (.storeTob size)
  | .writeBack lanes => performWbl s n o wv lanes
  | .fence => performFence s n o wv
  | .spLoad size sx dst lanes => performSpLoad s n o wv size sx dst lanes
  | .spStore size lanes => performSpStore s n o wv size lanes
  | .spAtomic kind t dst lanes => performSpAtomic s n o wv kind t dst lanes
  | .feReset full ws => performReset s n wv full ws
  | .barrier off req _ => performBarrier s n o wv off req
  | .namedArrive bar k => performArrive s n o wv bar k
  | .bsave off => performBsave s n o wv off
  | .brestore off => performBrestore s n o wv off
  | .clerk _ => s
  | .ckpt => performCkpt s n wv
  | .invalidate lo g all => performInvalidate s n wv lo g all
  | .evict vas => performEvict s n wv vas
  | .loftLoad size sx dst tob lanes =>
    if tob then performTob s n o wv lanes (.loftLoad size sx dst true)
    else performLoad s n o wv lanes (loadWords o size sx dst false) false (.loftLoad size sx dst false)
  | .probe _ ws => { s with ops := edit s.ops n (fun o => { o with bound := some ws }) }
  | .engine => s

/-- The operation has been performed once for all: it is not performed again. -/
def doneOnce (o : Op) : Bool :=
  match o.kind with
  | .feReset _ _ => o.bound.isSome
  | .barrier _ _ _ => o.bound.isSome
  | .namedArrive _ _ => o.bound.isSome
  | .bsave _ => o.bound.isSome
  | .brestore _ => o.bound.isSome
  | _ => o.performed

/-- The operation writes the TOB: its writes are performed at its completion (R206). -/
def tobOp (o : Op) : Bool :=
  match o.kind with
  | .loadTob _ _ => true
  | .loftLoad _ _ _ tob _ => tob
  | _ => false

/-- Complete a performed operation (R167): a store, an atomic, a release and an arrival clear the guard count (R51). -/
def completeOne (s : State) (n : Nat) : State :=
  match look s.ops n with
  | none => s
  | some o =>
    if !(doneOnce o && mayComplete s n o) then s
    else
      let clears := o.kind.access.2 || o.releases
      match o.kind with
      | .clerk _ => completeClerk s n
      | .loadNF size dst pn _ bad line => completeOp (finishLoadNF s n o size dst pn bad line) n clears
      | .engine => s
      | _ => completeOp s n clears

/-- The command queue whose view's oldest entry an operation pushed, if the entry is no command of an ENG instruction.
Log 33 (DESIGN CHOICE). -/
def plainPush (wv : Weave) (n : Nat) : Option Nat :=
  [0, 2, 4, 6, 8, 11].find? (fun q => match viewEntries wv q with
    | e :: _ => decide (e.op = n ∧ e.opc = 0)
    | [] => false)

/-- An entry that an ordinary instruction wrote to a command queue is dropped: it names no command (log entry on plain pushes).
Log 33 (DESIGN CHOICE). -/
def dropPlain (s : State) (n w q : Nat) : State :=
  let s1 := modWeave s w (fun wv =>
    let es := (viewEntries wv q).drop 1
    { wv with queues := if es = [] then del wv.queues q else put wv.queues q es })
  completeOp (if q = 4 then loomAccept s1 w else s1) n true

/-- LONG_LATENCY_COMPLETE (R166) of operation a: what it can do now is performed; with `ok` it completes, once all of it has been
performed and its results may be written. -/
def execLongLatencyComplete (s : State) : Host.Outcome State Fault Refusal :=
  let n := s.ev.a
  match look s.ops n with
  | none => .next s
  | some o =>
    match weaveOf s o.w with
    | none => .next s
    | some wv =>
      match o.kind with
      | .engine => (match plainPush wv n with | some q => .next (dropPlain s n o.w q) | none => .next s)
      | _ =>
        let go := !(doneOnce o) && mayPerform s n o && (!(tobOp o) || (s.ev.ok && mayComplete s n o))
        let s1 := if go then performOp s n o wv else s
        .next (if s.ev.ok || tobOp o then completeOne s1 n else s1)

/-- VERSION_WAY_FREE (R334): a Depot way has freed; the write a that waits for one is performed if it can be. -/
def execVersionWayFree (s : State) : Host.Outcome State Fault Refusal :=
  let n := s.ev.a
  match look s.ops n with
  | none => .next s
  | some o =>
    match weaveOf s o.w with
    | none => .next s
    | some wv =>
      .next (if versioned s wv && o.kind.access.2 && !(doneOnce o) && mayPerform s n o then performOp s n o wv else s)

end Sys2Proof.Machine
end

