-- ==== Sys2Proof/Machine/Dispatch.lean ====
section
/-!
DEFINITION. The meaning of each instruction and event: one arm for each constructor of `Instr`.
-/

namespace Sys2Proof.Machine

open Sys2Proof

/-- What an instruction or an event does (spec/opcode_table.json). -/
def exec (i : Instr) (s : State) : Host.Outcome State Fault Refusal :=
  match i with
  | .nop f => Sys2Proof.Machine.execNop f s
  | .endSplit f => Sys2Proof.Machine.execEndSplit f s
  | .bra f => Sys2Proof.Machine.execBra f s
  | .brv f => Sys2Proof.Machine.execBrv f s
  | .brx f => Sys2Proof.Machine.execBrx f s
  | .call f => Sys2Proof.Machine.execCall f s
  | .ret f => Sys2Proof.Machine.execRet f s
  | .jmark f => Sys2Proof.Machine.execJmark f s
  | .join f => Sys2Proof.Machine.execJoin f s
  | .pause f => Sys2Proof.Machine.execPause f s
  | .waitf f => Sys2Proof.Machine.execWaitf f s
  | .trap f => Sys2Proof.Machine.execTrap f s
  | .dead f => Sys2Proof.Machine.execDead f s
  | .actm f => Sys2Proof.Machine.execActm f s
  | .plog f => Sys2Proof.Machine.execPlog f s
  | .pget f => Sys2Proof.Machine.execPget f s
  | .pput f => Sys2Proof.Machine.execPput f s
  | .smov f => Sys2Proof.Machine.execSmov f s
  | .sadd f => Sys2Proof.Machine.execSadd f s
  | .ssub f => Sys2Proof.Machine.execSsub f s
  | .smul f => Sys2Proof.Machine.execSmul f s
  | .smulh f => Sys2Proof.Machine.execSmulh f s
  | .sand f => Sys2Proof.Machine.execSand f s
  | .sor f => Sys2Proof.Machine.execSor f s
  | .sxor f => Sys2Proof.Machine.execSxor f s
  | .sshl f => Sys2Proof.Machine.execSshl f s
  | .sshr f => Sys2Proof.Machine.execSshr f s
  | .ssra f => Sys2Proof.Machine.execSsra f s
  | .smin f => Sys2Proof.Machine.execSmin f s
  | .smax f => Sys2Proof.Machine.execSmax f s
  | .scmp f => Sys2Proof.Machine.execScmp f s
  | .ssel f => Sys2Proof.Machine.execSsel f s
  | .sclz f => Sys2Proof.Machine.execSclz f s
  | .spopc f => Sys2Proof.Machine.execSpopc f s
  | .smovRi f => Sys2Proof.Machine.execSmovRi f s
  | .saddRi f => Sys2Proof.Machine.execSaddRi f s
  | .smulRi f => Sys2Proof.Machine.execSmulRi f s
  | .sandRi f => Sys2Proof.Machine.execSandRi f s
  | .sorRi f => Sys2Proof.Machine.execSorRi f s
  | .sxorRi f => Sys2Proof.Machine.execSxorRi f s
  | .sshlRi f => Sys2Proof.Machine.execSshlRi f s
  | .sshrRi f => Sys2Proof.Machine.execSshrRi f s
  | .ssraRi f => Sys2Proof.Machine.execSsraRi f s
  | .scmpRi f => Sys2Proof.Machine.execScmpRi f s
  | .sminRi f => Sys2Proof.Machine.execSminRi f s
  | .smaxRi f => Sys2Proof.Machine.execSmaxRi f s
  | .vmov f => Sys2Proof.Machine.execVmov f s
  | .vmovRi f => Sys2Proof.Machine.execVmovRi f s
  | .vadd f => Sys2Proof.Machine.execVadd f s
  | .vaddRi f => Sys2Proof.Machine.execVaddRi f s
  | .vsub f => Sys2Proof.Machine.execVsub f s
  | .vsubRi f => Sys2Proof.Machine.execVsubRi f s
  | .vadds f => Sys2Proof.Machine.execVadds f s
  | .vaddsRi f => Sys2Proof.Machine.execVaddsRi f s
  | .vsubs f => Sys2Proof.Machine.execVsubs f s
  | .vmul f => Sys2Proof.Machine.execVmul f s
  | .vmulRi f => Sys2Proof.Machine.execVmulRi f s
  | .vmulh f => Sys2Proof.Machine.execVmulh f s
  | .vmulw f => Sys2Proof.Machine.execVmulw f s
  | .vmad f => Sys2Proof.Machine.execVmad f s
  | .vmadh f => Sys2Proof.Machine.execVmadh f s
  | .vfma f => Sys2Proof.Machine.execVfma f s
  | .vfms f => Sys2Proof.Machine.execVfms f s
  | .vfnma f => Sys2Proof.Machine.execVfnma f s
  | .vabs f => Sys2Proof.Machine.execVabs f s
  | .vneg f => Sys2Proof.Machine.execVneg f s
  | .vmin f => Sys2Proof.Machine.execVmin f s
  | .vminRi f => Sys2Proof.Machine.execVminRi f s
  | .vmax f => Sys2Proof.Machine.execVmax f s
  | .vmaxRi f => Sys2Proof.Machine.execVmaxRi f s
  | .vclamp f => Sys2Proof.Machine.execVclamp f s
  | .vsgn f => Sys2Proof.Machine.execVsgn f s
  | .vabsd f => Sys2Proof.Machine.execVabsd f s
  | .vavg f => Sys2Proof.Machine.execVavg f s
  | .vaddc f => Sys2Proof.Machine.execVaddc f s
  | .vsubb f => Sys2Proof.Machine.execVsubb f s
  | .vand f => Sys2Proof.Machine.execVand f s
  | .vandRi f => Sys2Proof.Machine.execVandRi f s
  | .vor f => Sys2Proof.Machine.execVor f s
  | .vorRi f => Sys2Proof.Machine.execVorRi f s
  | .vxor f => Sys2Proof.Machine.execVxor f s
  | .vxorRi f => Sys2Proof.Machine.execVxorRi f s
  | .vnot f => Sys2Proof.Machine.execVnot f s
  | .vbool f => Sys2Proof.Machine.execVbool f s
  | .vshl f => Sys2Proof.Machine.execVshl f s
  | .vshlRi f => Sys2Proof.Machine.execVshlRi f s
  | .vshr f => Sys2Proof.Machine.execVshr f s
  | .vshrRi f => Sys2Proof.Machine.execVshrRi f s
  | .vsra f => Sys2Proof.Machine.execVsra f s
  | .vsraRi f => Sys2Proof.Machine.execVsraRi f s
  | .vrol f => Sys2Proof.Machine.execVrol f s
  | .vrolRi f => Sys2Proof.Machine.execVrolRi f s
  | .vclz f => Sys2Proof.Machine.execVclz f s
  | .vctz f => Sys2Proof.Machine.execVctz f s
  | .popc f => Sys2Proof.Machine.execPopc f s
  | .vbrev f => Sys2Proof.Machine.execVbrev f s
  | .vbswap f => Sys2Proof.Machine.execVbswap f s
  | .vbfe f => Sys2Proof.Machine.execVbfe f s
  | .vbfi f => Sys2Proof.Machine.execVbfi f s
  | .vcmp f => Sys2Proof.Machine.execVcmp f s
  | .vcmpRi f => Sys2Proof.Machine.execVcmpRi f s
  | .vsel f => Sys2Proof.Machine.execVsel f s
  | .vselRi f => Sys2Proof.Machine.execVselRi f s
  | .vclass f => Sys2Proof.Machine.execVclass f s
  | .vmatch f => Sys2Proof.Machine.execVmatch f s
  | .vpack f => Sys2Proof.Machine.execVpack f s
  | .vunpk f => Sys2Proof.Machine.execVunpk f s
  | .vswz f => Sys2Proof.Machine.execVswz f s
  | .vshuf f => Sys2Proof.Machine.execVshuf f s
  | .vdot8 f => Sys2Proof.Machine.execVdot8 f s
  | .vdot4 f => Sys2Proof.Machine.execVdot4 f s
  | .vdot2 f => Sys2Proof.Machine.execVdot2 f s
  | .vscale f => Sys2Proof.Machine.execVscale f s
  | .xchg f => Sys2Proof.Machine.execXchg f s
  | .vget f => Sys2Proof.Machine.execVget f s
  | .vput f => Sys2Proof.Machine.execVput f s
  | .ballot f => Sys2Proof.Machine.execBallot f s
  | .vprefix f => Sys2Proof.Machine.execVprefix f s
  | .vred f => Sys2Proof.Machine.execVred f s
  | .rdff f => Sys2Proof.Machine.execRdff f s
  | .wrff f => Sys2Proof.Machine.execWrff f s
  | .clrff f => Sys2Proof.Machine.execClrff f s
  | .rcp f => Sys2Proof.Machine.execRcp f s
  | .rsq f => Sys2Proof.Machine.execRsq f s
  | .sqrt f => Sys2Proof.Machine.execSqrt f s
  | .div f => Sys2Proof.Machine.execDiv f s
  | .exp2 f => Sys2Proof.Machine.execExp2 f s
  | .log2 f => Sys2Proof.Machine.execLog2 f s
  | .sin f => Sys2Proof.Machine.execSin f s
  | .cos f => Sys2Proof.Machine.execCos f s
  | .expe f => Sys2Proof.Machine.execExpe f s
  | .loge f => Sys2Proof.Machine.execLoge f s
  | .tanh f => Sys2Proof.Machine.execTanh f s
  | .atan f => Sys2Proof.Machine.execAtan f s
  | .cvt f => Sys2Proof.Machine.execCvt f s
  | .cvtpk f => Sys2Proof.Machine.execCvtpk f s
  | .cvtpk2 f => Sys2Proof.Machine.execCvtpk2 f s
  | .cvtunp f => Sys2Proof.Machine.execCvtunp f s
  | .cvtmx f => Sys2Proof.Machine.execCvtmx f s
  | .cvtmxd f => Sys2Proof.Machine.execCvtmxd f s
  | .fxcvt f => Sys2Proof.Machine.execFxcvt f s
  | .e8get f => Sys2Proof.Machine.execE8get f s
  | .mxamax f => Sys2Proof.Machine.execMxamax f s
  | .vrnd f => Sys2Proof.Machine.execVrnd f s
  | .scalb f => Sys2Proof.Machine.execScalb f s
  | .getexp f => Sys2Proof.Machine.execGetexp f s
  | .getmant f => Sys2Proof.Machine.execGetmant f s
  | .setseed f => Sys2Proof.Machine.execSetseed f s
  | .ld f => Sys2Proof.Machine.execLd f s
  | .st f => Sys2Proof.Machine.execSt f s
  | .ldu f => Sys2Proof.Machine.execLdu f s
  | .stu f => Sys2Proof.Machine.execStu f s
  | .ldc f => Sys2Proof.Machine.execLdc f s
  | .ldf f => Sys2Proof.Machine.execLdf f s
  | .stf f => Sys2Proof.Machine.execStf f s
  | .prfl f => Sys2Proof.Machine.execPrfl f s
  | .invl f => Sys2Proof.Machine.execInvl f s
  | .wbl f => Sys2Proof.Machine.execWbl f s
  | .fence f => Sys2Proof.Machine.execFence f s
  | .waitl f => Sys2Proof.Machine.execWaitl f s
  | .ldnf f => Sys2Proof.Machine.execLdnf f s
  | .probe f => Sys2Proof.Machine.execProbe f s
  | .lea f => Sys2Proof.Machine.execLea f s
  | .ldt f => Sys2Proof.Machine.execLdt f s
  | .stt f => Sys2Proof.Machine.execStt f s
  | .genrd f => Sys2Proof.Machine.execGenrd f s
  | .zerol f => Sys2Proof.Machine.execZerol f s
  | .lds f => Sys2Proof.Machine.execLds f s
  | .sts f => Sys2Proof.Machine.execSts f s
  | .atoms f => Sys2Proof.Machine.execAtoms f s
  | .cass f => Sys2Proof.Machine.execCass f s
  | .fefill f => Sys2Proof.Machine.execFefill f s
  | .fetake f => Sys2Proof.Machine.execFetake f s
  | .feread f => Sys2Proof.Machine.execFeread f s
  | .fereset f => Sys2Proof.Machine.execFereset f s
  | .bara f => Sys2Proof.Machine.execBara f s
  | .barw f => Sys2Proof.Machine.execBarw f s
  | .barx f => Sys2Proof.Machine.execBarx f s
  | .nbsync f => Sys2Proof.Machine.execNbsync f s
  | .nbarr f => Sys2Proof.Machine.execNbarr f s
  | .bsave f => Sys2Proof.Machine.execBsave f s
  | .brestore f => Sys2Proof.Machine.execBrestore f s
  | .atom f => Sys2Proof.Machine.execAtom f s
  | .red f => Sys2Proof.Machine.execRed f s
  | .cas f => Sys2Proof.Machine.execCas f s
  | .cas128 f => Sys2Proof.Machine.execCas128 f s
  | .atomu f => Sys2Proof.Machine.execAtomu f s
  | .redu f => Sys2Proof.Machine.execRedu f s
  | .casu f => Sys2Proof.Machine.execCasu f s
  | .reda f => Sys2Proof.Machine.execReda f s
  | .dcopy f => Sys2Proof.Machine.execDcopy f s
  | .dcopym f => Sys2Proof.Machine.execDcopym f s
  | .gather f => Sys2Proof.Machine.execGather f s
  | .scatter f => Sys2Proof.Machine.execScatter f s
  | .gcompact f => Sys2Proof.Machine.execGcompact f s
  | .gstatus f => Sys2Proof.Machine.execGstatus f s
  | .greplay f => Sys2Proof.Machine.execGreplay f s
  | .gselect f => Sys2Proof.Machine.execGselect f s
  | .loomMm f => Sys2Proof.Machine.execLoomMm f s
  | .loomMx f => Sys2Proof.Machine.execLoomMx f s
  | .loomSplit f => Sys2Proof.Machine.execLoomSplit f s
  | .loomSpl f => Sys2Proof.Machine.execLoomSpl f s
  | .loomFin f => Sys2Proof.Machine.execLoomFin f s
  | .loomWait f => Sys2Proof.Machine.execLoomWait f s
  | .ofence f => Sys2Proof.Machine.execOfence f s
  | .accAlloc f => Sys2Proof.Machine.execAccAlloc f s
  | .accFree f => Sys2Proof.Machine.execAccFree f s
  | .accRd f => Sys2Proof.Machine.execAccRd f s
  | .accWr f => Sys2Proof.Machine.execAccWr f s
  | .accClr f => Sys2Proof.Machine.execAccClr f s
  | .gangSet f => Sys2Proof.Machine.execGangSet f s
  | .netColl f => Sys2Proof.Machine.execNetColl f s
  | .netSend f => Sys2Proof.Machine.execNetSend f s
  | .ringPop f => Sys2Proof.Machine.execRingPop f s
  | .prefT f => Sys2Proof.Machine.execPrefT f s
  | .launchD f => Sys2Proof.Machine.execLaunchD f s
  | .srd f => Sys2Proof.Machine.execSrd f s
  | .swr f => Sys2Proof.Machine.execSwr f s
  | .bkpt f => Sys2Proof.Machine.execBkpt f s
  | .trace f => Sys2Proof.Machine.execTrace f s
  | .tracev f => Sys2Proof.Machine.execTracev f s
  | .pmark f => Sys2Proof.Machine.execPmark f s
  | .cntrd f => Sys2Proof.Machine.execCntrd f s
  | .ckpt f => Sys2Proof.Machine.execCkpt f s
  | .vstat f => Sys2Proof.Machine.execVstat f s
  | .loftLd f => Sys2Proof.Machine.execLoftLd f s
  | .loftWaitr f => Sys2Proof.Machine.execLoftWaitr f s
  | .capq f => Sys2Proof.Machine.execCapq f s
  | .pgqInv f => Sys2Proof.Machine.execPgqInv f s
  | .pgqInvall f => Sys2Proof.Machine.execPgqInvall f s
  | .pgqEvict f => Sys2Proof.Machine.execPgqEvict f s
  | .isync f => Sys2Proof.Machine.execIsync f s
  | .drain f => Sys2Proof.Machine.execDrain f s
  | .gtwait f => Sys2Proof.Machine.execGtwait f s
  | .reservedOpcode w => Sys2Proof.Machine.execReservedOpcode w s
  | .clerkPerform => Sys2Proof.Machine.execClerkPerform s
  | .drayChunkDone => Sys2Proof.Machine.execDrayChunkDone s
  | .drayCopyComplete => Sys2Proof.Machine.execDrayCopyComplete s
  | .gleanerAccept => Sys2Proof.Machine.execGleanerAccept s
  | .gleanerStrandSettle => Sys2Proof.Machine.execGleanerStrandSettle s
  | .gselectComplete => Sys2Proof.Machine.execGselectComplete s
  | .loomRendezvous => Sys2Proof.Machine.execLoomRendezvous s
  | .loomKstepCommit => Sys2Proof.Machine.execLoomKstepCommit s
  | .netCommandComplete => Sys2Proof.Machine.execNetCommandComplete s
  | .netPeerTimeout => Sys2Proof.Machine.execNetPeerTimeout s
  | .runnerGrainFetch => Sys2Proof.Machine.execRunnerGrainFetch s
  | .launchDAccept => Sys2Proof.Machine.execLaunchDAccept s
  | .clauseStart => Sys2Proof.Machine.execClauseStart s
  | .farFaultTrap => Sys2Proof.Machine.execFarFaultTrap s
  | .pauseExpire => Sys2Proof.Machine.execPauseExpire s
  | .gtwaitWake => Sys2Proof.Machine.execGtwaitWake s
  | .waitlTimeout => Sys2Proof.Machine.execWaitlTimeout s
  | .watchUnavailable => Sys2Proof.Machine.execWatchUnavailable s
  | .versionWayFree => Sys2Proof.Machine.execVersionWayFree s
  | .gangPlace => Sys2Proof.Machine.execGangPlace s
  | .preemptRequest => Sys2Proof.Machine.execPreemptRequest s
  | .priorityWaitExpire => Sys2Proof.Machine.execPriorityWaitExpire s
  | .starvationGuard => Sys2Proof.Machine.execStarvationGuard s
  | .priorityAging => Sys2Proof.Machine.execPriorityAging s
  | .preemptAck => Sys2Proof.Machine.execPreemptAck s
  | .preemptWithdraw => Sys2Proof.Machine.execPreemptWithdraw s
  | .gangRestore => Sys2Proof.Machine.execGangRestore s
  | .packetStart => Sys2Proof.Machine.execPacketStart s
  | .nopPacket => Sys2Proof.Machine.execNopPacket s
  | .launchPacket => Sys2Proof.Machine.execLaunchPacket s
  | .copyPacket => Sys2Proof.Machine.execCopyPacket s
  | .waitsigPacket => Sys2Proof.Machine.execWaitsigPacket s
  | .waitsigPoll => Sys2Proof.Machine.execWaitsigPoll s
  | .waitsigTimeout => Sys2Proof.Machine.execWaitsigTimeout s
  | .signalPacket => Sys2Proof.Machine.execSignalPacket s
  | .loftwritePacket => Sys2Proof.Machine.execLoftwritePacket s
  | .fencePacket => Sys2Proof.Machine.execFencePacket s
  | .responsePoll => Sys2Proof.Machine.execResponsePoll s
  | .wridxWrite => Sys2Proof.Machine.execWridxWrite s
  | .doorbellWrite => Sys2Proof.Machine.execDoorbellWrite s
  | .queueEnable => Sys2Proof.Machine.execQueueEnable s
  | .queueDisable => Sys2Proof.Machine.execQueueDisable s
  | .queueSuspend => Sys2Proof.Machine.execQueueSuspend s
  | .queueUnsuspend => Sys2Proof.Machine.execQueueUnsuspend s
  | .prioWrite => Sys2Proof.Machine.execPrioWrite s
  | .exrdWrite => Sys2Proof.Machine.execExrdWrite s
  | .tenancyCreate => Sys2Proof.Machine.execTenancyCreate s
  | .tenancyCreateDone => Sys2Proof.Machine.execTenancyCreateDone s
  | .tenancyDestroy => Sys2Proof.Machine.execTenancyDestroy s
  | .tenancyDestroyDone => Sys2Proof.Machine.execTenancyDestroyDone s
  | .tkeyWrite => Sys2Proof.Machine.execTkeyWrite s
  | .registerWrite => Sys2Proof.Machine.execRegisterWrite s
  | .quotaWrite => Sys2Proof.Machine.execQuotaWrite s
  | .invreqGo => Sys2Proof.Machine.execInvreqGo s
  | .grainFillComplete => Sys2Proof.Machine.execGrainFillComplete s
  | .faultResponsePoll => Sys2Proof.Machine.execFaultResponsePoll s
  | .frtmoExpire => Sys2Proof.Machine.execFrtmoExpire s
  | .leaseAcquire => Sys2Proof.Machine.execLeaseAcquire s
  | .leaseRenew => Sys2Proof.Machine.execLeaseRenew s
  | .leaseRelease => Sys2Proof.Machine.execLeaseRelease s
  | .frresp => Sys2Proof.Machine.execFrresp s
  | .leaserd => Sys2Proof.Machine.execLeaserd s
  | .releaseWritebackDone => Sys2Proof.Machine.execReleaseWritebackDone s
  | .grant => Sys2Proof.Machine.execGrant s
  | .refuse => Sys2Proof.Machine.execRefuse s
  | .revoke => Sys2Proof.Machine.execRevoke s
  | .nodedown => Sys2Proof.Machine.execNodedown s
  | .replica => Sys2Proof.Machine.execReplica s
  | .renewLeadReached => Sys2Proof.Machine.execRenewLeadReached s
  | .renewResend => Sys2Proof.Machine.execRenewResend s
  | .expiryGuardReached => Sys2Proof.Machine.execExpiryGuardReached s
  | .renewtmoExpire => Sys2Proof.Machine.execRenewtmoExpire s
  | .deadlineReached => Sys2Proof.Machine.execDeadlineReached s
  | .bisnp => Sys2Proof.Machine.execBisnp s
  | .exhausted => Sys2Proof.Machine.execExhausted s
  | .frameMigrationDone => Sys2Proof.Machine.execFrameMigrationDone s
  | .runnerCounterHalve => Sys2Proof.Machine.execRunnerCounterHalve s
  | .tinkerRequest => Sys2Proof.Machine.execTinkerRequest s
  | .scrubStep => Sys2Proof.Machine.execScrubStep s
  | .repairWindowOpen => Sys2Proof.Machine.execRepairWindowOpen s
  | .repairWindowClose => Sys2Proof.Machine.execRepairWindowClose s
  | .loftpartWrite => Sys2Proof.Machine.execLoftpartWrite s
  | .loftWindowStart => Sys2Proof.Machine.execLoftWindowStart s
  | .loftWindowEnd => Sys2Proof.Machine.execLoftWindowEnd s
  | .keyWrapWrite => Sys2Proof.Machine.execKeyWrapWrite s
  | .keySlotConfigWrite => Sys2Proof.Machine.execKeySlotConfigWrite s
  | .commEnable => Sys2Proof.Machine.execCommEnable s
  | .commDisable => Sys2Proof.Machine.execCommDisable s
  | .ringEnable => Sys2Proof.Machine.execRingEnable s
  | .ringDisable => Sys2Proof.Machine.execRingDisable s
  | .frameReceive => Sys2Proof.Machine.execFrameReceive s
  | .dbgctlStateWrite => Sys2Proof.Machine.execDbgctlStateWrite s
  | .syncTick => Sys2Proof.Machine.execSyncTick s
  | .sampleTick => Sys2Proof.Machine.execSampleTick s
  | .replayPassEnd => Sys2Proof.Machine.execReplayPassEnd s
  | .ptmExchange => Sys2Proof.Machine.execPtmExchange s
  | .powerOn => Sys2Proof.Machine.execPowerOn s
  | .bringupStageEnd => Sys2Proof.Machine.execBringupStageEnd s
  | .linkLoss => Sys2Proof.Machine.execLinkLoss s
  | .clockStep => Sys2Proof.Machine.execClockStep s
  | .thermalTrip => Sys2Proof.Machine.execThermalTrip s
  | .d3hotEntry => Sys2Proof.Machine.execD3hotEntry s
  | .d0Return => Sys2Proof.Machine.execD0Return s
  | .attctlGo => Sys2Proof.Machine.execAttctlGo s
  | .attestComplete => Sys2Proof.Machine.execAttestComplete s
  | .longLatencyComplete => Sys2Proof.Machine.execLongLatencyComplete s
  | .loomSplitFinComplete => Sys2Proof.Machine.execLoomSplitFinComplete s
  | .loftwriteComplete => Sys2Proof.Machine.execLoftwriteComplete s
  | .frrdWrite => Sys2Proof.Machine.execFrrdWrite s
  | .rrdWrite => Sys2Proof.Machine.execRrdWrite s
  | .deviceReset => Sys2Proof.Machine.execDeviceReset s
  | .powerLoss => Sys2Proof.Machine.execPowerLoss s

end Sys2Proof.Machine
end

