-- ==== Sys2Proof/Machine/Schedule.lean ====
section
/-!
DEFINITION. What happens next, and when (spec/02_execution_model.md R51, R61 of spec/03_ordering.md, R106, R164, R434): the passing of
time before a step, which act takes place, the instruction that a split issues, and the writes of agents outside the device (R53).
-/

namespace Sys2Proof

/-- FREE VALUE: what happens at choice n when nothing is due: some agent of the device or of the outside world acts, or none does (R53,
R164, R4). Log entry 2. -/
opaque Config.nextAct : Nat → Option Machine.Act

namespace Machine

open Sys2Proof

/-- The command of a weave's continuation waits on another weave's Stockroom word (R45): its arrival or its fill is held there (R230,
R232, R294). Log 19 (DEDUCED). -/
def waitsOnWord (s : State) (w : Nat) (h : Held) : Bool :=
  s.ops.any (fun p => decide (p.2.w = w ∧ p.2.idx = h.idx ∧ p.2.pc = h.pc) && opHeld s p.1)

/-- The held instruction is a wait that counts for the starvation guard (R45). Log 19 (DEDUCED). -/
def guardWait (s : State) (w : Nat) (h : Held) : Bool :=
  match h.stall with
  | .queueEmpty => true
  | .monitor => true
  | .pause => true
  | .continuation => waitsOnWord s w h
  | _ => false

/-- The weave spends all its live splits in waits that count (R51). Log 19 (DEDUCED). -/
def allWaiting (s : State) (w : Nat) (wv : Weave) : Bool :=
  !wv.splits.isEmpty && wv.splits.all (fun p => match p.2.held with
    | some h => guardWait s w h
    | none => false)

/-- The events of R443 that the spec marks "timing". -/
def timingEvent (n : Nat) : Bool := decide (n ∈ [1, 5, 20, 21, 22, 25, 26])

/-- A weave that a counter of a shop counts is resident there (R442). -/
def countedThere (s : State) (shop : Nat) (x : BitVec 64) : Bool :=
  s.weaves.any (fun p => decide (p.2.shop = shop ∧ p.2.ids.tenancy = (x.extractLsb' 28 4).toNat) &&
    (!(x.getLsbD 27) || decide (x.extractLsb' 32 32 = p.2.ids.lotid)) &&
    (match look s.baskets p.2.ids.basket with | some B => B.resident | none => false))

/-- What the counter c of a shop, with control x, adds for a timing event while d cycles pass (R443): CYCLES counts them while a counted weave
is resident, and a co-issue takes a cycle of its own; the rest is free. Log 59 (DEDUCED). -/
def timingAdd (s : State) (shop c d : Nat) (x : BitVec 64) : Nat :=
  let any := (freeWord s (70000 + 4 * shop + c)).toNat
  match (x.extractLsb' 0 8).toNat with
  | 1 => if countedThere s shop x then d else 0
  | 5 => if countedThere s shop x then any % (d + 1) else 0
  | e => if timingEvent e then any else 0

/-- The shop's counters of timing events, while d cycles pass (R442, R443). Log 59 (DEDUCED). -/
def timingCounts (s : State) (shop d : Nat) (h : Shop) : Shop :=
  { h with cnt := (List.range 4).foldl (fun (m : Cells 64) c =>
      let x := cell h.cntctl c
      if x.getLsbD 26 && timingEvent (x.extractLsb' 0 8).toNat
      then setCell m c (cell m c + BitVec.ofNat 64 (timingAdd s shop c d x)) else m) h.cnt }

/-- What the bench must know of a weave as time passes: the cycle of its clause's end (R103), and since when each split has been ready
(R164). -/
def noteStarts (s : State) (w : Nat) (wv : Weave) : Weave :=
  let out := excluded s w wv
  { wv with
    yieldAt := if wv.splits.any (fun p => p.2.run.isSome) then s.cycles else wv.yieldAt
    splits := wv.splits.map (fun p => (p.1, { p.2 with
      readyAt := if !out && couldStart s w p.1 wv p.2 then (if p.2.readyAt = 0 then s.cycles + 1 else p.2.readyAt) else 0 })) }

/-- The period of the Loft's refresh windows at global time t: a change takes effect at a multiple of 3,900 (R345). -/
def periodAt (s : State) (t : Nat) : Nat := if t / 3900 = s.time / 3900 then s.loftPeriod else s.loftNext

/-- Time passes (R434, R36, R440): a free number of cycles of the present clock, and global time with them; so grow the guard counts of
resident weaves that only wait (R51) and the counters of timing events (R443); the Lofts' refresh windows follow global time (R345); the
choices of the next act are made anew. Log 3 (DESIGN CHOICE), 19 (DEDUCED), 68 (DESIGN CHOICE). -/
def elapse (s : State) : State :=
  let d := Config.cycles s.free
  let fs := s.phase + d * periodFs s
  let t := s.time + fs / 10 ^ 6
  { s with
    time := t
    phase := fs % 10 ^ 6
    loftPeriod := periodAt s t
    inWindow := decide (t % periodAt s t < 260)
    cycles := s.cycles + d
    weaves := s.weaves.map (fun p =>
      if allWaiting s p.1 p.2 && (match look s.baskets p.2.ids.basket with | some B => B.resident | none => false)
      then (p.1, { p.2 with guard := p.2.guard + d }) else p)
    shops := s.shops.map (fun p => if p.2.cntctl = [] then p else (p.1, timingCounts s p.1 d p.2))
    free := s.free + 1
    steps := s.steps + 1 }

/-- Time passes before the next act, and the benches note which splits are ready. -/
def tick (s : State) : State :=
  let s1 := elapse s
  { s1 with weaves := s1.weaves.map (fun p => (p.1, noteStarts s1 p.1 p.2)) }

/-- The word that a split issues next: its held instruction, or the next of the clause it runs (R106, R108). A saved weave issues
nothing (R46), and a forced checkpoint of its basket stalls the splits of a weave (R334). -/
def wordAt (s : State) (w slot : Nat) : Option DWord :=
  match weaveOf s w with
  | none => none
  | some wv =>
    if (match look s.baskets wv.ids.basket with | some B => B.resident | none => false) && !(forcing s w wv) then
      match look wv.splits slot with
      | none => none
      | some sp =>
        match sp.held with
        | some h => some h.word
        | none => sp.run.bind (fun r => r.words[r.idx]?)
    else none

/-- The device holds the grain of a byte under an SHRO lease, in some frame: a pool agent that changes the page snoops first (R65, R322). -/
def heldShared (s : State) (g : Nat) : Bool :=
  s.grains.any (fun p => decide (keyGrain p.1 = g) && p.2.shro)

/-- The part of a write that lies in one grain: address and bytes. -/
def partIn (g pa : Nat) (bs : List Byte) : Nat × List Byte :=
  let lo := max pa (65536 * g)
  (lo, (bs.drop (lo - pa)).take (65536 * (g + 1) - lo))

/-- The grains that a write of n bytes touches. -/
def grainsOf (pa n : Nat) : List Nat := ((spanOf pa n).map grainOf).eraseDups

/-- An agent outside the device writes bytes (R53): at once, but where the device holds the grain under an SHRO lease at the acknowledgement of
the back-invalidation (R65); which bytes have been written. Log 15 (DESIGN CHOICE). -/
def outerParts (s : State) (hops pa : Nat) (bs : List Byte) (view : View) : State × View :=
  if trapBase < pa + bs.length then (s, view)
  else
    (grainsOf pa bs.length).foldl (fun x g =>
      let p := partIn g pa bs
      if heldShared x.1 g then ({ x.1 with poolWrites := x.1.poolWrites ++ [(hops, p.1, p.2)] }, x.2)
      else (poolWrite x.1 (hops, p.1, p.2), wroteAccess x.2 x.1.stamp (spanOf p.1 p.2.length))) (s, view)

/-- A peer device or a pool agent writes bytes (R53). Log 15 (DESIGN CHOICE). -/
def outerWrite (s : State) (hops pa : Nat) (bs : List Byte) : State := (outerParts s hops pa bs []).1

/-- The host-port agent writes bytes (R53). What it has written, its later index writes publish (R73). Log 15 (DESIGN CHOICE). -/
def hostWrite (s : State) (pa : Nat) (bs : List Byte) : State :=
  let (s1, v) := outerParts s 0 pa bs s.hostView
  { s1 with hostView := v }

/-- The host-port agent reads bytes (R53), as an acquire at level 3: what it has read its later index writes publish (R73). Log 15 (DESIGN
CHOICE). -/
def hostRead (s : State) (pa n : Nat) : State :=
  if trapBase < pa + n then s
  else
    let r := readMem s s.hostView [] false 65000 (spanOf pa n)
    { s with hostView := joinView r.view (taken s.maxlevel .host 3 r.msgs) }

/-- Data in a cache or the Loft becomes uncorrectable (R336). Log 56 (DESIGN CHOICE). -/
def upsetAt (s : State) (u : Upset) : State := { s with upsets := if s.upsets.contains u then s.upsets else u :: s.upsets }

/-- An act takes place: a split issues its next instruction, a row of the table that is an event takes place with its operands, an agent
outside the device accesses memory, or something happens that the table has no row for. An act that cannot take place changes nothing.
Log 2 (DESIGN CHOICE). -/
def act (a : Act) (s : State) : Host.Outcome State Fault Refusal :=
  match a with
  | .issue w slot =>
    match wordAt s w slot with
    | some word => exec (decodeWord word) { s with issuer := some (w, slot) }
    | none => .next s
  | .event i args => if (encode i).isNone then exec i { s with ev := args } else .next s
  | .hostStore pa bs => .next (hostWrite s pa bs)
  | .hostLoad pa n => .next (hostRead s pa n)
  | .evictLine shop line => .next (loseLines s shop (fun l _ => decide (l = line)))
  | .peerStore hops pa bs => .next (outerWrite s hops pa bs)
  | .finish op => .next (finishHeld s op)
  | .retire w => .next (retireCheck s w)
  | .upset u => .next (upsetAt s u)

/-- A role header with every register of every file, for a weave that stands alone. Log 20 (DESIGN CHOICE). -/
def loneHdr : Hdr :=
  { addr := 0, vregs := 384, sregs := 64, tregs := 16, renamed := false, role := 0, nroles := 1, weaves := 1, spad := 524288,
    tobBanks := 0, accBanks := 0, gang := 1, flags := 0, trapDisp := 0, handler := 0, liveOff := 0, liveCount := 0, vquota := 0 }

end Machine

end Sys2Proof
end

