-- ==== Sys2Proof/Machine/Step.lean ====
section
/-!
DEFINITION. One step of the device: time passes, then what is due takes place, or, where nothing is due, what the free choice says.
-/

namespace Sys2Proof.Machine

open Sys2Proof

/-- One step: what is due first on the agenda, else a free choice (log entry 2). Log 13 (DEDUCED). -/
def step (s : State) : Host.Outcome State Fault Refusal :=
  let s1 := tick s
  match s1.agenda with
  | a :: rest => act a { s1 with agenda := rest }
  | [] =>
    match Config.nextAct s1.free with
    | some a => act a s1
    | none => .next s1

/-- A clause of one word is about to issue it: a weave of its own holds the word as its running clause, and the agenda says that it
issues. It stands for the launch of a lot whose clause has been fetched (log entry 20). -/
def State.withFetchWord (s : State) (_nbits w : Nat) : State :=
  let k := max s.nextId (max (freshKey s.weaves) (max (freshKey s.baskets) (max (freshKey s.gangs) (freshKey s.lots))))
  let word : DWord := BitVec.ofNat 64 w
  let ids : Ids := { lot := k, lotid := 1, tenancy := 0, gid := 0, gx := 0, gy := 0, gz := 0, bid := 0, gsize := 1, wid := 0, stage := 0,
                     nweaves := 1, basket := k, gang := k, priv := true, versioned := false }
  let run : ClauseRun := { pc := 0x1000, hdr := 0x00000FF000000000, words := [word], idx := 0 }
  let sp : Split := { pc := 0x1000, mask := 0xFFFFFFFF, run := some run }
  let wv : Weave := { ids := ids, hdr := loneHdr, shop := 0, bench := 0, splits := [(0, sp)] }
  let B : Basket := { lot := k, gang := k, bid := 0, linear := 0, shop := 0, ctxVA := 0, weaves := [k] }
  let G : Gang := { lot := k, gid := 0, prio := 0, baskets := [k] }
  let L : Lot := { lotid := 1, tenancy := 0, queue := 0, pindex := 0, tag := 0, versioned := false, x := 1, y := 1, z := 1, gsize := 1,
                   hdrs := [loneHdr], args := 0, priv := true, state := 1, nextGid := 1 }
  { s with
    weaves := put s.weaves k wv
    baskets := put s.baskets k B
    gangs := put s.gangs k G
    lots := put s.lots k L
    nextId := k + 1
    agenda := .issue k 0 :: s.agenda }

end Sys2Proof.Machine
end

