-- ==== Sys2Proof/Machine/Container.lean ====
section
/-!
DEFINITION. What the assembler laev and the linker put into an object (spec/06_assembler.md R128 to R139, R142): names and literals, the
choice of ITYPE, suffix order, expressions, clause headers, data directives, role headers, kinfo records, relocations, liveness tables.
No step uses these: a program comes to the device as the bytes that they give.
-/

namespace Sys2Proof.Machine

open Sys2Proof

/-- Why laev writes no object (R129 to R135), or the linker none (R138). -/
inductive AsmError where
  | badName | badNumber | badOperand | badItype | missingSuffix | suffixOrder | notRelocatable | divideByZero
  | noClause | emptyClause | longClause | misplaced (cause : Nat) | liveWithoutPre | needsPre | valueTooWide | badAlign | badDirective
  | linkRange
  deriving DecidableEq, Repr

/-! ### Source lines and names (R128, R129) -/

/-- The line without its comment. -/
def dropComment : List Char → List Char
  | [] => []
  | ';' :: _ => []
  | '/' :: '/' :: _ => []
  | c :: cs => c :: dropComment cs

/-- A label or symbol name. -/
def isName : List Char → Bool
  | [] => false
  | c :: cs => (c.isAlpha || c == '_') && cs.all (fun c => c.isAlpha || c.isDigit || c == '_' || c == '.')

/-- The decimal number that digits write. -/
def decimalOf (cs : List Char) : Option Nat :=
  if cs = [] ∨ cs.any (fun c => !c.isDigit) then none else some (cs.foldl (fun a c => 10 * a + (c.toNat - 48)) 0)

/-- A register that an operand names. -/
inductive RegName where
  | v (n : Nat) | s (n : Nat) | q (n : Nat) | t (n : Nat) | special (k : Nat) | z | p (n : Nat) | f (n : Nat)
  deriving DecidableEq, Repr

/-- The special registers' names, in the order of their operand values 480 to 495 (R36). -/
def specialNames : List (List Char) :=
  [['s', 'i', 'd'], ['w', 'i', 'd'], ['b', 'i', 'd'], ['g', 'x'], ['g', 'y'], ['g', 'z'], ['g', 'i', 'd'], ['s', 't', 'a', 'g', 'e']] ++
  [['n', 'w', 'e', 'a', 'v', 'e', 's'], ['g', 's', 'i', 'z', 'e'], ['s', 'h', 'o', 'p'], ['c', 'l', 'k'], ['g', 't', 'i', 'm', 'e'],
    ['g', 't', 'i', 'm', 'e', 'h'], ['t', 'e', 'n', 'a', 'n', 'c', 'y'], ['l', 'o', 't', 'i', 'd']]

/-- The register of a letter and a number, within its file. -/
def numbered (c : Char) (n : Nat) : Option RegName :=
  if c = 'v' ∧ n < 384 then some (.v n) else if c = 's' ∧ n < 64 then some (.s n) else if c = 'q' ∧ n < 16 then some (.q n)
  else if c = 't' ∧ n < 16 then some (.t n) else if c = 'p' ∧ n < 8 then some (.p n) else if c = 'f' ∧ n < 12 then some (.f n) else none

/-- The register that a name names (R129). -/
def readReg (cs : List Char) : Option RegName :=
  match specialNames.findIdx? (fun x => decide (x = cs)) with
  | some k => some (.special k)
  | none =>
    match cs with
    | ['z'] => some .z
    | c :: ds => (decimalOf ds).bind (numbered c)
    | [] => none

/-- The value of a register field (R118); predicates and flags have none. -/
def RegName.field : RegName → Option (BitVec 9)
  | .v n => some (BitVec.ofNat 9 n)
  | .s n => some (BitVec.ofNat 9 (384 + n))
  | .q n => some (BitVec.ofNat 9 (448 + n))
  | .t n => some (BitVec.ofNat 9 (464 + n))
  | .special k => some (BitVec.ofNat 9 (480 + k))
  | .z => some 511
  | .p _ => none
  | .f _ => none

/-- PN and PRED of an instruction's predicate, `true` for the negated form; PRED 7 where there is none (R129). -/
def predFields : Option (Bool × Nat) → BitVec 1 × BitVec 3
  | none => (0, 7)
  | some (neg, n) => (if neg then 1 else 0, BitVec.ofNat 3 n)

/-! ### Numbers and immediates (R129, R130, R132) -/

/-- A digit of a base up to sixteen. -/
def digitOf (base : Nat) (c : Char) : Option Nat :=
  let n := c.toNat
  let d := if c.isDigit then n - 48 else if 97 ≤ n ∧ n < 103 then n - 87 else if 65 ≤ n ∧ n < 71 then n - 55 else 16
  if d < base then some d else none

/-- The number of digits in a base; underscores stand between digits. -/
def readDigits (base : Nat) (cs : List Char) : Option Nat :=
  let apart : List (Char × Char) := cs.zip (cs.drop 1)
  if cs = [] ∨ cs.head? = some '_' ∨ cs.getLast? = some '_' ∨ apart.any (fun p => p.1 == '_' && p.2 == '_') then none
  else (cs.filter (fun c => c != '_')).foldl (fun a c => a.bind (fun n => (digitOf base c).map (fun d => base * n + d))) (some 0)

/-- A literal: an integer, or a floating-point one as sign, decimal significand and decimal exponent. -/
inductive Literal where
  | int (n : Int)
  | float (neg : Bool) (m : Nat) (e : Int)
  deriving DecidableEq, Repr

/-- The digits before a character, and what follows it. -/
def splitAt1 (p : Char → Bool) : List Char → List Char × Option (List Char)
  | [] => ([], none)
  | c :: cs => if p c then ([], some cs) else let r := splitAt1 p cs; (c :: r.1, r.2)

/-- A decimal exponent's value. -/
def readExponent : List Char → Option Int
  | '+' :: ds => (decimalOf ds).map (fun n => (n : Int))
  | '-' :: ds => (decimalOf ds).map (fun n => -(n : Int))
  | ds => (decimalOf ds).map (fun n => (n : Int))

/-- A number (R129, R132): one that begins with 0x or 0b is an integer whatever letters it holds; a point or an exponent makes a decimal
one a floating-point literal. -/
def readNumber : List Char → Option Literal
  | '0' :: 'x' :: cs => (readDigits 16 cs).map (fun n => .int n)
  | '0' :: 'b' :: cs => (readDigits 2 cs).map (fun n => .int n)
  | cs =>
    let ex := splitAt1 (fun c => c == 'e' || c == 'E') cs
    let pt := splitAt1 (fun c => c == '.') ex.1
    match pt.2, ex.2 with
    | none, none => (decimalOf cs).map (fun n => .int n)
    | _, _ =>
      let fr := pt.2.getD []
      match decimalOf (pt.1 ++ fr), (match ex.2 with
        | none => some 0
        | some ds => readExponent ds) with
      | some m, some e => some (.float false m (e - fr.length))
      | _, _ => none

/-- The number m × 10^e as binary, exact or with a sticky last bit. -/
def decimalNum (neg : Bool) (m : Nat) (e : Int) : Num :=
  if 0 ≤ e then .fin neg (m * 10 ^ e.toNat) 0
  else
    let d := 10 ^ (-e).toNat
    let k := Nat.log2 d + 64
    let n := m * 2 ^ k
    .fin neg (2 * (n / d) + (if n % d = 0 then 0 else 1)) (-(k : Int) - 1)

/-- A floating-point literal rounded RNE to a format (R129, R135). -/
def literalBits (f : Fmt) (neg : Bool) (m : Nat) (e : Int) : Nat := (fenc f (decimalNum neg m e) 0 false 0).val

/-- ITYPE and IMM32 of an immediate (R130), for a type suffix coded as in R112. -/
def immediate (ty : Option Nat) (x : Literal) : Except AsmError (BitVec 2 × BitVec 32) :=
  let int (n : Int) (it : Nat) : Except AsmError (BitVec 2 × BitVec 32) :=
    if (if it = 0 then decide (-(2 ^ 31) ≤ n ∧ n < 2 ^ 31) else decide (0 ≤ n ∧ n < 2 ^ 32)) then .ok (BitVec.ofNat 2 it, BitVec.ofInt 32 n)
    else .error .badItype
  match ty, x with
  | none, .float neg m e => .ok (2, BitVec.ofNat 32 (literalBits fmt32 neg m e))
  | none, .int n => if n < 2 ^ 31 then int n 0 else int n 1
  | some t, .float neg m e => if 4 ≤ t ∧ t ≤ 7 then .ok (2, BitVec.ofNat 32 (literalBits fmt32 neg m e)) else .error .badItype
  | some t, .int n =>
    if t = 0 ∨ t = 2 then int n 0
    else if t = 1 ∨ t = 3 then int n 1
    else if 4 ≤ t ∧ t ≤ 7 then
      let r := fenc fmt32 (ofInt n) 0 false 0
      if r.fl = 0 then .ok (2, BitVec.ofNat 32 r.val) else .error .badItype
    else .error .badItype

/-- IMM32 of PAUSE, WAITF and TRAP (R130): an integer written as it stands, ITYPE 0. -/
def immediateBench : Literal → Except AsmError (BitVec 2 × BitVec 32)
  | .int n => if 0 ≤ n ∧ n < 2 ^ 32 then .ok (0, BitVec.ofInt 32 n) else .error .badItype
  | .float _ _ _ => .error .badItype

/-- OFF of a memory operand (R129). -/
def memOffset (n : Int) : Except AsmError (BitVec 20) :=
  if -524288 ≤ n ∧ n ≤ 524287 then .ok (BitVec.ofInt 20 n) else .error .badOperand

/-- OFF32 of a target, or COFF of a continuation, of that many bits, from the header of the clause that holds it (R129). -/
def targetOffset (bits : Nat) (h target : DWord) : Except AsmError (BitVec bits) :=
  let d := (target - h).toInt
  if d % 8 = 0 ∧ -(2 ^ (bits - 1)) ≤ d / 8 ∧ d / 8 < 2 ^ (bits - 1) then .ok (BitVec.ofInt bits (d / 8)) else .error .badOperand

/-! ### Suffixes (R131) -/

/-- What a suffix selects, in the order in which suffixes stand. -/
inductive SuffixKind where
  | selector | type1 | type2 | rounding | sat | annotation | scope | cacheOp | size | other
  deriving DecidableEq, Repr

/-- The place of a suffix in the scheme of R131. -/
def SuffixKind.rank : SuffixKind → Nat
  | .selector => 1 | .type1 => 2 | .type2 => 3 | .rounding => 4 | .sat => 5 | .annotation => 6 | .scope => 7 | .cacheOp => 8 | .size => 9
  | .other => 10

/-- The suffixes stand in the order of the scheme; only selectors and the engines' own modifiers repeat. -/
def suffixOrder : List SuffixKind → Bool
  | a :: b :: r => (decide (a.rank < b.rank) || (decide (a = b) && decide (a = .selector ∨ a = .other))) && suffixOrder (b :: r)
  | _ => true

/-- The scope a MEM word is given: 0 without an annotation, otherwise required. -/
def scopeField (ann : Nat) (scope : Option Nat) : Except AsmError (BitVec 3) :=
  match scope with
  | some n => if ann = 0 then .error .suffixOrder else .ok (BitVec.ofNat 3 n)
  | none => if ann = 0 then .ok 0 else .error .missingSuffix

/-! ### Expressions (R132) -/

/-- An expression. -/
inductive Expr where
  | num (n : DWord)
  | name (x : List Char)
  | here
  | neg (a : Expr)
  | compl (a : Expr)
  | bin (op : Char) (a b : Expr)
  deriving DecidableEq, Repr

/-- What a name stands for: an absolute value, or an offset in a section. -/
inductive Sym where
  | abs (n : DWord)
  | rel (sec : Nat) (off : DWord)
  deriving DecidableEq, Repr

/-- An absolute binary operator: `<` and `>` stand for the shifts. Division truncates toward zero. Log 71 (DEDUCED). -/
def applyOp (op : Char) (a b : DWord) : Except AsmError DWord :=
  if op = '*' then .ok (a * b)
  else if op = '/' then (if b = 0 then .error .divideByZero else .ok (a.sdiv b))
  else if op = '%' then (if b = 0 then .error .divideByZero else .ok (a.srem b))
  else if op = '+' then .ok (a + b)
  else if op = '-' then .ok (a - b)
  else if op = '<' then .ok (a <<< b.toNat)
  else if op = '>' then .ok (a.sshiftRight b.toNat)
  else if op = '&' then .ok (a &&& b)
  else if op = '^' then .ok (a ^^^ b)
  else if op = '|' then .ok (a ||| b)
  else .error .badOperand

/-- An operator on values of which some stand in sections. -/
def applySym (op : Char) : Sym → Sym → Except AsmError Sym
  | .abs a, .abs b => (applyOp op a b).map .abs
  | .rel k a, .abs b => if op = '+' then .ok (.rel k (a + b)) else if op = '-' then .ok (.rel k (a - b)) else .error .notRelocatable
  | .abs a, .rel k b => if op = '+' then .ok (.rel k (a + b)) else .error .notRelocatable
  | .rel k a, .rel j b => if op = '-' ∧ k = j then .ok (.abs (a - b)) else .error .notRelocatable

/-- The value of an expression, of the names it uses and of `$`. -/
def Expr.eval (names : List (List Char × Sym)) (dot : Sym) : Expr → Except AsmError Sym
  | .num n => .ok (.abs n)
  | .name x =>
    match names.find? (fun p => decide (p.1 = x)) with
    | some p => .ok p.2
    | none => .error .badName
  | .here => .ok dot
  | .neg a => (a.eval names dot).bind (applySym '-' (.abs 0))
  | .compl a => (a.eval names dot).bind (applySym '^' (.abs (BitVec.allOnes 64)))
  | .bin op a b => (a.eval names dot).bind (fun x => (b.eval names dot).bind (applySym op x))

/-- A token of an expression. -/
inductive Tok where
  | num (n : DWord) | name (x : List Char) | here | op (c : Char) | opn | cls
  deriving DecidableEq, Repr

/-- A binary operator's level, the highest binding tightest. -/
def opLevel (c : Char) : Option Nat :=
  if c = '*' ∨ c = '/' ∨ c = '%' then some 6 else if c = '+' ∨ c = '-' then some 5 else if c = '<' ∨ c = '>' then some 4
  else if c = '&' then some 3 else if c = '^' then some 2 else if c = '|' then some 1 else none

mutual
/-- A term, with its unary operators; the fuel bounds the tokens. -/
def parseTerm : Nat → List Tok → Option (Expr × List Tok)
  | 0, _ => none
  | _ + 1, .num n :: r => some (.num n, r)
  | _ + 1, .name x :: r => some (.name x, r)
  | _ + 1, .here :: r => some (.here, r)
  | k + 1, .op c :: r =>
    if c = '-' then (parseTerm k r).map (fun p => (.neg p.1, p.2))
    else if c = '~' then (parseTerm k r).map (fun p => (.compl p.1, p.2))
    else none
  | k + 1, .opn :: r =>
    match parseTerm k r with
    | none => none
    | some (a, r1) =>
      match parseOps k 1 a r1 with
      | some (e, .cls :: r2) => some (e, r2)
      | _ => none
  | _ + 1, _ => none

/-- The operators of a level and above that follow a left operand, each level associating to the left. -/
def parseOps : Nat → Nat → Expr → List Tok → Option (Expr × List Tok)
  | 0, _, _, _ => none
  | k + 1, lo, a, .op c :: r =>
    match opLevel c with
    | none => none
    | some l =>
      if l < lo then some (a, .op c :: r)
      else
        match parseTerm k r with
        | none => none
        | some (b, r1) =>
          match parseOps k (l + 1) b r1 with
          | none => none
          | some (b2, r2) => parseOps k lo (.bin c a b2) r2
  | _ + 1, _, a, r => some (a, r)
end

/-- The expression that tokens write, all of them. -/
def parseExpr (ts : List Tok) : Option Expr :=
  let fuel := 2 * ts.length + 4
  match parseTerm fuel ts with
  | none => none
  | some (a, r) =>
    match parseOps fuel 1 a r with
    | some (e, []) => some e
    | _ => none

/-! ### Clauses (R133, R134) -/

/-- The options of `.clause`; `live` is the number of the record. -/
structure ClauseOpts where
  wait  : List Nat := []
  set   : List Nat := []
  yield : Bool := false
  pre   : Bool := false
  live  : Option Nat := none
  deriving DecidableEq, Repr

/-- What R134 asks of a clause: the entry of a role, its trap handler, or any other. -/
inductive ClauseRole where
  | entry | handler | plain
  deriving DecidableEq, Repr

/-- CLASS: that of the first instruction that is not a bench control instruction standing last. -/
def asmClass : List DWord → Nat
  | [] => 0
  | [w] => if opNat w ≤ 0x0B then 0 else classOf (opNat w)
  | w :: _ => classOf (opNat w)

/-- A flag field of a header: the n-th flag of `set=`, a single one in both. -/
def setField (set : List Nat) (n : Nat) : Nat :=
  match set with
  | [] => 15
  | [a] => a
  | _ => set.getD n 15

/-- The header word of a clause (R102, R133, R134). -/
def asmHeader (role : ClauseRole) (o : ClauseOpts) (ws : List DWord) : DWord :=
  let p := o.pre || decide (role ≠ .plain)
  let live := if role = .entry then 0 else o.live.getD 0
  let f (n lo : Nat) : DWord := BitVec.ofNat 64 n <<< lo
  f (asmClass ws) 60 ||| f (ws.length - 1) 56 ||| f (o.wait.foldl (fun m n => m ||| 2 ^ n) 0) 44 ||| f (setField o.set 0) 40 |||
    f (setField o.set 1) 36 ||| f (if o.yield then 1 else 0) 35 ||| f (if p then 1 else 0) 34 ||| f live 16

/-- The words of a clause, or the error that R133 gives: `.clause` options out of range, no instruction or too many, `live=` without
`pre=1`, a breach of R105 or R106. -/
def asmClause (role : ClauseRole) (liveCount : Nat) (o : ClauseOpts) (ws : List DWord) : Except AsmError (List DWord) :=
  let h := asmHeader role o ws
  if o.wait.any (fun n => decide (12 ≤ n)) ∨ o.set.any (fun n => decide (12 ≤ n)) ∨ 2 < o.set.length then .error .badOperand
  else if ws = [] then .error .emptyClause
  else if 16 < ws.length then .error .longClause
  else if o.live.isSome ∧ !o.pre ∧ role = .plain then .error .liveWithoutPre
  else
    match clauseFault liveCount h ws with
    | some c => .error (.misplaced c)
    | none => .ok (h :: ws)

/-- Words of the waiting instructions (R106). -/
def waitingWord (x : DWord) : Bool :=
  [0x08, 0x09, 0x0A, 0xAB, 0xBC, 0xBD, 0xBE, 0xC1, 0xC3, 0xE1, 0xE3, 0xE4, 0xEB, 0xFA, 0xFE, 0xFF].contains (opNat x) ||
    (engOpc (opNat x) && x.getLsbD 33) || (!(engOpc (opNat x)) && queueField x 38) ||
    (rrrOpc (opNat x) && (queueField x 29 || queueField x 20))

/-- Clauses of a section, with their header addresses, that R134 requires to be P clauses: backward targets of BRA, BRV and CALL, clauses
after a waiting instruction, and continuation targets. -/
def mustBeP (cs : List (DWord × List DWord)) : List DWord :=
  cs.flatMap (fun p =>
    match p.2.getLast? with
    | none => []
    | some x =>
      let t32 := p.1 + 8 * (x.extractLsb' 6 32).signExtend 64
      let t16 := p.1 + 8 * (x.extractLsb' 0 16).signExtend 64
      (if [0x02, 0x03, 0x05].contains (opNat x) ∧ t32 ≤ p.1 then [t32] else []) ++
        (if engOpc (opNat x) ∧ x.getLsbD 33 then [t16] else []) ++
        (if waitingWord x then [p.1 + 8 * BitVec.ofNat 64 p.2.length] else []))

/-- The error of R134: a clause of the section that must be a P clause has P = 0. A clause is its header and its words. -/
def checkP (cs : List (DWord × List DWord)) : Except AsmError Unit :=
  if (mustBeP cs).any (fun a => cs.any (fun p => decide (p.1 = a) && (match p.2 with
    | h :: _ => !(hdrP h)
    | [] => false))) then .error .needsPre
  else .ok ()

/-! ### Directives (R135) -/

/-- `.byte`, `.half`, `.word`, `.dword` of n bytes. Log 71 (DEDUCED). -/
def emitInt (n : Nat) (x : Int) : Except AsmError (List Byte) :=
  if -(2 ^ (8 * n - 1)) ≤ x ∧ x < 2 ^ (8 * n) then .ok (bytesOf n (x % 2 ^ (8 * n)).toNat) else .error .valueTooWide

/-- `.float` and `.double` of a literal. -/
def emitFloat (double neg : Bool) (m : Nat) (e : Int) : List Byte :=
  if double then bytesOf 8 (literalBits fmt64 neg m e) else bytesOf 4 (literalBits fmt32 neg m e)

/-- `.align`: zero bytes up to a multiple of a power of two from 8 to 65,536. -/
def emitAlign (b size : Nat) : Except AsmError (List Byte) :=
  if 8 ≤ b ∧ b ≤ 65536 ∧ 2 ^ Nat.log2 b = b then .ok (List.replicate ((b - size % b) % b) 0) else .error .badAlign

/-- TRAPDISP of the `.trap` directives: the default is halt. -/
def trapDispOf (ds : List (Nat × Nat)) : BitVec 32 :=
  BitVec.ofNat 32 ((List.range 9).foldl (fun a c => a + (look ds c).getD 0 * 4 ^ c) 0)

/-- The 64 bytes of a role header (R139). -/
def hdrBytes (h : Hdr) : List Byte :=
  bytesOf 4 0x4B484A42 ++ bytesOf 2 1 ++ bytesOf 2 64 ++ bytesOf 2 h.vregs ++ bytesOf 1 h.sregs ++ bytesOf 1 h.tregs ++
    bytesOf 1 (if h.renamed then 1 else 0) ++ bytesOf 1 h.role ++ bytesOf 1 h.nroles ++ bytesOf 1 h.weaves ++ bytesOf 4 h.spad ++
    bytesOf 1 h.tobBanks ++ bytesOf 1 h.accBanks ++ bytesOf 1 h.gang ++ bytesOf 1 h.flags ++ bytesOf 4 h.trapDisp.toNat ++
    bytesOf 4 h.handler.toNat ++ bytesOf 8 h.liveOff.toNat ++ bytesOf 2 h.liveCount ++ bytesOf 2 h.vquota ++ bytesOf 20 0

/-- HANDLER: the offset in 8-byte words from the role's entry, header + 64, to the handler's clause (R139). -/
def handlerField (hdr handler : DWord) : BitVec 32 := ((handler - (hdr + 64)).sshiftRight 3).setWidth 32

/-! ### Liveness tables (R142) -/

/-- The 64 bytes of a liveness record whose ranges start at an index of the pool. -/
def liveBytes (r : Live) (first : Nat) : List Byte :=
  bytesOf 48 r.v ++ bytesOf 8 r.s ++ bytesOf 2 r.f ++ bytesOf 1 r.p ++ bytesOf 1 0 ++ bytesOf 1 r.ranges.length ++ bytesOf 3 first

/-- A role's liveness table: record 0 names nothing, then the records of the `.live` directives, then the range pool. -/
def liveTable (rs : List Live) : List Byte :=
  let all : List Live := {} :: rs
  (all.foldl (fun a r => (a.1 ++ liveBytes r a.2, a.2 + r.ranges.length)) (([] : List Byte), 0)).1 ++
    all.flatMap (fun r => r.ranges.flatMap (fun x => bytesOf 4 x.1 ++ bytesOf 4 x.2))

/-! ### The object (R136 to R138) -/

/-- What an object's ELF header says (R136). -/
structure ElfHeader where
  class64   : Bool := true
  lsb       : Bool := true
  machine   : BitVec 16 := 0xB914
  flags     : BitVec 32 := 1
  exec      : Bool
  deriving DecidableEq, Repr

/-- The fields that R136 fixes hold: e_flags [7:0] is the Speil revision, bits [31:8] zero. -/
def ElfHeader.ok (e : ElfHeader) : Bool := e.class64 && e.lsb && decide (e.machine = 0xB914 ∧ e.flags = 1)

/-- A kinfo record (R137): NAME, NROLES, and the addresses of the role headers. -/
def kinfoBytes (name : Nat) (hdrs : List DWord) : List Byte :=
  bytesOf 4 name ++ bytesOf 1 hdrs.length ++ bytesOf 3 0 ++ (List.range 4).flatMap (fun k => bytesOf 8 (hdrs.getD k 0).toNat)

/-- Relocations, in the order of their types 0 to 8 (R138). -/
inductive Reloc where
  | none | abs64 | abs32 | rel64 | br32 | coff16 | imm32lo | imm32hi | loft64
  deriving DecidableEq, Repr

/-- The relocation of a type number. -/
def relocOf (n : Nat) : Option Reloc :=
  [Reloc.none, .abs64, .abs32, .rel64, .br32, .coff16, .imm32lo, .imm32hi, .loft64][n]?

/-- A field of a word replaced. -/
def withField (x : DWord) (lo n v : Nat) : DWord :=
  (x &&& ~~~(BitVec.ofNat 64 ((2 ^ n - 1) * 2 ^ lo))) ||| BitVec.ofNat 64 (v % 2 ^ n * 2 ^ lo)

/-- The branch offset of S + A - P, in words, of that many bits; a link error where it does not fit. -/
def linkOffset (bits : Nat) (d : DWord) : Except AsmError Nat :=
  let n := d.toInt
  if n % 8 = 0 ∧ -(2 ^ (bits - 1)) ≤ n / 8 ∧ n / 8 < 2 ^ (bits - 1) then .ok ((n / 8) % 2 ^ bits).toNat else .error .linkRange

/-- The word at P after its relocation (R138): S the symbol's address, A the addend, and the loading tenancy's Loft partition base. A
32-bit datum is the low half of the word. -/
def relocate (k : Reloc) (s a p loft x : DWord) : Except AsmError DWord :=
  match k with
  | .none => .ok x
  | .abs64 => .ok (s + a)
  | .abs32 => if (s + a).toNat < 2 ^ 32 then .ok (withField x 0 32 (s + a).toNat) else .error .linkRange
  | .rel64 => .ok (s + a - p)
  | .br32 => (linkOffset 32 (s + a - p)).map (withField x 6 32)
  | .coff16 => (linkOffset 16 (s + a - p)).map (withField x 0 16)
  | .imm32lo => .ok (withField x 6 32 ((s + a).toNat % 2 ^ 32))
  | .imm32hi => .ok (withField x 6 32 ((s + a).toNat / 2 ^ 32))
  | .loft64 => .ok (loft + a)

/-- The addend of a branch or continuation relocation: A + (P - H) makes the value an offset from the clause's header (R138). -/
def addend (a p h : DWord) : DWord := a + (p - h)

end Sys2Proof.Machine
end

