-- ==== Sys2Proof/Machine/HostRead.lean ====
section
/-!
DEFINITION. What an 8-byte host read of the Steward management block returns (spec/00_scope.md R8, R9; spec/25_package.md and the register
tables of R24, R144, R304, R312, R323, R331, R345, R356, R421, R422, R430, R434, R436, R442, R453, R456, R458, R460, R461). A reserved
bit, a WO field, a doorbell page and every offset that no table defines read as zero. A read changes nothing.
-/

namespace Sys2Proof.Machine

open Sys2Proof

/-- A register of fields: the lowest bit, the width and the value of each; every other bit is reserved and reads as zero (R8). -/
def regOf (fs : List (Nat × Nat × Nat)) : BitVec 64 :=
  BitVec.ofNat 64 (fs.foldl (fun a f => a + f.2.2 % 2 ^ f.2.1 * 2 ^ f.1) 0)

/-- The value of a bit. -/
def bitOf (b : Bool) : Nat := if b then 1 else 0

/-- Registers of the package: READY, PWRCTL, THERM, ATTCTL, ATTADDR, MEXBASE, MEXIDX, SCOPEINFO, LOFTREF, GTOFF, GTSTAT. -/
def readPackage (s : State) (o : Nat) : BitVec 64 :=
  if o = 0x08 then readyReg s
  else if o = 0x10 then regOf [(0, 16, s.capw)]
  else if o = 0x18 then regOf [(26, 1, bitOf s.tripped), (25, 1, bitOf s.capped), (24, 1, bitOf s.hot), (16, 8, s.clk),
    (8, 8, s.utmax.toNat), (0, 8, s.tmax.toNat)]
  else if o = 0x20 then regOf [(2, 1, bitOf s.attErr), (1, 1, bitOf s.attDone), (0, 1, bitOf s.attGo)]
  else if o = 0x28 then s.attaddr
  else if o = 0x30 then s.mexbase
  else if o = 0x38 then regOf [(32, 32, s.mexrd.toNat), (0, 32, s.mexwr.toNat)]
  else if o = 0x40 then regOf [(0, 3, s.maxlevel)]
  else if o = 0x48 then regOf [(16, 16, s.loftPeriod), (0, 16, 260)]
  else if o = 0x50 then s.gtoff
  else if o = 0x58 then regOf [(16, 16, s.gterr.toNat), (0, 1, bitOf s.ptmlock)]
  else 0

/-- The control block of a work queue (R144). -/
def readQueue (s : State) (q o : Nat) : BitVec 64 :=
  let Q := queueOf s q
  if o = 0 then Q.qbase
  else if o = 0x08 then regOf [(28, 4, Q.tenancy), (23, 5, Q.log2size), (18, 5, Q.exlog2), (15, 3, Q.prio), (4, 11, Q.exvec),
    (3, 1, bitOf Q.suspend), (1, 1, bitOf Q.priv), (0, 1, bitOf Q.enable)]
  else if o = 0x10 then Q.wridx
  else if o = 0x18 then Q.rdidx
  else if o = 0x20 then Q.exbase
  else if o = 0x28 then regOf [(32, 32, Q.exrd.toNat), (0, 32, Q.exwr.toNat)]
  else if o = 0x30 then regOf [(48, 16, Q.lostinfo), (7, 1, bitOf Q.cfgerr), (0, 3, queueState Q)]
  else 0

/-- A tenancy block (R460): TKEY and CMD are WO. -/
def readTen (s : State) (t o : Nat) : BitVec 64 :=
  let T := tenOf s t
  if o = 0 then T.tcfg &&& 0xFF00FFFF000000F1
  else if o = 0x08 then T.tarc &&& 0x0000FFFFFFFFFFFF
  else if o = 0x20 then regOf [(8, 8, T.refused), (0, 2, T.state)]
  else 0

/-- A lease slot of a tenancy (R312). -/
def readLease (s : State) (t n o : Nat) : BitVec 64 :=
  let l := leaseOf s t n
  if o = 0 then (if l.state = 0 then 0 else l.id)
  else if o = 0x08 then BitVec.ofNat 64 l.base
  else if o = 0x10 then BitVec.ofNat 64 l.size
  else if o = 0x18 then BitVec.ofNat 64 l.expiry
  else if o = 0x20 then regOf [(0, 16, l.node), (16, 8, l.rights % 8), (24, 8, l.state), (32, 16, l.replica)]
  else if o = 0x28 then BitVec.ofNat 64 l.deadline
  else if o = 0x30 then regOf [(0, 32, (leaseGrains s t n).length), (32, 32, (leaseDirty s t n).length)]
  else 0

/-- A Reeve block (R304, R312, R323). -/
def readReeve (s : State) (t o : Nat) : BitVec 64 :=
  let r := (tenOf s t).reeve
  if o = 0 then regOf [(52, 8, r.rootLease), (12, 40, r.rootTable), (0, 1, bitOf r.en)]
  else if o = 0x08 then regOf [(40, 24, r.quota), (26, 14, r.evqueue), (16, 10, r.frlost), (8, 5, r.frlog2), (7, 1, bitOf r.runen)]
  else if o = 0x10 then regOf [(32, 32, r.renewLead), (0, 32, r.renewTmo)]
  else if o = 0x18 then r.frbase
  else if o = 0x20 then regOf [(32, 32, r.frrd.toNat), (0, 32, r.frwr.toNat)]
  else if o = 0x28 then regOf [(0, 32, r.frtmo)]
  else if o = 0x30 then regOf [(0, 1, bitOf r.invreq)]
  else if o = 0x38 then BitVec.ofNat 64 (capReg s t)
  else if o = 0x40 then BitVec.ofNat 64 (residentReg s t)
  else if 0x4000 ≤ o then readLease s t ((o - 0x4000) / 64) (o % 64)
  else 0

/-- A Depot and Loft block (R331). -/
def readDepot (s : State) (t o : Nat) : BitVec 64 :=
  let d := (tenOf s t).depot
  if o = 0 then regOf [(48, 16, d.vdefault), (0, 6, d.dways)]
  else if o = 0x08 then regOf [(32, 16, d.lsize), (31, 1, bitOf d.cfgerr), (0, 16, d.lbase)]
  else 0

/-- REPAIRSTAT (R356): the open window, how long it has been open, the repairs that wait, those completed. -/
def repairStat (s : State) (T : Tinker) : BitVec 64 :=
  let waiting := T.queued.length - (if T.window.isSome ∨ T.closed ≠ 0 then 1 else 0)
  let rest := [(16, 6, min 63 waiting), (0, 16, T.done)]
  match T.window with
  | none => regOf rest
  | some (kind, pc, bank, row, at1) =>
    regOf ([(63, 1, 1), (60, 3, kind), (54, 6, pc), (48, 6, bank), (34, 14, row), (22, 12, min 4095 ((s.time - at1) / 1000))] ++ rest)

/-- A Tinker block (R356). -/
def readTinker (s : State) (k o : Nat) : BitVec 64 :=
  let T := tinkerOf s k
  if o = 0 then regOf [(40, 8, T.thresh), (32, 8, T.scrubh), (11, 1, bitOf T.irqen), (0, 11, T.vec)]
  else if o = 0x08 then repairStat s T
  else if o = 0x10 then regOf [(0, 4, T.events.toNat)]
  else if o = 0x18 then regOf [(32, 32, min T.uncorr (2 ^ 32 - 1)), (0, 32, min T.exh (2 ^ 32 - 1))]
  else if 0x100 ≤ o ∧ o < 0x200 then
    let c := (o - 0x100) / 8
    regOf [(4, 4, leftOf T.dqUsed c 4), (2, 2, leftOf T.caUsed c 2), (1, 1, bitOf (T.failed.contains c))]
  else if 0x8000 ≤ o then
    let b := (o - 0x8000) / 8
    regOf [(12, 4, leftOf T.rowsUsed b 8), (10, 2, leftOf T.remapsUsed b 2), (7, 3, leftOf T.granulesUsed b 4)]
  else 0

/-- The block of an intake ring (R430). -/
def readRing (s : State) (r o : Nat) : BitVec 64 :=
  let R := ringOf s r
  if o = 0 then R.rbase
  else if o = 0x08 then regOf [(60, 4, R.tenancy), (55, 5, R.log2size), (51, 4, R.log2slot), (32, 16, R.residx.toNat), (10, 1, bitOf R.reqsec),
    (8, 2, R.policy), (4, 1, bitOf R.place), (1, 1, bitOf R.cfgerr), (0, 1, bitOf R.enable)]
  else if o = 0x10 then R.accepted
  else if o = 0x18 then R.full
  else if o = 0x20 then R.auth
  else if o = 0x28 then R.malformed
  else if o = 0x30 then R.nokey
  else 0

/-- A key slot of a port (R421): WRAP is WO, and the key itself is never readable. -/
def readKey (s : State) (k o : Nat) : BitVec 64 :=
  let K := (look s.keys k).getD {}
  if o = 0 then regOf [(32, 32, K.said.toNat), (28, 4, K.tenancy), (1, 1, bitOf K.kerr), (0, 1, bitOf K.valid)] else 0

/-- The block of a communicator (R422). -/
def readComm (s : State) (t c o : Nat) : BitVec 64 :=
  let C := (look (tenOf s t).comms c).getD {}
  if o = 0 then regOf [(16, 7, C.nranks), (8, 6, C.myrank), (1, 1, bitOf C.cfgerr), (0, 1, bitOf C.enable)]
  else if o = 0x08 then C.mbase
  else 0

/-- A Scrivener block (R436). -/
def readScriv (s : State) (t o : Nat) : BitVec 64 :=
  let c := (tenOf s t).scriv
  if o = 0 then regOf [(16, 16, c.trmask.toNat), (12, 1, bitOf c.traceen), (4, 5, c.slog2n), (2, 1, bitOf c.cfgerr), (0, 2, c.state)]
  else if o = 0x08 then c.sbase
  else if o = 0x10 then regOf [(32, 32, c.srd.toNat), (0, 32, c.swr.toNat)]
  else if o = 0x18 then c.tbase
  else if o = 0x20 then regOf [(32, 32, c.trd.toNat), (0, 32, c.twr.toNat)]
  else if o = 0x28 then c.rbase
  else if o = 0x30 then regOf [(32, 32, c.rrd.toNat), (0, 32, c.rwr.toNat)]
  else if o = 0x38 then regOf [(48, 16, c.slost), (32, 16, c.tlost), (24, 8, c.rlost), (20, 4, c.npass), (16, 4, c.rlog2), (8, 5, c.tlog2),
    (0, 5, c.slog2)]
  else if 0x40 ≤ o ∧ o < 0x60 then BitVec.ofNat 64 (natOfBytes (cellsAt c.evset (o - 0x40) 8))
  else 0

/-- The counter and breakpoint block of a shop (R442). -/
def readShop (s : State) (h o : Nat) : BitVec 64 :=
  let x := shopOf s h
  if o < 0x20 then cell x.cntctl (o / 8) &&& 0xFFFFFFFFFC0000FF
  else if o < 0x40 then cell x.cnt (o / 8 - 4)
  else if o % 16 = 0 then cell x.bpaddr ((o - 0x40) / 16) &&& 0xFFFFFFFFFFFFFFF8
  else cell x.bpctl ((o - 0x40) / 16) &&& 0xFFFFFFFFFFFF0001

/-- An 8-byte host read at offset a of the Steward management block (R8, R9). Log 70 (DEDUCED). -/
def readRegister (s : State) (a : Nat) : BitVec 64 :=
  let within (base stride n : Nat) : Bool := decide (base ≤ a ∧ a < base + stride * n)
  if a % 8 ≠ 0 then 0
  else if a < 0x60 then readPackage s a
  else if within 0x00100000 64 16384 then readQueue s ((a - 0x00100000) / 64) (a % 64)
  else if within 0x00200000 64 16 then readTen s ((a - 0x00200000) / 64) (a % 64)
  else if within 0x00300000 0x8000 16 then readReeve s ((a - 0x00300000) / 0x8000) (a % 0x8000)
  else if within 0x00380000 64 16 then readDepot s ((a - 0x00380000) / 64) (a % 64)
  else if within 0x00400000 0x10000 12 then readTinker s ((a - 0x00400000) / 0x10000) (a % 0x10000)
  else if within 0x00500000 64 256 then readRing s ((a - 0x00500000) / 64) (a % 64)
  else if within 0x00510000 16 1024 then readKey s ((a - 0x00510000) / 16) (a % 16)
  else if within 0x00514000 8 4 then cell s.noring ((a - 0x00514000) / 8)
  else if within 0x00520000 0x400 16 then readComm s ((a - 0x00520000) / 0x400) (a % 0x400 / 64) (a % 64)
  else if within 0x00580000 0x100 16 then readScriv s ((a - 0x00580000) / 0x100) (a % 0x100)
  else if within 0x00600000 0x80 192 then readShop s ((a - 0x00600000) / 0x80) (a % 0x80)
  else 0

end Sys2Proof.Machine
end

