-- ==== Sys2Proof/Safety.lean ====
section
/-!
DEFINITION. What the statements are stated in: when an instruction has passed its checks and what follows its own effect, what a
statement says of memory, and the invariant of the device that every step keeps.
-/

namespace Sys2Proof.Machine

open Sys2Proof

/-! ### Instructions -/

/-- The instruction that `s.issuer` issues has passed the checks of its form (spec/05_encoding.md R126, R127), every queue that it pops
has an entry and the queue that it pushes has room (R106, R120), no OFENCE of another split holds the weave's issue
(spec/22_loom_program.md R402), and in renamed mode none of its sources waits for a refill (spec/08_bench.md R173): its context as it
stood before, the state after its registers are mapped and its entries popped, and the context with the popped entries. -/
def issued (s : State) (pn : BitVec 1) (pred : BitVec 3) (form : Form) : Option (Ctx × State × Ctx) :=
  match ctxOf s pn pred with
  | none => none
  | some c =>
    if c.fenced || (formTrap c form).isSome || pushFull s c.wv form then none
    else
      match renameRegs s c (if c.held.isSome then [] else vregsOf form.reads) (vregsOf form.writes) with
      | .refill _ => none
      | .go s0 => (popAll (latch s0 c form.sources) c form.pops).map (fun p => (c, p.1, p.2))

/-- The effect lets the instruction end: it is not tried again. -/
def Effect.ends : Effect → Bool
  | .stay _ _ => false
  | _ => true

/-- What follows an instruction's own effect in a state: the effect comes about, a trap in the state before the pops, and the instruction
counts as issued (spec/24_scrivener.md R443), unless it is to be tried again. -/
def ended (s : State) (c c2 : Ctx) (form : Form) (e : Effect) : State :=
  let t := finish s c2 form.sources form.writes form.waiting e
  if e.ends then counted t c else t

/-- An issued instruction answers the next state that its effect `e` gives. -/
def Does (i : Instr) (pn : BitVec 1) (pred : BitVec 3) (form : Form) (e : State → Ctx → Effect) : Prop :=
  ∀ s c s2 c2, issued s pn pred form = some (c, s2, c2) → exec i s = .next (ended s c c2 form (e s2 c2))

/-- An issued instruction completes, and its result, n words for each qualifying strand, goes to register field r
(spec/05_encoding.md R118 to R120). -/
def Writes (i : Instr) (pn : BitVec 1) (pred : BitVec 3) (form : Form) (r : BitVec 9) (n : Nat) (v : State → Ctx → Nat → Nat) : Prop :=
  Does i pn pred form (fun s c => .done (writeDst s c r.toNat n (v s c)))

/-- An issued instruction completes; its result, n words for each qualifying strand, goes to register field r and the flags of the
strands' results to FFLAGS (spec/04_number_formats.md R92, R93). -/
def Computes (i : Instr) (pn : BitVec 1) (pred : BitVec 3) (form : Form) (r : BitVec 9) (n : Nat) (v : State → Ctx → Nat → FRes) :
    Prop :=
  Does i pn pred form (fun s c => perStrand s c r.toNat n (v s c))

/-- A word operand of a strand. -/
def opd (s : State) (c : Ctx) (r : BitVec 9) (k : Nat) : BitVec 32 := BitVec.ofNat 32 (srcN s c r.toNat k 1)

/-- A 64-bit operand of a strand: the pair from field r on (spec/04_number_formats.md R75). -/
def opd64 (s : State) (c : Ctx) (r : BitVec 9) (k : Nat) : BitVec 64 := BitVec.ofNat 64 (srcN s c r.toNat k 2)

/-! ### Memory -/

/-- Every byte of device memory, of the Loft and of the trap blocks reads in t as in s. -/
def sameMemory (s t : State) : Prop := ∀ pa, readByte t pa = readByte s pa

/-- Every byte outside the bytes listed reads in t as in s. -/
def sameBut (pas : List Nat) (s t : State) : Prop := ∀ pa, pa ∉ pas → readByte t pa = readByte s pa

/-- The checks of a strand's access found nothing: no trap, no absent page, no lost slot, no walk in progress. -/
def Chk.clean (x : Chk) : Prop := x.trap = none ∧ x.empty = none ∧ x.lost = none ∧ x.busy = false

/-- No walk of the issuing split has posted a record that awaits its reply or has had it (spec/15_reeve.md R307, R319). -/
def Walked (s : State) (c : Ctx) : Prop := walkRecs s c.wv.ids.tenancy c.w c.slot = []

/-- The accesses of the issuing instruction's strands are in order. -/
def InOrder (s : State) (c : Ctx) (cs : List Chk) : Prop := Walked s c ∧ ∀ x ∈ cs, x.clean

/-- t is s but for what an access does before its operation starts: shops count it, and its tenancy's translations are cached. -/
def Prepared (s t : State) : Prop := t = { s with shops := t.shops, tenancies := t.tenancies }

/-- An issued instruction starts an operation in flight: with no qualifying strand it does nothing; where the accesses of its strands are
in order, `ok`, it starts one of the given kind, which will write the given register words (spec/08_bench.md R166). -/
def Starts (i : Instr) (pn : BitVec 1) (pred : BitVec 3) (form : Form) (ok : State → Ctx → Prop) (kind : State → Ctx → OpKind)
    (dests : Ctx → List Nat) (ann scope : Nat) : Prop :=
  ∀ s c s2 c2, issued s pn pred form = some (c, s2, c2) →
    (c2.q = 0 → exec i s = .next (ended s c c2 form (.done s2))) ∧
    (c2.q ≠ 0 → ok s2 c2 → ∃ s3, Prepared s2 s3 ∧
      exec i s = .next (ended s c c2 form (.done (newOp s3 c2 (kind s2 c2) (dests c2) ann scope))))

/-- What pushing an engine command does: its entry, with what every command carries, enters the queue's view; with CMASK[3] the split
then waits for its continuation, at H + 8 × COFF (spec/08_bench.md R170, spec/05_encoding.md R116). -/
def pushed (s : State) (c : Ctx) (f : ENG) (n : Nat) (dests : List Nat) (accept : State → State) (e : Entry) : Effect :=
  let s1 := accept (pushEntry s c n dests { e with
    opc := (c.word.extractLsb' 56 8).toNat, cmask := f.cmask.toNat, scope := f.scope.toNat, view := viewOf c.wv c.sp.mask,
    rel := fencesOf c.wv c.sp.mask, stamp := s.stamp })
  if f.cmask.getLsbD 3 then .hold s1 .continuation (.continuation (c.pc + 8 * f.coff.signExtend 64) false) else .done s1

/-- An engine command at its first issue, its descriptor in order (`ok`): it is pushed, or waits while the view of queue n is full. -/
def Pushes (i : Instr) (f : ENG) (form : Form) (n : Nat) (ok : State → Ctx → Prop) (dests : State → Ctx → List Nat)
    (accept : State → Ctx → State → State) (e : State → Ctx → Entry) : Prop :=
  ∀ s c s2 c2, issued s f.pn f.pred form = some (c, s2, c2) → c2.held = none → ok s2 c2 →
    exec i s = .next (ended s c c2 form
      (if pushRoom s2 c2.wv n then pushed s2 c2 f n (dests s2 c2) (accept s2 c2) (e s2 c2) else .hold s2 .queueFull .retry))

/-! ### The invariant -/

/-- The device is in a legal condition: the memories are in their canonical form; the compute clock lies between 1.0 GHz and 2.1 GHz in
steps of 100 MHz (spec/25_package.md R456); the Lofts' refresh period is 3,900 ns or 1,950 ns, now and next (spec/16_depot_loft.md
R345); MAXLEVEL is 3 to 7 (spec/01_engines.md R23). -/
def Inv (s : State) : Bool :=
  Memory.wf s && decide (10 ≤ s.clk ∧ s.clk ≤ 21) && decide (s.loftPeriod = 3900 ∨ s.loftPeriod = 1950) &&
    decide (s.loftNext = 3900 ∨ s.loftNext = 1950) && decide (3 ≤ s.maxlevel ∧ s.maxlevel ≤ 7)

end Sys2Proof.Machine
end

