-- ==== Sys2Proof/Certificates/Slice0/Obligations.lean ====
section
/-!
DEFINITION. The statements about the model. Each docstring names the rules of the spec that the statement formalises, or says that it
is the model's own choice.
-/

open Sys2Proof Sys2Proof.Machine

/-! ### Words and steps -/

/-- Every well-formed instruction has a word, and the decoder reads that instruction back from it (R109 to R117, R124, R125). -/
def Obligations.EncodeThenDecode : Prop := ∀ i : Instr, i.wf = true → ∃ w, encode i = some w ∧ decodeWord w = i

/-- Every 64-bit word is the word of the instruction that the decoder reads from it: decoding drops no bit (R109, R124). -/
def Obligations.DecodeThenEncode : Prop := ∀ w : DWord, encode (decodeWord w) = some w

/-- Words that the spec writes out, and the instructions that it says they stand for (the worked examples of spec/05_encoding.md,
07_steward.md, 08_bench.md, 09_porter.md, 10_stockroom.md, 11_spindle.md, 12_assay.md, 13_clerk.md, 16_depot_loft.md). -/
def Obligations.WordsDecode : Prop :=
  decodeWord 0x3202_0181_1FF7_0400 = .vadd { dst := 4, sa := 6, sb := 8, sc := 511, pn := 0, pred := 7, mod := 0x0400 } ∧
    decodeWord 0x3902_8140_0000_00DC = .vmulRi { dst := 5, sa := 5, imm := 3, pn := 0, pred := 7, itype := 0 } ∧
    decodeWord 0x22C1_7FC0_003F_FFDC = .smovRi { dst := 386, sa := 511, imm := 0xFFFF, pn := 0, pred := 7, itype := 0 } ∧
    decodeWord 0x03FF_FFC0_0000_02C4 = .brv { dst := 511, sa := 511, off := 11, pn := 0, pred := 1, rsv := 0 } ∧
    decodeWord 0xA106_6100_0201_4270 =
      .st { ds := 12, base := 388, off := 0x80, scope := 2, ann := 2, cop := 0, size := 2, pn := 0, pred := 7, mx := 0 } ∧
    decodeWord 0xC2C3_60C0_0400_0473 =
      .barx { ds := 390, base := 387, off := 0x100, scope := 0, ann := 0, cop := 0, size := 4, pn := 0, pred := 7, mx := 3 } ∧
    decodeWord 0x5F0A_0542_C177_0880 = .vdot4 { dst := 20, sa := 21, sb := 22, sc := 23, pn := 0, pred := 7, mod := 0x0880 } ∧
    decodeWord 0x8905_02C1_80D7_1841 = .cvtpk { dst := 10, sa := 11, sb := 12, sc := 13, pn := 0, pred := 7, mod := 0x1841 } ∧
    decodeWord 0xCC05_6101_7FF7_0080 = .atomu { dst := 10, sa := 388, sb := 11, sc := 511, pn := 0, pred := 7, mod := 0x0080 } ∧
    decodeWord 0xEDFF_E43C_9007_0000 =
      .launchD { dst := 511, desc := 400, dlen := 15, cmask := 2, scope := 2, rsv := 0, pn := 0, pred := 7, coff := 0 } ∧
    decodeWord 0xFAC6_7FC0_0007_01F4 = .loftWaitr { dst := 396, sa := 511, sreg := 0, rsv := 0, pn := 0, pred := 7, imm := 500 }

/-- The step of a state whose agenda has a split issue next: time passes, and the split's word is decoded and executed with the split as
its issuer (R100, R109). -/
def Obligations.StepRunsDecoded : Prop :=
  ∀ (s : State) (w slot : Nat) (rest : List Act) (word : DWord),
    s.agenda = .issue w slot :: rest → wordAt { tick s with agenda := rest } w slot = some word →
      step s = exec (decodeWord word) { tick s with agenda := rest, issuer := some (w, slot) }

/-- The step of a state whose agenda has an event next: time passes, and the event takes place with its operands. A word of the
instruction set is no event: as one, nothing takes place. Where nothing is due, the free choice says what takes place: an act, or nothing
(the model's choice, log entry 2). -/
def Obligations.StepRunsEvent : Prop :=
  ∀ s : State,
    (∀ (i : Instr) (a : EventArgs) (rest : List Act), s.agenda = .event i a :: rest →
      (encode i = none → step s = exec i { tick s with agenda := rest, ev := a }) ∧
      (encode i ≠ none → step s = .next { tick s with agenda := rest })) ∧
    (s.agenda = [] →
      (∀ a, Config.nextAct (tick s).free = some a → step s = act a (tick s)) ∧
      (Config.nextAct (tick s).free = none → step s = .next (tick s)))

/-- A word placed for the fetch is the word that the next step decodes and executes, in every state that the outside world can hand over
(log entry 20). -/
def Obligations.PlacedWordRuns : Prop :=
  ∀ (s : State) (nbits w : Nat), ∃ t : State,
    step (s.withFetchWord nbits w) = exec (decodeWord (BitVec.ofNat 64 w)) t ∧ t.issuer.isSome = true ∧ t.time = (tick s).time

/-! ### Reset, and the invariant -/

/-- What reset leaves, where the spec gives the value: no weave is resident and nothing is in flight; the compute clock at its base of
2.1 GHz, the power cap 3,200 W, MAXLEVEL 3, GTERR 65,535, the refresh period 3,900 ns, and READY, FAILED and link bits zero (R23,
R345, R434, R453, R454, R456). -/
def Obligations.ResetState : Prop :=
  State.reset.weaves = [] ∧ State.reset.lots = [] ∧ State.reset.ops = [] ∧ State.reset.clk = 21 ∧ State.reset.capw = 3200 ∧
    State.reset.maxlevel = 3 ∧ State.reset.gterr = 0xFFFF ∧ State.reset.loftPeriod = 3900 ∧ State.reset.stage = 0 ∧
    State.reset.failed = 0 ∧ State.reset.fabup = 0 ∧ State.reset.netup = 0 ∧ State.reset.tripped = false

/-- The invariant holds at reset. -/
def Obligations.InvAtReset : Prop := Inv State.reset = true

/-- Every step of every agent keeps the invariant: the memories stay in canonical form, the compute clock stays between 1.0 GHz and
2.1 GHz, the refresh period stays 3,900 ns or 1,950 ns, MAXLEVEL stays 3 to 7 (R23, R345, R456). -/
def Obligations.InvKept : Prop := ∀ s t : State, Inv s = true → step s = .next t → Inv t = true

/-! ### Taking a trap -/

/-- Under HANDLER, a trap of a split that is not in handler mode, while no sibling split is, leaves the 64 bytes of the trap record in
the weave's trap block, and the split goes on in handler mode, with the same mask, at the role's entry + 8 × HANDLER, where it must
find a P clause (R184, R185). The address range of trap blocks that the model takes ends at weave number 2^50. -/
def Obligations.TrapEntersHandler : Prop :=
  ∀ (s : State) (w slot : Nat) (x : TrapAt) (t : Trap) (wv : Weave) (sp : Split),
    Inv s = true → w < 2 ^ 50 → weaveOf s w = some wv → look wv.splits slot = some sp → sp.handler = false → dispOf wv.hdr t.cls = 1 →
    wv.splits.any (fun y => decide (y.1 ≠ slot) && y.2.handler) = false →
      (∃ wv', weaveOf (deliver s w slot x t) w = some wv' ∧
        look wv'.splits slot = some { pc := wv.hdr.addr + 64 + 8 * wv.hdr.handler.signExtend 64, mask := sp.mask, handler := true,
                                      needP := true, noBreak := some x.pc }) ∧
      ∀ i < 64, readByte (deliver s w slot x t) (trapPA w i) =
        (trapRecord s wv slot sp.mask x t ((if x.held then 1 else 0) + coIssue s wv slot sp.mask)).getD i 0

/-- The fields of the trap record, little-endian, at the offsets of R185: CLASS, CAUSE, SLOT and INDEX, LANES at 0x04, PC at 0x08,
NEXTPC at 0x10, IWORD at 0x18, ADDR at 0x20, INFO at 0x28, MASK at 0x30, WID, BID, STAGE and FLAGS from 0x34, GTIME at 0x38. -/
def Obligations.TrapRecordFields : Prop :=
  ∀ (s : State) (wv : Weave) (slot : Nat) (m : Mask) (x : TrapAt) (t : Trap) (flags : Nat),
    let r := trapRecord s wv slot m x t flags
    r.length = 64 ∧ r.getD 0 0 = BitVec.ofNat 8 t.cls ∧ r.getD 1 0 = BitVec.ofNat 8 t.cause ∧ r.getD 2 0 = BitVec.ofNat 8 slot ∧
      r.getD 3 0 = BitVec.ofNat 8 x.idx ∧ natOfBytes ((r.drop 4).take 4) = t.lanes.toNat ∧
      natOfBytes ((r.drop 8).take 8) = x.pc.toNat ∧ natOfBytes ((r.drop 0x10).take 8) = x.nextpc.toNat ∧
      natOfBytes ((r.drop 0x18).take 8) = x.word.toNat ∧ natOfBytes ((r.drop 0x20).take 8) = t.addr % 2 ^ 64 ∧
      natOfBytes ((r.drop 0x28).take 8) = t.info % 2 ^ 64 ∧ natOfBytes ((r.drop 0x30).take 4) = m.toNat ∧
      r.getD 0x34 0 = BitVec.ofNat 8 wv.ids.wid ∧ r.getD 0x35 0 = BitVec.ofNat 8 wv.ids.bid ∧
      r.getD 0x36 0 = BitVec.ofNat 8 wv.ids.stage ∧ r.getD 0x37 0 = BitVec.ofNat 8 flags ∧
      natOfBytes ((r.drop 0x38).take 8) = s.time % 2 ^ 64

/-- A trap under HALT, and any trap of a split in handler mode, halts: the report has REASON 0x0100 + CLASS and, as its DETAIL, bytes
0x00 to 0x0F of the trap record and ADDR; bit 1 of XFLAGS is NESTED (R184, R187). -/
def Obligations.TrapHalts : Prop :=
  ∀ (s : State) (w slot : Nat) (x : TrapAt) (t : Trap) (wv : Weave) (sp : Split),
    weaveOf s w = some wv → look wv.splits slot = some sp → (sp.handler = true ∨ dispOf wv.hdr t.cls = 0) →
      let fl := (if x.held then 1 else 0) + coIssue s wv slot sp.mask + (if sp.handler then 2 else 0)
      ∃ b, deliver s w slot x t =
        haltReport (trace s wv.ids.tenancy wv.shop 5 wv.ids.wid slot x.pc sp.mask wv.ids.lotid (t.cls * 256 + t.cause)) wv.ids.lot
          (0x0100 + t.cls) b ((trapRecord s wv slot sp.mask x t fl).take 16 ++ bytesOf 8 t.addr) (BitVec.ofNat 32 fl)

/-- A sibling split whose trap arrives while another split of the weave is in handler mode parks and keeps its trap (R184). -/
def Obligations.TrapOfSiblingParks : Prop :=
  ∀ (s : State) (w slot : Nat) (x : TrapAt) (t : Trap) (wv : Weave) (sp : Split),
    weaveOf s w = some wv → look wv.splits slot = some sp → sp.handler = false → dispOf wv.hdr t.cls = 1 →
    wv.splits.any (fun y => decide (y.1 ≠ slot) && y.2.handler) = true →
      ∃ wv', weaveOf (deliver s w slot x t) w = some wv' ∧
        look wv'.splits slot = some { sp with run := none, held := none, late := some (t, x), stay := none, readyAt := 0 } ∧
        sameMemory s (deliver s w slot x t)

/-- The first condition of R126 that applies decides the trap: a register class that the field does not allow, then the modifier, a
misplaced wide operand, a register beyond the header's count, a temporary that an engine uses, the MEM field, the ENG field or a descriptor
outside one register file, the queue register, and last the privilege; where none applies there is no trap (R126, R127, R186). -/
def Obligations.ChecksInOrder : Prop :=
  ∀ (c : Ctx) (f : Form),
    let ill (k : Nat) : Option Trap := some { cls := 0, cause := k, lanes := c.sp.mask }
    let queue := f.ops.find? badQueue
    let priv := !c.wv.ids.priv && (f.priv || f.ops.any (fun o => decide (o.reg = 457)))
    let checks : List (Bool × Option Trap) :=
      [(!f.modOk, ill f.modCause), (f.ops.any badWide, ill 4), (f.ops.any (beyond c.wv.hdr), ill 5),
       (f.ops.any (fun o => o.eng && decide (classBit o.reg = 8)), ill 6), (!f.memOk, ill 7), (!f.engOk || f.ops.any outsideFile, ill 8),
       (queue.isSome, ill (match queue with | some o => if o.cause = 2 then 9 else o.cause | none => 9)),
       (priv, some { cls := 4, cause := 4, lanes := c.sp.mask })]
    (∀ o, f.ops.find? badClass = some o → formTrap c f = ill o.cause) ∧
    (f.ops.find? badClass = none → (∀ x ∈ checks, x.1 = false) → formTrap c f = none) ∧
    (f.ops.find? badClass = none → ∀ pre x post, checks = pre ++ x :: post → (∀ y ∈ pre, y.1 = false) → x.1 = true →
      formTrap c f = x.2)

/-- A word with a reserved opcode raises the illegal-instruction trap, class 0, CAUSE 1, for the split's mask (R124, R126, R186). TRAP and
BKPT, acting once where their predicate is true, raise their traps: class 8 with INFO the code; class 6, CAUSE 1, with INFO IMM16 (R179,
R441). Where it is false they do nothing. -/
def Obligations.TrapInstructions : Prop :=
  (∀ (s : State) (word : DWord) (c : Ctx), ctxOf s 0 7 = some c → c.fenced = false →
    exec (.reservedOpcode word) s = .next (counted (raise s c { cls := 0, cause := 1, lanes := c.sp.mask }) c)) ∧
  (∀ f : RI, Does (.trap f) f.pn f.pred (waitForm f true false) (fun s c =>
      if c.once then .trap { cls := 8, cause := 0, lanes := c.sp.mask, info := f.imm.toNat } else .done s)) ∧
  ∀ f : SYS, Does (.bkpt f) f.pn f.pred (sysForm f (sysNone f.dst) (sysNone f.sa) true) (fun s c =>
      if c.once then .trap { cls := 6, cause := 1, lanes := c.sp.mask, info := f.imm.toNat } else .done s)

/-! ### The bench (spec/08_bench.md R174 to R182) -/

/-- NOP does nothing; ACTM writes the split's mask; PGET writes a strand's predicate bit to a vector register and all 32 bits to a
scalar one; PLOG and PPUT write the qualifying strands' bits of a predicate, and every other strand's bit, every
other predicate and every other weave's predicates stay as they were (R175, R181, R123). -/
def Obligations.BenchPlain : Prop :=
  (∀ f : RRR, Does (.nop f) f.pn f.pred (bareForm f false) (fun s _ => .done s)) ∧
  (∀ f : RRR, Writes (.actm f) f.pn f.pred
    { ops := [dstIn 3 f.dst, unused f.sa, unused f.sb, unused f.sc], modOk := modZero16 f.mod } f.dst 1
    (fun _ c _ => c.sp.mask.toNat)) ∧
  (∀ f : RRR, Writes (.pget f) f.pn f.pred
    { ops := [dstIn 3 f.dst, unused f.sa, unused f.sb, unused f.sc], modOk := decide (f.mod.extractLsb' 3 13 = 0) } f.dst 1
    (fun _ c k =>
      let p := predMask c.wv (f.mod.extractLsb' 0 3).toNat
      if f.dst.toNat < 384 then (p.getLsbD k).toNat else p.toNat)) ∧
  (∀ f : RRR, Does (.plog f) f.pn f.pred
    { ops := rrrNone f, modOk := decide (f.mod.extractLsb' 8 8 = 0 ∧ (f.mod.extractLsb' 0 3).toNat ≠ 7) } (fun s c =>
      let a := predMask c.wv (f.mod.extractLsb' 3 3).toNat
      let d := predMask c.wv (f.mod.extractLsb' 0 3).toNat
      let op := (f.mod.extractLsb' 6 2).toNat
      .done (writePredicate s c (f.mod.extractLsb' 0 3).toNat
        (if op = 0 then a else if op = 1 then d &&& a else if op = 2 then d ||| a else d ^^^ a)))) ∧
  (∀ f : RRR, Does (.pput f) f.pn f.pred
    { ops := [unused f.dst, srcIn 19 f.sa, unused f.sb, unused f.sc],
      modOk := decide (f.mod.extractLsb' 5 11 = 0 ∧ (f.mod.extractLsb' 0 3).toNat ≠ 7) } (fun s c =>
      let op := (f.mod.extractLsb' 3 2).toNat
      let a (k : Nat) := srcWord s c f.sa.toNat k
      .done (writePredicate s c (f.mod.extractLsb' 0 3).toNat (maskOf (allStrands.filter (fun k =>
        if op = 0 then (a k).getLsbD k else if op = 1 then a k != 0 else if op = 2 then (a k).msb else a k == 0)))))) ∧
  ∀ (s : State) (c : Ctx) (d : Nat) (x : Mask) (wv : Weave), weaveOf s c.w = some wv → d < 7 →
    ∃ wv', weaveOf (writePredicate s c d x) c.w = some wv' ∧
      (∀ k < 32, (predMask wv' d).getLsbD k = if c.q.getLsbD k then x.getLsbD k else (predMask wv d).getLsbD k) ∧
      (∀ e, e ≠ d → predMask wv' e = predMask wv e) ∧
      (∀ w, w ≠ c.w → weaveOf (writePredicate s c d x) w = weaveOf s w) ∧ sameMemory s (writePredicate s c d x)

/-- BRA, BRX, CALL and RET, acting once for the split where the predicate is true in the lowest active strand: the split goes to the
target, H + 8 × OFF32 or the PC in the scalar pair; CALL writes the next clause's PC to its scalar pair first; a PC whose bits [2:0] are
not zero raises ALIGN, cause 2; RET and BRX end handler mode (R115, R176, R184, R186). -/
def Obligations.Branches : Prop :=
  (∀ f : BR, Does (.bra f) f.pn f.pred (brForm f) (fun s c =>
    if c.once then .goto (countW s c.wv 6 1) (c.pc + 8 * f.off.signExtend 64) false else .done s)) ∧
  (∀ (g : RRR → Instr), (g = .brx ∨ g = .ret) → ∀ f : RRR, Does (g f) f.pn f.pred
    { ops := [unused f.dst, srcIn 2 f.sa 2, unused f.sb, unused f.sc], modOk := modZero16 f.mod } (fun s c =>
    let t := opd64 s c f.sa 0
    if c.once = false then .done s
    else if t.extractLsb' 0 3 = 0 then .goto (endHandler (countW s c.wv 6 1) c t) t false
    else .trap { cls := 2, cause := 2, lanes := c.sp.mask, addr := t.toNat })) ∧
  (∀ f : BR, Does (.call f) f.pn f.pred { ops := [dstIn 2 f.dst 2, unused f.sa], modOk := decide (f.rsv = 0) } (fun s c =>
    let link := (c.pc + BitVec.ofNat 64 (8 * (hdrCount c.hdr + 2))).toNat
    let k := sKey (f.dst.toNat - 384)
    if c.once then
      .goto (countW (writeWords s c.w [(k, BitVec.ofNat 32 link), (k + 1, BitVec.ofNat 32 (link / 2 ^ 32))]) c.wv 6 1)
        (c.pc + 8 * f.off.signExtend 64) false
    else .done s))

/-- BRV: no strand takes it where the predicate is false in all; the whole split goes where it is true in all; otherwise the split
divides, its strands for which the predicate is true into a new split at the target, in the lowest empty slot or pending on the stack,
whose deeper items spill; where neither has room it traps, cause 11, and divides nothing (R40, R41, R176). -/
def Obligations.BranchDivides : Prop :=
  ∀ f : BR, Does (.brv f) f.pn f.pred (brForm f) (fun s c =>
    let target := c.pc + 8 * f.off.signExtend 64
    if c.q = 0 then .done s
    else if c.q = c.sp.mask then .goto (countW s c.wv 6 1) target false
    else if (freeSlot c.wv).isNone ∧ 144 ≤ c.wv.stack.length then .trap { cls := 0, cause := 11, lanes := c.sp.mask }
    else .done (countW (modWeave s c.w (fun wv =>
      dropTemps (placeSplit { wv with splits := edit wv.splits c.slot (fun sp => { sp with mask := sp.mask &&& ~~~c.q }) }
        target c.q c.sp.handler (decide (target.toNat ≤ c.pc.toNat))).fitStack c.q)) c.wv 7 1))

/-- JMARK pushes a join entry with the rejoin address and the split's mask, or traps, cause 11, where the stack is full; JOIN arrives at
the top entry if that holds the split's strands, parks while an inner entry stands above one that does, and traps, cause 10, if none
does; END takes the split's strands out of every open entry's mark and ends them. A push spills the items that the bench has no room for; a
JOIN or END that needs items of the spill arena refills them first, its split parked with stall reason spill refill (R41, R42, R176 to R178). -/
def Obligations.JoinsAndEnd : Prop :=
  (∀ f : BR, Does (.jmark f) f.pn f.pred (brForm f) (fun s c =>
    if c.once = false then .done s
    else if 144 ≤ c.wv.stack.length then .trap { cls := 0, cause := 11, lanes := c.sp.mask }
    else .done (modWeave s c.w (fun wv =>
      Weave.fitStack { wv with stack := .entry (c.pc + 8 * f.off.signExtend 64) c.sp.mask 0 false :: wv.stack })))) ∧
  (∀ f : RRR, Does (.join f) f.pn f.pred (bareForm f true) (fun s c =>
    if c.once = false then .done s
    else
      match topEntry c.wv.stack with
      | none => .trap { cls := 0, cause := 10, lanes := c.sp.mask }
      | some (up, (pc, mark, arrived, h), dn) =>
        if c.sp.mask &&& ~~~mark = 0 then
          withRefill s c c.wv.stack (settleJoins (setWeave s c.w (dropTemps (freeSplit
            { c.wv with stack := up ++ .entry pc mark (arrived ||| c.sp.mask) (h || c.sp.handler) :: dn } c.slot) c.sp.mask)) c.w) .gone
        else if anyMark c.sp.mask c.wv.stack then .hold s .joinWait .retry
        else .trap { cls := 0, cause := 10, lanes := c.sp.mask })) ∧
  (∀ f : RRR, Does (.endSplit f) f.pn f.pred (bareForm f false) (fun s c =>
    if c.once then
      withRefill s c (unmark c.sp.mask c.wv.stack) (settleJoins (modWeave s c.w (fun wv => dropTemps (freeSplit
        { wv with exited := wv.exited ||| c.sp.mask, stack := unmark c.sp.mask wv.stack } c.slot) c.sp.mask)) c.w) .gone
    else .done s)) ∧
  ∀ (s s1 : State) (c : Ctx) (before : List JoinItem) (wv : Weave), weaveOf s1 c.w = some wv →
    (itemsUsed before wv.stack ≤ before.length - c.wv.jspill →
      withRefill s c before s1 .gone = .gone (modWeave s1 c.w Weave.fitStack)) ∧
    (before.length - c.wv.jspill < itemsUsed before wv.stack → withRefill s c before s1 .gone =
      .stay (modWeave s c.w (fun wv' => { wv' with jspill := before.length - itemsUsed before wv.stack })) (some .spill))

/-- WAITF completes when every flag it names is clear, and waits while one is set; PAUSE begins a wait of min(n, 2^20) cycles at its
first issue (R179). DEAD gives the registers it names free values (R174; log entry 1); in renamed mode those that no Loom operation holds
are mapped no longer (R174, note c of R31). -/
def Obligations.WaitsAndDead : Prop :=
  (∀ f : RI, Does (.waitf f) f.pn f.pred (waitForm f (decide (f.imm.extractLsb' 12 20 = 0)) true) (fun s c =>
    if c.once && (List.range 12).any (fun n => f.imm.getLsbD n && (look c.wv.flags n).isSome) then .hold s .flag .retry
    else .done s)) ∧
  (∀ (f : RI) s c s2 c2, issued s f.pn f.pred (waitForm f true true) = some (c, s2, c2) → c.held = none →
    exec (.pause f) s = .next (ended s c c2 (waitForm f true true)
      (if c2.once then .hold s2 .pause (.pause (s2.cycles + min f.imm.toNat (2 ^ 20))) else .done s2))) ∧
  (∀ f : RRR, Does (.dead f) f.pn f.pred
    { ops := [unused f.dst, { reg := f.sa.toNat, cls := 1, wide := modOPX f.mod + 1, range := true, names := true }, unused f.sb,
              unused f.sc],
      modOk := decide (modRM f.mod = 0) && !modSAT f.mod && decide (modTYPE f.mod = 0) } (fun s c =>
    if c.once then
      let keys := rangeKeys f.sa.toNat (modOPX f.mod + 1)
      let s1 := writeWords s c.w (keys.map (fun k => (k, freeWord s k)))
      .done (if c.wv.hdr.renamed then modWeave s1 c.w (fun wv =>
          unmapRegs { wv with dead := wv.dead ++ keys }
            (((List.range (modOPX f.mod + 1)).map (fun i => f.sa.toNat + i)).filter (fun r => !((loomHolds wv).contains r))))
        else s1)
    else .done s))

/-! ### Scalar arithmetic (spec/08_bench.md R182) -/

/-- Every scalar instruction completes when issued: it computes once, from what the lowest qualifying strand
sees, and writes one scalar result of its width; those with an immediate do so on 32 bits (R182, R113, R119, R123). -/
def Obligations.ScalarCompletes : Prop :=
  (∀ f : RRR,
    let w := 32 * intWords (modTYPE f.mod)
    let sg := decide (modTYPE f.mod % 2 = 0)
    let n := intWords (modTYPE f.mod)
    let a (s : State) (c : Ctx) (m : Nat) := srcN s c f.sa.toNat c.low m
    let b (s : State) (c : Ctx) (m : Nat) := srcN s c f.sb.toNat c.low m
    let Row (i : Instr) (h : ScaShape) (m : Nat) (v : State → Ctx → Nat) : Prop :=
      Writes i f.pn f.pred
        { ops := scaOps f h,
          modOk := decide (modRM f.mod = 0) && !modSAT f.mod && decide (modTYPE f.mod ≤ 3) && decide (modOPX f.mod = 0) }
        f.dst m (fun s c _ => v s c)
    Row (.smov f) { has := 2, narrow := 0 } n (fun s c => a s c n) ∧
    Row (.sadd f) { has := 6, narrow := 0 } n (fun s c => addW w (a s c n) (b s c n)) ∧
    Row (.ssub f) { has := 6, narrow := 0 } n (fun s c => subW w (a s c n) (b s c n)) ∧
    Row (.smul f) { has := 6, narrow := 0 } n (fun s c => mulW w (a s c n) (b s c n)) ∧
    Row (.smulh f) { has := 6, narrow := 0 } n (fun s c => mulhW sg w (a s c n) (b s c n)) ∧
    Row (.sand f) { has := 6, narrow := 0 } n (fun s c => a s c n &&& b s c n) ∧
    Row (.sor f) { has := 6, narrow := 0 } n (fun s c => a s c n ||| b s c n) ∧
    Row (.sxor f) { has := 6, narrow := 0 } n (fun s c => a s c n ^^^ b s c n) ∧
    Row (.sshl f) { has := 6, narrow := 4 } n (fun s c => shlW w (a s c n) (b s c 1)) ∧
    Row (.sshr f) { has := 6, narrow := 4 } n (fun s c => shrW w (a s c n) (b s c 1)) ∧
    Row (.ssra f) { has := 6, narrow := 4 } n (fun s c => sraW w (a s c n) (b s c 1)) ∧
    Row (.smin f) { has := 6, narrow := 0 } n (fun s c => minW sg w (a s c n) (b s c n)) ∧
    Row (.smax f) { has := 6, narrow := 0 } n (fun s c => maxW sg w (a s c n) (b s c n)) ∧
    Row (.scmp f) { has := 6, narrow := 1 } 1 (fun s c => cmpW sg w (a s c n) (b s c n)) ∧
    Row (.ssel f) { has := 14, narrow := 8 } n (fun s c => if srcN s c f.sc.toNat c.low 1 ≠ 0 then a s c n else b s c n) ∧
    Row (.sclz f) { has := 2, narrow := 1 } 1 (fun s c => clzOf w (a s c n)) ∧
    Row (.spopc f) { has := 2, narrow := 1 } 1 (fun s c => popOf w (a s c n))) ∧
  ∀ f : RI,
    let sg := decide (f.itype = 0)
    let i := f.imm.toNat
    let Row (x : Instr) (usesA : Bool) (v : Nat → Nat) : Prop :=
      Writes x f.pn f.pred
        { ops := [dstIn 34 f.dst, if usesA then srcIn 50 f.sa else unused f.sa], modOk := decide (f.itype.toNat ≤ 1) } f.dst 1
        (fun s c _ => v (srcN s c f.sa.toNat c.low 1))
    Row (.smovRi f) false (fun _ => i) ∧ Row (.saddRi f) true (fun a => addW 32 a i) ∧ Row (.smulRi f) true (fun a => mulW 32 a i) ∧
    Row (.sandRi f) true (fun a => a &&& i) ∧ Row (.sorRi f) true (fun a => a ||| i) ∧ Row (.sxorRi f) true (fun a => a ^^^ i) ∧
    Row (.sshlRi f) true (fun a => shlW 32 a i) ∧ Row (.sshrRi f) true (fun a => shrW 32 a i) ∧
    Row (.ssraRi f) true (fun a => sraW 32 a i) ∧ Row (.scmpRi f) true (fun a => cmpW sg 32 a i) ∧
    Row (.sminRi f) true (fun a => minW sg 32 a i) ∧ Row (.smaxRi f) true (fun a => maxW sg 32 a i)

/-- The integer operations of R182 and R242, at any width: sums, differences and products modulo 2^w; the high half of the signed or
unsigned product; shifts by the amount modulo w, the arithmetic one with the sign; the lesser and the greater value as the type reads
them; −1, 0 or 1 for a comparison; the number of leading zeros and of ones. -/
def Obligations.IntegerOperations : Prop :=
  ∀ (w : Nat) (a b : BitVec w), 0 < w →
    addW w a.toNat b.toNat = (a + b).toNat ∧ subW w a.toNat b.toNat = (a - b).toNat ∧ mulW w a.toNat b.toNat = (a * b).toNat ∧
    mulhW true w a.toNat b.toNat = (BitVec.ofInt w (a.toInt * b.toInt / 2 ^ w)).toNat ∧
    mulhW false w a.toNat b.toNat = a.toNat * b.toNat / 2 ^ w ∧
    (∀ n : Nat, shlW w a.toNat n = (a <<< (n % w)).toNat) ∧ (∀ n : Nat, shrW w a.toNat n = (a >>> (n % w)).toNat) ∧
    (∀ n : Nat, sraW w a.toNat n = (a.sshiftRight (n % w)).toNat) ∧
    minW true w a.toNat b.toNat = (if a.sle b then a else b).toNat ∧ minW false w a.toNat b.toNat = min a.toNat b.toNat ∧
    maxW true w a.toNat b.toNat = (if b.sle a then a else b).toNat ∧ maxW false w a.toNat b.toNat = max a.toNat b.toNat ∧
    cmpW true w a.toNat b.toNat = (if a.slt b then (-1#32) else if a = b then 0#32 else 1#32).toNat ∧
    cmpW false w a.toNat b.toNat = (if a < b then (-1#32) else if a = b then 0#32 else 1#32).toNat ∧
    (∀ k, clzOf w a.toNat = k ↔ k ≤ w ∧ (∀ i, w - k ≤ i → a.getLsbD i = false) ∧ (k < w → a.getLsbD (w - k - 1) = true)) ∧
    popOf w a.toNat = ((List.range w).filter (fun i => a.getLsbD i)).length

/-! ### The Spindle (spec/11_spindle.md R240 to R256) -/

/-- Every element-wise arithmetic instruction completes when issued: in each qualifying strand it takes its operands of TYPE and gives
the strand's result and flags (R242, R243). -/
def Obligations.VectorArithmeticCompletes : Prop :=
  ∀ f : RRR,
    let Row (i : Instr) (h : VShape) (op : Nat → Nat → Nat → Nat → Nat → FRes) : Prop :=
      Computes i f.pn f.pred (vecForm f h (decide (modOPX f.mod = 0))) f.dst (h.wide (modTYPE f.mod) 0) (fun s c k =>
        op (modTYPE f.mod) (modRM f.mod) (srcN s c f.sa.toNat k (h.wide (modTYPE f.mod) 1))
          (srcN s c f.sb.toNat k (h.wide (modTYPE f.mod) 2)) (srcN s c f.sc.toNat k (h.wide (modTYPE f.mod) 3)))
    Row (.vmov f) { nsrc := 1, types := [0, 1, 2, 3] } (fun _ _ a _ _ => ires a) ∧
    Row (.vadd f) { nsrc := 2, types := [0, 1, 2, 3, 4, 5, 6, 7], rounds := true } (fun t rm a b _ => addType t rm a b) ∧
    Row (.vsub f) { nsrc := 2, types := [0, 1, 2, 3, 4, 5, 6, 7], rounds := true } (fun t rm a b _ => subType t rm a b) ∧
    Row (.vadds f) { nsrc := 2, types := [0, 1, 13, 14] } (fun t _ a b _ => addsType t a b) ∧
    Row (.vsubs f) { nsrc := 2, types := [0, 1, 13, 14] } (fun t _ a b _ => subsType t a b) ∧
    Row (.vmul f) { nsrc := 2, types := [0, 1, 2, 3, 4, 5, 6, 7], rounds := true } (fun t rm a b _ => mulType t rm a b) ∧
    Row (.vmulh f) { nsrc := 2, types := [0, 1, 2, 3] } (fun t _ a b _ => ires (mulhW (isSigned t) (typeBits t) a b)) ∧
    Row (.vmulw f) { nsrc := 2, types := [0, 1], pair := true } (fun t _ a b _ => ires (narrow 64 (ival t a * ival t b))) ∧
    Row (.vmad f) { nsrc := 3, types := [0, 1, 2, 3] } (fun t _ a b c => ires ((a * b + c) % 2 ^ typeBits t)) ∧
    Row (.vmadh f) { nsrc := 3, types := [0, 1] } (fun t _ a b c => ires (addW 32 (mulhW (isSigned t) 32 a b) c)) ∧
    Row (.vfma f) { nsrc := 3, types := [4, 5, 6, 7], rounds := true } (fun t rm a b c => fmaType false false t rm a b c) ∧
    Row (.vfms f) { nsrc := 3, types := [4, 5, 6, 7], rounds := true } (fun t rm a b c => fmaType false true t rm a b c) ∧
    Row (.vfnma f) { nsrc := 3, types := [4, 5, 6, 7], rounds := true } (fun t rm a b c => fmaType true false t rm a b c) ∧
    Row (.vabs f) { nsrc := 1, types := [0, 2, 4, 5, 6, 7] } (fun t _ a _ _ => absType t a) ∧
    Row (.vneg f) { nsrc := 1, types := [0, 1, 2, 3, 4, 5, 6, 7] } (fun t _ a _ _ => negType t a) ∧
    Row (.vmin f) { nsrc := 2, types := [0, 1, 2, 3, 4, 5, 6, 7, 13, 14] } (fun t _ a b _ => minType t a b) ∧
    Row (.vmax f) { nsrc := 2, types := [0, 1, 2, 3, 4, 5, 6, 7, 13, 14] } (fun t _ a b _ => maxType t a b) ∧
    Row (.vclamp f) { nsrc := 3, types := [0, 1, 2, 3, 4, 5, 6, 7] } (fun t _ a b c => clampOp t a b c) ∧
    Row (.vsgn f) { nsrc := 2, types := [0, 2, 4, 5, 6, 7] } (fun t _ a b _ => sgnType t a b) ∧
    Row (.vabsd f) { nsrc := 2, types := [0, 1, 13, 14, 4, 5], rounds := true } (fun t rm a b _ => absdType t rm a b) ∧
    Row (.vavg f) { nsrc := 2, types := [0, 1, 13, 14] } (fun t _ a b _ => avgType t a b) ∧
    Row (.vaddc f) { nsrc := 3, types := [1], pair := true } (fun _ _ a b c => ires (a + b + c % 2)) ∧
    Row (.vsubb f) { nsrc := 3, types := [1], pair := true } (fun _ _ a b c =>
      ires (subW 32 a (b + c % 2) + if a < b + c % 2 then 2 ^ 32 else 0))

/-- Every bitwise, shift, field, select and rearranging instruction completes when issued, strand by strand (R244, R245, R247, R248). -/
def Obligations.VectorLogicCompletes : Prop :=
  ∀ f : RRR,
    let Row (i : Instr) (h : VShape) (ok : Bool) (op : Nat → Nat → Nat → Nat → FRes) : Prop :=
      Computes i f.pn f.pred (vecForm f h ok) f.dst (h.wide (modTYPE f.mod) 0) (fun s c k =>
        op (modTYPE f.mod) (srcN s c f.sa.toNat k (h.wide (modTYPE f.mod) 1))
          (srcN s c f.sb.toNat k (h.wide (modTYPE f.mod) 2)) (srcN s c f.sc.toNat k (h.wide (modTYPE f.mod) 3)))
    let z := decide (modOPX f.mod = 0)
    Row (.vand f) { nsrc := 2, types := [0, 1, 2, 3] } z (fun _ a b _ => ires (a &&& b)) ∧
    Row (.vor f) { nsrc := 2, types := [0, 1, 2, 3] } z (fun _ a b _ => ires (a ||| b)) ∧
    Row (.vxor f) { nsrc := 2, types := [0, 1, 2, 3] } z (fun _ a b _ => ires (a ^^^ b)) ∧
    Row (.vnot f) { nsrc := 1, types := [0, 1, 2, 3] } z (fun t a _ _ => ires (2 ^ typeBits t - 1 - a)) ∧
    Row (.vbool f) { nsrc := 3, types := [0, 1, 2, 3] } true (fun t a b c => ires (fromBits (typeBits t) (fun i =>
      f.mod.getLsbD ((a.testBit i).toNat + 2 * (b.testBit i).toNat + 4 * (c.testBit i).toNat)))) ∧
    Row (.vshl f) { nsrc := 2, types := [0, 1, 2, 3], narrow := 4 } z (fun t a b _ => ires (shlW (typeBits t) a b)) ∧
    Row (.vshr f) { nsrc := 2, types := [0, 1, 2, 3], narrow := 4 } z (fun t a b _ => ires (shrW (typeBits t) a b)) ∧
    Row (.vsra f) { nsrc := 2, types := [0, 1, 2, 3], narrow := 4 } z (fun t a b _ => ires (sraW (typeBits t) a b)) ∧
    Row (.vrol f) { nsrc := 2, types := [0, 1, 2, 3], narrow := 4 } z (fun t a b _ => ires (rolW (typeBits t) a b)) ∧
    Row (.vclz f) { nsrc := 1, types := [0, 1, 2, 3], narrow := 1 } z (fun t a _ _ => ires (clzOf (typeBits t) a)) ∧
    Row (.vctz f) { nsrc := 1, types := [0, 1, 2, 3], narrow := 1 } z (fun t a _ _ => ires (ctzOf (typeBits t) a)) ∧
    Row (.popc f) { nsrc := 1, types := [0, 1, 2, 3], narrow := 1 } z (fun t a _ _ => ires (popOf (typeBits t) a)) ∧
    Row (.vbrev f) { nsrc := 1, types := [0, 1, 2, 3] } z (fun t a _ _ =>
      ires (fromBits (typeBits t) (fun i => a.testBit (typeBits t - 1 - i)))) ∧
    Row (.vbswap f) { nsrc := 1, types := [0, 1, 2, 3] } z (fun t a _ _ => ires (natOfBytes (bytesOf (typeBits t / 8) a).reverse)) ∧
    Row (.vbfe f) { nsrc := 2, types := [0, 1] } z (fun t a b _ => ires (bfe t a b)) ∧
    Row (.vbfi f) { nsrc := 3, types := [0, 1] } z (fun _ a b c => ires (bfi a b c)) ∧
    Row (.vsel f) { nsrc := 3, types := [0, 1, 2, 3], narrow := 8 } z (fun _ a b c => ires (if c = 0 then b else a)) ∧
    Row (.vclass f) { nsrc := 1, types := [4, 5, 6, 7], narrow := 1 } z (fun t a _ _ =>
      ires ((List.range (lanesOf t)).foldl (fun r e => r + classMask (fmtD t) (lane t a e) * 2 ^ (16 * e)) 0)) ∧
    Row (.vpack f) { nsrc := 2, types := [13, 14, 15] } (elemOk f) (fun t a b _ =>
      let w := typeBits t
      let i := modOPX f.mod % 8
      let e := clampType t (if t = 14 then (a : Int) else signedOf 32 a)
      ires (fromBits 32 (fun j => if w * i ≤ j ∧ j < w * i + w then e.testBit (j - w * i) else b.testBit j))) ∧
    Row (.vunpk f) { nsrc := 1, types := [13, 14, 15] } (elemOk f) (fun t a _ _ =>
      ires (narrow 32 (ival t (lane t a (modOPX f.mod % 8))))) ∧
    Row (.vswz f) { nsrc := 1, types := [1] } true (fun _ a _ _ =>
      ires (natOfBytes ((List.range 4).map (fun j => (bytesOf 4 a).getD (modOPX f.mod / 4 ^ j % 4) 0)))) ∧
    Row (.vshuf f) { nsrc := 3, types := [1] } z (fun _ a b c => ires (natOfBytes ((bytesOf 4 c).map (fun x =>
      if x.getLsbD 7 then 0 else (bytesOf 4 a ++ bytesOf 4 b).getD (x.toNat % 8) 0))))

/-- Every element-wise instruction with an immediate completes when issued, on 32 bits, and is its RRR form with the immediate as the
last operand; a float form rounds RNE (R113, R240, R242 to R247). -/
def Obligations.VectorImmediateCompletes : Prop :=
  ∀ f : RI,
    let i := f.imm.toNat
    let Row (x : Instr) (usesA floats : Bool) (op : Nat → Nat → FRes) : Prop :=
      Computes x f.pn f.pred
        { ops := [dst f.dst, if usesA then src f.sa else unused f.sa], modOk := decide (f.itype.toNat ≤ if floats then 2 else 1) }
        f.dst 1 (fun s c k => op (itypeOf f.itype) (srcN s c f.sa.toNat k 1))
    Row (.vmovRi f) false true (fun _ _ => ires i) ∧ Row (.vaddRi f) true true (fun t a => addType t 0 a i) ∧
    Row (.vsubRi f) true true (fun t a => subType t 0 a i) ∧ Row (.vaddsRi f) true false (fun t a => addsType t a i) ∧
    Row (.vmulRi f) true true (fun t a => mulType t 0 a i) ∧ Row (.vminRi f) true true (fun t a => minType t a i) ∧
    Row (.vmaxRi f) true true (fun t a => maxType t a i) ∧ Row (.vandRi f) true false (fun _ a => ires (a &&& i)) ∧
    Row (.vorRi f) true false (fun _ a => ires (a ||| i)) ∧ Row (.vxorRi f) true false (fun _ a => ires (a ^^^ i)) ∧
    Row (.vshlRi f) true false (fun _ a => ires (shlW 32 a i)) ∧ Row (.vshrRi f) true false (fun _ a => ires (shrW 32 a i)) ∧
    Row (.vsraRi f) true false (fun _ a => ires (sraW 32 a i)) ∧ Row (.vrolRi f) true false (fun _ a => ires (rolW 32 a i)) ∧
    Row (.vselRi f) true true (fun _ a => ires (if a = 0 then i else a))

/-- What the operations of R242 to R245 give on 32-bit and 64-bit integers: sum, difference and product modulo 2^w; sum and difference
clamped to the type's range; magnitude, negative, distance and rounded mean; a field taken out and put in under the position and
length of R245; and for VDOT4 on signed bytes c plus the sum of the products of the bytes, modulo 2^32, or clamped to the range of I32
under .SAT (R249). -/
def Obligations.VectorIntegerValues : Prop :=
  (∀ t rm, t < 4 → ∀ a b, a < 2 ^ typeBits t → b < 2 ^ typeBits t →
    addType t rm a b = { val := (BitVec.ofNat (typeBits t) a + BitVec.ofNat (typeBits t) b).toNat, fl := 0 } ∧
    subType t rm a b = { val := (BitVec.ofNat (typeBits t) a - BitVec.ofNat (typeBits t) b).toNat, fl := 0 } ∧
    mulType t rm a b = { val := (BitVec.ofNat (typeBits t) a * BitVec.ofNat (typeBits t) b).toNat, fl := 0 } ∧
    negType t a = { val := (-(BitVec.ofNat (typeBits t) a)).toNat, fl := 0 }) ∧
  (∀ a b : BitVec 32,
    addsType 0 a.toNat b.toNat = { val := (BitVec.ofInt 32 (max (-2 ^ 31) (min (2 ^ 31 - 1) (a.toInt + b.toInt)))).toNat, fl := 0 } ∧
    subsType 0 a.toNat b.toNat = { val := (BitVec.ofInt 32 (max (-2 ^ 31) (min (2 ^ 31 - 1) (a.toInt - b.toInt)))).toNat, fl := 0 } ∧
    addsType 1 a.toNat b.toNat = { val := min (2 ^ 32 - 1) (a.toNat + b.toNat), fl := 0 } ∧
    subsType 1 a.toNat b.toNat = { val := a.toNat - b.toNat, fl := 0 } ∧
    absType 0 a.toNat = { val := a.toInt.natAbs % 2 ^ 32, fl := 0 } ∧
    absdType 1 0 a.toNat b.toNat = { val := max a.toNat b.toNat - min a.toNat b.toNat, fl := 0 } ∧
    avgType 1 a.toNat b.toNat = { val := (a.toNat + b.toNat + 1) / 2, fl := 0 } ∧
    (∀ p n, p < 32 → 0 < n → p + n ≤ 32 →
      bfe 1 a.toNat (p + 256 * n) = (a.extractLsb' p n).toNat ∧
      bfe 0 a.toNat (p + 256 * n) = ((a.extractLsb' p n).signExtend 32).toNat ∧
      ∀ i < 32, (bfi a.toNat (p + 256 * n) b.toNat).testBit i =
        if p ≤ i ∧ i < p + n then a.getLsbD (i - p) else b.getLsbD i)) ∧
  ∀ (sat : Bool) (a b c : BitVec 32),
    let e (x : BitVec 32) (i : Nat) := x.extractLsb' (8 * i) 8
    let ss := c.toInt + (e a 0).toInt * (e b 0).toInt + (e a 1).toInt * (e b 1).toInt + (e a 2).toInt * (e b 2).toInt +
      (e a 3).toInt * (e b 3).toInt
    dotOp 4 13 13 0 sat a.toNat b.toNat c.toNat =
      { val := (BitVec.ofInt 32 (if sat then max (-2 ^ 31) (min (2 ^ 31 - 1) ss) else ss)).toNat, fl := 0 }

/-- Float results that no rounding decides (R89), in F32: the first NaN operand, quieted, with NV if a NaN operand is signalling; Inf − Inf
and 0 × Inf give the canonical NaN with NV; and two sums, one exact and one that overflows under RNE. -/
def Obligations.FloatSpecialValues : Prop :=
  (∀ rm (a b : BitVec 32), (isNaN (fdec fmt32 a.toNat) || isNaN (fdec fmt32 b.toNat)) = true →
    let r : FRes := { val := ((if isNaN (fdec fmt32 a.toNat) then a else b) ||| 0x400000#32).toNat,
                      fl := if isSNaN (fdec fmt32 a.toNat) || isSNaN (fdec fmt32 b.toNat) then flagNV else 0 }
    fAdd fmt32 rm a.toNat b.toNat = r ∧ fSub fmt32 rm a.toNat b.toNat = r ∧ fMul fmt32 rm a.toNat b.toNat = r) ∧
  (∀ a : BitVec 32, isNaN (fdec fmt32 a.toNat) = true ↔ a.extractLsb' 23 8 = 255#8 ∧ a.extractLsb' 0 23 ≠ 0#23) ∧
  (∀ a : BitVec 32, isSNaN (fdec fmt32 a.toNat) = true ↔
    a.extractLsb' 23 8 = 255#8 ∧ a.extractLsb' 0 23 ≠ 0#23 ∧ a.getLsbD 22 = false) ∧
  (∀ rm, fAdd fmt32 rm 0x7F800000 0xFF800000 = { val := 0x7FC00000, fl := flagNV } ∧
    fMul fmt32 rm 0 0x7F800000 = { val := 0x7FC00000, fl := flagNV } ∧
    fAdd fmt32 rm 0x7F800000 0x7F800000 = { val := 0x7F800000, fl := 0 }) ∧
  fAdd fmt32 0 0x3F800000 0x3F800000 = { val := 0x40000000, fl := 0 } ∧
  fAdd fmt32 0 0x7F7FFFFF 0x7F7FFFFF = { val := 0x7F800000, fl := flagOF + flagNX }

/-- The comparison instructions complete when issued: each writes its condition's truth in each qualifying strand to a predicate, ANDed
with the predicate's own bit under .AND, and raises its flags; VMATCH gives each strand the mask of the qualifying strands whose value
equals its own (R246, R247). -/
def Obligations.ComparesComplete : Prop :=
  (∀ f : RRR,
    let t := modTYPE f.mod
    let x := modOPX f.mod
    Does (.vcmp f) f.pn f.pred
      { ops := [unused f.dst, src f.sa (wordsOf t), src f.sb (wordsOf t), unused f.sc],
        modOk := decide (t ≤ 7) && decide (modRM f.mod = 0) && !modSAT f.mod && (compareOp (x / 8 % 16) t 0 0).isSome &&
          decide (x % 8 ≠ 7) } (fun s c =>
      writeCompare s c x (fun k => (compareOp (x / 8 % 16) t (lane t (srcN s c f.sa.toNat k (wordsOf t)) 0)
        (lane t (srcN s c f.sb.toNat k (wordsOf t)) 0)).getD (false, 0)))) ∧
  (∀ f : RI,
    let t := itypeOf f.itype
    let x := f.dst.toNat % 256
    Does (.vcmpRi f) f.pn f.pred
      { ops := [src f.sa],
        modOk := decide (f.itype.toNat ≤ 2) && !(f.dst.getLsbD 8) && (compareOp (x / 8 % 16) t 0 0).isSome && decide (x % 8 ≠ 7) }
      (fun s c => writeCompare s c x (fun k => (compareOp (x / 8 % 16) t (srcN s c f.sa.toNat k 1) f.imm.toNat).getD (false, 0)))) ∧
  ∀ f : RRR, Writes (.vmatch f) f.pn f.pred (vecForm f { nsrc := 1, types := [0, 1, 2, 3], narrow := 1 } (decide (modOPX f.mod = 0)))
    f.dst 1 (fun s c k =>
      let v (j : Nat) := srcN s c f.sa.toNat j (wordsOf (modTYPE f.mod))
      (maskOf ((strandsOf c.q).filter (fun j => decide (v j = v k)))).toNat)

/-- The conditions of R246 on 32-bit integers: EQ, NE, LT, LE, GT, GE as the type reads them, and TST, that the bits share a one;
a condition that the type does not define is none. On F32, an unordered pair makes NE and UNO true, every other relation false; LT to
GE raise NV for any NaN, the others for a signalling one only. -/
def Obligations.CompareValues : Prop :=
  (∀ a b : BitVec 32,
    compareOp 0 0 a.toNat b.toNat = some (decide (a = b), 0) ∧ compareOp 1 0 a.toNat b.toNat = some (decide (a ≠ b), 0) ∧
    compareOp 2 0 a.toNat b.toNat = some (a.slt b, 0) ∧ compareOp 3 0 a.toNat b.toNat = some (a.sle b, 0) ∧
    compareOp 4 0 a.toNat b.toNat = some (b.slt a, 0) ∧ compareOp 5 0 a.toNat b.toNat = some (b.sle a, 0) ∧
    compareOp 2 1 a.toNat b.toNat = some (a.ult b, 0) ∧ compareOp 3 1 a.toNat b.toNat = some (a.ule b, 0) ∧
    compareOp 8 1 a.toNat b.toNat = some (decide (a &&& b ≠ 0), 0)) ∧
  (∀ t a b, t < 4 → compareOp 6 t a b = none ∧ compareOp 7 t a b = none) ∧
  ∀ x y : BitVec 32, (isNaN (fdec fmt32 x.toNat) || isNaN (fdec fmt32 y.toNat)) = true →
    let nv := if isSNaN (fdec fmt32 x.toNat) || isSNaN (fdec fmt32 y.toNat) then flagNV else 0
    let cmp (op : Nat) := compareOp op 4 x.toNat y.toNat
    cmp 0 = some (false, nv) ∧ cmp 1 = some (true, nv) ∧ cmp 2 = some (false, flagNV) ∧ cmp 3 = some (false, flagNV) ∧
      cmp 4 = some (false, flagNV) ∧ cmp 5 = some (false, flagNV) ∧ cmp 6 = some (true, nv) ∧ cmp 7 = some (false, nv)

/-- The dot products and VSCALE complete when issued (R249, R250). -/
def Obligations.DotsComplete : Prop :=
  ∀ f : RRR,
    let t := modTYPE f.mod
    let u := modOPX f.mod / 16
    let Row (i : Instr) (n : Nat) (ok : Bool) : Prop :=
      Computes i f.pn f.pred
        { ops := [dst f.dst, src f.sa, src f.sb, src f.sc],
          modOk := ok && decide (modOPX f.mod % 16 = 0) &&
            (if isFloat t then decide (modRM f.mod ≤ 3) && !modSAT f.mod else decide (modRM f.mod = 0)) } f.dst 1
        (fun s c k => dotOp n t u (modRM f.mod) (modSAT f.mod) (srcN s c f.sa.toNat k 1) (srcN s c f.sb.toNat k 1)
          (srcN s c f.sc.toNat k 1))
    Row (.vdot8 f) 8 (decide (t = u) && (decide (t = 15) || decide (t = 12))) ∧
    Row (.vdot4 f) 4 (([13, 14].contains t && [13, 14].contains u) || ([8, 9, 10, 11].contains t && [8, 9, 10, 11].contains u)) ∧
    Row (.vdot2 f) 2 ([6, 7].contains t && [6, 7].contains u) ∧
    Computes (.vscale f) f.pn f.pred
      { ops := [dst f.dst, src f.sa, src f.sb, src f.sc], modOk := decide (modTYPE f.mod = 4) && decide (modRM f.mod ≤ 3) } f.dst 1
      (fun s c k =>
        let byteOf (r : BitVec 9) := srcN s c r.toNat k 1 / 2 ^ (8 * (modOPX f.mod % 4)) % 256
        scaleOp (modRM f.mod) (modSAT f.mod) (srcN s c f.sa.toNat k 1) (byteOf f.sb) (if f.sc = 511 then 127 else byteOf f.sc)
          (modOPX f.mod / 4))

/-- The cross-strand instructions complete when issued, reading from lanes of the split only: a strand whose partner is not in the split
keeps its own value (R251 to R255). -/
def Obligations.CrossStrandCompletes : Prop :=
  ∀ f : RRR,
    let t := modTYPE f.mod
    let n := wordsOf t
    let x := modOPX f.mod
    let val (s : State) (c : Ctx) (k : Nat) := srcN s c f.sa.toNat k n
    Writes (.xchg f) f.pn f.pred (crossForm f 1 (decide (x / 32 ≤ 3))) f.dst n (fun s c j =>
      let k := x % 32
      let p := if x / 32 = 0 then j ^^^ k else if x / 32 = 1 then (if k ≤ j then j - k else j)
        else if x / 32 = 2 then (if j + k ≤ 31 then j + k else j) else (j + k) % 32
      if c.sp.mask.getLsbD p then val s c p else val s c j) ∧
    Writes (.vget f) f.pn f.pred (crossForm f 2 (decide (x = 0))) f.dst n (fun s c j =>
      let p := srcN s c f.sb.toNat j 1 % 32
      if c.sp.mask.getLsbD p then val s c p else val s c j) ∧
    Does (.vput f) f.pn f.pred
      { ops := [dstIn 41 f.dst n, src f.sa n, src f.sb, unused f.sc],
        modOk := decide (t ≤ 3) && decide (modRM f.mod = 0) && !modSAT f.mod && decide (x = 0) } (fun s c =>
      let k := srcN s c f.sb.toNat c.first 1 % 32
      if c.once && c.sp.mask.getLsbD k then .done (writeDst s { c with q := maskOf [k] } f.dst.toNat n (fun _ => val s c c.first))
      else .done s) ∧
    Writes (.ballot f) f.pn f.pred (vecForm f { nsrc := 1, types := [0, 1] } (decide (x = 0))) f.dst 1 (fun s c _ =>
      (maskOf ((strandsOf c.q).filter (fun k => decide (srcN s c f.sa.toNat k 1 ≠ 0)))).toNat) ∧
    Writes (.vprefix f) f.pn f.pred
      (vecForm f { nsrc := 1, types := [0, 1, 2, 3] } (decide (x % 8 ≤ 5) && decide (x < 16))) f.dst n (fun s c j =>
      ((strandsOf c.q).filter (fun k => decide (k < j) || (x.testBit 3 && decide (k = j)))).foldl
        (fun r k => redInt (x % 8) t r (val s c k)) (redId (x % 8) t)) ∧
    Does (.vred f) f.pn f.pred
      { ops := [dst f.dst n, src f.sa n, unused f.sb, unused f.sc],
        modOk := decide (t ≤ 5) && decide (x ≤ if 4 ≤ t then 2 else 5) && !modSAT f.mod && rmOk (decide (x = 0)) t (modRM f.mod) }
      (fun s c =>
        match treeReduce (redOp x t (modRM f.mod)) (allStrands.map (fun k => if c.q.getLsbD k then some (val s c k) else none)) with
        | none => .done (writeDst s c f.dst.toNat n (fun _ => 0))
        | some r => raiseFlags (writeDst s c f.dst.toNat n (fun _ => r.val)) c (fun k => if k = c.low then r.fl else 0))

/-- The reduction tree of R94 gives, for an associative and commutative integer operation, the operation over all the positions that are
not EMPTY; an EMPTY position passes the other operand through. -/
def Obligations.ReductionTree : Prop :=
  ∀ (g : Nat → Nat → Nat) (xs : List (Option Nat)), (∀ a b, g a b = g b a) → (∀ a b c, g (g a b) c = g a (g b c)) → xs.length = 32 →
    treeReduce (fun a b => ires (g a b)) xs =
      (match xs.filterMap id with | [] => none | v :: vs => some (ires (vs.foldl g v)))

/-- RDFF reads FFLAGS, WRFF writes its flag and enable bits, CLRFF clears the flags that its mask names, each once for the weave
(R256). -/
def Obligations.FlagRegister : Prop :=
  ∀ f : RRR,
    Does (.rdff f) f.pn f.pred { ops := [dstIn 11 f.dst, unused f.sa, unused f.sb, unused f.sc], modOk := modZero16 f.mod }
      (fun s c => if c.once then .done (writeDst s { c with q := c.sp.mask } f.dst.toNat 1 (fun _ => c.wv.fflags.toNat)) else .done s) ∧
    Does (.wrff f) f.pn f.pred { ops := [unused f.dst, srcIn 59 f.sa, unused f.sb, unused f.sc], modOk := modZero16 f.mod }
      (fun s c => if c.once then .done (modWeave s c.w (fun wv => { wv with fflags := opd s c f.sa c.first &&& 0x1F1F })) else .done s) ∧
    Does (.clrff f) f.pn f.pred { ops := rrrNone f, modOk := modBare f.mod && decide (modOPX f.mod < 32) }
      (fun s c => if c.once then
          .done (modWeave s c.w (fun wv => { wv with fflags := wv.fflags &&& ~~~(BitVec.ofNat 32 (modOPX f.mod)) }))
        else .done s)

/-- Flags are sticky: an instruction that completes ORs the flags of its qualifying strands into FFLAGS and clears none; where a raised
flag's ENABLE bit is set and the role does not ignore class 7, the arithmetic trap follows, with the flags raised as INFO and the
strands that raised an enabled one as LANES (R92, R93, R185). -/
def Obligations.FlagsAccrue : Prop :=
  ∀ (s : State) (c : Ctx) (fl : Nat → Nat),
    let all := orFlags c.q fl
    let en := (c.wv.fflags.extractLsb' 8 5).toNat
    let s1 := modWeave s c.w (fun wv => { wv with fflags := wv.fflags ||| BitVec.ofNat 32 all })
    (all = 0 → raiseFlags s c fl = .done s) ∧
    (all ≠ 0 → (dispOf c.wv.hdr 7 = 2 ∨ all &&& en = 0) → raiseFlags s c fl = .done s1) ∧
    (all ≠ 0 → dispOf c.wv.hdr 7 ≠ 2 → all &&& en ≠ 0 → raiseFlags s c fl =
      .doneTrap s1 { cls := 7, cause := 0, lanes := maskOf ((strandsOf c.q).filter (fun k => decide (fl k &&& en ≠ 0))), info := all }) ∧
    ∀ s0 regs dests waits s2 t, finish s0 c regs dests waits (.doneTrap s2 t) = raise s2 c t

/-! ### The Assay (spec/12_assay.md R257 to R270) -/

/-- The function instructions, SQRT and DIV complete when issued (R260 to R262). Which of the results inside its accuracy class a
function delivers is free (R259, log entry 4). -/
def Obligations.AssayFunctionsComplete : Prop :=
  ∀ f : RRR,
    let Row (i : Instr) (h : VShape) (op : Nat → Nat → Nat → Nat → FRes) : Prop :=
      Computes i f.pn f.pred (vecForm f h (decide (modOPX f.mod = 0))) f.dst (h.wide (modTYPE f.mod) 0) (fun s c k =>
        op (modTYPE f.mod) (modRM f.mod) (srcN s c f.sa.toNat k (h.wide (modTYPE f.mod) 1))
          (srcN s c f.sb.toNat k (h.wide (modTYPE f.mod) 2)))
    Row (.rcp f) { nsrc := 1, types := [4, 5] } (fun t _ a _ => fnEval .rcp (fmtD t) a) ∧
    Row (.rsq f) { nsrc := 1, types := [4, 5] } (fun t _ a _ => fnEval .rsq (fmtD t) a) ∧
    Row (.exp2 f) { nsrc := 1, types := [4] } (fun t _ a _ => fnEval .exp2 (fmtD t) a) ∧
    Row (.log2 f) { nsrc := 1, types := [4] } (fun t _ a _ => fnEval .log2 (fmtD t) a) ∧
    Row (.sin f) { nsrc := 1, types := [4] } (fun t _ a _ => fnEval .sin (fmtD t) a) ∧
    Row (.cos f) { nsrc := 1, types := [4] } (fun t _ a _ => fnEval .cos (fmtD t) a) ∧
    Row (.expe f) { nsrc := 1, types := [4] } (fun t _ a _ => fnEval .expe (fmtD t) a) ∧
    Row (.loge f) { nsrc := 1, types := [4] } (fun t _ a _ => fnEval .loge (fmtD t) a) ∧
    Row (.tanh f) { nsrc := 1, types := [4] } (fun t _ a _ => fnEval .tanh (fmtD t) a) ∧
    Row (.atan f) { nsrc := 1, types := [4] } (fun t _ a _ => fnEval .atan (fmtD t) a) ∧
    Row (.sqrt f) { nsrc := 1, types := [4, 5], rounds := true } (fun t rm a _ =>
      match nanRule (fmtD t) [a] with
      | some r => r
      | none => deliverNum (fmtD t) rm (nsqrt (fdec (fmtD t) a))) ∧
    Row (.div f) { nsrc := 2, types := [4, 5], rounds := true } (fun t rm a b =>
      match nanRule (fmtD t) [a, b] with
      | some r => r
      | none =>
        match ndiv (fdec (fmtD t) a) (fdec (fmtD t) b) with
        | none => badRes (fmtD t)
        | some (x, fl) => { val := (fenc (fmtD t) x rm false 0).val, fl := (fenc (fmtD t) x rm false 0).fl ||| fl })

/-- The conversions complete when issued; under RM SR each qualifying strand draws from, and advances, its own stochastic state (R84,
R263 to R268). CVTMX gives each strand's one or two elements under the scale that the largest magnitude of its block chooses (R82, R266). -/
def Obligations.ConversionsComplete : Prop :=
  (∀ f : RRR,
    let t := modTYPE f.mod
    let u := modOPX f.mod / 16
    let i := modOPX f.mod % 8
    let rm := modRM f.mod
    let sat := modSAT f.mod
    let rmTop := if isFloat t then 4 else 3
    Does (.cvt f) f.pn f.pred
      { ops := [dst f.dst (wordsOf t), src f.sa (wordsOf u), unused f.sb, unused f.sc],
        modOk := decide (t ≤ 7) && decide (u ≤ 7) && decide (t ≠ u) && (isFloat t || isFloat u) && decide (modOPX f.mod % 16 = 0) &&
          decide (rm ≤ rmTop) }
      (fun s c => perStrandSR s c f.dst.toNat (wordsOf t) (fun k st =>
        convert t (decodeType u (srcN s c f.sa.toNat k (wordsOf u) % 2 ^ typeBits u)) rm sat st)) ∧
    Does (.cvtpk f) f.pn f.pred
      { ops := [dst f.dst, src f.sa (wordsOf u), src f.sb (wordsOf u), src f.sc],
        modOk := decide (6 ≤ t) && (decide (u = 4) || decide (u = 5)) && decide (modOPX f.mod % 16 < 8) &&
          decide (i < perReg t / 2) && decide (rm ≤ rmTop) }
      (fun s c => perStrandSR s c f.dst.toNat 1 (fun k st =>
        let v (r : BitVec 9) := decodeType u (srcN s c r.toNat k (wordsOf u))
        let r := convertAll t rm sat [v f.sa, v f.sb] st
        (packRes t (srcN s c f.sc.toNat k 1) (2 * i) r.1, r.2))) ∧
    Does (.cvtpk2 f) f.pn f.pred
      { ops := [dst f.dst, src f.sa, src f.sb, unused f.sc],
        modOk := [8, 9, 10, 11, 13, 14].contains t && (decide (u = 6) || decide (u = 7)) && decide (modOPX f.mod % 16 = 0) &&
          decide (rm ≤ rmTop) }
      (fun s c => perStrandSR s c f.dst.toNat 1 (fun k st =>
        let es (r : BitVec 9) := (slots 2 (srcN s c r.toNat k 1)).map (decodeType u)
        let r := convertAll t rm sat (es f.sa ++ es f.sb) st
        (packRes t 0 0 r.1, r.2))) ∧
    Computes (.cvtunp f) f.pn f.pred
      { ops := [dst f.dst (wordsOf t), src f.sa, unused f.sb, unused f.sc],
        modOk := (decide (t = 4) || decide (t = 5)) && decide (6 ≤ u) && decide (modOPX f.mod % 16 < 8) && decide (i < perReg u) &&
          modRmSat f.mod 0 false } f.dst (wordsOf t)
      (fun s c k => fenc (fmtD t) (decodeType u (elemAt u (srcN s c f.sa.toNat k 1) i)) 0 false 0) ∧
    Computes (.cvtmxd f) f.pn f.pred
      { ops := [dst f.dst, src f.sa, src f.sb, unused f.sc],
        modOk := decide (t = 4) && decide (8 ≤ u ∧ u ≤ 13) && decide (modOPX f.mod % 16 < 8) && decide (i < perReg u) &&
          modRmSat f.mod 3 true } f.dst 1
      (fun s c k =>
        let x := elemAt u (srcN s c f.sa.toNat k 1) i
        let X := srcN s c f.sb.toNat k 1 % 256
        match elemVal u x with
        | .nan g => { val := 0x7FC00000, fl := if g then flagNV else 0 }
        | .inf n => { val := if X = 255 then 0x7FC00000 else infBits fmt32 n }
        | .fin _ _ _ => if X = 255 then { val := 0x7FC00000 } else fenc fmt32 (mxVal u X x) rm sat 0) ∧
    Computes (.mxamax f) f.pn f.pred
      { ops := [dst f.dst, src f.sa, unused f.sb, unused f.sc],
        modOk := decide (t = 4) && decide (modOPX f.mod ≤ 1) && modRmSat f.mod 0 false } f.dst 1
      (fun s c k =>
        match amaxOf (((blockOf (modOPX f.mod) k).filter (fun j => c.q.getLsbD j)).map (fun j =>
          fdec fmt32 (srcN s c f.sa.toNat j 1))) with
        | .nan g => { val := 0x7FC00000, fl := if g then flagNV else 0 }
        | x => { val := (fenc fmt32 x 0 false 0).val }) ∧
    Computes (.e8get f) f.pn f.pred
      { ops := [dst f.dst, src f.sa, unused f.sb, unused f.sc],
        modOk := isMx t && decide (modOPX f.mod = 0) && modRmSat f.mod 0 false } f.dst 1
      (fun s c k =>
        let x := fdec fmt32 (srcN s c f.sa.toNat k 1)
        { val := mxScale t x, fl := match x with | .fin _ _ _ => 0 | _ => flagNV }) ∧
    Does (.fxcvt f) f.pn f.pred
      { ops := [dst f.dst (wordsOf t), src f.sa (wordsOf u), src f.sb, unused f.sc],
        modOk := decide (t ≤ 5) && decide (u ≤ 5) && (isFloat t != isFloat u) && decide (modOPX f.mod % 16 = 0) &&
          decide (rm ≤ rmTop) }
      (fun s c => perStrandSR s c f.dst.toNat (wordsOf t) (fun k st =>
        let n : Int := (srcN s c f.sb.toNat k 1 % 64 : Nat)
        convert t (nscale (decodeType u (srcN s c f.sa.toNat k (wordsOf u))) (if isFloat u then n else -n)) rm sat st))) ∧
  ∀ f : RRR,
    let t := modTYPE f.mod
    let code := modOPX f.mod % 4
    let rm := modRM f.mod
    Does (.cvtmx f) f.pn f.pred
      { ops := [dst f.dst, src f.sa, if code = 2 then src f.sb else unused f.sb, unused f.sc],
        modOk := isMx t && decide (modOPX f.mod / 16 = 4) && decide (modOPX f.mod / 4 % 4 = 0) && decide (code ≤ 2) && decide (rm ≤ 4) }
      (fun s c =>
        let v (r : BitVec 9) (k : Nat) := fdec fmt32 (srcN s c r.toNat k 1)
        let amax (k : Nat) := amaxOf (((blockOf code k).filter (fun j => c.q.getLsbD j)).flatMap (fun j =>
          if code = 2 then [v f.sa j, v f.sb j] else [v f.sa j]))
        let drawn (st : Nat) := if rm = 4 then srNext st else st
        let one (a x : Machine.Num) (st : Nat) : FRes × Nat :=
          match a with
          | .fin _ 0 _ => ({ val := match x with | .fin true _ _ => (if t = 13 then 0 else 2 ^ (typeBits t - 1)) | _ => 0 }, drawn st)
          | .fin _ _ _ => mxElem t (mxScale t a) x rm st
          | _ => ({ val := 0, fl := flagNV }, drawn st)
        perStrandSR s c f.dst.toNat 1 (fun k st =>
          let ra := one (amax k) (v f.sa k) st
          let rb := if code = 2 then one (amax k) (v f.sb k) ra.2 else ({ val := 0 }, ra.2)
          ({ val := mxScale t (amax k) * 2 ^ 16 + rb.1.val * 2 ^ 8 + ra.1.val, fl := ra.1.fl ||| rb.1.fl }, rb.2)))

/-- The exponent instructions complete when issued (R269), and SETSEED sets the seed and the stochastic state of all 32 strands (R270). -/
def Obligations.ExponentsComplete : Prop :=
  ∀ f : RRR,
    let t := modTYPE f.mod
    let Row (i : Instr) (h : VShape) (op : Nat → FRes) : Prop :=
      Computes i f.pn f.pred (vecForm f h (decide (modOPX f.mod = 0))) f.dst (h.wide t 0) (fun s c k =>
        op (srcN s c f.sa.toNat k (h.wide t 1)))
    Row (.vrnd f) { nsrc := 1, types := [4, 5, 6, 7], rounds := true } (fun a =>
      lanewise t (fun a _ _ => rndIntegral (fmtD t) (modRM f.mod) a) a 0 0) ∧
    Row (.getexp f) { nsrc := 1, types := [4, 5], narrow := 1 } (fun a =>
      match fdec (fmtD t) a with
      | .fin _ m e => ires (if m = 0 then 0x80000000 else narrow 32 (expOf m e))
      | .inf _ => ires 0x7FFFFFFF
      | .nan g => { val := 0x7FFFFFFF, fl := if g then flagNV else 0 }) ∧
    Row (.getmant f) { nsrc := 1, types := [4, 5] } (fun a =>
      match nanRule (fmtD t) [a] with
      | some r => r
      | none =>
        match fdec (fmtD t) a with
        | .fin s m e => if m = 0 then ires a else ires (fenc (fmtD t) (.fin s m (e - expOf m e)) 0 false 0).val
        | _ => ires a) ∧
    Computes (.scalb f) f.pn f.pred
      { ops := [dst f.dst (wordsOf t), src f.sa (wordsOf t), src f.sb, unused f.sc],
        modOk := decide (4 ≤ t ∧ t ≤ 7) && decide (modRM f.mod ≤ 3) && decide (modOPX f.mod = 0) } f.dst (wordsOf t)
      (fun s c k => lanewise t (fun a _ _ =>
        scalbOp (fmtD t) (modRM f.mod) (modSAT f.mod) a (signedOf 32 (srcN s c f.sb.toNat k 1))) (srcN s c f.sa.toNat k (wordsOf t)) 0 0) ∧
    Does (.setseed f) f.pn f.pred { ops := [unused f.dst, srcIn 51 f.sa, unused f.sb, unused f.sc], modOk := modZero16 f.mod }
      (fun s c => if c.once then
          .done (modWeave s c.w (fun wv => { wv with
            srseed := opd s c f.sa c.first
            srst := setCells [] 0 (allStrands.map (fun k => BitVec.ofNat 32 (srInit (srcN s c f.sa.toNat c.first 1) k))) }))
        else .done s)


/-! ### The Porter and the Stockroom (spec/09_porter.md R199 to R217, spec/10_stockroom.md R221 to R238, spec/16_depot_loft.md R344) -/

/-- Every load starts when issued with its strands' accesses in order: each qualifying strand reads SIZE bytes at BASE + OFF (LDC one
strand for the weave; LDF and LDT what R204 and R206 name; LDS the scratchpad, LOFT.LD the Loft), for the register words of DS (R200 to
R206, R223, R344). LDNF starts whatever its strands' accesses meet, but for a walk in progress: those that a check fails deliver 0. -/
def Obligations.LoadsStart : Prop :=
  ∀ f : MemF,
    let n := bytesSize f
    let d := f.ds.toNat
    let clean (al : Bool) (s : State) (c : Ctx) : Prop := InOrder s c ((strandsOf c.q).map (checkData s c f .read n al))
    let lanes (al : Bool) (s : State) (c : Ctx) := (strandsOf c.q).map (fun k => laneOf s c f (checkData s c f .read n al k) [] 0)
    let keys (c : Ctx) := dstKeys d (dataWide f) c.q
    let sx := f.mx.getLsbD 0
    Starts (.ld f) f.pn f.pred (memForm f { ds := loadDst f 33, sizes := [0, 1, 2, 3, 4], anns := [0, 1], mxOk := sxOk f }) (clean true)
      (fun s c => .load f.size.toNat sx (destOf d) false (lanes true s c)) keys f.ann.toNat f.scope.toNat ∧
    Starts (.ldu f) f.pn f.pred (memForm f { ds := loadDst f 33, sizes := [0, 1, 2, 3, 4], mxOk := sxOk f }) (clean false)
      (fun s c => .load f.size.toNat sx (destOf d) false (lanes false s c)) keys f.ann.toNat f.scope.toNat ∧
    Starts (.ldc f) f.pn f.pred (memForm f { ds := loadDst f 3, sizes := [0, 1, 2, 3, 4], anns := [0, 1], mxOk := sxOk f })
      (fun s c => InOrder s c [checkData s c f .read n true c.low])
      (fun s c => .load f.size.toNat sx (destOf d) true [laneOf s c f (checkData s c f .read n true c.low) [] 0]) keys
      f.ann.toNat f.scope.toNat ∧
    (let form := memForm f { ds := loadDst f 1, sizes := [0, 1, 2, 3, 4],
                             mxOk := decide ((f.mx.extractLsb' 0 3).toNat ≠ 7) && !(f.mx.getLsbD 3) }
     ∀ s c s2 c2, issued s f.pn f.pred form = some (c, s2, c2) →
      let chk := checkData s2 c2 f .read n true
      let good (k : Nat) : Bool := (chk k).trap.isNone && (chk k).empty.isNone && (chk k).lost.isNone
      let noted := noteNF s2 c2 ((strandsOf c2.q).map chk)
      (c2.q = 0 → exec (.ldnf f) s = .next (ended s c c2 form (.done s2))) ∧
      (c2.q ≠ 0 → (∀ k ∈ strandsOf c2.q, (chk k).busy = false) → ∃ s3, Prepared noted s3 ∧
        exec (.ldnf f) s = .next (ended s c c2 form (.done (newOp s3 c2
          (.loadNF f.size.toNat (destOf d) (f.mx.extractLsb' 0 3).toNat
            (((strandsOf c2.q).filter good).map (fun k => laneOf noted c2 f (chk k) [] 0))
            (maskOf ((strandsOf c2.q).filter (fun k => !(good k))))
            (pageLine noted c2.wv.ids.tenancy (eaOf s2 c2 f c2.low) c2.low))
          (keys c2) f.ann.toNat f.scope.toNat))))) ∧
    Starts (.ldf f) f.pn f.pred (memForm f (fmtRow f (loadDst f 1) [0, 1]))
      (fun s c => InOrder s c ((strandsOf c.q).map (checkFmt s c f .read)))
      (fun s c => .loadFmt (dType (fmtD4 f)) (destOf d) ((strandsOf c.q).map (fun k => fmtElems s c f (checkFmt s c f .read k)))) keys
      f.ann.toNat f.scope.toNat ∧
    Starts (.ldt f) f.pn f.pred
      (memForm f { ds := { reg := d, cls := 9, eng := true }, sizes := [2, 3, 4], mxOk := mxZero f })
      (fun s c => InOrder s c ((strandsOf c.q).map (checkTob s c f .read)))
      (fun s c => .loadTob f.size.toNat ((strandsOf c.q).map (fun k => laneOf s c f (checkTob s c f .read k) [] (srcN s c d k 1))))
      (fun _ => []) f.ann.toNat f.scope.toNat ∧
    Starts (.lds f) f.pn f.pred (spadForm f { loadDst f 35 with cause := 7 } [0, 1, 2, 3, 4] [0, 1] (sxOk f) false)
      (fun s c => ∀ k ∈ strandsOf c.q, offOf s c f k % n = 0 ∧ offOf s c f k + n ≤ c.wv.hdr.spad)
      (fun s c => .spLoad f.size.toNat sx (destOf d) ((strandsOf c.q).map (fun k =>
        spadLane c.wv.ids.basket k (offOf s c f k) n []))) keys
      f.ann.toNat 0 ∧
    (let tob := f.mx.getLsbD 0
     Starts (.loftLd f) f.pn f.pred
      { ops := [{ reg := d, dst := !tob, cls := if tob then 9 else 41, wide := if tob then 1 else dataWide f, cause := 7, eng := true },
                { reg := f.base.toNat, cls := 11, wide := 2, cause := 7 }],
        modOk := decide (f.mx.toNat < 4) && !(f.mx.getLsbD 1 && (tob || decide (1 < f.size.toNat))) &&
          decide (regIndex f.base.toNat % 2 = 0),
        modCause := 7, memOk := decide (f.size.toNat ≤ 4 ∧ f.scope = 0 ∧ f.ann = 0 ∧ f.cop = 0) }
      (fun s c =>
        let p := (tenOf s c.wv.ids.tenancy).depot
        Walked s c ∧ ∀ k ∈ strandsOf c.q,
          (loftWin + 65536 * p.lbase ≤ eaOf s c f k ∧ eaOf s c f k + n ≤ loftWin + 65536 * p.lbase + 65536 * p.lsize ∧
            eaOf s c f k % n = 0) ∧
          (tob = true → srcN s c d k 1 % n = 0 ∧ srcN s c d k 1 + n ≤ c.wv.hdr.tobBanks * 16384))
      (fun s c => .loftLoad f.size.toNat (f.mx.getLsbD 1) (if tob then .none else destOf d) tob ((strandsOf c.q).map (fun k =>
        { strand := k, va := eaOf s c f k, pas := (List.range n).map (fun i => loftBase + (eaOf s c f k - loftWin) + i),
          slots := List.replicate n 257, data := [], tob := if tob then srcN s c d k 1 else 0 })))
      (fun c => if tob then [] else keys c) 0 0)

/-- Every store starts when issued with its strands' accesses in order: each qualifying strand's bytes, the SIZE low bytes of DS at
BASE + OFF, little-endian (ZEROL the 128 bytes of a line, zero; STF what R205 names; STT bytes of the TOB; STS to the scratchpad); no
register is written (R5, R200, R201, R205 to R207, R223). -/
def Obligations.StoresStart : Prop :=
  ∀ f : MemF,
    let n := bytesSize f
    let d := f.ds.toNat
    let clean (n : Nat) (al : Bool) (s : State) (c : Ctx) : Prop := InOrder s c ((strandsOf c.q).map (checkData s c f .write n al))
    let lanes (al : Bool) (s : State) (c : Ctx) := (strandsOf c.q).map (fun k =>
      laneOf s c f (checkData s c f .write n al k) (bytesOf n (srcN s c d k (dataWide f))) 0)
    Starts (.st f) f.pn f.pred (memForm f { ds := storeSrc f 11, sizes := [0, 1, 2, 3, 4], anns := [0, 2], mxOk := mxZero f })
      (clean n true) (fun s c => .store f.size.toNat (lanes true s c)) (fun _ => []) f.ann.toNat f.scope.toNat ∧
    Starts (.stu f) f.pn f.pred (memForm f { ds := storeSrc f 11, sizes := [0, 1, 2, 3, 4], mxOk := mxZero f }) (clean n false)
      (fun s c => .store f.size.toNat (lanes false s c)) (fun _ => []) f.ann.toNat f.scope.toNat ∧
    Starts (.zerol f) f.pn f.pred (memForm f { ds := { reg := d, cls := 32 }, sizes := [0], anns := [0, 2], mxOk := mxZero f })
      (clean 128 true)
      (fun s c => .store 7 ((strandsOf c.q).map (fun k =>
        laneOf s c f (checkData s c f .write 128 true k) (List.replicate 128 0) 0))) (fun _ => []) f.ann.toNat f.scope.toNat ∧
    Starts (.stf f) f.pn f.pred (memForm f (fmtRow f (storeSrc f 9) [0, 2]))
      (fun s c => InOrder s c ((strandsOf c.q).map (checkFmt s c f .write)) ∧
        fmtBreach f (fmtVals s c f ((strandsOf c.q).map (checkFmt s c f .write))) = false)
      (fun s c => .storeFmt (fmtRows (fmtVals s c f ((strandsOf c.q).map (checkFmt s c f .write))))) (fun _ => [])
      f.ann.toNat f.scope.toNat ∧
    Starts (.stt f) f.pn f.pred
      (memForm f { ds := { reg := d, cls := 1 }, sizes := [2, 3, 4], anns := [0, 2], mxOk := mxZero f })
      (fun s c => InOrder s c ((strandsOf c.q).map (checkTob s c f .write)))
      (fun s c => .storeTob f.size.toNat ((strandsOf c.q).map (fun k => laneOf s c f (checkTob s c f .write k) [] (srcN s c d k 1))))
      (fun _ => []) f.ann.toNat f.scope.toNat ∧
    Starts (.sts f) f.pn f.pred (spadForm f { storeSrc f 11 with cause := 7 } [0, 1, 2, 3, 4] [0, 2] (mxZero f) false)
      (fun s c => ∀ k ∈ strandsOf c.q, offOf s c f k % n = 0 ∧ offOf s c f k + n ≤ c.wv.hdr.spad)
      (fun s c => .spStore f.size.toNat ((strandsOf c.q).map (fun k =>
        spadLane c.wv.ids.basket k (offOf s c f k) n (bytesOf n (srcN s c d k (dataWide f)))))) (fun _ => []) f.ann.toNat 0

/-- PRFL changes nothing; INVL drops the strands' lines from the shop's L1; WBL starts the write-back of their lines; LEA writes the
address itself, PROBE reports the translation where no lease holds its walk; FENCE is one fence event; GENRD reads WRAPS and GEN; WAITL wakes at once or watches its
line, and completes with the code of its wake (R208 to R216). -/
def Obligations.PorterOthersComplete : Prop :=
  ∀ f : MemF,
    let ea (s : State) (c : Ctx) (k : Nat) := eaOf s c f k
    Does (.prfl f) f.pn f.pred (memForm f (lineRow f (decide (f.cop = 0 ∨ f.cop = 2)))) (fun s _ => .done s) ∧
    Does (.invl f) f.pn f.pred (memForm f (lineRow f (decide (f.cop = 0)))) (fun s c =>
      let lines := (strandsOf c.q).filterMap (fun k => match access s c.wv.ids.tenancy (ea s c k) .read (60000 + k) with
        | .ok pa _ _ => some (lineOf pa)
        | _ => none)
      .done (if lines = [] then s else loseLines s c.wv.shop (fun l _ => lines.contains l))) ∧
    (let keep (s : State) (c : Ctx) := (strandsOf c.q).filter (fun k => !(decide (loftWin ≤ ea s c k ∧ ea s c k < 2 ^ 57)) &&
        (match access s c.wv.ids.tenancy (ea s c k) .write (60000 + k) with | .prot 3 => false | _ => true))
     let chk (s : State) (c : Ctx) (k : Nat) := checkData s c f .write 1 false k
     Starts (.wbl f) f.pn f.pred (memForm f (lineRow f (decide (f.cop = 0))))
      (fun s c => InOrder s c ((keep s c).map (chk s c)))
      (fun s c => .writeBack ((keep s c).map (fun k => laneOf s c f (chk s c k) [] 0))) (fun _ => []) 0 0) ∧
    Writes (.lea f) f.pn f.pred (memForm f { ds := dstIn 3 f.ds 2, sizes := [3], mxOk := mxZero f, copOk := decide (f.cop = 0) })
      f.ds 2 (fun s c k => (opd64 s c f.base k + f.off.signExtend 64).toNat) ∧
    Starts (.probe f) f.pn f.pred (memForm f { ds := dstIn 1 f.ds, sizes := [2], mxOk := mxZero f, copOk := decide (f.cop = 0) })
      (fun s c => ∀ k ∈ strandsOf c.q, ea s c k < 2 ^ 57 → ∀ sl, translate s c.wv.ids.tenancy (ea s c k) (60000 + k) ≠ .busy sl)
      (fun s c => .probe (destOf f.ds.toNat) ((strandsOf c.q).map (fun k =>
        (vKey f.ds.toNat k, probeWord s c.wv.ids.tenancy (ea s c k) k)))) (fun c => dstKeys f.ds.toNat 1 c.q) 0 0 ∧
    (∀ r : RRR, Does (.fence r) r.pn r.pred
      { ops := rrrNone r,
        modOk := decide (aAnn r.mod ≠ 0 ∧ aType r.mod = 0 ∧ aOp r.mod = 0 ∧ r.mod.extractLsb' 0 3 = 0) } (fun s c =>
      if c.once = false then .done s
      else if aAnn r.mod = 1 then .done (newOp s { c with hdr := 0x0000_0FF0_0000_0000, q := 0 } .fence [] 1 (aScope r.mod))
      else .done (newOp s c .fence [] (aAnn r.mod) (aScope r.mod)))) ∧
    (∀ r : RRR, Does (.genrd r) r.pn r.pred
      { ops := [dstIn 2 r.dst, unused r.sa, unused r.sb, unused r.sc], modOk := modZero16 r.mod } (fun s c =>
      if c.once then
        .done (writeDst s c r.dst.toNat 1 (fun _ => ((shopOf s c.wv.shop).wraps ++ (shopOf s c.wv.shop).gen).toNat))
      else .done s)) ∧
    (let form := memForm f { ds := dstIn 34 f.ds, sizes := [0], mxOk := decide (f.mx.toNat ≤ 12), copOk := decide (f.cop = 0),
                             waits := true }
     ∀ s c s2 c2, issued s f.pn f.pred form = some (c, s2, c2) →
      let wake (code : Nat) := exec (.waitl f) s = .next (ended s c c2 form (.done (writeDst s2 c2 f.ds.toNat 1 (fun _ => code))))
      (c2.held = none → c2.once = true →
        (∀ s3 code, watchStart s2 c2 (ea s2 c2 c2.low) = .wake s3 code →
          exec (.waitl f) s = .next (ended s c c2 form (.done (writeDst s3 c2 f.ds.toNat 1 (fun _ => code))))) ∧
        (∀ s3, watchStart s2 c2 (ea s2 c2 c2.low) = .walk s3 →
          exec (.waitl f) s = .next (ended s c c2 form (.stay s3 (some .memory)))) ∧
        (∀ line coh, watchStart s2 c2 (ea s2 c2 c2.low) = .line line coh →
          let s3 := dropWalks s2 c2.wv.ids.tenancy c2.w c2.slot
          exec (.waitl f) s = .next (ended s c c2 form
            (if noFreeWatch s2 line then .hold s3 .monitor (.noWatch (s2.cycles + 256))
             else .hold s3 .monitor (.monitor line (s2.cycles + 2 ^ (f.mx.toNat + 8)) none)
               (if coh = 0 then [] else [(selfKey, BitVec.ofNat 32 coh)]))))) ∧
      (∀ h line n code, c2.held = some h → h.restored = false → h.wait = .monitor line n (some code) → wake code))

/-- The scratchpad's atomics and full/empty, barrier and image instructions, with their words aligned and inside SPAD: ATOMS and CASS
start a read-modify-write for each strand; FEFILL, FETAKE and FEREAD act when every word is in the awaited state and wait until then;
FERESET, BARA, BARX, NBARR, BSAVE and BRESTORE start their operation; BARW completes when ROUND differs from r; NBSYNC arrives and
waits for its phase (R222 to R238). -/
def Obligations.StockroomCompletes : Prop :=
  (∀ f : RRR,
    let t := aType f.mod
    let wide := if t = 2 ∨ t = 3 then 2 else 1
    let fine (s : State) (c : Ctx) : Prop :=
      ∀ k ∈ strandsOf c.q, srcN s c f.sa.toNat k 1 % (4 * wide) = 0 ∧ srcN s c f.sa.toNat k 1 + 4 * wide ≤ c.wv.hdr.spad
    let form (ok : Bool) (sc : Opnd) : Form :=
      { ops := [atomDst f.dst wide, srcIn 27 f.sa, atomSrc f.sb wide, sc],
        modOk := ok && decide (aScope f.mod = 0) && decide (f.mod.extractLsb' 0 3 = 0) }
    let op (kind : AtomKind) (s : State) (c : Ctx) : OpKind :=
      .spAtomic kind t (destOf f.dst.toNat) ((strandsOf c.q).map (atomLane s c f wide))
    Starts (.atoms f) f.pn f.pred (form (atomsOk (aOp f.mod) t) (unused f.sc)) fine (op (.op (aOp f.mod)))
      (fun c => dstKeys f.dst.toNat wide c.q) (aAnn f.mod) 0 ∧
    Starts (.cass f) f.pn f.pred (form (decide (aOp f.mod = 0) && decide (t ≤ 3)) (atomSrc f.sc wide)) fine (op .cas)
      (fun c => dstKeys f.dst.toNat wide c.q) (aAnn f.mod) 0) ∧
  (∀ f : MemF,
    let fine (al n : Nat) (s : State) (c : Ctx) (k : Nat) : Prop := offOf s c f k % al = 0 ∧ offOf s c f k + n ≤ c.wv.hdr.spad
    let FE (i : Instr) (ds : Opnd) (kind : List Lane → OpKind) (ann : Nat) (act : State → Ctx → Basket → List Nat → State) : Prop :=
      ∀ s c s2 c2 B, issued s f.pn f.pred (spadForm f ds [2] [0] (mxZero f) true) = some (c, s2, c2) → c2.q ≠ 0 →
        (∀ k ∈ strandsOf c2.q, fine 4 4 s2 c2 k) → basketOf s2 c2.wv = some B →
        let ws := feNamed s2 c2 f
        let since := match c2.held with | some h => h.since | none => s2.steps
        let ready := feReady B c2.word ws && !(ws.any (fun x => feAhead s2 c2.wv.ids.basket B x since)) &&
          issueMay s2 c2 (kind (ws.map (fun x => spadLane c2.wv.ids.basket 0 x 4 []))) ann
        ∃ s3, Prepared s2 s3 ∧ exec i s = .next (ended s c c2 (spadForm f ds [2] [0] (mxZero f) true)
          (if ready then .done (settle (act s3 c2 B ws) c2.wv.shop)
           else .hold s3 .fullEmpty .retry (ws.map (fun x => (feKey x, 1#32)))))
    FE (.fefill f) { reg := f.ds.toNat, cls := 11 } (fun ls => .spStore 2 ls) 2 (fun s c _ _ =>
      let last := (strandsOf c.q).filter (fun k =>
        (strandsOf c.q).all (fun j => decide (j ≤ k) || decide (offOf s c f j ≠ offOf s c f k)))
      let t := last.foldl (fun t k =>
        doFill t c.wv.ids.basket (offOf s c f k) (BitVec.ofNat 32 (srcN s c f.ds.toNat k 1)) [basketRelease s c]) s
      modWeave t c.w (fun wv =>
        { learnView wv c.sp.mask (last.foldl (fun v k => joinView v (spSaw t c.wv.ids.basket (offOf s c f k) 4)) []) with guard := 0 })) ∧
    FE (.fetake f) (dstIn 35 f.ds) (fun ls => .spAtomic .cas 0 .none (ls.map (fun l =>
        { strand := 0, va := l.va, pas := l.pas, slots := [], b := 0 }))) 1 (fun s c B ws =>
      modWeave (modBasket (feTake f s c B ws) c.wv.ids.basket (fun B => { B with full := B.full.filter (fun x => !(ws.contains x)) }))
        c.w (fun wv => { wv with guard := 0 })) ∧
    FE (.feread f) (dstIn 35 f.ds) (fun ls => .spLoad 2 false .none ls) 1 (feTake f) ∧
    Starts (.fereset f) f.pn f.pred (spadForm f (unused f.ds) [2] [0] (decide (f.mx.toNat ≤ 1)) false)
      (fun s c => ∀ k ∈ strandsOf c.q, fine 4 4 s c k) (fun s c => .feReset (f.mx.getLsbD 0) (feNamed s c f)) (fun _ => []) 0 0 ∧
    (let Bar (i : Instr) (ds : Opnd) (mxOk : Bool) (req : State → Ctx → BarReq) (dest : Bool) : Prop :=
      ∀ s c s2 c2 B, issued s f.pn f.pred (spadForm f ds [4] [0] mxOk false) = some (c, s2, c2) →
        (c2.once = false → exec i s = .next (ended s c c2 (spadForm f ds [4] [0] mxOk false) (.done s2))) ∧
        (c2.once = true → fine 16 16 s2 c2 c2.low → basketOf s2 c2.wv = some B →
          (barHeld (barAt B (offOf s2 c2 f c2.low)) (req s2 c2) = false ∨ pendingRoom s2 c2.wv.shop = true) →
          ∃ s3, Prepared s2 s3 ∧ exec i s = .next (ended s c c2 (spadForm f ds [4] [0] mxOk false)
            (.done (newOp s3 c2 (.barrier (offOf s2 c2 f c2.low) (req s2 c2) (if dest then destOf f.ds.toNat else .none))
              (if dest then dstKeys f.ds.toNat 1 c2.q else []) (if (req s2 c2).a = 1 then 2 else 0) 0))))
     Bar (.bara f) { reg := f.ds.toNat, dst := true, cls := 43, eng := true } (decide (f.mx.toNat ≤ 1))
      (fun _ _ => { a := 1, c := 0, l := 0, dr := if f.mx.getLsbD 0 then 1 else 0 }) true ∧
     Bar (.barx f) { reg := f.ds.toNat, cls := 11 } (decide (f.mx.toNat ≤ 3)) (fun s c =>
      let n := srcN s c f.ds.toNat c.low 1
      let a := if f.mx.getLsbD 0 then 1 else 0
      if f.mx.getLsbD 1 then { a := a, c := 0, l := n, dr := 0 } else { a := a, c := n, l := 0, dr := 0 }) false) ∧
    ∀ s c s2 c2 B, issued s f.pn f.pred (spadForm f { reg := f.ds.toNat, cls := 11 } [4] [0] (mxZero f) true) = some (c, s2, c2) →
      c2.once = true → fine 16 16 s2 c2 c2.low → basketOf s2 c2.wv = some B →
      let off := offOf s2 c2 f c2.low
      ∃ s3, Prepared s2 s3 ∧
        exec (.barw f) s = .next (ended s c c2 (spadForm f { reg := f.ds.toNat, cls := 11 } [4] [0] (mxZero f) true)
          (if (barAt B off).round = srcN s2 c2 f.ds.toNat c2.low 1 ∨
              issueMay s2 c2 (.spLoad 4 false .none [spadLane c2.wv.ids.basket 0 off 16 []]) 1 = false then .hold s3 .barrier .retry
           else .done (observe (modWeave s3 c2.w (fun wv => learnView wv c2.sp.mask (spSaw s3 c2.wv.ids.basket off 16))) c2.w c2.sp.mask
            ((look B.barDone off).getD []))))) ∧
  ∀ f : RRR,
    (∀ s c s2 c2, issued s f.pn f.pred (nbForm f true) = some (c, s2, c2) → c2.held = none → c2.once = true →
      issueMay s2 c2 (.namedArrive (modOPX f.mod) 0) 2 = true →
      let m := basketRelease s2 c2
      let ms := match basketOf s2 c2.wv with | some B => (nbOf B (modOPX f.mod)).now ++ [m] | none => []
      let r := nbArrive s2 c2.wv.ids.basket (modOPX f.mod) (nbCount s2 c2 f) m
      let s3 := modWeave r.1 c2.w (fun wv => { wv with guard := 0 })
      exec (.nbsync f) s = .next (ended s c c2 (nbForm f true)
        (if r.2 then .done (observe s3 c2.w c2.sp.mask ms)
         else .hold (modBasket s3 c2.wv.ids.basket (fun B =>
            { B with nb := put B.nb (modOPX f.mod) { nbOf B (modOPX f.mod) with
                waiters := (nbOf B (modOPX f.mod)).waiters ||| (1#128 <<< (4 * c2.wv.ids.wid + c2.slot)) } })) .barrier (.phase false)))) ∧
    (∀ s c s2 c2 h, issued s f.pn f.pred (nbForm f true) = some (c, s2, c2) → c2.held = some h → h.wait = .phase true →
      exec (.nbsync f) s = .next (ended s c c2 (nbForm f true) (.done s2))) ∧
    Does (.nbarr f) f.pn f.pred (nbForm f false) (fun s c =>
      if c.once then .done (newOp s c (.namedArrive (modOPX f.mod) (nbCount s c f)) [] 2 0) else .done s) ∧
    (let Image (i : Instr) (kind : Nat → OpKind) : Prop :=
      ∀ s c s2 c2, issued s f.pn f.pred (imageForm f) = some (c, s2, c2) → c2.once = true →
        let off := srcN s2 c2 f.sa.toNat c2.low 1
        off % 64 = 0 → off + 512 ≤ c2.wv.hdr.spad →
        ∃ s3, Prepared s2 s3 ∧ exec i s = .next (ended s c c2 (imageForm f) (.done (newOp s3 c2 (kind off) [] 0 0)))
     Image (.bsave f) .bsave ∧ Image (.brestore f) .brestore)

/-- Every atomic starts when issued with its addresses in order and, where it returns values, a return slot free: each qualifying strand
at its own address (ATOM, RED, CAS, CAS128, REDA) or at the lowest strand's (ATOMU, REDU, CASU), with one request to the home Clerk of
each line touched (R272, R274, R275, R277 to R281). -/
def Obligations.AtomicsStart : Prop :=
  ∀ f : RRR,
    let Row (i : Instr) (r : AtomRow) : Prop :=
      let returns := r.ret && decide (f.dst ≠ 511)
      let chk (s : State) (c : Ctx) := (if oneAddress r.form then [c.low] else strandsOf c.q).map (checkAtom s c f (4 * r.wide))
      ∀ s c s2 c2, issued s f.pn f.pred (atomForm f r) = some (c, s2, c2) →
        (c2.q = 0 → exec i s = .next (ended s c c2 (atomForm f r) (.done s2))) ∧
        (c2.q ≠ 0 → InOrder s2 c2 (chk s2 c2) → (returns = true → c2.wv.returns < 16) →
          ∃ s3, Prepared s2 s3 ∧
            let lanes := clerkLanes s2 c2 f r (chk s2 c2)
            let s4 := newOp s3 c2 (.clerk lanes) (if returns then dstKeys f.dst.toNat r.wide c2.q else []) (aAnn f.mod) (aScope f.mod)
            let s5 := modWeave s4 c2.w (fun wv => if returns then
              { wv with returns := wv.returns + 1,
                        atomsN := (strandsOf c2.q).foldl (fun t k => put t k ((look t k).getD 0 + 1)) c2.wv.atomsN } else wv)
            exec i s = .next (ended s c c2 (atomForm f r) (.done (sendRequests s5 c2.wv
              { op := s2.nextOp, w := c2.w, lot := c2.wv.ids.lot, tenancy := c2.wv.ids.tenancy, home := 0, form := r.form,
                kind := r.kind, type := aType f.mod, size := 4 * r.wide, dst := if returns then destOf f.dst.toNat else .none,
                lanes := [] } lanes))))
    let w := atomWords (aType f.mod)
    let op : AtomKind := .op (aOp f.mod)
    let ok := clerkOk (aOp f.mod) (aType f.mod)
    Row (.atom f) { form := .perStrand, kind := op, wide := w, ret := true, ok := ok } ∧
    Row (.red f) { form := .perStrand, kind := op, wide := w, ret := false, ok := ok && redAnn f } ∧
    Row (.cas f) { form := .perStrand, kind := .cas, wide := w, ret := true, ok := casOk f } ∧
    Row (.cas128 f) { form := .perStrand, kind := .cas, wide := 4, ret := true, ok := decide (aType f.mod = 0 ∧ aOp f.mod = 0) } ∧
    Row (.atomu f) { form := .unbroken, kind := op, wide := w, ret := true, ok := ok } ∧
    Row (.redu f) { form := .treeOne, kind := op, wide := w, ret := false, ok := treeOk f } ∧
    Row (.casu f) { form := .casOne, kind := .cas, wide := w, ret := true, ok := casOk f } ∧
    Row (.reda f) { form := .treeEach, kind := op, wide := w, ret := false, ok := treeOk f }

/-! ### Engine commands, the Loom's direct instructions, the system instructions -/

/-- Every engine command whose descriptor is in order is pushed when issued, or waits while its queue view is full: the Dray's on q0, the
Gleaner's on q2, the Loom's on q4, the Courier's on q6, PREF.T on q8, LAUNCH.D on q11; in a VERSIONED lot the push of a Courier command
or of LAUNCH.D commits the open version first (R66, R116, R158, R170, R290, R329, R363, R366, R377, R380, R394, R405, R423). -/
def Obligations.EngineCommandsPush : Prop :=
  ∀ f : ENG,
    let desc (n : Nat) (s : State) (c : Ctx) : List Word := (List.range n).map (fun j => srcWord s c (f.desc.toNat + j) c.low)
    let cm := f.cmask.toNat
    let none3 := !(f.cmask.getLsbD 0) && !(f.cmask.getLsbD 1 && f.cmask.getLsbD 2)
    let Dray (i : Instr) (multi : Bool) : Prop :=
      Pushes i f (engForm f (engUnused f.dst) (descOpnd f 3) [15] true) 0
        (fun s c => c.once = true ∧ drayDescOk (desc 16 s c) multi cm c.wv.ids.gsize = true ∧
          drayBeyond (desc 16 s c) c.wv.hdr cm = none) (fun _ _ => []) (fun _ c s => drayAccept 128 s c.wv.shop)
        (fun s c => { words := desc 16 s c ++ List.replicate 16 0, q := c.q })
    let Gather (i : Instr) (r : GatherRow) : Prop :=
      let ctl (s : State) (c : Ctx) := descWord s c f c.low 2
      let cword (s : State) (c : Ctx) := (descWord s c f c.low 3).toNat
      Pushes i f (engForm f (if r.kind = 0 then { reg := f.dst.toNat, dst := true, cls := 33, cause := 8, eng := true } else engUnused f.dst)
          (descOpnd f 1) r.dlen (decide (f.desc.toNat % 4 = 0))) 2
        (fun s c => c.q ≠ 0 ∧ gatherTrap c f r (ctl s c) (cword s c) = none)
        (fun s c => if f.dst.toNat < 384 then dstKeys f.dst.toNat (sizeWords (gCtl (ctl s c) 6 3)) c.q else []) (fun _ _ s => s)
        (fun s c => { words := [ctl s c, BitVec.ofNat 32 (cword s c)], q := c.q,
                      dst := if f.dst.toNat < 384 then some f.dst.toNat else none,
                      regs := (strandsOf c.q).foldl (fun m k => (List.range (f.dlen.toNat + 1)).foldl
                        (fun (m : Cells 32) j => setCell m (32 * j + k) (descWord s c f k j)) m) [] })
    let Loom (i : Instr) (dlen : Nat) : Prop :=
      let opc (c : Ctx) := (c.word.extractLsb' 56 8).toNat
      let d := desc (dlen + 1)
      ∀ s c s2 c2, issued s f.pn f.pred (loomForm f dlen) = some (c, s2, c2) →
        let regs := loomRegs (opc c2) (d s2 c2) (gangQuarters c2.wv.gang c2.wv.ids.wid)
        let named := regs.flatMap (fun r => (List.range r.2).map (fun i => r.1 + i))
        let banks := loomBanks (opc c2) (d s2 c2)
        gangN c2.wv.gang ≠ 0 → c2.once = true → loomFieldsOk (opc c2) (d s2 c2) = true →
        (∀ r ∈ regs, r.1 + r.2 ≤ c2.wv.hdr.vregs) → tobBeyond (c2.wv.hdr.tobBanks * 16384) (loomTob (opc c2) (d s2 c2)) = none →
          (∀ s3, renameRegs s2 c2 (if opc c2 = 0xDE then [] else named) (if opc c2 = 0xDE then named else []) = .refill s3 →
            exec i s = .next (ended s c c2 (loomForm f dlen) (.stay s3 (some .spill)))) ∧
          (∀ s3, renameRegs s2 c2 (if opc c2 = 0xDE then [] else named) (if opc c2 = 0xDE then named else []) = .go s3 →
            exec i s = .next (ended s c c2 (loomForm f dlen)
              (if pushRoom s3 c2.wv 4 then
                pushed s3 c2 f 4
                  (if opc c2 = 0xDE then regs.flatMap (fun r => (List.range r.2).flatMap (fun j => allStrands.map (vKey (r.1 + j)))) else [])
                  (fun t => loomAccept (modWeave t c2.w (fun wv => { wv with loomCmds := wv.loomCmds ++
                    [{ op := s2.nextOp, banks := banks.2, names := banks.1, gang := c2.wv.gang, vregs := named }] })) c2.w)
                  { words := d s2 c2 ++ List.replicate (32 - (d s2 c2).length) 0, gang := c2.wv.gang, q := c2.q, regs := c2.wv.vreg,
                    vlog := c2.wv.vlog, tview := c2.wv.fencedT }
               else .hold s3 .queueFull .retry)))
    let Commits (i : Instr) (form : Form) (n len : Nat) (ok : State → Ctx → Prop) : Prop :=
      ∀ s c s2 c2 s3 wv, issued s f.pn f.pred form = some (c, s2, c2) → c2.held = none → c2.once = true → ok s2 c2 →
        pushRoom s2 c2.wv n = true → pushCommit s2 c2 = .inl s3 →
        weaveOf s3 c2.w = some wv → pushRoom s3 wv n = true →
          exec i s = .next (ended s c c2 form (pushed s3 { c2 with wv := wv } f n [] id { words := desc len s2 c2, q := c2.q }))
    Dray (.dcopy f) false ∧ Dray (.dcopym f) true ∧
    Gather (.gather f) { kind := 0, dlen := [3] } ∧ Gather (.scatter f) { kind := 1, dlen := [4, 5, 7] } ∧
    Gather (.gcompact f) { kind := 2, dlen := [4, 5, 7] } ∧
    Pushes (.greplay f) f (engForm f (engUnused f.dst) (descOpnd f 3) [2] true) 2
      (fun s c =>
        let cw := dWord (desc 3 s c) 2
        c.once = true ∧ dWord (desc 3 s c) 0 / 8 % 2 ^ 13 = 0 ∧ cwordOk cw cm false = true ∧
          (cwordBytes cm false = 0 ∨ cw + cwordBytes cm false ≤ c.wv.hdr.spad))
      (fun s c => replayDests c.wv (dWord (desc 3 s c) 0 % 8) (dWord (desc 3 s c) 1)) (fun _ _ s => s)
      (fun s c => { words := desc 3 s c, q := c.q }) ∧
    Pushes (.gselect f) f (engForm f (engUnused f.dst) (descOpnd f 3) [7] true) 2
      (fun s c => c.once = true ∧ selOk (desc 8 s c) cm = true ∧ selBeyond (desc 8 s c) c.wv.hdr.spad cm = none)
      (fun _ _ => []) (fun _ _ s => s) (fun s c => { words := desc 8 s c, q := c.q }) ∧
    Loom (.loomMm f) 3 ∧ Loom (.loomMx f) 5 ∧ Loom (.loomSplit f) 5 ∧ Loom (.loomSpl f) 3 ∧ Loom (.loomFin f) 3 ∧
    Pushes (.prefT f) f (engForm f (engUnused f.dst) (descOpnd f 3) [7] none3) 8
      (fun s c => c.once = true ∧ prefOk (desc 8 s c) = true) (fun _ _ => []) (fun _ _ s => s)
      (fun s c => { words := desc 8 s c, q := c.q }) ∧
    Commits (.launchD f) (engForm f (engUnused f.dst) (descOpnd f 2) [15] none3) 11 16 (fun _ _ => True) ∧
    (∀ i, (i = .netColl f ∨ i = .netSend f) → Commits i (netForm f) 6 8 (fun s c =>
      netOk (c.word.extractLsb' 56 8).toNat (desc 8 s c) cm = true ∧
        (cwordBytes cm false = 0 ∨ dWord (desc 8 s c) 6 + cwordBytes cm false ≤ c.wv.hdr.spad)))

/-- The direct instructions of the Loom, the Gleaner and the rings: GANG.SET sets the gang register or traps; LOOM.WAIT waits for the
commands pushed before it and gives 0 or the first failed status; OFENCE completes once no earlier register write is outstanding;
ACC.ALLOC and ACC.FREE take and give banks; ACC.RD, ACC.WR and ACC.CLR read and write them; GSTATUS reads a slot; RING.POP pops or waits
(R373, R388, R389, R391, R400, R402, R433). -/
def Obligations.DirectEngineInstructions : Prop :=
  ∀ f : RRR,
    Does (.gangSet f) f.pn f.pred { ops := [unused f.dst, srcIn 2 f.sa 2, unused f.sb, unused f.sc], modOk := modZero16 f.mod }
      (fun s c =>
        let g := opd64 s c f.sa 0
        if c.once = false then .done s
        else if gangOk g c.wv.ids.wid c.wv.ids.nweaves then .done (modWeave s c.w (fun wv => { wv with gang := g }))
        else .trap { cls := 0, cause := 3, lanes := c.sp.mask }) ∧
    (let form : Form := { ops := [dstIn 34 f.dst 1 3, unused f.sa 3, unused f.sb 3, unused f.sc 3], modOk := modZero16 f.mod, waits := true }
     ∀ s c s2 c2, issued s f.pn f.pred form = some (c, s2, c2) → c2.once = true →
      let mine := c2.wv.loomCmds.filter (fun x => decide (x.op < heldLimit s2 c2))
      (∀ x ∈ mine, x.result.isSome = true) →
        let t := modWeave (landSplits s2 c2.w (heldLimit s2 c2)) c2.w (fun wv =>
          let rest := wv.loomCmds.filter (fun x => decide (heldLimit s2 c2 ≤ x.op))
          unmapRegs { wv with loomCmds := rest, dead := if rest = [] then [] else wv.dead }
            ((mine.flatMap (fun x => x.vregs)).filter (fun r =>
              !(rest.any (fun x => x.vregs.contains r)) && allStrands.all (fun k => wv.dead.contains (vKey r k)))))
        exec (.loomWait f) s = .next (ended s c c2 form (.done (writeDst t c2 f.dst.toNat 1 (fun _ =>
          ((mine.filterMap (fun x => x.result)).find? (fun r => decide (r ≠ 0))).getD 0))))) ∧
    (∀ s c s2 c2, issued s f.pn f.pred (bareForm f false) = some (c, s2, c2) → c2.once = true →
      (∀ p ∈ s2.ops, p.2.w = c2.w → p.2.dests = [] ∨ (p.2.kind = .engine ∧ p.2.flags = [])) →
        exec (.ofence f) s = .next (ended s c c2 (bareForm f false) (.done (modWeave (landSplits s2 c2.w s2.nextOp) c2.w (fun wv =>
          { wv with
            ofence := none
            vlog := []
            fencedT := (viewOf wv c2.sp.mask).filter (fun p => decide (tobKey c2.wv.ids.basket 0 ≤ p.1 ∧
              p.1 < tobKey (c2.wv.ids.basket + 1) 0)) }))))) ∧
    (let n := modOPX f.mod % 64 + 1
     let form : Form := { ops := [dstIn 35 f.dst, unused f.sa, unused f.sb, unused f.sc], modOk := accMod f.mod 6, waits := true }
     ∀ s c s2 c2 B, issued s f.pn f.pred form = some (c, s2, c2) → c2.once = true → basketOf s2 c2.wv = some B →
      let free (a : Nat) : Bool := decide (a % 2 = 0 ∧ a + n ≤ 64) && (List.range n).all (fun i => (look B.accMap (a + i)).isNone)
      ((∀ a < 64, free a = false) →
        exec (.accAlloc f) s = .next (ended s c c2 form (.done (writeDst s2 c2 f.dst.toNat 1 (fun _ => 0xFFFFFFFF))))) ∧
      (∀ a < 64, free a = true → (∀ b < a, free b = false) → n ≤ (accFree (shopOf s2 B.shop)).length →
        poolUsed s2 c2.wv.ids.tenancy + 32768 * n ≤ poolSize s2 c2.wv.ids.tenancy →
          exec (.accAlloc f) s = .next (ended s c c2 form (.done (writeDst
            (modBasket (accTake s2 c2.wv.ids.basket a n) c2.wv.ids.basket (fun B =>
              { B with pool := B.pool + 32768 * n, poolAcc := B.poolAcc + 32768 * n })) c2 f.dst.toNat 1 (fun _ => a)))))) ∧
    (let n := modOPX f.mod % 64 + 1
     Does (.accFree f) f.pn f.pred
      { ops := [unused f.dst, srcIn 51 f.sa, unused f.sb, unused f.sc], modOk := accMod f.mod 6, waits := true } (fun s c =>
      let a := (srcWord s c f.sa.toNat c.low).toNat
      let as := (List.range 64).filter (fun x => decide (a ≤ x ∧ x < a + n))
      if c.once = false then .done s
      else if s.weaves.any (fun p => decide (p.2.ids.basket = c.wv.ids.basket) &&
          p.2.loomCmds.any (fun x => x.result.isNone && x.names.any (fun y => as.contains y))) then .hold s .accAlloc .retry
      else .done (accGive s c.wv.ids.basket as)) ∧
     Does (.accClr f) f.pn f.pred { ops := [unused f.dst, srcIn 51 f.sa, unused f.sb, unused f.sc], modOk := accMod f.mod 6 }
      (fun s c =>
        let a := (srcWord s c f.sa.toNat c.low).toNat
        let held := match basketOf s c.wv with
          | some B => (List.range n).all (fun i => (look B.accMap (a + i)).isSome)
          | none => false
        if c.once = false then .done s
        else if 63 < a + n - 1 ∨ held = false then
          .trap { cls := 3, cause := 1, lanes := c.sp.mask, addr := 32768 * a, info := 6 }
        else .done (accStore s c ((List.range (8192 * n)).map (fun i => (8192 * a + i, 0)))))) ∧
    (let n := modOPX f.mod % 16 + 1
     let at0 (s : State) (c : Ctx) := ((srcWord s c f.sa.toNat c.low).toNat, (srcWord s c f.sb.toNat c.low).toNat)
     let bad (s : State) (c : Ctx) : Bool := match basketOf s c.wv with
       | none => true
       | some B => decide ((look B.accMap (at0 s c).1).isNone ∨ (at0 s c).2 % 32 ≠ 0 ∨ 8192 < (at0 s c).2 + 32 * n)
     let trap (s : State) (c : Ctx) : Effect :=
       .trap { cls := 3, cause := 1, lanes := c.sp.mask, addr := 32768 * (at0 s c).1 + 4 * (at0 s c).2, info := 6 }
     let cells (s : State) (c : Ctx) (r k : Nat) := 8192 * (at0 s c).1 + (at0 s c).2 + 32 * r + k
     Does (.accRd f) f.pn f.pred
      { ops := [{ reg := f.dst.toNat, dst := true, cls := 1, wide := n, range := true }, srcIn 51 f.sa, srcIn 51 f.sb, unused f.sc],
        modOk := accMod f.mod 4 } (fun s c =>
      let acc := match basketOf s c.wv with | some B => B.acc | none => []
      if c.q = 0 then .done s
      else if bad s c then trap s c
      else .done (writeWords s c.w ((strandsOf c.q).flatMap (fun k => (List.range n).map (fun r => (vKey (f.dst.toNat + r) k,
        if bankHot s c.wv c.w (at0 s c).1 then freeWord s (32 * r + k) else cell acc (cells s c r k))))))) ∧
     Does (.accWr f) f.pn f.pred
      { ops := [unused f.dst, srcIn 51 f.sa, srcIn 51 f.sb, { reg := f.sc.toNat, cls := 1, wide := n, range := true }],
        modOk := accMod f.mod 4 } (fun s c =>
      if c.q = 0 then .done s
      else if bad s c then trap s c
      else .done (accStore s c ((strandsOf c.q).flatMap (fun k => (List.range n).map (fun r =>
        (cells s c r k, srcWord s c (f.sc.toNat + r) k))))))) ∧
    (let sel := modOPX f.mod / 8
     let n := modOPX f.mod % 8
     Does (.gstatus f) f.pn f.pred
      { ops := [dstIn (if sel = 0 then 33 else 35) f.dst, unused f.sa, unused f.sb, unused f.sc],
        modOk := decide (modRM f.mod = 0) && !(modSAT f.mod) && decide (modTYPE f.mod = 0) && decide (sel ≤ 4) } (fun s c =>
      let t := writeDst s c f.dst.toNat 1 (gstatusValue (gslot c.wv n) sel)
      if sel = 0 then .done (observeStrands t c.w n c.q c.q)
      else if c.once = false then .done s
      else .done (if sel = 1 then observeStrands t c.w n 0xFFFFFFFF c.sp.mask else t))) ∧
    Does (.ringPop f) f.pn f.pred
      { ops := [dstIn 3 f.dst 4 3, srcIn 51 f.sa 1 3, unused f.sb 3, unused f.sc 3], modOk := decide (f.mod.toNat < 2), waits := true }
      (fun s c =>
        if c.once = false then .done s
        else
          match ringPop s c.w c.q ((srcWord s c f.sa.toNat c.low).toNat % 256) (f.mod.getLsbD 0) with
          | none => .hold s .queueEmpty .retry
          | some (s1, ws) => .done (writeDst s1 c f.dst.toNat 4 (fun _ => natOfBytes (ws.flatMap (bytesOf 4)))))

/-- The system instructions, each once for the weave where its predicate is true in the lowest active strand: SRD and SWR of every system
register; ISYNC, DRAIN, GTWAIT and LOFT.WAITR; TRACE, TRACEV and PMARK; CNTRD, VSTAT and CAPQ; CKPT; PGQ.INV, PGQ.INVALL and PGQ.EVICT
(R180, R188, R325, R326, R341, R346, R435, R441). -/
def Obligations.SystemInstructions : Prop :=
  ∀ f : SYS,
    let Once (i : Instr) (form : Form) (e : State → Ctx → Effect) : Prop :=
      Does i f.pn f.pred form (fun s c => if c.once then e s c else .done s)
    let form (d a : Opnd) (ok : Bool) (waits : Bool) : Form := { ops := [d, a], modOk := decide (f.rsv = 0 ∧ f.sreg = 0) && ok, waits := waits }
    let no (r : BitVec 9) : Opnd := { reg := r.toNat, cls := 32, cause := 3 }
    let sca (r : BitVec 9) (d : Bool) (wide : Nat) : Opnd := { reg := r.toNat, dst := d, cls := 2, wide := wide, cause := 3 }
    let n := f.sreg.toNat
    let wide := (sregBits n).getD 32 / 32
    Once (.srd f) { ops := [sca f.dst true wide, no f.sa], modOk := decide (f.rsv = 0 ∧ f.imm = 0) && (sregBits n).isSome }
      (fun s c => .done (writeDst s c f.dst.toNat wide (fun _ => sregValue s c.w c.wv n))) ∧
    Once (.swr f) { ops := [no f.dst, sca f.sa false 1], modOk := decide (f.rsv = 0 ∧ f.imm = 0) && sregWritable n }
      (fun s c => .done (sregWrite s c.w c.wv n (srcWord s c f.sa.toNat c.low))) ∧
    Once (.isync f) (form (no f.dst) (no f.sa) (decide (f.imm = 0)) false) (fun s c =>
      .done (modWeave (setReeve s c.wv.ids.tenancy (fun r =>
        { r with cache := r.cache.filter (fun e => !((leafAt e.1 e.1 e.2.1 e.2.2).x)) })) c.w
        (fun wv => { wv with fview := joinView wv.fview (viewOf wv 0xFFFFFFFF) }))) ∧
    (∀ s c s2 c2, issued s f.pn f.pred (form (no f.dst) (no f.sa) (decide (f.imm = 0)) true) = some (c, s2, c2) → c2.once = true →
      (∀ p ∈ s2.ops, p.1 < heldLimit s2 c2 → p.2.w = c2.w → p.2.kind = .engine ∧ p.2.flags = [] ∧ p.2.bound.isSome = true) →
        exec (.drain f) s = .next (ended s c c2 (form (no f.dst) (no f.sa) (decide (f.imm = 0)) true) (.done s2))) ∧
    (let fm := form { reg := f.dst.toNat, dst := true, cls := 34, wide := 2, cause := 3 } (sca f.sa false 2)
        (decide (f.imm = 0) && sysEven f.dst && sysEven f.sa) true
     ∀ s c s2 c2, issued s f.pn f.pred fm = some (c, s2, c2) → c2.once = true →
      let a := srcN s2 c2 f.sa.toNat c2.low 2
      (a ≤ s2.time → exec (.gtwait f) s = .next (ended s c c2 fm (.done (writeDst s2 c2 f.dst.toNat 2 (fun _ => s2.time % 2 ^ 64))))) ∧
      (s2.time < a → c2.held = none → exec (.gtwait f) s = .next (ended s c c2 fm (.hold s2 .pause (.gtime a))))) ∧
    Once (.loftWaitr f) (form { reg := f.dst.toNat, dst := true, cls := 34, cause := 3 } (no f.sa) true true) (fun s c =>
      let left := s.loftPeriod - s.time % s.loftPeriod
      if 260 ≤ s.time % s.loftPeriod ∧ min f.imm.toNat (s.loftPeriod - 260) ≤ left then .done (writeDst s c f.dst.toNat 1 (fun _ => left))
      else .hold s .loftRefresh .retry) ∧
    (let rec0 (s : State) (c : Ctx) (kind data : Nat) : State :=
       trace s c.wv.ids.tenancy c.wv.shop kind c.wv.ids.wid c.slot c.pc c.sp.mask c.wv.ids.lotid data
     let vec := decide (f.sa.toNat < 384)
     Once (.trace f) (form (no f.dst) (no f.sa) true false) (fun s c => .done (rec0 s c 3 f.imm.toNat)) ∧
     Once (.tracev f) (form (no f.dst) { reg := f.sa.toNat, cls := 3, wide := if vec then 1 else 2, cause := 3 }
       (decide (f.imm = 0) && (vec || sysEven f.sa)) false)
      (fun s c => .done (rec0 s c 3 (srcN s c f.sa.toNat c.low (if vec then 1 else 2)))) ∧
     Once (.pmark f) (form (no f.dst) (no f.sa) true false)
      (fun s c => .done (rec0 (modWeave s c.w (fun wv => { wv with mark := f.imm })) c 4 f.imm.toNat))) ∧
    Once (.cntrd f) (form (sca f.dst true 2) (no f.sa) (decide (f.imm.toNat < 4) && sysEven f.dst) false) (fun s c =>
      let h := shopOf s c.wv.shop
      let x := cell h.cntctl f.imm.toNat
      .done (writeDst s c f.dst.toNat 2 (fun _ =>
        if x.getLsbD 26 && decide ((x.extractLsb' 28 4).toNat = c.wv.ids.tenancy) then (cell h.cnt f.imm.toNat).toNat else 0))) ∧
    Once (.vstat f) (form (sca f.dst true 2) (no f.sa) (decide (f.imm = 0) && sysEven f.dst) false) (fun s c =>
      let ck := match basketOf s c.wv with | some B => B.ckcount | none => 0
      let lines := match basketOf s c.wv with | some B => (versionLines B.version).length | none => 0
      .done (writeDst s c f.dst.toNat 2 (fun _ => ck + 2 ^ 32 *
        ((if versioned s c.wv then 2 ^ 31 else 0) + (if ck = 0 then 2 ^ 30 else 0) + min lines (2 ^ 30 - 1))))) ∧
    Once (.capq f) (form (sca f.dst true 2) (no f.sa) (decide (f.imm.toNat < 2) && sysEven f.dst) false) (fun s c =>
      .done (writeDst s c f.dst.toNat 2 (fun _ =>
        if f.imm = 0 then capReg s c.wv.ids.tenancy else residentReg s c.wv.ids.tenancy))) ∧
    Once (.ckpt f) (form (no f.dst) (no f.sa) (decide (f.imm = 0)) false) (fun s c =>
      .done (if versioned s c.wv then newOp s c .ckpt [] 0 0 else s)) ∧
    (let pg (op : Nat) (range priv : Bool) : Form := { form (no f.dst) (if range then sca f.sa false 2 else no f.sa)
        (decide ((f.imm.extractLsb' 14 2).toNat = op) &&
          (if range then sysEven f.sa else decide (f.imm.extractLsb' 0 14 = 0))) false with priv := priv }
     let va (s : State) (c : Ctx) := srcN s c f.sa.toNat c.low 2
     let grains := (f.imm.extractLsb' 0 14).toNat + 1
     Once (.pgqInv f) (pg 0 true true) (fun s c =>
      if va s c % 65536 ≠ 0 then .trap { cls := 2, cause := 5, lanes := c.sp.mask, addr := va s c }
      else .done (newOp s c (.invalidate (va s c) grains false) [] 2 3)) ∧
     Once (.pgqInvall f) (pg 1 false true) (fun s c => .done (newOp s c (.invalidate 0 0 true) [] 2 3)) ∧
     Once (.pgqEvict f) (pg 2 true false) (fun s c =>
      if va s c % 65536 ≠ 0 then .trap { cls := 2, cause := 5, lanes := c.sp.mask, addr := va s c }
      else .done (newOp s c (.evict ((List.range grains).map (fun i => (va s c + 65536 * i) % 2 ^ 64))) [] 0 0)))

/-! ### Events -/

/-- The engines' events, each where what it needs is there (R68, R171): a request leaves its shop, and a Clerk performs it once it has
accepted it (R276); a Dray visits the units of a chunk and lands their writes, and a copy completes (R294 to R298); the Gleaner accepts a
command, settles a strand, completes a selection (R362, R367, R381); the Loom resolves a ready head, commits a K-step, ends a SPLIT or FIN
(R392, R398, R409); the Courier accepts or goes on (R425, R427, R429); the Runner accepts or fetches a grain (R329). -/
def Obligations.EngineEvents : Prop :=
  ∀ s : State,
    let a := s.ev.a
    (∀ r o wv, look s.requests a = some r → r.sent ≠ 0 → acceptedFirst s r = false → look s.ops r.op = some o → weaveOf s o.w = some wv →
      exec .clerkPerform s = .next (completeClerk (settleHomes (performRequest s a r o wv)) r.op)) ∧
    (∀ r o wv s1, look s.requests a = some r → r.sent = 0 → s.ev.ok = false → look s.ops r.op = some o → weaveOf s o.w = some wv →
      mayPerform s r.op o = true → homesChange s wv.ids.tenancy = false →
      (if versioned s wv && (o.bound.isNone || !(versionOf s wv).isEmpty) then commitFor s r.op wv true else .ok s) = .ok s1 →
        let seen := commitSeen s s1 wv
        let s2 := { s1 with ops := edit s1.ops r.op (fun o =>
          { o with bound := some ((o.bound).getD []), view := joinView o.view seen }) }
        exec .clerkPerform s =
          .next (((s2.requests.filter (fun p => decide (p.2.op = r.op))).map (fun p => p.1)).foldl (fun s id => sendOne s wv.shop id) s2)) ∧
    (∀ shop id r l ls, look s.requests id = some r → r.sent = 0 → r.lanes = l :: ls →
      let home := homeOf s r.tenancy (l.pas.headD 0)
      (s.requests.filter (fun p => decide (p.2.sent ≠ 0 ∧ p.2.home = home))).length < 1024 → sendOne s shop id =
        loseLines { s with requests := put s.requests id { r with home := home, sent := s.steps + 1 } } shop
          (fun x _ => decide (x = lineOf (l.pas.headD 0)))) ∧
    (∀ r, look s.requests a = some r → look s.ops r.op = none →
      exec .clerkPerform s = .next (settleHomes { s with requests := del s.requests a })) ∧
    (∀ c0 c1, look s.copies a = some c0 → copyMay s a c0 = true →
      let s0 := copyStart s a c0
      let s1 := visitChunk (if s.ev.v = 0 then chunkEnd s0 c0 - c0.next else s.ev.v.toNat) s0 a
      look s1.copies a = some c1 → exec .drayChunkDone s =
        .next (closeChunk (landFlights (fun i => s.ev.lines.contains i) a 0 s1 [] c1.flying) a)) ∧
    (look s.copies a = none → exec .drayChunkDone s = .next (drayAccept 128 s s.ev.v.toNat)) ∧
    (∀ n id c u bs v fs els, look s.copies id = some c → c.ended = false → c.next < chunkEnd s c →
      (if dDSP c.desc = 0 then unitAt s c c.next else .ok 1) = .ok u → readElems s c c.next u [] c.after = (bs, v, .ok els) →
      unitFlights s c c.next bs = .ok fs → visitChunk (n + 1) s id =
        visitChunk n (modCopy (askLines s c.tenancy (srcBytes s c c.next u)) id (fun c => { c with
          next := c.next + u, after := v, parked := none, flying := c.flying ++ fs, left := c.dests })) id) ∧
    (∀ c v f, (look s.baskets f.dest).isSome = true →
      (dDSP c.desc = 1 → landFlight s c v f = (.ok (spStore s f.dest f.at_ f.data []), wroteAccess v s.stamp f.pas)) ∧
      (1 < dDSP c.desc → landFlight s c v f = (.ok (tobWrite s f.dest f.at_ f.data),
        joinView v (tobView f.dest s.stamp ((List.range f.data.length).map (fun i => f.at_ + i)))))) ∧
    (∀ c, look s.copies a = some c → c.allDone = true → c.w = none →
      exec .drayCopyComplete s = .next (drayAccept 128 (finishPacket s a c) c.shop)) ∧
    (∀ c w wv s1 c1, look s.copies a = some c → c.allDone = true → c.w = some w → weaveOf s w = some wv → copyHere s c = true →
      resultRoom s w wv 1 c.events.cmask = true → copyCommit s a c = .ok s1 → look s1.copies a = some c1 →
        let s2 := copyLand s1 c1 (copyMsg s1 c1)
        exec .drayCopyComplete s = .next (drayAccept 128 (finishCommand
          (modWeave { s2 with copies := del s2.copies a } w (fun wv => noteFailed wv c1)) c1.events 1 (copyResult s2 c1) (copyMsg s1 c1))
          wv.shop)) ∧
    (∀ wv e es, weaveOf s a = some wv → viewEntries wv 2 = e :: es → engineOn s wv = true → e.opc ≠ 0 →
      gleanerCount s wv.shop < 64 →
        let s1 := dropHead s a 2
        (e.opc = 0xDB → exec .gleanerAccept s =
          .next { s1 with selects := put s1.selects (freshKey s1.selects) (selectOf a wv e) }) ∧
        (e.opc ≠ 0xDB → (gslot wv (entrySlot e)).state ≠ 1 → exec .gleanerAccept s = .next (gleanerFinish
          (modGslot s1 a (entrySlot e) (fun g => if e.opc = 0xDA then acceptReplay g (entrySlot e) e else acceptGather g e)) a
          (entrySlot e)))) ∧
    (∀ wv o, weaveOf s a = some wv → (gslot wv s.ev.b).state = 1 → engineOn s wv = true → codeOf (gslot wv s.ev.b) s.ev.c = 2 →
      look s.ops (gslot wv s.ev.b).op = some o → engineMay s (gslot wv s.ev.b).op o = true →
        let s0 := gleanerStart s a s.ev.b (gslot wv s.ev.b)
        let wv1 := (weaveOf s0 a).getD wv
        let g := gslot wv1 s.ev.b
        exec .gleanerStrandSettle s = .next (gleanerFinish (match strandTry s0 wv1 g s.ev.c with
          | .code code detail => setCode s0 a s.ev.b s.ev.c detail code
          | .park ps => modGslot s0 a s.ev.b (fun g => { g with
              parked := g.parked ||| strandBit s.ev.c, places := put g.places s.ev.c ps })
          | .lost sl kind tb => loseStrands s0 a s.ev.b sl kind tb wv1 g
          | .goSpad off =>
            if lowerFirst s0 wv1 g s.ev.c (spPas wv1.ids.basket off (gBytes g)) then s0 else spadStrand s0 a s.ev.b s.ev.c off wv1 g
          | .go pas slots =>
            if lowerFirst s0 wv1 g s.ev.c pas then s0
            else memStrand (askLines s0 wv1.ids.tenancy pas) a s.ev.b s.ev.c wv1 g pas slots) a s.ev.b)) ∧
    (∀ x wv o keys, look s.selects a = some x → x.out = none → weaveOf s x.w = some wv → look s.ops x.events.op = some o →
      (∀ p ∈ s.selects, p.1 < a → p.2.shop = x.shop → ∀ v, weaveOf s p.2.w = some v → engineOn s v = false) →
      engineOn s wv = true → engineMay s x.events.op o = true → resultRoom s x.w wv 3 x.events.cmask = true →
      selKeys s x wv = .ok keys → (∀ k ∈ keys, k.1.any (poisoned s wv.ids.tenancy) = false) →
        let rd := selRead s wv (joinView x.view (opView s o)) keys
        let res := selectKeys (selCtl x.desc 4 2) (dWord x.desc 5) (decide (selCtl x.desc 6 1 = 1)) (decide (selCtl x.desc 7 1 = 1)) rd.1
        exec .gselectComplete s = .next (selWrites (if s.ev.v = 0 then dWord x.desc 5 + 1 else s.ev.v.toNat)
          (askLines s wv.ids.tenancy (keys.flatMap (fun k => k.1))) x.w a { x with parked := none } wv
          { entries := res.1.map (fun i => bytesOf 4 i ++ (if selBytes x.desc = 8 then bytesOf 4 (rd.1.getD i 0) else [])),
            kth := res.2.1, ties := res.2.2, view := rd.2 })) ∧
    (∀ x wv o out B, look s.selects a = some x → x.out = some out → weaveOf s x.w = some wv → look s.ops x.events.op = some o →
      basketOf s wv = some B → B.resident = true → exec .gselectComplete s =
        .next (selWrites (if s.ev.v = 0 then dWord x.desc 5 + 1 else s.ev.v.toNat) s x.w a x wv out)) ∧
    (∀ n w id x wv o,
      (∀ bs, o.entries[o.next]? = some bs → selCtl x.desc 1 1 = 1 →
        let va := (dWord2 x.desc 2 + selBytes x.desc * o.next) % 2 ^ 64
        selWrites (n + 1) s w id x wv o = selWrites n (spStore s wv.ids.basket va bs []) w id x wv { o with
          next := o.next + 1, view := wroteAccess o.view s.stamp (spPas wv.ids.basket va bs.length) }) ∧
      (o.entries[o.next]? = none → resultRoom s w wv 3 x.events.cmask = true → (look s.selects id).isSome = true →
        selWrites (n + 1) s w id x wv o =
          selFinish { s with selects := put s.selects id { x with out := some o, parked := none } } id x wv 0 0 o.next o.kth o.ties
            o.view)) ∧
    (∀ B w ws wv h hs, look s.baskets a = some B → B.loomReady = w :: ws → weaveOf s w = some wv → wv.heads = h :: hs →
      engineOn s wv = true → headReady s B w = true →
        let ms := (gangWids h.gang).filterMap (weaveOfWid s B)
        let parts := ms.filterMap (fun p => match p.2.heads with | e :: _ => some (p.1, e) | [] => none)
        (∀ p ∈ parts, p.2.opc = h.opc ∧ p.2.words = h.words ∧ p.2.gang = h.gang) →
          let s1 := parts.foldl (fun s p => modWeave s p.1 (fun wv => { wv with heads := wv.heads.drop 1 })) s
          let s2 := modBasket s1 a (fun B => { B with
            loomReady := B.loomReady.filter (fun x => !((parts.map (fun p => p.1)).contains x)) })
          let id := freshKey s2.loom
          let x : LoomOp := { basket := a, opc := h.opc, desc := h.words, gang := h.gang, parts := parts,
                              steps := loomTotal h.opc h.words, view := parts.foldl (fun v p => joinView v p.2.view) [] }
          exec .loomRendezvous s = .next (noteReady (parts.foldl (fun s p => loomAccept s p.1)
            (loomEnd (loomStart { s2 with loom := put s2.loom id x } id) id)) a)) ∧
    (∀ x, look (loomStart s a).loom a = some x → loomOn s x = true → loomCollected s x = false →
      x.status = 0 → x.step < x.steps → x.started.isSome = true → (splint x.opc = false ∨ x.opc = 0xDF) →
      loomTurn (loomStart s a) a x = true →
        let s2 := modBasket (loomStart s a) x.basket (fun B => if x.opc = 0xDF then commitSPL (loomStart s a) x B x.step
          else commitMM (loomStart s a) x B x.step)
        let s3 := match x.parts with
          | p :: _ => (match weaveOf s2 p.1 with | some wv => countW s2 wv 29 1 | none => s2)
          | [] => s2
        exec .loomKstepCommit s = .next (loomEnd { s3 with loom := put s3.loom a { x with step := x.step + 1 } } a)) ∧
    (∀ x0 x B, look s.loom a = some x0 → loomOn s x0 = true → (loomCollected s x0 = false ∨ x0.started ≠ none) →
      look (loomStart s a).loom a = some x → look (loomStart s a).baskets x0.basket = some B → x.status = 0 → x.step < x.steps →
      x.started.isSome = true → splint x.opc = true → x.opc ≠ 0xDF → loomTurn (loomStart s a) a x = true →
        let s2 := if x.opc = 0xDE then runSplit (loomStart s a) x B else modBasket (loomStart s a) x.basket (runFin (loomStart s a) x)
        exec .loomSplitFinComplete s = .next (loomEnd { s2 with loom := edit s2.loom a (fun x => { x with step := 1 }) } a)) ∧
    (∀ w e, s.ev.c = 1 → oldestHead s a 6 = some (w, e) → e.opc ≠ 0 → exec .netCommandComplete s = .next (netAccept s w e)) ∧
    (s.ev.c ≠ 1 → exec .netCommandComplete s = .next (netStep s a s.ev.reply)) ∧
    (∀ x, look s.net a = some x → x.since + 10 ^ 8 ≤ s.time →
      exec .netPeerTimeout s = .next (netStep s a { s.ev.reply with mismatch := false, failed := some s.ev.b })) ∧
    (∀ w e, s.ev.c = 1 → oldestHead s a 8 = some (w, e) → e.opc ≠ 0 →
      (s.prefetch.filter (fun p => decide (p.2.die = dieOf a))).length < 256 → exec .runnerGrainFetch s = .next (prefAccept s w e)) ∧
    (∀ p g gs wv, s.ev.c ≠ 1 → look s.prefetch a = some p → p.grains = g :: gs → weaveOf s p.w = some wv → prefFirst s a p = true →
      let r := prefStep s p wv.ids.tenancy g
      let p1 := { r.2 with grains := gs }
      let s2 := { r.1 with prefetch := put r.1.prefetch a p1 }
      exec .runnerGrainFetch s = .next (if gs = [] then prefFinish s2 a p1 else s2))

/-- What begins, completes and wakes: a free bench visits the next weave of its rotation that has a ready split and starts what its visit
gives, a pair together (R164, R165); a fetch that a walk or a lease holds waits (R307); a long-latency operation is performed and
completes (R166); a Depot way frees (R334); a trap from an unresolved access is taken at a boundary (R321); a PAUSE, a GTWAIT, a
WAITL that waited long enough, a WAITL with no watch go on (R179, R214, R215, R435). -/
def Obligations.WakeEvents : Prop :=
  ∀ s : State,
    let a := s.ev.a
    let b := s.ev.b
    (∀ wv sp s1 ps, weaveOf s a = some wv → look wv.splits b = some sp → mayStartClause s b wv sp = true →
      fetchClause s a b wv sp = .wait s1 ps → exec .clauseStart s = .next (modSplit s1 a b (fun sp => { sp with fetching := ps }))) ∧
    (∀ wv sp, weaveOf s a = some wv → look wv.splits b = some sp → mayStartClause s b wv sp = true →
      (∀ s1 ps, fetchClause s a b wv sp ≠ .wait s1 ps) →
        let bench := 4 * wv.shop + wv.bench
        (∀ r left, benchGives s wv.shop wv.bench = some (a, (b, r) :: left) → exec .clauseStart s =
          .next (startPair (noteVisit (startClause s a b wv sp) bench a b wv left) bench a b)) ∧
        (∀ w1 x left, benchGives s wv.shop wv.bench = some (w1, x :: left) → ¬ (w1 = a ∧ x.1 = b) → exec .clauseStart s = .next s) ∧
        (benchGives s wv.shop wv.bench = none → exec .clauseStart s = .next s)) ∧
    (∀ w slot wv sp,
      (∀ pas h ws, fetchClause s w slot wv sp = .ok pas (h :: ws) → startClause s w slot wv sp =
        beginClause (askLines (fetched s w slot) wv.ids.tenancy pas) w slot wv sp h ws) ∧
      (∀ s1 t hdr, fetchClause s w slot wv sp = .trap s1 t hdr → startClause s w slot wv sp =
        fetchTrap (fetched s1 w slot) w slot wv sp t hdr)) ∧
    (∀ shop bench w xs, benchGives s shop bench = some (w, xs) → benchBusy s shop bench = false ∧ xs ≠ [] ∧
      (visitLeft s ((look s.benches (4 * shop + bench)).getD {}) = none → xs = readySplits s w ∧
        ∃ pre post, nextVisits s shop bench = pre ++ w :: post ∧ ∀ x ∈ pre, readySplits s x = [])) ∧
    (∀ o wv, look s.ops a = some o → weaveOf s o.w = some wv → o.kind ≠ .engine → tobOp o = false →
      let go := !(doneOnce o) && mayPerform s a o
      let s1 := if go then performOp s a o wv else s
      exec .longLatencyComplete s = .next (if s.ev.ok then completeOne s1 a else s1)) ∧
    (∀ o wv, look s.ops a = some o → weaveOf s o.w = some wv →
      (versioned s wv && o.kind.access.2 && !(doneOnce o) && mayPerform s a o) = true →
        exec .versionWayFree s = .next (performOp s a o wv)) ∧
    (∀ wv f, weaveOf s a = some wv →
      wv.farTraps.find? (fun f => match holderOf wv f.lanes with
        | none => true
        | some n => (match look wv.splits n with | some sp => splitReady sp | none => false)) = some f →
        let s1 := modWeave s a (fun wv => { wv with farTraps := wv.farTraps.erase f })
        let t := farTrap f.kind f.lanes f.va f.seq f.slot
        (∀ n sp, holderOf wv f.lanes = some n → look wv.splits n = some sp → exec .farFaultTrap s =
          .next (deliver s1 a n { idx := f.idx, pc := f.pc, nextpc := sp.pc, word := f.word, held := false } t)) ∧
        (holderOf wv f.lanes = none → exec .farFaultTrap s = .next (farHalt s a wv f t))) ∧
    (∀ h n, heldOf s a b = some h → h.wait = .pause n → n ≤ s.cycles →
      exec .pauseExpire s = .next (boundary s a b (nextPC h.pc h.hdr) true)) ∧
    (∀ h n, heldOf s a b = some h → h.wait = .gtime n → n ≤ s.time →
      ∃ s1, exec (.gtwait (sysOf h.word)) { s with issuer := some (a, b) } = .next s1 ∧
        exec .gtwaitWake s = .next { s1 with issuer := s.issuer }) ∧
    (∀ h line n, heldOf s a b = some h → h.wait = .monitor line n none → n ≤ s.cycles →
      exec .waitlTimeout s = .next (wakeWait s a b (.monitor line n (some 2)))) ∧
    (∀ h n, heldOf s a b = some h → h.wait = .noWatch n → n ≤ s.cycles →
      exec .watchUnavailable s = .next (wakeWait s a b (.monitor 0 n (some 1))))

/-- Placing and saving gangs: a gang is placed on places that fit when its turn has come (R153 to R156); priority rises by aging (R155);
a gang that has waited 20 µs, a starving shop, or a cause that holds has gangs pre-empted (R51, R159); a unit acknowledges, a basket whose
units all have is saved, and after the last the gang's shops are free (R161, R162); a withdrawn cause lets it run on (R161); a saved gang is
restored (R163). -/
def Obligations.PlacementEvents : Prop :=
  ∀ s : State,
    let a := s.ev.a
    (∀ c l, (cands s).find? (fun c => decide (c.lot = a ∧ c.gid = s.ev.b) && c.saved.isNone) = some c → look s.lots a = some l →
      placesOk s c l s.ev.places = true → turnOf s c = true → exec .gangPlace s = .next (placeGang s a l c.gid c.prio s.ev.places)) ∧
    (∀ l, look s.lots a = some l → lotPlaced s a = false → l.state < 2 → l.aged < (s.time - l.bare) / 10 ^ 6 →
      exec .priorityAging s = .next { s with lots := put s.lots a { l with aged := (s.time - l.bare) / 10 ^ 6 } }) ∧
    (∀ gs, priorityCase s a s.ev.b = some gs →
      exec .priorityWaitExpire s = .next (gs.foldl (fun s g => requestGang s g .priority) s)) ∧
    (∀ g r, starving s a s.ev.b = true → (∀ x ∈ guardOwes s, ¬ (x.1 = s.ev.b ∧ x.2.1 = a)) →
      guardVictim s a s.ev.b = some g → guardNext s s.ev.b = some r →
        exec .starvationGuard s =
          .next { requestGang s g .starvation with guardPend := guardOwes s ++ [(s.ev.b, a, r)] }) ∧
    (∀ x, look s.gangs a = some x → causeHolds s a x s.ev.cause = true →
      exec .preemptRequest s = .next (requestGang s a s.ev.cause)) ∧
    (∀ x, look s.gangs a = some x → x.collecting = true → x.awaited.contains s.ev.unit = true → badRecord s a s.ev.unit = none →
      unitStopped s a s.ev.unit = true →
        let more := match s.ev.unit with
          | .weaves h => clerksOf s (((gangWeaves s a).filter (fun p => decide (p.2.shop = h))).map (fun p => p.1))
          | _ => []
        let left := (x.awaited ++ more).eraseDups.filter (fun u => decide (u ≠ s.ev.unit))
        let y := { x with awaited := left }
        let s1 := { s with gangs := put s.gangs a y }
        let s2 := (y.baskets.filter (basketStopped s1 y)).foldl holdBasket s1
        exec .preemptAck s = .next (if left = [] then saveGang s2 a else s2)) ∧
    (∀ x, look s.gangs a = some x → x.collecting = true → x.causes.contains s.ev.cause = true →
      (s.ev.cause = .priority ∨ s.ev.cause = .suspend) →
        let left := x.causes.filter (fun c => decide (c ≠ s.ev.cause))
        (left ≠ [] → exec .preemptWithdraw s = .next { s with gangs := put s.gangs a { x with causes := left } }) ∧
        (left = [] →
          let s1 := x.baskets.foldl unholdBasket { s with
            gangs := put s.gangs a { x with causes := [], collecting := false, awaited := [] } }
          exec .preemptWithdraw s = .next (((x.baskets.filterMap (look s.baskets)).map (fun B => B.shop)).foldl (drayAccept 128)
            (x.baskets.foldl lateChildren s1)))) ∧
    ∀ x c l, look s.gangs a = some x → (cands s).find? (fun c => decide (c.saved = some a)) = some c → look s.lots x.lot = some l →
      placesOk s c l s.ev.places = true → turnOf s c = true →
        let s1 := (x.baskets.zip s.ev.places).foldl (fun s p => restoreBasket s p.1 l.hdrs p.2) s
        let s2 := noteRevoked { s1 with
          gangs := put s1.gangs a { x with resident := true, leaseIds := [] }
          lots := edit s1.lots x.lot (fun l => { l with aged := 0 }) }
          ((gangWeaves s a).map (fun p => p.1)) (changedLeases s l.tenancy x.leaseIds)
        let s3 := guardPaid (x.baskets.foldl returnPending s2) a
        exec .gangRestore s =
          .next ((s.ev.places.map (fun p => p.shop)).foldl (drayAccept 128) (x.baskets.foldl lateChildren s3))

/-- The Steward's packets and the host's writes to a user queue: a packet is read when nothing before it blocks (R146); NOP, LAUNCH, COPY,
WAITSIG, SIGNAL, LOFTWRITE and FENCE packets start and do what R148 to R150 and R343 say; replies to reports are taken (R151); WRIDX, the
doorbell, PRIO and EXRD are written (R144, R146, R152, R154); ENABLE and SUSPEND are set and cleared (R145, R159); a LAUNCH.D is accepted as
a child lot (R158). -/
def Obligations.QueueEvents : Prop :=
  ∀ s : State,
    let q := s.ev.a
    let i := s.ev.b
    let s1 := reapPackets s q
    let Q := queueOf s1 q
    (let sp := reapPackets (postHeld (queueOf s q).heldRec.length s q) q
     let P := queueOf sp q
     queueOpen P = true → s.d3hot = false → P.rdidx.toNat < P.wridx.toNat → (∀ p ∈ P.packets, blocking p.2 = false) →
      P.wridx.toNat - P.rdidx.toNat ≤ 2 ^ P.log2size → exec .packetStart s = .next (readPacket sp q P.rdidx.toNat false)) ∧
    (∀ p, mayStart s1 q i 0 = some p → exec .nopPacket s = .next (completePacket (begin s1 q i id) q i)) ∧
    (∀ p hs, mayStart s1 q i 1 = some p → loftwriteOpen s Q.tenancy = false → checkLaunch s1 Q.tenancy p.body Q.priv = .ok hs →
      let l := lotOf s1 Q.tenancy q i p.body hs Q.priv (packetView Q p)
      let replay := decide ((tenOf s Q.tenancy).scriv.state = 2)
      (l.versioned = true → (tenOf s Q.tenancy).depot.dways ≠ 0) → canFit s Q.tenancy hs l.gsize replay = true →
        exec .launchPacket s =
          .next (begin (enterLot s1 (freshKey s1.lots) l replay) q i (fun p => { p with unit := some (freshKey s1.lots) }))) ∧
    (∀ p, mayStart s1 q i 2 = some p → shopAllowed s1 Q.tenancy false s.ev.c = true → drayCount s1 s.ev.c < 128 →
      let c : Copy :=
        { w := none, shop := s.ev.c, tenancy := Q.tenancy, desc := linearDesc (fieldAt p.body 8 8) (fieldAt p.body 0x10 8),
          events := { op := 0, w := 0, cmask := 0, scope := 0, cword := 0 }, total := fieldAt p.body 0x18 8, view := packetView Q p,
          after := packetView Q p, packet := some (q, i) }
      exec .copyPacket s = .next (begin { s1 with copies := put s1.copies (freshKey s1.copies) c } q i
        (fun p => { p with unit := some (freshKey s1.copies) }))) ∧
    (∀ p, mayStart s1 q i 3 = some p → exec .waitsigPacket s = .next (pollSignal (begin s1 q i (fun x => { x with
      deadline := if fieldAt p.body 0x1C 4 = 0 then 0 else s.time + 1000 * fieldAt p.body 0x1C 4 })) q i)) ∧
    exec .waitsigPoll s = .next (pollSignal s q i) ∧
    (∀ p, waitsNow (queueOf s q) i = some p → p.deadline ≠ 0 → p.deadline ≤ s.time →
      exec .waitsigTimeout s = .next (failPacket s q i 0x0007 p.tag (bytesOf 8 p.last.toNat) true)) ∧
    (∀ p, mayStart s1 q i 4 = some p → exec .signalPacket s = .next (performSignal (begin s1 q i id) q i)) ∧
    (∀ p, mayStart s1 q i 5 = some p → lotsOpen s Q.tenancy = false → exec .loftwritePacket s = .next (begin s1 q i id)) ∧
    (∀ p (us : List (List Byte)) view, look (queueOf s q).packets i = some p → p.begun = true → p.kind = 5 → s.inWindow = false →
      (∀ x ∈ (queueOf s q).stalled, x.pindex ≠ i) →
      loftUnits s (queueOf s q).tenancy (fieldAt p.body 8 8) (fieldAt p.body 0x18 8) p.parked (tenancyView s q) = .inr (us.map some, view) →
        let base := 65536 * (tenOf s (queueOf s q).tenancy).depot.lbase + fieldAt p.body 0x10 8
        exec .loftwriteComplete s = .next (completePacket (modQueue { s with
          loft := (us.zip (List.range us.length)).foldl (fun L x => splice L (base + 64 * x.2) x.1) s.loft } q (fun Q => { Q with
            view := joinView Q.view view })) q i)) ∧
    (∀ p, mayStart s1 q i 6 = some p → exec .fencePacket s =
      .next (modQueue (completePacket (begin s1 q i id) q i) q (fun Q => { Q with view := joinView Q.view Q.done }))) ∧
    (let s2 := postHeld (queueOf s q).heldRec.length s q
     exec .responsePoll s = .next ((queueOf s2 q).stalled.foldl (fun s x =>
      if (queueOf s q).stalled.contains x then takeReply s q x (responseOf s q x) else s) s2)) ∧
    exec .wridxWrite s = .next (writeIndex s q s.ev.v) ∧
    exec .doorbellWrite s = .next (if s.ev.b = 0 ∧ s.ev.c = 8 then writeIndex s q s.ev.v else s) ∧
    ((queueOf s q).enable = false → queueOk (queueOf s q) = true → s.stage.extractLsb' 0 4 = 15 →
      exec .queueEnable s = .next (modQueue s q (fun Q => { Q with
        enable := true, cfgerr := false, aborted := false, rdidx := (queueOf s q).wridx, exrd := 0, exwr := 0, stalled := [],
        heldRec := [],
        packets := Q.packets.filter (fun p => p.2.begun && !(Q.stalled.any (fun x => decide (x.pindex = p.1)))) }))) ∧
    exec .queueDisable s = .next (modQueue s q (fun Q => { Q with enable := false })) ∧
    (let s2 := modQueue s q (fun Q => { Q with suspend := true })
     exec .queueSuspend s = .next { s2 with
      agenda := (gangsOfQueue s q).map (fun g => .event .preemptRequest { a := g, cause := .suspend }) ++ s2.agenda }) ∧
    exec .queueUnsuspend s = .next (modQueue s q (fun Q => { Q with suspend := false })) ∧
    exec .prioWrite s = .next (modQueue s q (fun Q => { Q with prio := s.ev.v.toNat % 8 })) ∧
    (let s2 := modQueue s q (fun Q => { Q with exrd := s.ev.v.setWidth 32 })
     exec .exrdWrite s = .next (postHeld (queueOf s2 q).heldRec.length s2 q)) ∧
    (∀ wv e es par o hs, weaveOf s q = some wv → viewEntries wv 11 = e :: es → look s.lots wv.ids.lot = some par →
      look s.ops e.op = some o → engineOn s wv = true → engineMay s e.op o = true → e.opc ≠ 0 → par.depth < 15 →
        let s2 := dropHead s q 11
        let pkt := (e.words.take 16).flatMap (fun x => bytesOf 4 x.toNat)
        let cword := fieldAt pkt 0x35 3
        let uses := cwordBytes e.cmask false
        fieldAt pkt 0 1 = 1 → malformedAt s2 wv.ids.tenancy false pkt = none →
        checkLaunch s2 wv.ids.tenancy pkt wv.ids.priv = .ok hs →
        (uses ≠ 0 → cword % uses = 0 ∧ cword + uses ≤ wv.hdr.spad) →
          let l : Lot := { lotOf s2 wv.ids.tenancy par.queue par.pindex pkt hs wv.ids.priv (joinView e.view (opView s o)) with
            prio := some (match look s.gangs wv.ids.gang with | some g => g.prio | none => 0), parent := some wv.ids.lot,
            depth := par.depth + 1, basketOf := wv.ids.basket,
            events := some { op := e.op, w := q, cmask := e.cmask, scope := e.scope, cword := cword } }
          (l.versioned = true → (tenOf s wv.ids.tenancy).depot.dways ≠ 0) →
          canFit s wv.ids.tenancy hs l.gsize (replayRoot s par.depth.succ wv.ids.lot).isSome = true →
            exec .launchDAccept s = .next (enterLot s2 (freshKey s2.lots) l false))

/-! ### Tenancies, leases and memory (spec/01_engines.md, 15_reeve.md, 16_depot_loft.md, 17_tinker.md, 23_courier.md) -/

/-- Tenancies: CREATE and DESTROY are accepted, or refused with the causes that hold, and end as R460 and R27 say; the key is written while the
tenancy is FREE; an aligned host write reaches the block of registers that its offset names, a WO register and
every offset past the last block read as zero, and QBASE and WRIDX read as they stand (R8, R9); TCTL.QUOTA takes a value that fits (R304,
R311); a fill ends (R310); key slots are configured and loaded (R421). -/
def Obligations.TenancyEvents : Prop :=
  ∀ s : State,
    let t := s.ev.a
    let T := tenOf s t
    let v := s.ev.v
    (t < 16 → createCauses s t = [] →
      let s1 := busyTen s t 1
      exec .tenancyCreate s = .next (((s1.gangs.filter (fun p => p.2.resident && sealedTen T &&
        (gangWeaves s1 p.1).any (fun w => T.tarc.getLsbD (arcadeOf w.2.shop)))).map (fun p => p.1)).foldl
          (fun s g => requestGang s g .sealing) s1)) ∧
    (t < 16 → createCauses s t ≠ [] → exec .tenancyCreate s = .next (refuseTen s t 1 (createCauses s t))) ∧
    (T.state = 2 → T.busyWith = 1 → arcadesHeld s t = false →
      let s1 := rehome s s
      (rehomed s1 s1 = false → exec .tenancyCreateDone s = .next s1) ∧
      (rehomed s1 s1 = true → exec .tenancyCreateDone s =
        .next { modTen s1 t (fun T => { T with state := 1, busyWith := 0 }) with pinned := s.pinned + 16 * vBits T.tcfg 32 16 })) ∧
    (t < 16 → destroyCauses s t = [] →
      exec .tenancyDestroy s = .next ((List.range 256).foldl (fun s n => releaseSlot s t n) (busyTen s t 2))) ∧
    (t < 16 → destroyCauses s t ≠ [] → exec .tenancyDestroy s = .next (refuseTen s t 2 (destroyCauses s t))) ∧
    (T.state = 2 → T.busyWith = 2 → (∀ p ∈ T.reeve.leases, p.2.state = 0) →
      let free := modTen s t (fun T => { T with state := 0 })
      let s0 := rehome s free
      (rehomed s0 free = false → exec .tenancyDestroyDone s = .next s0) ∧
      (rehomed s0 free = true →
        let U := tenOf s0 t
        let s1 := ((s0.grains.filter (fun p => decide (p.2.tenancy = t))).map (fun p => p.1)).foldl dropGrain s0
        let s2 := clearLoft s1 U.depot.lbase U.depot.lsize
        let s3 := { s2 with
          pinned := s2.pinned - 16 * vBits U.tcfg 32 16
          keys := s2.keys.map (fun p => if p.2.tenancy = t then (p.1, { p.2 with valid := false, key := 0, wrap := [] }) else p) }
        exec .tenancyDestroyDone s =
          .next (modTen s3 t (fun T => { T with state := 0, busyWith := 0, tcfg := 0, tarc := 0, key := 0 })))) ∧
    (t < 16 → T.state = 0 →
      let k := 64 * (T.keyWrites % 4)
      exec .tkeyWrite s = .next (modTen s t (fun T => { T with
        key := (T.key &&& ~~~((0xFFFFFFFFFFFFFFFF#256) <<< k)) ||| (v.setWidth 256 <<< k), keyWrites := T.keyWrites + 1 }))) ∧
    (t % 8 = 0 →
      (t < 0x60 → exec .registerWrite s = .next (writePackage s t v)) ∧
      (∀ n o, n < 16384 → o < 64 → t = 0x100000 + 64 * n + o → exec .registerWrite s = .next (writeQueue s n o v)) ∧
      (∀ n o, n < 16 → o < 64 → t = 0x200000 + 64 * n + o → exec .registerWrite s = .next (writeTen s n o v)) ∧
      (∀ n o, n < 16 → o < 0x8000 → t = 0x300000 + 0x8000 * n + o → exec .registerWrite s = .next (writeReeve s n o v)) ∧
      (∀ n o, n < 12 → o < 0x10000 → t = 0x400000 + 0x10000 * n + o → exec .registerWrite s = .next (writeTinker s n o v)) ∧
      (∀ n o, n < 256 → o < 64 → t = 0x500000 + 64 * n + o → exec .registerWrite s = .next (writeRing s n o v)) ∧
      (∀ n c o, n < 16 → c < 16 → o < 64 → t = 0x520000 + 0x400 * n + 64 * c + o →
        exec .registerWrite s = .next (writeComm s n c o v)) ∧
      (∀ n o, n < 16 → o < 0x100 → t = 0x580000 + 0x100 * n + o → exec .registerWrite s = .next (writeScriv s n o v)) ∧
      (∀ n o, n < 192 → o < 0x80 → t = 0x600000 + 0x80 * n + o → exec .registerWrite s = .next (writeShop s n o v))) ∧
    (∀ n < 16, readRegister s (0x200010 + 64 * n) = 0 ∧ readRegister s (0x200018 + 64 * n) = 0) ∧
    (∀ k < 1024, readRegister s (0x510008 + 16 * k) = 0) ∧
    (∀ n < 16384, readRegister s (0x100000 + 64 * n) = (queueOf s n).qbase ∧ readRegister s (0x100010 + 64 * n) = (queueOf s n).wridx) ∧
    (∀ a, 0x606000 ≤ a → readRegister s a = 0) ∧
    (t < 16 →
      let q := (v.extractLsb' 0 24).toNat
      let others := (List.range 16).foldl (fun a u => if u = t then a else a + (tenOf s u).reeve.quota) 0
      others + q ≤ framesAll - s.retiredFrames.length - s.pinned →
        let s1 := setReeve s t (fun r => { r with quota := q })
        exec .quotaWrite s = .next (fitQuota s1.grains.length s1 t)) ∧
    (let s0 := fitQuota s.grains.length s s.ev.b
     (fillWanted s0 s.ev.b s.ev.c s.ev.a = false → exec .grainFillComplete s = .next s0) ∧
     ∀ s1, fillWanted s0 s.ev.b s.ev.c s.ev.a = true → fillGrain s0 s.ev.b s.ev.c s.ev.a = some s1 →
      exec .grainFillComplete s = .next s1) ∧
    (t < 1024 →
      let K := keyOf s t
      let ws := K.wrap ++ [v]
      (ws.length < 5 → exec .keyWrapWrite s = .next { s with keys := put s.keys t { K with wrap := ws } }) ∧
      (5 ≤ ws.length →
        let K1 : KeySlot := match Config.unwrapKey (tenOf s K.tenancy).key (wrapped ws) with
          | some key => { K with wrap := [], key := key, valid := true, kerr := false }
          | none => { K with wrap := [], key := 0, valid := false, kerr := true }
        exec .keyWrapWrite s = .next { s with keys := put s.keys t K1 }) ∧
      (let K1 := { K with said := v.extractLsb' 32 32, tenancy := vBits v 28 4, valid := false, key := 0, wrap := [] }
       exec .keySlotConfigWrite s = .next { s with keys := put s.keys t K1 }))

/-- Leases (spec/15_reeve.md): the commands of q9 are served (R327); the pool manager's messages are acted on (R313, R314, R317); RENEW is sent
and sent again, and the slot's life runs through its states (R314); replies to fault records are taken, or time out (R319); the back-invalidate
of R322, the host's invalidation of R304 and the halving of the access counters (R328). -/
def Obligations.LeaseEvents : Prop :=
  ∀ s : State,
    let t := s.ev.a
    let n := s.ev.b
    let l := leaseOf s t n
    let m := s.ev.amiop
    let mt := m.tenancy.toNat
    let ms := m.slot.toNat
    let ml := msgLease s m
    (∀ wv e es B, weaveOf s t = some wv → viewEntries wv 9 = e :: es → basketOf s wv = some B → B.resident = true →
      let ws := e.words.map (fun x => x.toNat)
      let u := wv.ids.tenancy
      let k := ws.getD 1 0
      let tag := e.words.getD 31 0
      let s1 := dropHead s t 9
      let L := leaseOf s1 u k
      q9Bad s u ws = false →
        (ws.headD 0 = 1 → (leaseOf s u k).cmd.isSome = false → (L.state = 0 ∨ L.state = 5) →
          exec .leaseAcquire s = .next (sendAmiop (setLease s1 u k { L with cmd := some (1, e.op, tag) }) 1 u k (ws.getD 2 0 % 65536) 0
            (ws.getD 4 0 + 2 ^ 32 * ws.getD 5 0) (ws.getD 6 0 + 2 ^ 32 * ws.getD 7 0) (ws.getD 3 0))) ∧
        (ws.headD 0 = 2 → (leaseOf s u k).cmd.isSome = false →
          exec .leaseRenew s = .next (sendRenew (setLease s1 u k { L with cmd := some (2, e.op, tag) }) u k)) ∧
        (ws.headD 0 = 3 → (leaseOf s u k).cmd.isSome = false → L.state ≠ 0 →
          exec .leaseRelease s = .next (setLease (releaseSlot s1 u k) u k { leaseOf (releaseSlot s1 u k) u k with
            cmd := some (3, e.op, tag) })) ∧
        (ws.headD 0 = 5 → (leaseOf s u k).cmd.isSome = false → L.state ≠ 4 → L.state ≠ 6 →
          exec .leaserd s = .next (replyQ9 s1 e.op 0 0 tag (leaseImage s1 u k))) ∧
        (∀ f, ws.headD 0 = 4 → awaiting s1 u k = some f →
          let s2 := (agentWrite s1 u (faultVA s1 u f.index + 0x3C) (bytesOf 4 (ws.getD 2 0)) []).getD s1
          exec .frresp s = .next (replyQ9 (takeResponse s2 u k (ws.getD 2 0)) e.op 0 0 tag (leaseImage s2 u f.slot)))) ∧
    (∀ f bs, awaiting s t n = some f → agentRead s t (faultVA s t f.index + 0x3C) 4 = some bs →
      (natOfBytes bs = 1 ∨ natOfBytes bs = 2) → exec .faultResponsePoll s = .next (takeResponse s t n (natOfBytes bs))) ∧
    (∀ f, awaiting s t n = some f → (tenOf s t).reeve.frtmo ≠ 0 → f.posted + 1000 * (tenOf s t).reeve.frtmo ≤ s.time →
      exec .frtmoExpire s = .next (takeResponse s t n 2)) ∧
    (let s1 := setReeve s t (fun r => { r with frrd := s.ev.v.extractLsb' 0 32 })
     exec .frrdWrite s = .next (postHeldFaults ((tenOf s1 t).reeve.heldFault.length + 1) s1 t)) ∧
    (s.ev.c ≠ 1 → exec .invreqGo s = .next (setReeve s t (fun r => { r with invreq := true }))) ∧
    (s.ev.c = 1 → exec .invreqGo s = .next (setReeve s t (fun r => if r.invreq then { r with invreq := false, cache := [] } else r))) ∧
    (amiopOk m 0x81 = true → grantOk ml m = true →
      exec .grant s = .next (sendAck (replySlot (setLease s mt ms { ml with
        id := m.leaseid, base := m.base.toNat, size := m.size.toNat, expiry := s.time + m.duration.toNat, node := m.node.toNat,
        rights := m.rights.toNat % 8, replica := m.replica.toNat, state := 1, cause := 0, dropped := 0 }) mt ms 0) m true)) ∧
    (amiopOk m 0x82 = true →
      (m.leaseid = 0 → outstanding ml 1 → (ml.state = 0 ∨ ml.state = 5) → exec .refuse s = .next (sendAck (replySlot s mt ms 1) m true)) ∧
      (m.leaseid = ml.id → ml.state = 2 → exec .refuse s = .next (sendAck (endSlot s mt ms (ml.expiry - 4000) 2) m true)) ∧
      (m.leaseid = ml.id → ml.state = 3 → exec .refuse s = .next (sendAck (loseSlot s mt ms 2) m true))) ∧
    (amiopOk m 0x83 = true → m.leaseid = ml.id →
      (ml.state = 3 → exec .revoke s = .next (sendAck (loseSlot s mt ms 4) m true)) ∧
      ((ml.state = 1 ∨ ml.state = 2) → exec .revoke s =
        .next (sendAck (endSlot s mt ms (min (ml.expiry - 4000) (s.time + 1000 * m.grace.toNat)) 4) m true)) ∧
      (ml.state = 6 → exec .revoke s = .next (sendAck (setLease s mt ms { ml with deadline := s.time + 1000 * m.grace.toNat }) m true))) ∧
    (amiopOk m 0x85 = true → m.leaseid = ml.id → ml.state ≠ 0 →
      exec .replica s = .next (sendAck (setLease s mt ms { ml with replica := m.replica.toNat }) m true)) ∧
    (let down (node : Nat) (s : State) : State := (List.range 16).foldl (fun s t =>
       ((tenOf s t).reeve.leases.filter (fun p => decide (p.2.state ≠ 0 ∧ p.2.state ≠ 5 ∧ p.2.node = node))).foldl
         (fun s p => nodeFails s t p.1) s) s
     (s.ev.ok = false → exec .nodedown s = .next (down t s)) ∧
     (s.ev.ok = true → m.kind.toNat = 0x84 → m.version = 1 → exec .nodedown s = .next (sendAck (down m.node.toNat s) m true))) ∧
    (l.state = 1 → 4000 < 1000 * (tenOf s t).reeve.renewLead → l.expiry ≤ s.time + 1000 * (tenOf s t).reeve.renewLead →
      exec .renewLeadReached s = .next (sendRenew (setLease s t n { l with state := 2 }) t n)) ∧
    ((l.state = 2 ∨ l.state = 3) → l.sent + 100000 ≤ s.time → exec .renewResend s = .next (sendRenew s t n)) ∧
    (l.expiry ≤ s.time + 4000 →
      let s1 := setLease s t n { l with state := 3, since := s.time }
      (l.state = 2 → exec .expiryGuardReached s = .next s1) ∧
      (l.state = 1 → 1000 * (tenOf s t).reeve.renewLead ≤ 4000 → exec .expiryGuardReached s = .next (sendRenew s1 t n))) ∧
    (l.state = 3 → l.since + 1000 * (tenOf s t).reeve.renewTmo ≤ s.time → exec .renewtmoExpire s = .next (loseSlot s t n 3)) ∧
    (l.deadline ≤ s.time →
      (l.state = 4 → exec .deadlineReached s = .next (loseSlot s t n l.cause)) ∧
      (l.state = 6 → l.deadline ≠ 0 → exec .deadlineReached s =
        .next (releaseDone (setLease s t n { l with dropped := (leaseDirty s t n).length }) t n true))) ∧
    (((l.state = 6 ∧ l.deadline = 0) ∨ ((l.state = 4 ∨ l.state = 6) ∧ s.time < l.deadline)) → s.ev.ok = false →
      s.ev.c ∈ leaseDirty s t n → mayFlush s s.ev.c = true → exec .releaseWritebackDone s = .next (flushGrain s s.ev.c)) ∧
    (l.state = 6 → (l.deadline = 0 ∨ s.time < l.deadline) → s.ev.ok = true → (leaseDirty s t n).all (mayFlush s) = true →
      exec .releaseWritebackDone s = .next (releaseDone ((leaseDirty s t n).foldl flushGrain s) t n true)) ∧
    (let gs := (s.ev.lines.map (fun l => l / 512)).eraseDups
     (gs.any (snoopWaits s) = true → exec .bisnp s = .next s) ∧
     (gs.any (snoopWaits s) = false →
      let s1 := gs.foldl snoopGrain s
      let mine (w : Nat × Nat × List Byte) : Bool := gs.contains (grainOf w.2.1)
      exec .bisnp s = .next (send ((s1.poolWrites.filter mine).foldl poolWrite { s1 with
        poolWrites := s1.poolWrites.filter (fun w => !(mine w)) }) .birsp))) ∧
    (∀ k, look s.halvings t = some k ∨ (look s.halvings t = none ∧ k = 0) →
      (s.cycles < 2 ^ 20 * (k + 1) → exec .runnerCounterHalve s = .next s) ∧
      (2 ^ 20 * (k + 1) ≤ s.cycles → exec .runnerCounterHalve s = .next { s with
        halvings := put s.halvings t (k + 1)
        grains := s.grains.map (fun p =>
          if homeDie (keyGrain p.1) = t then (p.1, { p.2 with counter := hotness s 9300 p / 2, asked := 0 }) else p) }))

/-- The Tinker and the Loft: errors of a read are corrected and counted, or the sector becomes uncorrectable (R348, R349); the scrub does the
same, and a finished pass resets the counts (R350, R352); a repair takes a spare and goes through its windows (R353, R355, R357); a failing row's
frame is retired and its grain moves (R359); a Loft partition is set (R331); refresh windows begin and end (R345). -/
def Obligations.MemoryUnitEvents : Prop :=
  ∀ s : State,
    let a := s.ev.a
    let x := s.ev.treq
    (mayServe s x = true → x.write = false →
      (x.errors = 0 → x.tsv = none → exec .tinkerRequest s = .next s) ∧
      (0 < x.errors → x.errors ≤ 2 → exec .tinkerRequest s = .next (countError s x)) ∧
      ((x.errors = 3 ∨ x.errors = 4) → x.tsv = none → exec .tinkerRequest s = .next (markUncorrectable s x.frame x.sector))) ∧
    (s.ev.c = 1 → exec .scrubStep s = .next (modTinker s (x.frame / 2 ^ 20) (fun T => { T with counts := [] }))) ∧
    (s.ev.c ≠ 1 → mayServe s x = true →
      (0 < x.errors → x.errors ≤ 2 → exec .scrubStep s = .next (countError s x)) ∧
      (2 < x.errors → x.tsv = none →
        let s1 := markUncorrectable s x.frame x.sector
        (frameGrain s1 x.frame = none → exec .scrubStep s = .next s1) ∧
        (∀ g G, frameGrain s1 x.frame = some (g, G) →
          exec .scrubStep s = .next (if keyDirty s1 g then s1 else dropGrain s1 g)))) ∧
    (∀ r rest, (tinkerOf s a).window = none → a < 12 → nextRepair (tinkerOf s a) = r :: rest →
      let open1 (T : Tinker) : State := { s with
        tinkers := put s.tinkers a { T with queued := r :: rest, window := some (windowAt r (tinkerOf s a).closed s.time) } }
      ((tinkerOf s a).closed ≠ 0 → exec .repairWindowOpen s =
        .next (if (tinkerOf s a).shut + 10000 ≤ s.time then open1 (tinkerOf s a) else s)) ∧
      (∀ T, (tinkerOf s a).closed = 0 → takeSpare (tinkerOf s a) r = some T →
        exec .repairWindowOpen s = .next { s with
          tinkers := put s.tinkers a { T with queued := r :: rest, window := some (windowAt r T.closed s.time) } }) ∧
      ((tinkerOf s a).closed = 0 → takeSpare (tinkerOf s a) r = none → exec .repairWindowOpen s = .next (spareGone s a r))) ∧
    (∀ w r rest, (tinkerOf s a).window = some w → (tinkerOf s a).queued = r :: rest →
      let s1 := (s.ev.lines.filter (inWindowOf a w)).foldl (fun s key => markUncorrectable s (key / 2048) (key % 2048)) s
      ((tinkerOf s a).closed + 1 < windowsOf r.1 → exec .repairWindowClose s =
        .next (modTinker s1 a (fun T => { T with window := none, closed := (tinkerOf s a).closed + 1, shut := s.time }))) ∧
      (windowsOf r.1 ≤ (tinkerOf s a).closed + 1 → exec .repairWindowClose s =
        .next (gainEvent (modTinker s1 a (fun T => { T with
          window := none, closed := 0, queued := rest, done := (T.done + 1) % 65536, map := T.map ++ [r],
          counts := repairedCounts T r })) a 0))) ∧
    ((tinkerOf s (a / 2 ^ 20)).failing.contains a = true → s.retiredFrames.contains a = false →
      exec .exhausted s = .next (gainEvent (modTinker (retireFrame s a s.ev.ok) (a / 2 ^ 20) (fun T => { T with
        exh := min (T.exh + 1) (2 ^ 32 - 1) })) (a / 2 ^ 20) 2)) ∧
    (∀ G f, look s.grains a = some G → G.moving = true → freeFrame s (homeDie (keyGrain a)) = some f →
      frameRepairing s f = false → frameRepairing s G.frame = false →
      exec .frameMigrationDone s = .next { coverFrame s f with grains := put s.grains a { G with frame := f, moving := false } }) ∧
    (let lsize := vBits s.ev.v 32 16
     let lbase := vBits s.ev.v 0 16
     (a < 16 → loftPartBad s a lbase lsize = true →
      exec .loftpartWrite s = .next (modTen s a (fun T => { T with depot := { T.depot with cfgerr := true } }))) ∧
     (a < 16 → loftPartBad s a lbase lsize = false →
      let s1 := clearLoft (clearLoft s (tenOf s a).depot.lbase (tenOf s a).depot.lsize) lbase lsize
      exec .loftpartWrite s = .next (modTen (openLoft s1 lbase lsize) a (fun T => { T with
        depot := { T.depot with lsize := lsize, lbase := lbase, cfgerr := false } })))) ∧
    (s.inWindow = false → s.loftNext = s.loftPeriod → s.time % s.loftPeriod < 260 →
      exec .loftWindowStart s = .next { s with inWindow := true }) ∧
    (s.inWindow = true → 260 ≤ s.time % s.loftPeriod → exec .loftWindowEnd s = .next { s with inWindow := false })

/-! ### The Scrivener, the network and the package (spec/24_scrivener.md, 23_courier.md, 25_package.md) -/

/-- What happens to the device as a whole: global time passes with the cycles of the compute clock (R440, R456); DBGCTL changes state or
refuses (R436); SYNC records, samples and time exchanges (R434, R439, R446); replay passes end and their records go out (R437, R448 to R450); communicators and rings are enabled and disabled (R422, R430); a frame
arrives (R430); power-on and the stages of bring-up (R452 to R454); link loss, clock, thermal trip, reset, power loss (R357, R454, R456);
D3hot (R457); attestation (R458, R459). -/
def Obligations.DeviceEvents : Prop :=
  ∀ s : State,
    let a := s.ev.a
    let b := s.ev.b
    let v := s.ev.v
    ((elapse s).time * 10 ^ 6 + (elapse s).phase = s.time * 10 ^ 6 + s.phase + ((elapse s).cycles - s.cycles) * periodFs s ∧
      (elapse s).phase < 10 ^ 6) ∧
    (a < 16 → exec .dbgctlStateWrite s = .next (setScriv s a (fun c =>
      if dbgOk c (vBits v 0 2) (v.getLsbD 12) then
        { c with state := vBits v 0 2, traceen := v.getLsbD 12, cfgerr := false,
                 synced := if v.getLsbD 12 && !c.traceen then [] else c.synced }
      else { c with cfgerr := true }))) ∧
    (a < 192 → (shopOf s a).syncAt < s.cycles / 2 ^ 16 →
      exec .syncTick s = .next (syncShop (modShop s a (fun h => { h with syncAt := s.cycles / 2 ^ 16 })) a)) ∧
    (∀ w ws wv, turned s (rotation s a b) ((look (shopOf s a).sampled b).getD []) = w :: ws → weaveOf s w = some wv →
      ((look (shopOf s a).sampleAt b).getD 0) / 2 ^ sampleLog s (rotation s a b) w < s.cycles / 2 ^ sampleLog s (rotation s a b) w →
      (tenOf s wv.ids.tenancy).scriv.state = 1 →
        exec .sampleTick s = .next (samplePost
          (modShop s a (fun h => { h with sampled := put h.sampled b (rotationKey s wv), sampleAt := put h.sampleAt b s.cycles }))
          wv.ids.tenancy (sampleBytes s w wv))) ∧
    exec .ptmExchange s = .next (if s.ev.ok then { s with gtoff := v, gterr := BitVec.ofNat 16 a, ptmlock := true }
      else { s with ptmlock := false, gterr := 0xFFFF }) ∧
    (∀ l, look s.lots a = some l → passOver s a l = true →
      let inner := decide (l.pass < l.npass)
      let s1 := if inner && decide (l.rflags &&& 4 ≠ 0 ∧ l.rflags &&& 8 = 0) then stopPass s a 0 else s
      let s2 := { s1 with lots := edit s1.lots a (fun l => { l with passRec := some (passRecord s1 l) }) }
      exec .replayPassEnd s = .next (postPass (if inner then dropL1 (restorePass s2 a) l.tenancy else s2) a)) ∧
    (a < 16 →
      let s1 := setScriv s a (fun c => { c with rrd := v.extractLsb' 32 32 })
      exec .rrdWrite s = .next (((s1.lots.filter (fun p => decide (p.2.tenancy = a) && p.2.passRec.isSome)).map (fun p => p.1)).foldl
        postPass s1)) ∧
    (a < 16 → b < 16 → ((look (tenOf s a).comms b).getD {}).enable = false →
      let s1 := writeComm s a b 0 v
      exec .commEnable s = .next (modComm s1 a b (fun C =>
        match commMembers s1 a C with
        | some ms => { C with enable := true, cfgerr := false, members := ms }
        | none => { C with cfgerr := true }))) ∧
    (a < 16 → b < 16 → exec .commDisable s = .next (modComm s a b (fun C => { C with enable := false }))) ∧
    (a < 256 → (ringOf s a).enable = false →
      let s1 := writeRing s a 8 v
      let R := ringOf s1 a
      ((ringOk s1 a && ringFits1 s1 a) = false → exec .ringEnable s = .next (modRing s1 a (fun R => { R with cfgerr := true }))) ∧
      (∀ s2, ringOk s1 a = true → ringFits1 s1 a = true → pinGrains s1 R.tenancy (ringGrains s1 R) = some s2 →
        exec .ringEnable s = .next (modRing (ringWrite s2 R R.rbase.toNat (bytesOf 16 0) [relMsg (.courier (a / 64)) 3 []]) a (fun R => { R with
          enable := true, cfgerr := false, accepted := 0, full := 0, auth := 0, malformed := 0, nokey := 0, consTaken := 0 })))) ∧
    (a < 256 → (ringOf s a).enable = true →
      let s1 := modRing s a (fun R => { R with enable := false })
      let kept := (s1.rings.filter (fun p => p.2.enable)).flatMap (fun p => (ringGrains s1 p.2).map (fun g => g.1))
      exec .ringDisable s = .next ((ringGrains s (ringOf s a)).foldl (fun s g =>
        if kept.contains g.1 then s else { s with grains := edit s.grains g.1 (fun x => { x with pinned := false }) }) s1)) ∧
    (let f := s.ev.frame
     let d := f.port % 4
     s.netup.getLsbD d = true →
      let found := s.rings.find? (fun p => decide (p.1 / 64 = d) && p.2.enable && decide (p.2.residx = f.residx))
      (found = none → exec .frameReceive s = .next { s with noring := setCell s.noring d (cell s.noring d + 1) }) ∧
      (∀ r R, found = some (r, R) →
        let key := (List.range 256).find? (fun k => match look s.keys (256 * d + k) with
          | some x => x.valid && decide (x.said = f.said ∧ x.tenancy = R.tenancy)
          | none => false)
        let bad := f.malformed || decide (2 ^ R.log2slot - 16 < f.payload.length)
        let keyless := (f.encrypted && key.isNone) || (!f.encrypted && R.reqsec)
        (bad = true → exec .frameReceive s = .next (modRing s r (fun R => { R with malformed := R.malformed + 1 }))) ∧
        (bad = false → keyless = true → exec .frameReceive s = .next (modRing s r (fun R => { R with nokey := R.nokey + 1 }))) ∧
        (bad = false → keyless = false → (f.encrypted && !f.authentic) = true →
          exec .frameReceive s = .next (modRing s r (fun R => { R with auth := R.auth + 1 }))) ∧
        (bad = false → keyless = false → (f.encrypted && !f.authentic) = false →
          R.accepted.toNat - (ringOf s r).consTaken < ringSlots R →
            exec .frameReceive s = .next (ringAccept s r f (if f.encrypted then key.getD 0 else 0))))) ∧
    exec .powerOn s = .next (if s.powered then s else { s with powered := true, fwok := s.ev.ok }) ∧
    (∀ n, stageNow s = some n →
      let x := s.ev.stage
      (n = 0 → x.passed = true → exec .bringupStageEnd s =
        .next { s with stage := bitOn s.stage 0, tinkers := s.tinkers.map (fun p => (p.1, loadMap p.2)) }) ∧
      (0 < n → n < 4 → x.passed = true → exec .bringupStageEnd s = .next { s with stage := bitOn s.stage n }) ∧
      (n < 4 → x.passed = false → exec .bringupStageEnd s = .next { s with failed := bitOn s.failed n }) ∧
      (n = 4 → exec .bringupStageEnd s = .next { s with
        stage := bitOn s.stage 4, fabup := x.ports, maxlevel := maxLevelOf x.hops,
        failed := if x.ports = 0 then bitOn s.failed 4 else s.failed }) ∧
      (4 < n → exec .bringupStageEnd s = .next { s with
        stage := bitOn s.stage 5, netup := x.ports.setWidth 4,
        failed := if (x.ports.setWidth 4 : BitVec 4) = 0 then bitOn s.failed 5 else s.failed })) ∧
    (a = 0 → exec .linkLoss s = .next { s with fabup := bitOff s.fabup b }) ∧
    (a = 1 → exec .linkLoss s = .next { s with netup := bitOff s.netup b }) ∧
    (let x := s.ev.heat
     let covered := decide (capOf s < x.power)
     let hot := decide (100 ≤ x.tmax.toNat)
     let s1 := { s with utmax := x.utmax, tmax := x.tmax, loftNext := if 85 < x.utmax.toNat then 1950 else 3900 }
     let after (s2 : State) := exec .clockStep s = .next (if s2.clk = s.clk then s2 else (List.range 192).foldl syncShop s2)
     ((covered || hot) = true →
       after { clockTo s1 (max 10 (s.clk - 1)) with calmAt := s.time, capped := s.capped || covered, hot := s.hot || hot }) ∧
     ((covered || hot) = false → s.calmAt + 10 ^ 6 ≤ s.time →
       let s2 := clockTo s1 (min 21 (s.clk + 1))
       after { s2 with capped := s.capped && decide (s2.clk < 21), hot := s.hot && decide (s2.clk < 21) }) ∧
     ((covered || hot) = false → s.time < s.calmAt + 10 ^ 6 → exec .clockStep s = .next s1)) ∧
    (110 ≤ s.ev.heat.tmax.toNat → exec .thermalTrip s = .next { resetDevice s true with tmax := s.ev.heat.tmax }) ∧
    exec .deviceReset s = .next (resetDevice s s.tripped) ∧ exec .powerLoss s = .next (resetDevice s false) ∧
    exec .d3hotEntry s = .next (((s.gangs.filter (fun p => p.2.resident)).map (fun p => p.1)).foldl
      (fun s g => requestGang s g .d3hot) { s with d3hot := true }) ∧
    exec .d0Return s = .next { s with d3hot := false } ∧
    (s.attGo = false → v.getLsbD 0 = true →
      exec .attctlGo s = .next { s with attGo := true, attDone := false, attErr := false }) ∧
    (s.attGo = true →
      (s.ev.ok = true → exec .attestComplete s =
        .next { send s (.hostWrite s.attaddr.toNat (report s s.ev.nonce)) with attGo := false, attDone := true }) ∧
      (s.ev.ok = false → exec .attestComplete s = .next { s with attGo := false, attErr := true }))

/-! ### What an instruction changes, and what it leaves -/

/-- The result and the frame of an instruction that completes with a register result of n words (R118, R119, R123): each qualifying strand's
words go to its vector registers, the lowest qualifying strand's to the scalar registers; a field that names no register (z) writes nothing;
every other vector and scalar register of the weave, its predicates, FFLAGS, stochastic state, queues and every other field but temporaries,
splits and join stack, every other weave, and all of memory are as they were; of the device only event counters and what the operations in
flight know change. -/
def Obligations.RegisterResult : Prop :=
  ∀ (s : State) (pn : BitVec 1) (pred : BitVec 3) (form : Form) (c : Ctx) (s2 : State) (c2 : Ctx) (r : BitVec 9) (n : Nat) (v : Nat → Nat),
    issued s pn pred form = some (c, s2, c2) → (r.toNat < 448 ∨ 464 ≤ r.toNat) →
      let t := ended s c c2 form (.done (writeDst s2 c2 r.toNat n v))
      t = { s2 with weaves := t.weaves, shops := t.shops, ops := t.ops } ∧ sameMemory s2 t ∧
      (∀ k, shopOf t k = { shopOf s2 k with cnt := (shopOf t k).cnt }) ∧ (∀ w, w ≠ c.w → weaveOf t w = weaveOf s2 w) ∧
      ∀ wv, weaveOf s2 c.w = some wv → ∃ wv', weaveOf t c.w = some wv' ∧
        wv' = { wv with vreg := wv'.vreg, sreg := wv'.sreg, treg := wv'.treg, dead := wv'.dead, splits := wv'.splits,
                        stack := wv'.stack, sync := wv'.sync } ∧
        (∀ key < 30000, key ∉ dstKeys r.toNat n c2.q → getWord wv' key = getWord wv key) ∧
        (∀ j k, j < n → c2.q.getLsbD k = true → r.toNat + j < 384 →
          getWord wv' (vKey (r.toNat + j) k) = BitVec.ofNat 32 (v k / 2 ^ (32 * j))) ∧
        (∀ j k, j < n → lowestStrand c2.q = some k → 384 ≤ r.toNat → r.toNat + j < 448 →
          getWord wv' (sKey (r.toNat - 384 + j)) = BitVec.ofNat 32 (v k / 2 ^ (32 * j)))

/-- Bytes written are the bytes read, and no other byte changes; the memories stay in canonical form. -/
def Obligations.MemoryWrite : Prop :=
  ∀ (s : State) (pas : List Nat) (bs : List Byte) (msgs : List Msg),
    Memory.wf s = true → (∀ pa ∈ pas, pa < loftBase) → pas.Nodup → bs.length = pas.length →
      let t := writeAccess s pas bs msgs
      Memory.wf t = true ∧ sameBut pas s t ∧ ∀ i < pas.length, readByte t (pas.getD i 0) = bs.getD i 0

/-- A store in flight whose bytes can all be reached, which joins no version, and none of whose strands is left for a later step, is performed
when its turn has come (R62, R201): each strand's bytes are its data where no higher-numbered strand writes them too (R55), and no byte outside
those of its strands changes. That a step may leave strands for a later one is the model's reading of R55 (log entry 35). -/
def Obligations.StoreLands : Prop :=
  ∀ (s : State) (o : Op) (wv : Weave) (size : Nat) (lanes : List Lane),
    let n := s.ev.a
    look s.ops n = some o → weaveOf s o.w = some wv → o.kind = .store size lanes → lanes ≠ [] → mayPerform s n o = true →
    s.ev.ok = false → Memory.wf s = true → versioned s wv = false →
    (∀ l ∈ lanes, laneFare s wv.ids.tenancy n o l.strand l.pas l.slots = .go ∧ (staying s).getLsbD l.strand = false ∧
      parkedBefore s n o l.pas = false ∧ (∀ pa ∈ l.pas, pa < loftBase) ∧ l.pas.Nodup ∧
      l.data.length = l.pas.length) →
      ∃ t, exec .longLatencyComplete s = .next t ∧ sameBut (lanes.flatMap (fun l => l.pas)) s t ∧
        ∀ pre l post, lanes = pre ++ l :: post → ∀ i < l.pas.length, (∀ x ∈ post, l.pas.getD i 0 ∉ x.pas) →
          readByte t (l.pas.getD i 0) = l.data.getD i 0

/-- A load in flight of one access, whose bytes can be reached and have no write that some agent may not have seen, is performed when its
turn has come (R61, R62, R201): the words that it will write are those of the bytes in memory, little-endian, extended as SX says, and memory
does not change. -/
def Obligations.LoadReads : Prop :=
  ∀ (s : State) (o : Op) (wv : Weave) (size : Nat) (sx uni : Bool) (dst : Dest) (l : Lane),
    let n := s.ev.a
    look s.ops n = some o → weaveOf s o.w = some wv → o.kind = .load size sx dst uni [l] → mayPerform s n o = true →
    s.ev.ok = false → versionOf s wv = [] → laneFare s wv.ids.tenancy n o l.strand l.pas l.slots = .go →
    (staying s).getLsbD l.strand = false → parkedBefore s n o l.pas = false →
    (∀ pa ∈ l.pas, look s.lines (lineOf pa) = none ∧ poisoned s wv.ids.tenancy pa = false) →
      ∃ t o', exec .longLatencyComplete s = .next t ∧ sameMemory s t ∧ look t.ops n = some o' ∧
        o'.bound = some ((loadWords o size sx dst uni l (natOfBytes (l.pas.map (readByte s)))).foldl (fun x p => put x p.1 p.2)
          ((o.bound).getD []))

/-- LD and ST at an address that is not a multiple of their SIZE, in some qualifying strand, raise ALIGN, class 2, CAUSE 3, with LANES the
strands so placed and ADDR the lowest one's address, whatever else is wrong with the accesses (R200, R217, R186). -/
def Obligations.MisalignedAccessTraps : Prop :=
  ∀ (f : MemF) (s : State) (c : Ctx) (s2 : State) (c2 : Ctx),
    let bad := (strandsOf c2.q).filter (fun k => decide (eaOf s2 c2 f k % bytesSize f ≠ 0))
    let effect : Effect := .doneTrap (dropWalks s2 c2.wv.ids.tenancy c2.w c2.slot)
      { cls := 2, cause := 3, lanes := maskOf bad, addr := eaOf s2 c2 f (bad.headD 0) }
    let ldForm := memForm f { ds := loadDst f 33, sizes := [0, 1, 2, 3, 4], anns := [0, 1], mxOk := sxOk f }
    let stForm := memForm f { ds := storeSrc f 11, sizes := [0, 1, 2, 3, 4], anns := [0, 2], mxOk := mxZero f }
    bad ≠ [] →
      (issued s f.pn f.pred ldForm = some (c, s2, c2) → exec (.ld f) s = .next (ended s c c2 ldForm effect)) ∧
      (issued s f.pn f.pred stForm = some (c, s2, c2) → exec (.st f) s = .next (ended s c c2 stForm effect))

/-- No instruction and no event of the table is refused: each answers a next state, but for an instruction word that no split is issuing
(the model's choice: such a step does not arise, log entry 2). -/
def Obligations.NothingRefused : Prop :=
  ∀ (i : Instr) (s : State), (∃ t, exec i s = .next t) ∨ (exec i s = .fault .noIssuer ∧ ctxOf s 0 7 = none)

/-- The 64 bytes that the assembler writes for a role header whose fields fit their places are read back by the launch as that header, every
field, at any address (R139). -/
def Obligations.HeaderRoundTrip : Prop :=
  ∀ h : Hdr, h.vregs < 2 ^ 16 → h.sregs < 2 ^ 8 → h.tregs < 2 ^ 8 → h.role < 2 ^ 8 → h.nroles < 2 ^ 8 → h.weaves < 2 ^ 8 → h.spad < 2 ^ 32 →
    h.tobBanks < 2 ^ 8 → h.accBanks < 2 ^ 8 → h.gang < 2 ^ 8 → h.flags < 2 ^ 8 → h.liveCount < 2 ^ 16 → h.vquota < 2 ^ 16 →
      (hdrBytes h).length = 64 ∧ hdrOf h.addr.toNat (hdrBytes h) = h
end

