-- ==== Sys2Proof/Laws/Issue.lean ====
section
/-!
SUPPORT. What issuing an instruction does, said once: from the definition of its meaning by `issueRow` follow its completion statement
and its traps.
-/

namespace Sys2Proof.Machine

open Sys2Proof

/-- The registers of an instruction as renamed mode finds them (R173). -/
def renamedFor (s : State) (c : Ctx) (form : Form) : Renaming :=
  renameRegs s c (if c.held.isSome then [] else vregsOf form.reads) (vregsOf form.writes)

/-- In static mode the registers are where they are (R173). -/
theorem renamedFor_static {s : State} {c : Ctx} (form : Form) (h : c.wv.hdr.renamed = false) : renamedFor s c form = .go s := by
  simp [renamedFor, renameRegs, h]

/-- What the premise of a completion says: a context, no OFENCE of another split, no trap, no full queue, the registers, the pops. -/
theorem issued_parts {s : State} {pn : BitVec 1} {pred : BitVec 3} {form : Form} {c c2 : Ctx} {s2 : State}
    (h : issued s pn pred form = some (c, s2, c2)) :
    ctxOf s pn pred = some c ∧ c.fenced = false ∧ formTrap c form = none ∧ pushFull s c.wv form = false ∧
      ∃ s0, renamedFor s c form = .go s0 ∧ popAll (latch s0 c form.sources) c form.pops = some (s2, c2) := by
  unfold issued at h
  cases hc : ctxOf s pn pred with
  | none => simp [hc] at h
  | some c0 =>
    simp only [hc] at h
    by_cases h1 : (c0.fenced || (formTrap c0 form).isSome || pushFull s c0.wv form) = true
    · rw [if_pos h1] at h; cases h
    · rw [if_neg h1] at h
      change (match renamedFor s c0 form with
        | .refill _ => none
        | .go s0 => (popAll (latch s0 c0 form.sources) c0 form.pops).map (fun p => (c0, p.1, p.2))) = some (c, s2, c2) at h
      cases hr : renamedFor s c0 form with
      | refill s0 => rw [hr] at h; cases h
      | go s0 =>
        rw [hr] at h
        cases hq : popAll (latch s0 c0 form.sources) c0 form.pops with
        | none => simp [hq] at h
        | some p =>
          simp only [hq, Option.map_some, Option.some.injEq, Prod.mk.injEq] at h
          obtain ⟨rfl, rfl, rfl⟩ := h
          simp only [Bool.or_eq_true, not_or, Bool.not_eq_true, Option.isSome_eq_false_iff, Option.isNone_iff_eq_none] at h1
          exact ⟨rfl, h1.1.1, h1.1.2, h1.2, s0, hr, hq⟩

/-- Issuing an instruction, with the renaming named. -/
theorem issueRow_eq (s : State) (pn : BitVec 1) (pred : BitVec 3) (form : Form) (body : State → Ctx → Effect) {c : Ctx}
    (hc : ctxOf s pn pred = some c) (ho : c.fenced = false) (hf : formTrap c form = none) :
    issueRow s pn pred form body = (match renamedFor s c form with
      | .refill s1 => .next (finish s c form.sources form.writes false (.stay s1 (some .spill)))
      | .go s0 =>
        match popAll (latch s0 c form.sources) c form.pops with
        | none => .next (counted (holdAt (latch s0 c form.sources) c form.sources form.writes .queueEmpty .retry []) c)
        | some (s2, c2) =>
          if pushFull s c.wv form then
            .next (counted (holdAt (latch s0 c form.sources) c form.sources form.writes .queueFull .retry []) c)
          else
            match body s2 c2 with
            | .stay s3 why => .next (finish s c2 form.sources form.writes false (.stay s3 why))
            | e => .next (counted (finish s c2 form.sources form.writes form.waiting e) c)) := by
  simp only [issueRow, hc, ho, hf, renamedFor, Bool.false_eq_true, if_false]
  all_goals rfl

/-- An issued instruction answers the state that its body's effect gives. -/
theorem issueRow_issued {s : State} {pn : BitVec 1} {pred : BitVec 3} {form : Form} {body : State → Ctx → Effect} {c c2 : Ctx}
    {s2 : State} (h : issued s pn pred form = some (c, s2, c2)) :
    issueRow s pn pred form body = .next (ended s c c2 form (body s2 c2)) := by
  obtain ⟨hc, ho, hf, hp, s0, hr, hq⟩ := issued_parts h
  rw [issueRow_eq s pn pred form body hc ho hf]
  simp only [hr, hq, hp]
  cases body s2 c2 <;> simp [ended, Effect.ends, finish]

/-- An issued instruction whose effect is tried again leaves the state that the effect gives, and the reason with its split. -/
theorem issueRow_stay {s : State} {pn : BitVec 1} {pred : BitVec 3} {form : Form} {body : State → Ctx → Effect} {c c2 : Ctx}
    {s2 s3 : State} {why : Option Stall} (h : issued s pn pred form = some (c, s2, c2)) (he : body s2 c2 = .stay s3 why) :
    issueRow s pn pred form body = .next (modSplit s3 c2.w c2.slot (fun sp => { sp with stay := why })) := by
  obtain ⟨hc, ho, hf, hp, s0, hr, hq⟩ := issued_parts h
  rw [issueRow_eq s pn pred form body hc ho hf]
  simp [hr, hq, hp, he, finish]

/-- The checks of an issued instruction have found no trap. -/
theorem issued_checked {s : State} {pn : BitVec 1} {pred : BitVec 3} {form : Form} {c c2 : Ctx} {s2 : State}
    (h : issued s pn pred form = some (c, s2, c2)) : formTrap c form = none := (issued_parts h).2.2.1

/-- A form whose checks found no trap has a well-formed modifier, MEM and ENG field. -/
theorem formTrap_ok {c : Ctx} {f : Form} (h : formTrap c f = none) : f.modOk = true ∧ f.memOk = true ∧ f.engOk = true := by
  unfold formTrap at h
  repeat' split at h
  all_goals simp_all

/-- What a precise check gives: the trap is raised, with nothing popped and nothing written (spec/05_encoding.md R126, spec/08_bench.md
R183). -/
theorem issueRow_trap {s : State} {pn : BitVec 1} {pred : BitVec 3} {form : Form} {body : State → Ctx → Effect} {c : Ctx} {t : Trap}
    (hc : ctxOf s pn pred = some c) (ho : c.fenced = false) (h : formTrap c form = some t) :
    issueRow s pn pred form body = .next (counted (raise s c t) c) := by
  simp [issueRow, hc, ho, h]

/-- A meaning that is `issueRow` has the completion that its body gives. -/
theorem does_of_row {i : Instr} {pn : BitVec 1} {pred : BitVec 3} {form : Form} {body : State → Ctx → Effect}
    (hi : ∀ s, exec i s = issueRow s pn pred form body) : Does i pn pred form body := by
  intro s c s2 c2 h
  rw [hi, issueRow_issued h]

/-- An issued instruction whose body has the effect `e` there. -/
theorem exec_of_row {i : Instr} {pn : BitVec 1} {pred : BitVec 3} {form : Form} {body : State → Ctx → Effect}
    (hi : ∀ s, exec i s = issueRow s pn pred form body) {s s2 : State} {c c2 : Ctx} (h : issued s pn pred form = some (c, s2, c2))
    {e : Effect} (hb : body s2 c2 = e) : exec i s = .next (ended s c c2 form e) := by
  subst hb
  rw [hi, issueRow_issued h]

/-- The same where the statement gives the effect in other words. -/
theorem does_of_row_eq {i : Instr} {pn : BitVec 1} {pred : BitVec 3} {form : Form} {body e : State → Ctx → Effect}
    (hi : ∀ s, exec i s = issueRow s pn pred form body)
    (hb : ∀ s c s2 c2, issued s pn pred form = some (c, s2, c2) → body s2 c2 = e s2 c2) : Does i pn pred form e := by
  intro s c s2 c2 h
  rw [hi, issueRow_issued h, hb s c s2 c2 h]

end Sys2Proof.Machine
end

