-- ==== Sys2Proof/Laws/Access.lean ====
section
/-!
SUPPORT. What the checks and the bookkeeping of an access do: where the strands' accesses are in order nothing stops the instruction, and
only the shops' counters and the tenancies' cached translations change before its operation starts.
-/

namespace Sys2Proof.Machine

open Sys2Proof

theorem Prepared.refl (s : State) : Prepared s s := rfl

theorem Prepared.trans {s t u : State} (h : Prepared s t) (k : Prepared t u) : Prepared s u := by
  unfold Prepared at *
  rw [k, h]

theorem prepared_setTen (s : State) (t : Nat) (x : Tenancy) : Prepared s (setTen s t x) := rfl

theorem prepared_setReeve (s : State) (t : Nat) (f : Reeve → Reeve) : Prepared s (setReeve s t f) := rfl

theorem prepared_dropWalks (s : State) (t w sp : Nat) : Prepared s (dropWalks s t w sp) := by
  unfold dropWalks
  split <;> rfl

theorem prepared_cacheWalk (s : State) (t va : Nat) : Prepared s (cacheWalk s t va) := by
  unfold cacheWalk
  repeat' split
  all_goals rfl

theorem prepared_foldl {α : Type} (f : State → α → State) (h : ∀ s x, Prepared s (f s x)) (s : State) (xs : List α) :
    Prepared s (xs.foldl f s) := by
  induction xs generalizing s with
  | nil => rfl
  | cons x xs ih => exact (h s x).trans (ih (f s x))

theorem prepared_cachePages (s : State) (t : Nat) (vas : List Nat) : Prepared s (cachePages s t vas) :=
  prepared_foldl _ (fun s g => prepared_cacheWalk s t (65536 * g)) s _

theorem prepared_countW (s : State) (wv : Weave) (event n : Nat) : Prepared s (countW s wv event n) := by
  unfold countW count
  dsimp only
  split <;> rfl

theorem prepared_countLines (s : State) (wv : Weave) (store : Bool) (pas : List Nat) :
    Prepared s (countLines s wv store pas) := by
  unfold countLines
  split
  · rfl
  · split
    · exact (prepared_countW _ _ _ _).trans (prepared_countW _ _ _ _)
    · exact prepared_countW _ _ _ _

/-- Source operands read the same. -/
theorem srcWord_prepared {s t : State} (h : Prepared s t) (c : Ctx) (r k : Nat) : srcWord t c r k = srcWord s c r k := by
  have e1 : t.ops = s.ops := by rw [h]
  have e2 : t.free = s.free := by rw [h]
  have e3 : t.cycles = s.cycles := by rw [h]
  have e4 : t.time = s.time := by rw [h]
  unfold srcWord liveWord regNow special shopClk choose freeWord
  rw [e1, e2, e3, e4]

theorem srcN_prepared {s t : State} (h : Prepared s t) (c : Ctx) (n : Nat) : ∀ r k, srcN t c r k n = srcN s c r k n := by
  induction n with
  | zero => intro r k; rfl
  | succ n ih => intro r k; simp only [srcN, srcWord_prepared h, ih]

theorem eaOf_prepared {s t : State} (h : Prepared s t) (c : Ctx) (f : MemF) (k : Nat) : eaOf t c f k = eaOf s c f k := by
  simp only [eaOf, srcN_prepared h]

theorem laneOf_prepared {s t : State} (h : Prepared s t) (c : Ctx) (f : MemF) (x : Chk) (d : List Byte) (o : Nat) :
    laneOf t c f x d o = laneOf s c f x d o := by
  simp only [laneOf, eaOf_prepared h]

/-- The strands' accesses are in order: the instruction goes on. -/
theorem resolve_clean {s : State} {c : Ctx} {kind : Kind} {cs : List Chk} (h : InOrder s c cs) : resolve s c kind cs = .go := by
  obtain ⟨hw, h⟩ := h
  unfold Walked at hw
  have h1 : walkWaits s c.wv.ids.tenancy c.w c.slot = false := by simp [walkWaits, hw]
  have h2 : cs.any (fun x => x.busy) = false := by
    rw [List.any_eq_false]; intro x hx; simp [(h x hx).2.2.2]
  have h3 : cs.filterMap (fun c => c.empty.map (fun e => e.1)) = [] := by
    rw [List.filterMap_eq_nil_iff]; intro x hx; simp [(h x hx).2.1]
  have h4 : strandTraps s c cs = [] := by
    unfold strandTraps failedWalks
    simp only [List.filterMap_eq_nil_iff, hw]
    intro x hx
    simp [(h x hx).1, (h x hx).2.2.1]
  have h5 : emptySlots cs = [] := by unfold emptySlots; rw [h3]; rfl
  unfold resolve
  simp only [h1, h2, h5, h4, List.any_nil, Bool.or_false, Bool.and_false, Bool.false_eq_true, if_false]
  simp [worst]

theorem onChecked_clean {s : State} {c : Ctx} {kind : Kind} {cs : List Chk} (h : InOrder s c cs) (go : State → Effect) :
    onChecked s c kind cs go = go (dropWalks s c.wv.ids.tenancy c.w c.slot) := by
  unfold onChecked
  rw [resolve_clean h]

/-- The strand that a check stands for. -/
theorem addIf_strand (x : Chk) (b : Bool) (cls cause addr info : Nat) : (x.addIf b cls cause addr info).strand = x.strand := by
  unfold Chk.addIf Chk.add
  repeat' split
  all_goals rfl

theorem checkPiece_strand (s : State) (t : Nat) (kind : Kind) (ea : Nat) (c : Chk) (p : Nat × Nat) :
    (checkPiece s t kind ea c p).strand = c.strand := by
  unfold checkPiece Chk.add
  repeat' split
  all_goals rfl

theorem checkStrand_strand (s : State) (t : Nat) (kind : Kind) (k ea n : Nat) : (checkStrand s t kind k ea n).strand = k := by
  unfold checkStrand
  suffices h : ∀ (l : List (Nat × Nat)) (c : Chk), (l.foldl (checkPiece s t kind ea) c).strand = c.strand from h _ _
  intro l
  induction l with
  | nil => intro c; rfl
  | cons p l ih => intro c; rw [List.foldl_cons, ih, checkPiece_strand]

theorem checkData_strand (s : State) (c : Ctx) (f : MemF) (kind : Kind) (n : Nat) (al : Bool) (k : Nat) :
    (checkData s c f kind n al k).strand = k := by
  unfold checkData
  rw [addIf_strand, checkStrand_strand]

theorem checkTob_strand (s : State) (c : Ctx) (f : MemF) (kind : Kind) (k : Nat) : (checkTob s c f kind k).strand = k := by
  unfold checkTob
  rw [addIf_strand, addIf_strand, checkData_strand]

theorem checkFmt_strand (s : State) (c : Ctx) (f : MemF) (kind : Kind) (k : Nat) : (checkFmt s c f kind k).strand = k := by
  have h (e : Nat) : (checkStrand s c.wv.ids.tenancy kind k e 1).strand = k := checkStrand_strand ..
  unfold checkFmt
  simp only []
  repeat' split
  all_goals first
    | exact h _
    | (rw [addIf_strand, addIf_strand]; exact h _)
    | (unfold Chk.add; repeat' split) <;> exact h _

/-- Strands each of whose checks found nothing. -/
theorem map_clean {ks : List Nat} {g : Nat → Chk} (h : ∀ k ∈ ks, (g k).clean) : ∀ x ∈ ks.map g, x.clean := by
  intro x hx
  obtain ⟨k, hk, rfl⟩ := List.mem_map.mp hx
  exact h k hk

theorem fmtStart_prepared {s t : State} (h : Prepared s t) (c : Ctx) (f : MemF) (x : Chk) (l : Leaf) :
    fmtStart t c f x l = fmtStart s c f x l := by
  simp only [fmtStart, eaOf_prepared h]

theorem fmtElems_prepared {s t : State} (h : Prepared s t) (c : Ctx) (f : MemF) (x : Chk) : fmtElems t c f x = fmtElems s c f x := by
  simp only [fmtElems, eaOf_prepared h, fmtStart_prepared h]

theorem fmtVals_prepared {s t : State} (h : Prepared s t) (c : Ctx) (f : MemF) (xs : List Chk) :
    fmtVals t c f xs = fmtVals s c f xs := by
  simp only [fmtVals, eaOf_prepared h, fmtStart_prepared h, srcN_prepared h]

/-- Scratchpad accesses that are aligned and inside SPAD trap nowhere. -/
theorem spadTrap_none {c : Ctx} {ks : List Nat} {off : Nat → Nat} {n al ca : Nat}
    (h : ∀ k ∈ ks, off k % al = 0 ∧ off k + n ≤ c.wv.hdr.spad) :
    spadTrap (ks.map (fun k => checkSpad c (off k) n al ca k)) = none := by
  have e : (ks.map (fun k => checkSpad c (off k) n al ca k)).filterMap (fun x => x.trap.map (fun t => (x.strand, t))) = [] := by
    rw [List.filterMap_eq_nil_iff]
    intro x hx
    obtain ⟨k, hk, rfl⟩ := List.mem_map.mp hx
    obtain ⟨h1, h2⟩ := h k hk
    have h3 : ¬ c.wv.hdr.spad < off k + n := by omega
    simp [checkSpad, h1, h3, Chk.addIf]
  unfold spadTrap
  rw [e]
  rfl

/-- Starting the operation of a device-memory instruction. -/
theorem startMem_eq (s : State) (c : Ctx) (f : MemF) (kind : OpKind) (dests : List Nat) (store : Bool) (ks : List Nat) :
    ∃ s3, Prepared s s3 ∧ startMem s c f kind dests store ks = .done (newOp s3 c kind dests f.ann.toNat f.scope.toNat) :=
  ⟨_, (prepared_cachePages _ _ _).trans (prepared_countLines _ _ _ _), rfl⟩

/-- From the shape of a meaning's body follows its completion statement. -/
theorem starts_of_row {i : Instr} {pn : BitVec 1} {pred : BitVec 3} {form : Form} {body : State → Ctx → Effect}
    {ok : State → Ctx → Prop} {kind : State → Ctx → OpKind} {dests : Ctx → List Nat} {ann scope : Nat}
    (hi : ∀ s, exec i s = issueRow s pn pred form body) (h0 : ∀ s c, c.q = 0 → body s c = .done s)
    (hb : ∀ s c, c.q ≠ 0 → ok s c → ∃ s3, Prepared s s3 ∧ body s c = .done (newOp s3 c (kind s c) (dests c) ann scope)) :
    Starts i pn pred form ok kind dests ann scope := by
  intro s c s2 c2 h
  constructor
  · intro hq
    rw [hi, issueRow_issued h, h0 _ _ hq]
  · intro hq hok
    obtain ⟨s3, hp, he⟩ := hb s2 c2 hq hok
    exact ⟨s3, hp, by rw [hi, issueRow_issued h, he]⟩

end Sys2Proof.Machine
end

