-- ==== Sys2Proof/Laws/Container.lean ====
section
/-!
SUPPORT. Fields of byte lists built by concatenation (spec/06_assembler.md R137, R139): what a field reads as, one field at a time.
-/

namespace Sys2Proof.Machine

open Sys2Proof

@[simp] theorem bytesOf_length (n v : Nat) : (bytesOf n v).length = n := by
  induction n generalizing v with
  | zero => rfl
  | succ n ih => simp [bytesOf, ih]

theorem natOfBytes_bytesOf (n v : Nat) : natOfBytes (bytesOf n v) = v % 256 ^ n := by
  induction n generalizing v with
  | zero => simp [bytesOf, natOfBytes, Nat.mod_one]
  | succ n ih =>
    have h : v % 256 ^ (n + 1) = v % 256 + 256 * (v / 256 % 256 ^ n) := by rw [Nat.pow_succ', Nat.mod_mul]
    rw [bytesOf, natOfBytes, ih, h, BitVec.toNat_ofNat]

/-- The field that stands first. -/
theorem fieldAt_first (n v : Nat) (r : List Byte) : fieldAt (bytesOf n v ++ r) 0 n = v % 256 ^ n := by
  simp [fieldAt, natOfBytes_bytesOf]

/-- A field behind the first. -/
theorem fieldAt_behind (k v o n : Nat) (r : List Byte) (h : k ≤ o) : fieldAt (bytesOf k v ++ r) o n = fieldAt r (o - k) n := by
  have : (bytesOf k v ++ r).drop o = r.drop (o - k) := by
    simp [List.drop_append, List.drop_eq_nil_of_le, h]
  simp [fieldAt, this]

end Sys2Proof.Machine
end

