-- ==== Sys2Proof/Laws/Encoding.lean ====
section
/-!
SUPPORT. The bits of an encoded word: a field placed at its position is read back there, and the other fields leave those bits alone.
-/

namespace Sys2Proof.Laws

open Sys2Proof

/-- A placed field's bits. -/
theorem place_bit {n : Nat} (x : BitVec n) (k i : Nat) :
    (place x k).getLsbD i = (decide (k ≤ i) && decide (i < 64) && x.getLsbD (i - k)) := by
  unfold place
  by_cases h : i < k <;> by_cases h2 : i < 64 <;> simp [h, h2] <;> omega

/-- Below its place a field has no bit. -/
theorem place_below {n : Nat} (x : BitVec n) (k i : Nat) (h : i < k) : (place x k).getLsbD i = false := by
  rw [place_bit]; simp; omega

/-- Above its width a field has no bit. -/
theorem place_above {n : Nat} (x : BitVec n) (k i : Nat) (h : k + n ≤ i) : (place x k).getLsbD i = false := by
  rw [place_bit, BitVec.getLsbD_of_ge x _ (by omega)]; simp

/-- At its place a field has its own bits. -/
theorem place_here {n : Nat} (x : BitVec n) (k i : Nat) (h : k ≤ i) (h2 : i < 64) :
    (place x k).getLsbD i = x.getLsbD (i - k) := by
  rw [place_bit]; simp [h, h2]

/-- The opcode of a word of format RRR. -/
theorem rrrWord_opcode (op : BitVec 8) (f : RRR) : opcodeOf (rrrWord op f) = op := by
  apply BitVec.eq_of_getLsbD_eq
  intro i hi
  simp only [opcodeOf, rrrWord, BitVec.getLsbD_extractLsb', BitVec.getLsbD_or, hi, decide_true, Bool.true_and]
  simp (disch := omega) only [place_below, place_above, place_here, Bool.or_false, Bool.false_or, Nat.add_sub_cancel_left]

/-- The fields of a word of format RRR. -/
theorem rrrWord_fields (op : BitVec 8) (f : RRR) : rrrOf (rrrWord op f) = f := by
  cases f with
  | mk dst sa sb sc pn pred mod =>
  simp only [rrrOf, RRR.mk.injEq]
  refine ⟨?_, ?_, ?_, ?_, ?_, ?_, ?_⟩ <;>
  · apply BitVec.eq_of_getLsbD_eq
    intro i hi
    simp only [rrrWord, BitVec.getLsbD_extractLsb', BitVec.getLsbD_or, hi, decide_true, Bool.true_and]
    simp (disch := omega) only [place_below, place_above, place_here, Bool.or_false, Bool.false_or, Nat.add_sub_cancel_left]
    try simp

/-- The opcode of a word of format RI. -/
theorem riWord_opcode (op : BitVec 8) (f : RI) : opcodeOf (riWord op f) = op := by
  apply BitVec.eq_of_getLsbD_eq
  intro i hi
  simp only [opcodeOf, riWord, BitVec.getLsbD_extractLsb', BitVec.getLsbD_or, hi, decide_true, Bool.true_and]
  simp (disch := omega) only [place_below, place_above, place_here, Bool.or_false, Bool.false_or, Nat.add_sub_cancel_left]

/-- The fields of a word of format RI. -/
theorem riWord_fields (op : BitVec 8) (f : RI) : riOf (riWord op f) = f := by
  cases f with
  | mk dst sa imm pn pred itype =>
  simp only [riOf, RI.mk.injEq]
  refine ⟨?_, ?_, ?_, ?_, ?_, ?_⟩ <;>
  · apply BitVec.eq_of_getLsbD_eq
    intro i hi
    simp only [riWord, BitVec.getLsbD_extractLsb', BitVec.getLsbD_or, hi, decide_true, Bool.true_and]
    simp (disch := omega) only [place_below, place_above, place_here, Bool.or_false, Bool.false_or, Nat.add_sub_cancel_left]
    try simp

/-- The opcode of a word of format MemF. -/
theorem memWord_opcode (op : BitVec 8) (f : MemF) : opcodeOf (memWord op f) = op := by
  apply BitVec.eq_of_getLsbD_eq
  intro i hi
  simp only [opcodeOf, memWord, BitVec.getLsbD_extractLsb', BitVec.getLsbD_or, hi, decide_true, Bool.true_and]
  simp (disch := omega) only [place_below, place_above, place_here, Bool.or_false, Bool.false_or, Nat.add_sub_cancel_left]

/-- The fields of a word of format MemF. -/
theorem memWord_fields (op : BitVec 8) (f : MemF) : memOf (memWord op f) = f := by
  cases f with
  | mk ds base off scope ann cop size pn pred mx =>
  simp only [memOf, MemF.mk.injEq]
  refine ⟨?_, ?_, ?_, ?_, ?_, ?_, ?_, ?_, ?_, ?_⟩ <;>
  · apply BitVec.eq_of_getLsbD_eq
    intro i hi
    simp only [memWord, BitVec.getLsbD_extractLsb', BitVec.getLsbD_or, hi, decide_true, Bool.true_and]
    simp (disch := omega) only [place_below, place_above, place_here, Bool.or_false, Bool.false_or, Nat.add_sub_cancel_left]
    try simp

/-- The opcode of a word of format BR. -/
theorem brWord_opcode (op : BitVec 8) (f : BR) : opcodeOf (brWord op f) = op := by
  apply BitVec.eq_of_getLsbD_eq
  intro i hi
  simp only [opcodeOf, brWord, BitVec.getLsbD_extractLsb', BitVec.getLsbD_or, hi, decide_true, Bool.true_and]
  simp (disch := omega) only [place_below, place_above, place_here, Bool.or_false, Bool.false_or, Nat.add_sub_cancel_left]

/-- The fields of a word of format BR. -/
theorem brWord_fields (op : BitVec 8) (f : BR) : brOf (brWord op f) = f := by
  cases f with
  | mk dst sa off pn pred rsv =>
  simp only [brOf, BR.mk.injEq]
  refine ⟨?_, ?_, ?_, ?_, ?_, ?_⟩ <;>
  · apply BitVec.eq_of_getLsbD_eq
    intro i hi
    simp only [brWord, BitVec.getLsbD_extractLsb', BitVec.getLsbD_or, hi, decide_true, Bool.true_and]
    simp (disch := omega) only [place_below, place_above, place_here, Bool.or_false, Bool.false_or, Nat.add_sub_cancel_left]
    try simp

/-- The opcode of a word of format ENG. -/
theorem engWord_opcode (op : BitVec 8) (f : ENG) : opcodeOf (engWord op f) = op := by
  apply BitVec.eq_of_getLsbD_eq
  intro i hi
  simp only [opcodeOf, engWord, BitVec.getLsbD_extractLsb', BitVec.getLsbD_or, hi, decide_true, Bool.true_and]
  simp (disch := omega) only [place_below, place_above, place_here, Bool.or_false, Bool.false_or, Nat.add_sub_cancel_left]

/-- The fields of a word of format ENG. -/
theorem engWord_fields (op : BitVec 8) (f : ENG) : engOf (engWord op f) = f := by
  cases f with
  | mk dst desc dlen cmask scope rsv pn pred coff =>
  simp only [engOf, ENG.mk.injEq]
  refine ⟨?_, ?_, ?_, ?_, ?_, ?_, ?_, ?_, ?_⟩ <;>
  · apply BitVec.eq_of_getLsbD_eq
    intro i hi
    simp only [engWord, BitVec.getLsbD_extractLsb', BitVec.getLsbD_or, hi, decide_true, Bool.true_and]
    simp (disch := omega) only [place_below, place_above, place_here, Bool.or_false, Bool.false_or, Nat.add_sub_cancel_left]
    try simp

/-- The opcode of a word of format SYS. -/
theorem sysWord_opcode (op : BitVec 8) (f : SYS) : opcodeOf (sysWord op f) = op := by
  apply BitVec.eq_of_getLsbD_eq
  intro i hi
  simp only [opcodeOf, sysWord, BitVec.getLsbD_extractLsb', BitVec.getLsbD_or, hi, decide_true, Bool.true_and]
  simp (disch := omega) only [place_below, place_above, place_here, Bool.or_false, Bool.false_or, Nat.add_sub_cancel_left]

/-- The fields of a word of format SYS. -/
theorem sysWord_fields (op : BitVec 8) (f : SYS) : sysOf (sysWord op f) = f := by
  cases f with
  | mk dst sa sreg rsv pn pred imm =>
  simp only [sysOf, SYS.mk.injEq]
  refine ⟨?_, ?_, ?_, ?_, ?_, ?_, ?_⟩ <;>
  · apply BitVec.eq_of_getLsbD_eq
    intro i hi
    simp only [sysWord, BitVec.getLsbD_extractLsb', BitVec.getLsbD_or, hi, decide_true, Bool.true_and]
    simp (disch := omega) only [place_below, place_above, place_here, Bool.or_false, Bool.false_or, Nat.add_sub_cancel_left]
    try simp

end Sys2Proof.Laws
end

