-- ==== Sys2Proof/Laws/Maps.lean ====
section
/-!
SUPPORT. The laws of finite maps: what a read gives after a write, and that writes keep the canonical form.
-/

namespace Sys2Proof.Machine

open Sys2Proof

@[simp] theorem look_put {α : Type} (t : Tab α) (i : Nat) (x : α) : look (put t i x) i = some x := by
  induction t with
  | nil => simp [put, look]
  | cons p t ih =>
    obtain ⟨k, a⟩ := p
    simp only [put]
    split
    · simp [look]
    · split
      · simp [look]
      · rename_i h1 h2
        simp only [look]
        rw [if_neg (fun h => h2 h.symm)]; exact ih

@[simp] theorem look_put_ne {α : Type} (t : Tab α) {i j : Nat} (x : α) (h : j ≠ i) : look (put t i x) j = look t j := by
  induction t with
  | nil => simp [put, look, h.symm]
  | cons p t ih =>
    obtain ⟨k, a⟩ := p
    simp only [put]
    split
    · simp [look, h.symm]
    · split
      · rename_i h1 h2
        subst h2
        simp [look, h.symm]
      · simp only [look, ih]

theorem look_put_eq {α : Type} (t : Tab α) (i j : Nat) (x : α) : look (put t i x) j = if j = i then some x else look t j := by
  split
  · rename_i h; subst h; simp
  · rename_i h; simp [h]

@[simp] theorem look_del {α : Type} (t : Tab α) (i : Nat) : look (del t i) i = none := by
  induction t with
  | nil => rfl
  | cons p t ih =>
    obtain ⟨k, a⟩ := p
    unfold del at ih ⊢
    by_cases h : k = i
    · simpa [List.filter_cons, h] using ih
    · simpa [List.filter_cons, h, look] using ih

@[simp] theorem look_del_ne {α : Type} (t : Tab α) {i j : Nat} (h : j ≠ i) : look (del t i) j = look t j := by
  induction t with
  | nil => rfl
  | cons p t ih =>
    obtain ⟨k, a⟩ := p
    unfold del at ih ⊢
    by_cases hk : k = i
    · subst hk
      simpa [List.filter_cons, look, h.symm] using ih
    · simp only [List.filter_cons, ne_eq, hk, not_false_eq_true, decide_true, ↓reduceIte, look]
      split
      · rfl
      · simpa using ih

/-- A map changed entry by entry, each under its own key. -/
theorem look_map {α β : Type} (t : Tab α) (f : Nat × α → Nat × β) (hf : ∀ p, (f p).1 = p.1) (k : Nat) :
    look (t.map f) k = (look t k).map (fun v => (f (k, v)).2) := by
  induction t with
  | nil => rfl
  | cons p t ih =>
    obtain ⟨a, v⟩ := p
    have h := hf (a, v)
    rw [List.map_cons]
    generalize hq : f (a, v) = q at h ⊢
    obtain ⟨b, u⟩ := q
    simp only at h
    subst h
    simp only [look]
    split
    · rename_i h; subst h; simp [hq]
    · exact ih

@[simp] theorem look_edit {α : Type} (t : Tab α) (i : Nat) (f : α → α) : look (edit t i f) i = (look t i).map f := by
  unfold edit; split <;> simp_all

@[simp] theorem look_edit_ne {α : Type} (t : Tab α) {i j : Nat} (f : α → α) (h : j ≠ i) : look (edit t i f) j = look t j := by
  unfold edit; split <;> simp_all

@[simp] theorem cell_setCell {n : Nat} (m : Cells n) (i : Nat) (x : BitVec n) : cell (setCell m i x) i = x := by
  unfold cell setCell; split <;> simp_all

@[simp] theorem cell_setCell_ne {n : Nat} (m : Cells n) {i j : Nat} (x : BitVec n) (h : j ≠ i) :
    cell (setCell m i x) j = cell m j := by
  unfold cell setCell; split <;> simp_all

/-! ### Canonical forms -/

theorem risingFrom_mono {α : Type} {a b : Nat} {t : Tab α} (h : risingFrom b t = true) (hab : a ≤ b) : risingFrom a t = true := by
  cases t with
  | nil => rfl
  | cons p t => obtain ⟨k, x⟩ := p; simp only [risingFrom, Bool.and_eq_true, decide_eq_true_eq] at h ⊢; exact ⟨by omega, h.2⟩

theorem risingFrom_put {α : Type} (t : Tab α) (lo i : Nat) (x : α) (hi : lo ≤ i) (h : risingFrom lo t = true) :
    risingFrom lo (put t i x) = true := by
  induction t generalizing lo with
  | nil => simp [put, risingFrom, hi]
  | cons p t ih =>
    obtain ⟨k, a⟩ := p
    simp only [risingFrom, Bool.and_eq_true, decide_eq_true_eq] at h
    simp only [put]
    split
    · simp only [risingFrom, Bool.and_eq_true, decide_eq_true_eq]; exact ⟨hi, by omega, h.2⟩
    · split
      · rename_i h1 h2; subst h2; simp only [risingFrom, Bool.and_eq_true, decide_eq_true_eq]; exact ⟨hi, h.2⟩
      · simp only [risingFrom, Bool.and_eq_true, decide_eq_true_eq]; exact ⟨h.1, ih (k + 1) (by omega) h.2⟩

theorem risingFrom_filter {α : Type} (t : Tab α) (lo : Nat) (p : Nat × α → Bool) (h : risingFrom lo t = true) :
    risingFrom lo (t.filter p) = true := by
  induction t generalizing lo with
  | nil => rfl
  | cons q t ih =>
    obtain ⟨k, a⟩ := q
    simp only [risingFrom, Bool.and_eq_true, decide_eq_true_eq] at h
    rw [List.filter_cons]
    split
    · simp only [risingFrom, Bool.and_eq_true, decide_eq_true_eq]; exact ⟨h.1, ih (k + 1) h.2⟩
    · exact risingFrom_mono (ih (k + 1) h.2) (by omega)

theorem tabWf_put {α : Type} {t : Tab α} (i : Nat) (x : α) (h : tabWf t = true) : tabWf (put t i x) = true :=
  risingFrom_put t 0 i x (Nat.zero_le _) h

theorem tabWf_filter {α : Type} {t : Tab α} (p : Nat × α → Bool) (h : tabWf t = true) : tabWf (t.filter p) = true :=
  risingFrom_filter t 0 p h

theorem tabWf_del {α : Type} {t : Tab α} (i : Nat) (h : tabWf t = true) : tabWf (del t i) = true := tabWf_filter _ h

theorem all_put {α : Type} {t : Tab α} (i : Nat) (x : α) (q : Nat × α → Bool) (h : t.all q = true) (hx : q (i, x) = true) :
    (put t i x).all q = true := by
  induction t with
  | nil => simp [put, hx]
  | cons p t ih =>
    obtain ⟨k, a⟩ := p
    simp only [List.all_cons, Bool.and_eq_true] at h
    simp only [put]
    split
    · simp [hx, h.1, h.2]
    · split
      · simp [hx, h.2]
      · simp [h.1, ih h.2]

theorem all_filter {α : Type} {t : List α} (p q : α → Bool) (h : t.all q = true) : (t.filter p).all q = true := by
  simp only [List.all_eq_true, List.mem_filter] at h ⊢
  exact fun x hx => h x hx.1

theorem cellsWf_filter {n : Nat} {m : Cells n} (p : Nat × BitVec n → Bool) (h : cellsWf m = true) :
    cellsWf (m.filter p) = true := by
  simp only [cellsWf, Bool.and_eq_true] at h ⊢
  exact ⟨risingFrom_filter m 0 p h.1, all_filter p _ h.2⟩

theorem cellsWf_setCell {n : Nat} {m : Cells n} (i : Nat) (x : BitVec n) (h : cellsWf m = true) : cellsWf (setCell m i x) = true := by
  unfold setCell
  split
  · exact cellsWf_filter _ h
  · rename_i hx
    simp only [cellsWf, Bool.and_eq_true] at h ⊢
    exact ⟨risingFrom_put m 0 i x (Nat.zero_le _) h.1, all_put i x _ h.2 (by simpa using hx)⟩

/-- A map in two parts, the second above the first. -/
theorem risingFrom_append {α : Type} (a b : Tab α) (lo mid : Nat) (ha : risingFrom lo a = true) (hlt : ∀ p ∈ a, p.1 < mid)
    (hb : risingFrom mid b = true) (hlo : lo ≤ mid) : risingFrom lo (a ++ b) = true := by
  induction a generalizing lo with
  | nil => exact risingFrom_mono hb hlo
  | cons p a ih =>
    obtain ⟨k, x⟩ := p
    simp only [risingFrom, Bool.and_eq_true, decide_eq_true_eq] at ha
    simp only [List.cons_append, risingFrom, Bool.and_eq_true, decide_eq_true_eq]
    exact ⟨ha.1, ih (k + 1) ha.2 (fun q hq => hlt q (List.mem_cons_of_mem _ hq))
      (by have := hlt (k, x) (List.mem_cons_self ..); omega)⟩

theorem risingFrom_of_ge {α : Type} (t : Tab α) (lo mid : Nat) (h : risingFrom lo t = true) (hge : ∀ p ∈ t, mid ≤ p.1) :
    risingFrom mid t = true := by
  cases t with
  | nil => rfl
  | cons p t =>
    obtain ⟨k, x⟩ := p
    simp only [risingFrom, Bool.and_eq_true, decide_eq_true_eq] at h ⊢
    exact ⟨hge (k, x) (List.mem_cons_self ..), h.2⟩

theorem risingFrom_run {α : Type} (i a : Nat) (xs : List α) :
    risingFrom (i + a) (((List.range' a xs.length).zip xs).map (fun p => (i + p.1, p.2))) = true := by
  induction xs generalizing a with
  | nil => rfl
  | cons x xs ih =>
    simp only [List.length_cons, List.range'_succ, List.zip_cons_cons, List.map_cons, risingFrom, Bool.and_eq_true,
      decide_eq_true_eq, Nat.le_refl, true_and]
    exact ih (a + 1)

theorem tabWf_splice {α : Type} {m : Tab α} (i : Nat) (xs : List α) (h : tabWf m = true) : tabWf (splice m i xs) = true := by
  unfold splice tabWf
  rw [List.append_assoc]
  refine risingFrom_append _ _ 0 i (risingFrom_filter m 0 _ h) ?_ ?_ (Nat.zero_le _)
  · intro p hp; simpa using (List.mem_filter.mp hp).2
  · refine risingFrom_append _ _ i (i + xs.length) ?_ ?_ ?_ (by omega)
    · have := risingFrom_run i 0 xs
      rwa [← List.range_eq_range', Nat.add_zero] at this
    · intro p hp
      simp only [List.mem_map] at hp
      obtain ⟨q, hq, rfl⟩ := hp
      have := (List.of_mem_zip hq).1
      simp only [List.mem_range] at this
      simpa using this
    · refine risingFrom_of_ge _ 0 _ (risingFrom_filter m 0 _ h) ?_
      intro p hp; simpa using (List.mem_filter.mp hp).2

end Sys2Proof.Machine
end

