-- ==== Sys2Proof/Laws/State.lean ====
section
/-!
SUPPORT. The update functions of the state, said once: what each writes, and that it leaves every other field alone. Each conjunct is a
simp lemma of its own, so that no later proof unfolds a record update.
-/

namespace Sys2Proof.Machine

open Sys2Proof

@[simp] theorem setWeave_writes (s : State) (w : Nat) (x : Weave) : (setWeave s w x).weaves = put s.weaves w x := rfl

@[simp] theorem setWeave_keeps (s : State) (w : Nat) (x : Weave) :
    (setWeave s w x).time = s.time ∧ (setWeave s w x).phase = s.phase ∧ (setWeave s w x).cycles = s.cycles ∧
    (setWeave s w x).netup = s.netup ∧ (setWeave s w x).fabup = s.fabup ∧ (setWeave s w x).failed = s.failed ∧
    (setWeave s w x).fwok = s.fwok ∧ (setWeave s w x).stage = s.stage ∧ (setWeave s w x).maxlevel = s.maxlevel ∧
    (setWeave s w x).capw = s.capw ∧ (setWeave s w x).tripped = s.tripped ∧ (setWeave s w x).capped = s.capped ∧
    (setWeave s w x).hot = s.hot ∧ (setWeave s w x).clk = s.clk ∧ (setWeave s w x).utmax = s.utmax ∧
    (setWeave s w x).tmax = s.tmax ∧ (setWeave s w x).calmAt = s.calmAt ∧ (setWeave s w x).clkAt = s.clkAt ∧
    (setWeave s w x).powered = s.powered ∧ (setWeave s w x).d3hot = s.d3hot ∧ (setWeave s w x).attErr = s.attErr ∧
    (setWeave s w x).attDone = s.attDone ∧ (setWeave s w x).attGo = s.attGo ∧ (setWeave s w x).attaddr = s.attaddr ∧
    (setWeave s w x).mexbase = s.mexbase ∧ (setWeave s w x).mexrd = s.mexrd ∧ (setWeave s w x).mexwr = s.mexwr ∧
    (setWeave s w x).loftPeriod = s.loftPeriod ∧ (setWeave s w x).loftNext = s.loftNext ∧
    (setWeave s w x).inWindow = s.inWindow ∧ (setWeave s w x).gtoff = s.gtoff ∧ (setWeave s w x).gterr = s.gterr ∧
    (setWeave s w x).ptmlock = s.ptmlock ∧ (setWeave s w x).queues = s.queues ∧ (setWeave s w x).tenancies = s.tenancies ∧
    (setWeave s w x).lots = s.lots ∧ (setWeave s w x).gangs = s.gangs ∧ (setWeave s w x).baskets = s.baskets ∧
    (setWeave s w x).shops = s.shops ∧ (setWeave s w x).benches = s.benches ∧ (setWeave s w x).guardPend = s.guardPend ∧
    (setWeave s w x).pinned = s.pinned ∧ (setWeave s w x).homes = s.homes ∧ (setWeave s w x).homesNext = s.homesNext ∧
    (setWeave s w x).ops = s.ops ∧ (setWeave s w x).nextOp = s.nextOp ∧ (setWeave s w x).requests = s.requests ∧
    (setWeave s w x).copies = s.copies ∧ (setWeave s w x).selects = s.selects ∧ (setWeave s w x).loom = s.loom ∧
    (setWeave s w x).net = s.net ∧ (setWeave s w x).prefetch = s.prefetch ∧ (setWeave s w x).rings = s.rings ∧
    (setWeave s w x).noring = s.noring ∧ (setWeave s w x).portViews = s.portViews ∧ (setWeave s w x).keys = s.keys ∧
    (setWeave s w x).tinkers = s.tinkers ∧ (setWeave s w x).far = s.far ∧ (setWeave s w x).dirty = s.dirty ∧
    (setWeave s w x).lines = s.lines ∧ (setWeave s w x).stamp = s.stamp ∧ (setWeave s w x).fences = s.fences ∧
    (setWeave s w x).grains = s.grains ∧ (setWeave s w x).retiredFrames = s.retiredFrames ∧
    (setWeave s w x).halvings = s.halvings ∧ (setWeave s w x).noFetch = s.noFetch ∧ (setWeave s w x).poolWrites = s.poolWrites ∧
    (setWeave s w x).upsets = s.upsets ∧ (setWeave s w x).loft = s.loft ∧ (setWeave s w x).loftOpen = s.loftOpen ∧
    (setWeave s w x).amiopSeq = s.amiopSeq ∧ (setWeave s w x).outbox = s.outbox ∧ (setWeave s w x).hostView = s.hostView ∧
    (setWeave s w x).free = s.free ∧ (setWeave s w x).steps = s.steps ∧ (setWeave s w x).nextId = s.nextId ∧
    (setWeave s w x).agenda = s.agenda ∧ (setWeave s w x).issuer = s.issuer ∧ (setWeave s w x).ev = s.ev := by
  and_intros <;> rfl

@[simp] theorem modBasket_writes (s : State) (b : Nat) (f : Basket → Basket) : (modBasket s b f).baskets = edit s.baskets b f := rfl

@[simp] theorem modBasket_keeps (s : State) (b : Nat) (f : Basket → Basket) :
    (modBasket s b f).time = s.time ∧ (modBasket s b f).phase = s.phase ∧ (modBasket s b f).cycles = s.cycles ∧
    (modBasket s b f).netup = s.netup ∧ (modBasket s b f).fabup = s.fabup ∧ (modBasket s b f).failed = s.failed ∧
    (modBasket s b f).fwok = s.fwok ∧ (modBasket s b f).stage = s.stage ∧ (modBasket s b f).maxlevel = s.maxlevel ∧
    (modBasket s b f).capw = s.capw ∧ (modBasket s b f).tripped = s.tripped ∧ (modBasket s b f).capped = s.capped ∧
    (modBasket s b f).hot = s.hot ∧ (modBasket s b f).clk = s.clk ∧ (modBasket s b f).utmax = s.utmax ∧
    (modBasket s b f).tmax = s.tmax ∧ (modBasket s b f).calmAt = s.calmAt ∧ (modBasket s b f).clkAt = s.clkAt ∧
    (modBasket s b f).powered = s.powered ∧ (modBasket s b f).d3hot = s.d3hot ∧ (modBasket s b f).attErr = s.attErr ∧
    (modBasket s b f).attDone = s.attDone ∧ (modBasket s b f).attGo = s.attGo ∧ (modBasket s b f).attaddr = s.attaddr ∧
    (modBasket s b f).mexbase = s.mexbase ∧ (modBasket s b f).mexrd = s.mexrd ∧ (modBasket s b f).mexwr = s.mexwr ∧
    (modBasket s b f).loftPeriod = s.loftPeriod ∧ (modBasket s b f).loftNext = s.loftNext ∧
    (modBasket s b f).inWindow = s.inWindow ∧ (modBasket s b f).gtoff = s.gtoff ∧ (modBasket s b f).gterr = s.gterr ∧
    (modBasket s b f).ptmlock = s.ptmlock ∧ (modBasket s b f).queues = s.queues ∧ (modBasket s b f).tenancies = s.tenancies ∧
    (modBasket s b f).lots = s.lots ∧ (modBasket s b f).gangs = s.gangs ∧ (modBasket s b f).weaves = s.weaves ∧
    (modBasket s b f).shops = s.shops ∧ (modBasket s b f).benches = s.benches ∧ (modBasket s b f).guardPend = s.guardPend ∧
    (modBasket s b f).pinned = s.pinned ∧ (modBasket s b f).homes = s.homes ∧ (modBasket s b f).homesNext = s.homesNext ∧
    (modBasket s b f).ops = s.ops ∧ (modBasket s b f).nextOp = s.nextOp ∧ (modBasket s b f).requests = s.requests ∧
    (modBasket s b f).copies = s.copies ∧ (modBasket s b f).selects = s.selects ∧ (modBasket s b f).loom = s.loom ∧
    (modBasket s b f).net = s.net ∧ (modBasket s b f).prefetch = s.prefetch ∧ (modBasket s b f).rings = s.rings ∧
    (modBasket s b f).noring = s.noring ∧ (modBasket s b f).portViews = s.portViews ∧ (modBasket s b f).keys = s.keys ∧
    (modBasket s b f).tinkers = s.tinkers ∧ (modBasket s b f).far = s.far ∧ (modBasket s b f).dirty = s.dirty ∧
    (modBasket s b f).lines = s.lines ∧ (modBasket s b f).stamp = s.stamp ∧ (modBasket s b f).fences = s.fences ∧
    (modBasket s b f).grains = s.grains ∧ (modBasket s b f).retiredFrames = s.retiredFrames ∧
    (modBasket s b f).halvings = s.halvings ∧ (modBasket s b f).noFetch = s.noFetch ∧
    (modBasket s b f).poolWrites = s.poolWrites ∧ (modBasket s b f).upsets = s.upsets ∧ (modBasket s b f).loft = s.loft ∧
    (modBasket s b f).loftOpen = s.loftOpen ∧ (modBasket s b f).amiopSeq = s.amiopSeq ∧ (modBasket s b f).outbox = s.outbox ∧
    (modBasket s b f).hostView = s.hostView ∧ (modBasket s b f).free = s.free ∧ (modBasket s b f).steps = s.steps ∧
    (modBasket s b f).nextId = s.nextId ∧ (modBasket s b f).agenda = s.agenda ∧ (modBasket s b f).issuer = s.issuer ∧
    (modBasket s b f).ev = s.ev := by
  and_intros <;> rfl

@[simp] theorem modShop_writes (s : State) (h : Nat) (f : Shop → Shop) : (modShop s h f).shops = put s.shops h (f (shopOf s h)) := rfl

@[simp] theorem modShop_keeps (s : State) (h : Nat) (f : Shop → Shop) :
    (modShop s h f).time = s.time ∧ (modShop s h f).phase = s.phase ∧ (modShop s h f).cycles = s.cycles ∧
    (modShop s h f).netup = s.netup ∧ (modShop s h f).fabup = s.fabup ∧ (modShop s h f).failed = s.failed ∧
    (modShop s h f).fwok = s.fwok ∧ (modShop s h f).stage = s.stage ∧ (modShop s h f).maxlevel = s.maxlevel ∧
    (modShop s h f).capw = s.capw ∧ (modShop s h f).tripped = s.tripped ∧ (modShop s h f).capped = s.capped ∧
    (modShop s h f).hot = s.hot ∧ (modShop s h f).clk = s.clk ∧ (modShop s h f).utmax = s.utmax ∧
    (modShop s h f).tmax = s.tmax ∧ (modShop s h f).calmAt = s.calmAt ∧ (modShop s h f).clkAt = s.clkAt ∧
    (modShop s h f).powered = s.powered ∧ (modShop s h f).d3hot = s.d3hot ∧ (modShop s h f).attErr = s.attErr ∧
    (modShop s h f).attDone = s.attDone ∧ (modShop s h f).attGo = s.attGo ∧ (modShop s h f).attaddr = s.attaddr ∧
    (modShop s h f).mexbase = s.mexbase ∧ (modShop s h f).mexrd = s.mexrd ∧ (modShop s h f).mexwr = s.mexwr ∧
    (modShop s h f).loftPeriod = s.loftPeriod ∧ (modShop s h f).loftNext = s.loftNext ∧ (modShop s h f).inWindow = s.inWindow ∧
    (modShop s h f).gtoff = s.gtoff ∧ (modShop s h f).gterr = s.gterr ∧ (modShop s h f).ptmlock = s.ptmlock ∧
    (modShop s h f).queues = s.queues ∧ (modShop s h f).tenancies = s.tenancies ∧ (modShop s h f).lots = s.lots ∧
    (modShop s h f).gangs = s.gangs ∧ (modShop s h f).baskets = s.baskets ∧ (modShop s h f).weaves = s.weaves ∧
    (modShop s h f).benches = s.benches ∧ (modShop s h f).guardPend = s.guardPend ∧ (modShop s h f).pinned = s.pinned ∧
    (modShop s h f).homes = s.homes ∧ (modShop s h f).homesNext = s.homesNext ∧ (modShop s h f).ops = s.ops ∧
    (modShop s h f).nextOp = s.nextOp ∧ (modShop s h f).requests = s.requests ∧ (modShop s h f).copies = s.copies ∧
    (modShop s h f).selects = s.selects ∧ (modShop s h f).loom = s.loom ∧ (modShop s h f).net = s.net ∧
    (modShop s h f).prefetch = s.prefetch ∧ (modShop s h f).rings = s.rings ∧ (modShop s h f).noring = s.noring ∧
    (modShop s h f).portViews = s.portViews ∧ (modShop s h f).keys = s.keys ∧ (modShop s h f).tinkers = s.tinkers ∧
    (modShop s h f).far = s.far ∧ (modShop s h f).dirty = s.dirty ∧ (modShop s h f).lines = s.lines ∧
    (modShop s h f).stamp = s.stamp ∧ (modShop s h f).fences = s.fences ∧ (modShop s h f).grains = s.grains ∧
    (modShop s h f).retiredFrames = s.retiredFrames ∧ (modShop s h f).halvings = s.halvings ∧
    (modShop s h f).noFetch = s.noFetch ∧ (modShop s h f).poolWrites = s.poolWrites ∧ (modShop s h f).upsets = s.upsets ∧
    (modShop s h f).loft = s.loft ∧ (modShop s h f).loftOpen = s.loftOpen ∧ (modShop s h f).amiopSeq = s.amiopSeq ∧
    (modShop s h f).outbox = s.outbox ∧ (modShop s h f).hostView = s.hostView ∧ (modShop s h f).free = s.free ∧
    (modShop s h f).steps = s.steps ∧ (modShop s h f).nextId = s.nextId ∧ (modShop s h f).agenda = s.agenda ∧
    (modShop s h f).issuer = s.issuer ∧ (modShop s h f).ev = s.ev := by
  and_intros <;> rfl

@[simp] theorem modQueue_writes (s : State) (q : Nat) (f : Queue → Queue) : (modQueue s q f).queues = put s.queues q (f (queueOf s q)) := rfl

@[simp] theorem modQueue_keeps (s : State) (q : Nat) (f : Queue → Queue) :
    (modQueue s q f).time = s.time ∧ (modQueue s q f).phase = s.phase ∧ (modQueue s q f).cycles = s.cycles ∧
    (modQueue s q f).netup = s.netup ∧ (modQueue s q f).fabup = s.fabup ∧ (modQueue s q f).failed = s.failed ∧
    (modQueue s q f).fwok = s.fwok ∧ (modQueue s q f).stage = s.stage ∧ (modQueue s q f).maxlevel = s.maxlevel ∧
    (modQueue s q f).capw = s.capw ∧ (modQueue s q f).tripped = s.tripped ∧ (modQueue s q f).capped = s.capped ∧
    (modQueue s q f).hot = s.hot ∧ (modQueue s q f).clk = s.clk ∧ (modQueue s q f).utmax = s.utmax ∧
    (modQueue s q f).tmax = s.tmax ∧ (modQueue s q f).calmAt = s.calmAt ∧ (modQueue s q f).clkAt = s.clkAt ∧
    (modQueue s q f).powered = s.powered ∧ (modQueue s q f).d3hot = s.d3hot ∧ (modQueue s q f).attErr = s.attErr ∧
    (modQueue s q f).attDone = s.attDone ∧ (modQueue s q f).attGo = s.attGo ∧ (modQueue s q f).attaddr = s.attaddr ∧
    (modQueue s q f).mexbase = s.mexbase ∧ (modQueue s q f).mexrd = s.mexrd ∧ (modQueue s q f).mexwr = s.mexwr ∧
    (modQueue s q f).loftPeriod = s.loftPeriod ∧ (modQueue s q f).loftNext = s.loftNext ∧
    (modQueue s q f).inWindow = s.inWindow ∧ (modQueue s q f).gtoff = s.gtoff ∧ (modQueue s q f).gterr = s.gterr ∧
    (modQueue s q f).ptmlock = s.ptmlock ∧ (modQueue s q f).tenancies = s.tenancies ∧ (modQueue s q f).lots = s.lots ∧
    (modQueue s q f).gangs = s.gangs ∧ (modQueue s q f).baskets = s.baskets ∧ (modQueue s q f).weaves = s.weaves ∧
    (modQueue s q f).shops = s.shops ∧ (modQueue s q f).benches = s.benches ∧ (modQueue s q f).guardPend = s.guardPend ∧
    (modQueue s q f).pinned = s.pinned ∧ (modQueue s q f).homes = s.homes ∧ (modQueue s q f).homesNext = s.homesNext ∧
    (modQueue s q f).ops = s.ops ∧ (modQueue s q f).nextOp = s.nextOp ∧ (modQueue s q f).requests = s.requests ∧
    (modQueue s q f).copies = s.copies ∧ (modQueue s q f).selects = s.selects ∧ (modQueue s q f).loom = s.loom ∧
    (modQueue s q f).net = s.net ∧ (modQueue s q f).prefetch = s.prefetch ∧ (modQueue s q f).rings = s.rings ∧
    (modQueue s q f).noring = s.noring ∧ (modQueue s q f).portViews = s.portViews ∧ (modQueue s q f).keys = s.keys ∧
    (modQueue s q f).tinkers = s.tinkers ∧ (modQueue s q f).far = s.far ∧ (modQueue s q f).dirty = s.dirty ∧
    (modQueue s q f).lines = s.lines ∧ (modQueue s q f).stamp = s.stamp ∧ (modQueue s q f).fences = s.fences ∧
    (modQueue s q f).grains = s.grains ∧ (modQueue s q f).retiredFrames = s.retiredFrames ∧
    (modQueue s q f).halvings = s.halvings ∧ (modQueue s q f).noFetch = s.noFetch ∧ (modQueue s q f).poolWrites = s.poolWrites ∧
    (modQueue s q f).upsets = s.upsets ∧ (modQueue s q f).loft = s.loft ∧ (modQueue s q f).loftOpen = s.loftOpen ∧
    (modQueue s q f).amiopSeq = s.amiopSeq ∧ (modQueue s q f).outbox = s.outbox ∧ (modQueue s q f).hostView = s.hostView ∧
    (modQueue s q f).free = s.free ∧ (modQueue s q f).steps = s.steps ∧ (modQueue s q f).nextId = s.nextId ∧
    (modQueue s q f).agenda = s.agenda ∧ (modQueue s q f).issuer = s.issuer ∧ (modQueue s q f).ev = s.ev := by
  and_intros <;> rfl

@[simp] theorem send_writes (s : State) (o : Out) : (send s o).outbox = s.outbox ++ [o] := rfl

@[simp] theorem send_keeps (s : State) (o : Out) :
    (send s o).time = s.time ∧ (send s o).phase = s.phase ∧ (send s o).cycles = s.cycles ∧ (send s o).netup = s.netup ∧
    (send s o).fabup = s.fabup ∧ (send s o).failed = s.failed ∧ (send s o).fwok = s.fwok ∧ (send s o).stage = s.stage ∧
    (send s o).maxlevel = s.maxlevel ∧ (send s o).capw = s.capw ∧ (send s o).tripped = s.tripped ∧
    (send s o).capped = s.capped ∧ (send s o).hot = s.hot ∧ (send s o).clk = s.clk ∧ (send s o).utmax = s.utmax ∧
    (send s o).tmax = s.tmax ∧ (send s o).calmAt = s.calmAt ∧ (send s o).clkAt = s.clkAt ∧ (send s o).powered = s.powered ∧
    (send s o).d3hot = s.d3hot ∧ (send s o).attErr = s.attErr ∧ (send s o).attDone = s.attDone ∧ (send s o).attGo = s.attGo ∧
    (send s o).attaddr = s.attaddr ∧ (send s o).mexbase = s.mexbase ∧ (send s o).mexrd = s.mexrd ∧ (send s o).mexwr = s.mexwr ∧
    (send s o).loftPeriod = s.loftPeriod ∧ (send s o).loftNext = s.loftNext ∧ (send s o).inWindow = s.inWindow ∧
    (send s o).gtoff = s.gtoff ∧ (send s o).gterr = s.gterr ∧ (send s o).ptmlock = s.ptmlock ∧ (send s o).queues = s.queues ∧
    (send s o).tenancies = s.tenancies ∧ (send s o).lots = s.lots ∧ (send s o).gangs = s.gangs ∧
    (send s o).baskets = s.baskets ∧ (send s o).weaves = s.weaves ∧ (send s o).shops = s.shops ∧
    (send s o).benches = s.benches ∧ (send s o).guardPend = s.guardPend ∧ (send s o).pinned = s.pinned ∧
    (send s o).homes = s.homes ∧ (send s o).homesNext = s.homesNext ∧ (send s o).ops = s.ops ∧ (send s o).nextOp = s.nextOp ∧
    (send s o).requests = s.requests ∧ (send s o).copies = s.copies ∧ (send s o).selects = s.selects ∧
    (send s o).loom = s.loom ∧ (send s o).net = s.net ∧ (send s o).prefetch = s.prefetch ∧ (send s o).rings = s.rings ∧
    (send s o).noring = s.noring ∧ (send s o).portViews = s.portViews ∧ (send s o).keys = s.keys ∧
    (send s o).tinkers = s.tinkers ∧ (send s o).far = s.far ∧ (send s o).dirty = s.dirty ∧ (send s o).lines = s.lines ∧
    (send s o).stamp = s.stamp ∧ (send s o).fences = s.fences ∧ (send s o).grains = s.grains ∧
    (send s o).retiredFrames = s.retiredFrames ∧ (send s o).halvings = s.halvings ∧ (send s o).noFetch = s.noFetch ∧
    (send s o).poolWrites = s.poolWrites ∧ (send s o).upsets = s.upsets ∧ (send s o).loft = s.loft ∧
    (send s o).loftOpen = s.loftOpen ∧ (send s o).amiopSeq = s.amiopSeq ∧ (send s o).hostView = s.hostView ∧
    (send s o).free = s.free ∧ (send s o).steps = s.steps ∧ (send s o).nextId = s.nextId ∧ (send s o).agenda = s.agenda ∧
    (send s o).issuer = s.issuer ∧ (send s o).ev = s.ev := by
  and_intros <;> rfl

@[simp] theorem soon_writes (s : State) (i : Instr) (a : EventArgs) : (soon s i a).agenda = .event i a :: s.agenda := rfl

@[simp] theorem soon_keeps (s : State) (i : Instr) (a : EventArgs) :
    (soon s i a).time = s.time ∧ (soon s i a).phase = s.phase ∧ (soon s i a).cycles = s.cycles ∧ (soon s i a).netup = s.netup ∧
    (soon s i a).fabup = s.fabup ∧ (soon s i a).failed = s.failed ∧ (soon s i a).fwok = s.fwok ∧ (soon s i a).stage = s.stage ∧
    (soon s i a).maxlevel = s.maxlevel ∧ (soon s i a).capw = s.capw ∧ (soon s i a).tripped = s.tripped ∧
    (soon s i a).capped = s.capped ∧ (soon s i a).hot = s.hot ∧ (soon s i a).clk = s.clk ∧ (soon s i a).utmax = s.utmax ∧
    (soon s i a).tmax = s.tmax ∧ (soon s i a).calmAt = s.calmAt ∧ (soon s i a).clkAt = s.clkAt ∧
    (soon s i a).powered = s.powered ∧ (soon s i a).d3hot = s.d3hot ∧ (soon s i a).attErr = s.attErr ∧
    (soon s i a).attDone = s.attDone ∧ (soon s i a).attGo = s.attGo ∧ (soon s i a).attaddr = s.attaddr ∧
    (soon s i a).mexbase = s.mexbase ∧ (soon s i a).mexrd = s.mexrd ∧ (soon s i a).mexwr = s.mexwr ∧
    (soon s i a).loftPeriod = s.loftPeriod ∧ (soon s i a).loftNext = s.loftNext ∧ (soon s i a).inWindow = s.inWindow ∧
    (soon s i a).gtoff = s.gtoff ∧ (soon s i a).gterr = s.gterr ∧ (soon s i a).ptmlock = s.ptmlock ∧
    (soon s i a).queues = s.queues ∧ (soon s i a).tenancies = s.tenancies ∧ (soon s i a).lots = s.lots ∧
    (soon s i a).gangs = s.gangs ∧ (soon s i a).baskets = s.baskets ∧ (soon s i a).weaves = s.weaves ∧
    (soon s i a).shops = s.shops ∧ (soon s i a).benches = s.benches ∧ (soon s i a).guardPend = s.guardPend ∧
    (soon s i a).pinned = s.pinned ∧ (soon s i a).homes = s.homes ∧ (soon s i a).homesNext = s.homesNext ∧
    (soon s i a).ops = s.ops ∧ (soon s i a).nextOp = s.nextOp ∧ (soon s i a).requests = s.requests ∧
    (soon s i a).copies = s.copies ∧ (soon s i a).selects = s.selects ∧ (soon s i a).loom = s.loom ∧ (soon s i a).net = s.net ∧
    (soon s i a).prefetch = s.prefetch ∧ (soon s i a).rings = s.rings ∧ (soon s i a).noring = s.noring ∧
    (soon s i a).portViews = s.portViews ∧ (soon s i a).keys = s.keys ∧ (soon s i a).tinkers = s.tinkers ∧
    (soon s i a).far = s.far ∧ (soon s i a).dirty = s.dirty ∧ (soon s i a).lines = s.lines ∧ (soon s i a).stamp = s.stamp ∧
    (soon s i a).fences = s.fences ∧ (soon s i a).grains = s.grains ∧ (soon s i a).retiredFrames = s.retiredFrames ∧
    (soon s i a).halvings = s.halvings ∧ (soon s i a).noFetch = s.noFetch ∧ (soon s i a).poolWrites = s.poolWrites ∧
    (soon s i a).upsets = s.upsets ∧ (soon s i a).loft = s.loft ∧ (soon s i a).loftOpen = s.loftOpen ∧
    (soon s i a).amiopSeq = s.amiopSeq ∧ (soon s i a).outbox = s.outbox ∧ (soon s i a).hostView = s.hostView ∧
    (soon s i a).free = s.free ∧ (soon s i a).steps = s.steps ∧ (soon s i a).nextId = s.nextId ∧
    (soon s i a).issuer = s.issuer ∧ (soon s i a).ev = s.ev := by
  and_intros <;> rfl

@[simp] theorem setTen_writes (s : State) (t : Nat) (x : Tenancy) : (setTen s t x).tenancies = put s.tenancies t x := rfl

@[simp] theorem setTen_keeps (s : State) (t : Nat) (x : Tenancy) :
    (setTen s t x).time = s.time ∧ (setTen s t x).phase = s.phase ∧ (setTen s t x).cycles = s.cycles ∧
    (setTen s t x).netup = s.netup ∧ (setTen s t x).fabup = s.fabup ∧ (setTen s t x).failed = s.failed ∧
    (setTen s t x).fwok = s.fwok ∧ (setTen s t x).stage = s.stage ∧ (setTen s t x).maxlevel = s.maxlevel ∧
    (setTen s t x).capw = s.capw ∧ (setTen s t x).tripped = s.tripped ∧ (setTen s t x).capped = s.capped ∧
    (setTen s t x).hot = s.hot ∧ (setTen s t x).clk = s.clk ∧ (setTen s t x).utmax = s.utmax ∧ (setTen s t x).tmax = s.tmax ∧
    (setTen s t x).calmAt = s.calmAt ∧ (setTen s t x).clkAt = s.clkAt ∧ (setTen s t x).powered = s.powered ∧
    (setTen s t x).d3hot = s.d3hot ∧ (setTen s t x).attErr = s.attErr ∧ (setTen s t x).attDone = s.attDone ∧
    (setTen s t x).attGo = s.attGo ∧ (setTen s t x).attaddr = s.attaddr ∧ (setTen s t x).mexbase = s.mexbase ∧
    (setTen s t x).mexrd = s.mexrd ∧ (setTen s t x).mexwr = s.mexwr ∧ (setTen s t x).loftPeriod = s.loftPeriod ∧
    (setTen s t x).loftNext = s.loftNext ∧ (setTen s t x).inWindow = s.inWindow ∧ (setTen s t x).gtoff = s.gtoff ∧
    (setTen s t x).gterr = s.gterr ∧ (setTen s t x).ptmlock = s.ptmlock ∧ (setTen s t x).queues = s.queues ∧
    (setTen s t x).lots = s.lots ∧ (setTen s t x).gangs = s.gangs ∧ (setTen s t x).baskets = s.baskets ∧
    (setTen s t x).weaves = s.weaves ∧ (setTen s t x).shops = s.shops ∧ (setTen s t x).benches = s.benches ∧
    (setTen s t x).guardPend = s.guardPend ∧ (setTen s t x).pinned = s.pinned ∧ (setTen s t x).homes = s.homes ∧
    (setTen s t x).homesNext = s.homesNext ∧ (setTen s t x).ops = s.ops ∧ (setTen s t x).nextOp = s.nextOp ∧
    (setTen s t x).requests = s.requests ∧ (setTen s t x).copies = s.copies ∧ (setTen s t x).selects = s.selects ∧
    (setTen s t x).loom = s.loom ∧ (setTen s t x).net = s.net ∧ (setTen s t x).prefetch = s.prefetch ∧
    (setTen s t x).rings = s.rings ∧ (setTen s t x).noring = s.noring ∧ (setTen s t x).portViews = s.portViews ∧
    (setTen s t x).keys = s.keys ∧ (setTen s t x).tinkers = s.tinkers ∧ (setTen s t x).far = s.far ∧
    (setTen s t x).dirty = s.dirty ∧ (setTen s t x).lines = s.lines ∧ (setTen s t x).stamp = s.stamp ∧
    (setTen s t x).fences = s.fences ∧ (setTen s t x).grains = s.grains ∧ (setTen s t x).retiredFrames = s.retiredFrames ∧
    (setTen s t x).halvings = s.halvings ∧ (setTen s t x).noFetch = s.noFetch ∧ (setTen s t x).poolWrites = s.poolWrites ∧
    (setTen s t x).upsets = s.upsets ∧ (setTen s t x).loft = s.loft ∧ (setTen s t x).loftOpen = s.loftOpen ∧
    (setTen s t x).amiopSeq = s.amiopSeq ∧ (setTen s t x).outbox = s.outbox ∧ (setTen s t x).hostView = s.hostView ∧
    (setTen s t x).free = s.free ∧ (setTen s t x).steps = s.steps ∧ (setTen s t x).nextId = s.nextId ∧
    (setTen s t x).agenda = s.agenda ∧ (setTen s t x).issuer = s.issuer ∧ (setTen s t x).ev = s.ev := by
  and_intros <;> rfl

@[simp] theorem modTen_writes (s : State) (t : Nat) (f : Tenancy → Tenancy) : (modTen s t f).tenancies = put s.tenancies t (f (tenOf s t)) := rfl

@[simp] theorem modTen_keeps (s : State) (t : Nat) (f : Tenancy → Tenancy) :
    (modTen s t f).time = s.time ∧ (modTen s t f).phase = s.phase ∧ (modTen s t f).cycles = s.cycles ∧
    (modTen s t f).netup = s.netup ∧ (modTen s t f).fabup = s.fabup ∧ (modTen s t f).failed = s.failed ∧
    (modTen s t f).fwok = s.fwok ∧ (modTen s t f).stage = s.stage ∧ (modTen s t f).maxlevel = s.maxlevel ∧
    (modTen s t f).capw = s.capw ∧ (modTen s t f).tripped = s.tripped ∧ (modTen s t f).capped = s.capped ∧
    (modTen s t f).hot = s.hot ∧ (modTen s t f).clk = s.clk ∧ (modTen s t f).utmax = s.utmax ∧ (modTen s t f).tmax = s.tmax ∧
    (modTen s t f).calmAt = s.calmAt ∧ (modTen s t f).clkAt = s.clkAt ∧ (modTen s t f).powered = s.powered ∧
    (modTen s t f).d3hot = s.d3hot ∧ (modTen s t f).attErr = s.attErr ∧ (modTen s t f).attDone = s.attDone ∧
    (modTen s t f).attGo = s.attGo ∧ (modTen s t f).attaddr = s.attaddr ∧ (modTen s t f).mexbase = s.mexbase ∧
    (modTen s t f).mexrd = s.mexrd ∧ (modTen s t f).mexwr = s.mexwr ∧ (modTen s t f).loftPeriod = s.loftPeriod ∧
    (modTen s t f).loftNext = s.loftNext ∧ (modTen s t f).inWindow = s.inWindow ∧ (modTen s t f).gtoff = s.gtoff ∧
    (modTen s t f).gterr = s.gterr ∧ (modTen s t f).ptmlock = s.ptmlock ∧ (modTen s t f).queues = s.queues ∧
    (modTen s t f).lots = s.lots ∧ (modTen s t f).gangs = s.gangs ∧ (modTen s t f).baskets = s.baskets ∧
    (modTen s t f).weaves = s.weaves ∧ (modTen s t f).shops = s.shops ∧ (modTen s t f).benches = s.benches ∧
    (modTen s t f).guardPend = s.guardPend ∧ (modTen s t f).pinned = s.pinned ∧ (modTen s t f).homes = s.homes ∧
    (modTen s t f).homesNext = s.homesNext ∧ (modTen s t f).ops = s.ops ∧ (modTen s t f).nextOp = s.nextOp ∧
    (modTen s t f).requests = s.requests ∧ (modTen s t f).copies = s.copies ∧ (modTen s t f).selects = s.selects ∧
    (modTen s t f).loom = s.loom ∧ (modTen s t f).net = s.net ∧ (modTen s t f).prefetch = s.prefetch ∧
    (modTen s t f).rings = s.rings ∧ (modTen s t f).noring = s.noring ∧ (modTen s t f).portViews = s.portViews ∧
    (modTen s t f).keys = s.keys ∧ (modTen s t f).tinkers = s.tinkers ∧ (modTen s t f).far = s.far ∧
    (modTen s t f).dirty = s.dirty ∧ (modTen s t f).lines = s.lines ∧ (modTen s t f).stamp = s.stamp ∧
    (modTen s t f).fences = s.fences ∧ (modTen s t f).grains = s.grains ∧ (modTen s t f).retiredFrames = s.retiredFrames ∧
    (modTen s t f).halvings = s.halvings ∧ (modTen s t f).noFetch = s.noFetch ∧ (modTen s t f).poolWrites = s.poolWrites ∧
    (modTen s t f).upsets = s.upsets ∧ (modTen s t f).loft = s.loft ∧ (modTen s t f).loftOpen = s.loftOpen ∧
    (modTen s t f).amiopSeq = s.amiopSeq ∧ (modTen s t f).outbox = s.outbox ∧ (modTen s t f).hostView = s.hostView ∧
    (modTen s t f).free = s.free ∧ (modTen s t f).steps = s.steps ∧ (modTen s t f).nextId = s.nextId ∧
    (modTen s t f).agenda = s.agenda ∧ (modTen s t f).issuer = s.issuer ∧ (modTen s t f).ev = s.ev := by
  and_intros <;> rfl

@[simp] theorem setReeve_writes (s : State) (t : Nat) (f : Reeve → Reeve) : (setReeve s t f).tenancies = put s.tenancies t { tenOf s t with reeve := f (tenOf s t).reeve } := rfl

@[simp] theorem setReeve_keeps (s : State) (t : Nat) (f : Reeve → Reeve) :
    (setReeve s t f).time = s.time ∧ (setReeve s t f).phase = s.phase ∧ (setReeve s t f).cycles = s.cycles ∧
    (setReeve s t f).netup = s.netup ∧ (setReeve s t f).fabup = s.fabup ∧ (setReeve s t f).failed = s.failed ∧
    (setReeve s t f).fwok = s.fwok ∧ (setReeve s t f).stage = s.stage ∧ (setReeve s t f).maxlevel = s.maxlevel ∧
    (setReeve s t f).capw = s.capw ∧ (setReeve s t f).tripped = s.tripped ∧ (setReeve s t f).capped = s.capped ∧
    (setReeve s t f).hot = s.hot ∧ (setReeve s t f).clk = s.clk ∧ (setReeve s t f).utmax = s.utmax ∧
    (setReeve s t f).tmax = s.tmax ∧ (setReeve s t f).calmAt = s.calmAt ∧ (setReeve s t f).clkAt = s.clkAt ∧
    (setReeve s t f).powered = s.powered ∧ (setReeve s t f).d3hot = s.d3hot ∧ (setReeve s t f).attErr = s.attErr ∧
    (setReeve s t f).attDone = s.attDone ∧ (setReeve s t f).attGo = s.attGo ∧ (setReeve s t f).attaddr = s.attaddr ∧
    (setReeve s t f).mexbase = s.mexbase ∧ (setReeve s t f).mexrd = s.mexrd ∧ (setReeve s t f).mexwr = s.mexwr ∧
    (setReeve s t f).loftPeriod = s.loftPeriod ∧ (setReeve s t f).loftNext = s.loftNext ∧
    (setReeve s t f).inWindow = s.inWindow ∧ (setReeve s t f).gtoff = s.gtoff ∧ (setReeve s t f).gterr = s.gterr ∧
    (setReeve s t f).ptmlock = s.ptmlock ∧ (setReeve s t f).queues = s.queues ∧ (setReeve s t f).lots = s.lots ∧
    (setReeve s t f).gangs = s.gangs ∧ (setReeve s t f).baskets = s.baskets ∧ (setReeve s t f).weaves = s.weaves ∧
    (setReeve s t f).shops = s.shops ∧ (setReeve s t f).benches = s.benches ∧ (setReeve s t f).guardPend = s.guardPend ∧
    (setReeve s t f).pinned = s.pinned ∧ (setReeve s t f).homes = s.homes ∧ (setReeve s t f).homesNext = s.homesNext ∧
    (setReeve s t f).ops = s.ops ∧ (setReeve s t f).nextOp = s.nextOp ∧ (setReeve s t f).requests = s.requests ∧
    (setReeve s t f).copies = s.copies ∧ (setReeve s t f).selects = s.selects ∧ (setReeve s t f).loom = s.loom ∧
    (setReeve s t f).net = s.net ∧ (setReeve s t f).prefetch = s.prefetch ∧ (setReeve s t f).rings = s.rings ∧
    (setReeve s t f).noring = s.noring ∧ (setReeve s t f).portViews = s.portViews ∧ (setReeve s t f).keys = s.keys ∧
    (setReeve s t f).tinkers = s.tinkers ∧ (setReeve s t f).far = s.far ∧ (setReeve s t f).dirty = s.dirty ∧
    (setReeve s t f).lines = s.lines ∧ (setReeve s t f).stamp = s.stamp ∧ (setReeve s t f).fences = s.fences ∧
    (setReeve s t f).grains = s.grains ∧ (setReeve s t f).retiredFrames = s.retiredFrames ∧
    (setReeve s t f).halvings = s.halvings ∧ (setReeve s t f).noFetch = s.noFetch ∧ (setReeve s t f).poolWrites = s.poolWrites ∧
    (setReeve s t f).upsets = s.upsets ∧ (setReeve s t f).loft = s.loft ∧ (setReeve s t f).loftOpen = s.loftOpen ∧
    (setReeve s t f).amiopSeq = s.amiopSeq ∧ (setReeve s t f).outbox = s.outbox ∧ (setReeve s t f).hostView = s.hostView ∧
    (setReeve s t f).free = s.free ∧ (setReeve s t f).steps = s.steps ∧ (setReeve s t f).nextId = s.nextId ∧
    (setReeve s t f).agenda = s.agenda ∧ (setReeve s t f).issuer = s.issuer ∧ (setReeve s t f).ev = s.ev := by
  and_intros <;> rfl

@[simp] theorem setScriv_writes (s : State) (t : Nat) (f : Scriv → Scriv) : (setScriv s t f).tenancies = put s.tenancies t { tenOf s t with scriv := f (tenOf s t).scriv } := rfl

@[simp] theorem setScriv_keeps (s : State) (t : Nat) (f : Scriv → Scriv) :
    (setScriv s t f).time = s.time ∧ (setScriv s t f).phase = s.phase ∧ (setScriv s t f).cycles = s.cycles ∧
    (setScriv s t f).netup = s.netup ∧ (setScriv s t f).fabup = s.fabup ∧ (setScriv s t f).failed = s.failed ∧
    (setScriv s t f).fwok = s.fwok ∧ (setScriv s t f).stage = s.stage ∧ (setScriv s t f).maxlevel = s.maxlevel ∧
    (setScriv s t f).capw = s.capw ∧ (setScriv s t f).tripped = s.tripped ∧ (setScriv s t f).capped = s.capped ∧
    (setScriv s t f).hot = s.hot ∧ (setScriv s t f).clk = s.clk ∧ (setScriv s t f).utmax = s.utmax ∧
    (setScriv s t f).tmax = s.tmax ∧ (setScriv s t f).calmAt = s.calmAt ∧ (setScriv s t f).clkAt = s.clkAt ∧
    (setScriv s t f).powered = s.powered ∧ (setScriv s t f).d3hot = s.d3hot ∧ (setScriv s t f).attErr = s.attErr ∧
    (setScriv s t f).attDone = s.attDone ∧ (setScriv s t f).attGo = s.attGo ∧ (setScriv s t f).attaddr = s.attaddr ∧
    (setScriv s t f).mexbase = s.mexbase ∧ (setScriv s t f).mexrd = s.mexrd ∧ (setScriv s t f).mexwr = s.mexwr ∧
    (setScriv s t f).loftPeriod = s.loftPeriod ∧ (setScriv s t f).loftNext = s.loftNext ∧
    (setScriv s t f).inWindow = s.inWindow ∧ (setScriv s t f).gtoff = s.gtoff ∧ (setScriv s t f).gterr = s.gterr ∧
    (setScriv s t f).ptmlock = s.ptmlock ∧ (setScriv s t f).queues = s.queues ∧ (setScriv s t f).lots = s.lots ∧
    (setScriv s t f).gangs = s.gangs ∧ (setScriv s t f).baskets = s.baskets ∧ (setScriv s t f).weaves = s.weaves ∧
    (setScriv s t f).shops = s.shops ∧ (setScriv s t f).benches = s.benches ∧ (setScriv s t f).guardPend = s.guardPend ∧
    (setScriv s t f).pinned = s.pinned ∧ (setScriv s t f).homes = s.homes ∧ (setScriv s t f).homesNext = s.homesNext ∧
    (setScriv s t f).ops = s.ops ∧ (setScriv s t f).nextOp = s.nextOp ∧ (setScriv s t f).requests = s.requests ∧
    (setScriv s t f).copies = s.copies ∧ (setScriv s t f).selects = s.selects ∧ (setScriv s t f).loom = s.loom ∧
    (setScriv s t f).net = s.net ∧ (setScriv s t f).prefetch = s.prefetch ∧ (setScriv s t f).rings = s.rings ∧
    (setScriv s t f).noring = s.noring ∧ (setScriv s t f).portViews = s.portViews ∧ (setScriv s t f).keys = s.keys ∧
    (setScriv s t f).tinkers = s.tinkers ∧ (setScriv s t f).far = s.far ∧ (setScriv s t f).dirty = s.dirty ∧
    (setScriv s t f).lines = s.lines ∧ (setScriv s t f).stamp = s.stamp ∧ (setScriv s t f).fences = s.fences ∧
    (setScriv s t f).grains = s.grains ∧ (setScriv s t f).retiredFrames = s.retiredFrames ∧
    (setScriv s t f).halvings = s.halvings ∧ (setScriv s t f).noFetch = s.noFetch ∧ (setScriv s t f).poolWrites = s.poolWrites ∧
    (setScriv s t f).upsets = s.upsets ∧ (setScriv s t f).loft = s.loft ∧ (setScriv s t f).loftOpen = s.loftOpen ∧
    (setScriv s t f).amiopSeq = s.amiopSeq ∧ (setScriv s t f).outbox = s.outbox ∧ (setScriv s t f).hostView = s.hostView ∧
    (setScriv s t f).free = s.free ∧ (setScriv s t f).steps = s.steps ∧ (setScriv s t f).nextId = s.nextId ∧
    (setScriv s t f).agenda = s.agenda ∧ (setScriv s t f).issuer = s.issuer ∧ (setScriv s t f).ev = s.ev := by
  and_intros <;> rfl

@[simp] theorem modTinker_writes (s : State) (k : Nat) (f : Tinker → Tinker) : (modTinker s k f).tinkers = put s.tinkers k (f (tinkerOf s k)) := rfl

@[simp] theorem modTinker_keeps (s : State) (k : Nat) (f : Tinker → Tinker) :
    (modTinker s k f).time = s.time ∧ (modTinker s k f).phase = s.phase ∧ (modTinker s k f).cycles = s.cycles ∧
    (modTinker s k f).netup = s.netup ∧ (modTinker s k f).fabup = s.fabup ∧ (modTinker s k f).failed = s.failed ∧
    (modTinker s k f).fwok = s.fwok ∧ (modTinker s k f).stage = s.stage ∧ (modTinker s k f).maxlevel = s.maxlevel ∧
    (modTinker s k f).capw = s.capw ∧ (modTinker s k f).tripped = s.tripped ∧ (modTinker s k f).capped = s.capped ∧
    (modTinker s k f).hot = s.hot ∧ (modTinker s k f).clk = s.clk ∧ (modTinker s k f).utmax = s.utmax ∧
    (modTinker s k f).tmax = s.tmax ∧ (modTinker s k f).calmAt = s.calmAt ∧ (modTinker s k f).clkAt = s.clkAt ∧
    (modTinker s k f).powered = s.powered ∧ (modTinker s k f).d3hot = s.d3hot ∧ (modTinker s k f).attErr = s.attErr ∧
    (modTinker s k f).attDone = s.attDone ∧ (modTinker s k f).attGo = s.attGo ∧ (modTinker s k f).attaddr = s.attaddr ∧
    (modTinker s k f).mexbase = s.mexbase ∧ (modTinker s k f).mexrd = s.mexrd ∧ (modTinker s k f).mexwr = s.mexwr ∧
    (modTinker s k f).loftPeriod = s.loftPeriod ∧ (modTinker s k f).loftNext = s.loftNext ∧
    (modTinker s k f).inWindow = s.inWindow ∧ (modTinker s k f).gtoff = s.gtoff ∧ (modTinker s k f).gterr = s.gterr ∧
    (modTinker s k f).ptmlock = s.ptmlock ∧ (modTinker s k f).queues = s.queues ∧ (modTinker s k f).tenancies = s.tenancies ∧
    (modTinker s k f).lots = s.lots ∧ (modTinker s k f).gangs = s.gangs ∧ (modTinker s k f).baskets = s.baskets ∧
    (modTinker s k f).weaves = s.weaves ∧ (modTinker s k f).shops = s.shops ∧ (modTinker s k f).benches = s.benches ∧
    (modTinker s k f).guardPend = s.guardPend ∧ (modTinker s k f).pinned = s.pinned ∧ (modTinker s k f).homes = s.homes ∧
    (modTinker s k f).homesNext = s.homesNext ∧ (modTinker s k f).ops = s.ops ∧ (modTinker s k f).nextOp = s.nextOp ∧
    (modTinker s k f).requests = s.requests ∧ (modTinker s k f).copies = s.copies ∧ (modTinker s k f).selects = s.selects ∧
    (modTinker s k f).loom = s.loom ∧ (modTinker s k f).net = s.net ∧ (modTinker s k f).prefetch = s.prefetch ∧
    (modTinker s k f).rings = s.rings ∧ (modTinker s k f).noring = s.noring ∧ (modTinker s k f).portViews = s.portViews ∧
    (modTinker s k f).keys = s.keys ∧ (modTinker s k f).far = s.far ∧ (modTinker s k f).dirty = s.dirty ∧
    (modTinker s k f).lines = s.lines ∧ (modTinker s k f).stamp = s.stamp ∧ (modTinker s k f).fences = s.fences ∧
    (modTinker s k f).grains = s.grains ∧ (modTinker s k f).retiredFrames = s.retiredFrames ∧
    (modTinker s k f).halvings = s.halvings ∧ (modTinker s k f).noFetch = s.noFetch ∧
    (modTinker s k f).poolWrites = s.poolWrites ∧ (modTinker s k f).upsets = s.upsets ∧ (modTinker s k f).loft = s.loft ∧
    (modTinker s k f).loftOpen = s.loftOpen ∧ (modTinker s k f).amiopSeq = s.amiopSeq ∧ (modTinker s k f).outbox = s.outbox ∧
    (modTinker s k f).hostView = s.hostView ∧ (modTinker s k f).free = s.free ∧ (modTinker s k f).steps = s.steps ∧
    (modTinker s k f).nextId = s.nextId ∧ (modTinker s k f).agenda = s.agenda ∧ (modTinker s k f).issuer = s.issuer ∧
    (modTinker s k f).ev = s.ev := by
  and_intros <;> rfl

@[simp] theorem modRing_writes (s : State) (r : Nat) (f : Ring → Ring) : (modRing s r f).rings = put s.rings r (f (ringOf s r)) := rfl

@[simp] theorem modRing_keeps (s : State) (r : Nat) (f : Ring → Ring) :
    (modRing s r f).time = s.time ∧ (modRing s r f).phase = s.phase ∧ (modRing s r f).cycles = s.cycles ∧
    (modRing s r f).netup = s.netup ∧ (modRing s r f).fabup = s.fabup ∧ (modRing s r f).failed = s.failed ∧
    (modRing s r f).fwok = s.fwok ∧ (modRing s r f).stage = s.stage ∧ (modRing s r f).maxlevel = s.maxlevel ∧
    (modRing s r f).capw = s.capw ∧ (modRing s r f).tripped = s.tripped ∧ (modRing s r f).capped = s.capped ∧
    (modRing s r f).hot = s.hot ∧ (modRing s r f).clk = s.clk ∧ (modRing s r f).utmax = s.utmax ∧
    (modRing s r f).tmax = s.tmax ∧ (modRing s r f).calmAt = s.calmAt ∧ (modRing s r f).clkAt = s.clkAt ∧
    (modRing s r f).powered = s.powered ∧ (modRing s r f).d3hot = s.d3hot ∧ (modRing s r f).attErr = s.attErr ∧
    (modRing s r f).attDone = s.attDone ∧ (modRing s r f).attGo = s.attGo ∧ (modRing s r f).attaddr = s.attaddr ∧
    (modRing s r f).mexbase = s.mexbase ∧ (modRing s r f).mexrd = s.mexrd ∧ (modRing s r f).mexwr = s.mexwr ∧
    (modRing s r f).loftPeriod = s.loftPeriod ∧ (modRing s r f).loftNext = s.loftNext ∧ (modRing s r f).inWindow = s.inWindow ∧
    (modRing s r f).gtoff = s.gtoff ∧ (modRing s r f).gterr = s.gterr ∧ (modRing s r f).ptmlock = s.ptmlock ∧
    (modRing s r f).queues = s.queues ∧ (modRing s r f).tenancies = s.tenancies ∧ (modRing s r f).lots = s.lots ∧
    (modRing s r f).gangs = s.gangs ∧ (modRing s r f).baskets = s.baskets ∧ (modRing s r f).weaves = s.weaves ∧
    (modRing s r f).shops = s.shops ∧ (modRing s r f).benches = s.benches ∧ (modRing s r f).guardPend = s.guardPend ∧
    (modRing s r f).pinned = s.pinned ∧ (modRing s r f).homes = s.homes ∧ (modRing s r f).homesNext = s.homesNext ∧
    (modRing s r f).ops = s.ops ∧ (modRing s r f).nextOp = s.nextOp ∧ (modRing s r f).requests = s.requests ∧
    (modRing s r f).copies = s.copies ∧ (modRing s r f).selects = s.selects ∧ (modRing s r f).loom = s.loom ∧
    (modRing s r f).net = s.net ∧ (modRing s r f).prefetch = s.prefetch ∧ (modRing s r f).noring = s.noring ∧
    (modRing s r f).portViews = s.portViews ∧ (modRing s r f).keys = s.keys ∧ (modRing s r f).tinkers = s.tinkers ∧
    (modRing s r f).far = s.far ∧ (modRing s r f).dirty = s.dirty ∧ (modRing s r f).lines = s.lines ∧
    (modRing s r f).stamp = s.stamp ∧ (modRing s r f).fences = s.fences ∧ (modRing s r f).grains = s.grains ∧
    (modRing s r f).retiredFrames = s.retiredFrames ∧ (modRing s r f).halvings = s.halvings ∧
    (modRing s r f).noFetch = s.noFetch ∧ (modRing s r f).poolWrites = s.poolWrites ∧ (modRing s r f).upsets = s.upsets ∧
    (modRing s r f).loft = s.loft ∧ (modRing s r f).loftOpen = s.loftOpen ∧ (modRing s r f).amiopSeq = s.amiopSeq ∧
    (modRing s r f).outbox = s.outbox ∧ (modRing s r f).hostView = s.hostView ∧ (modRing s r f).free = s.free ∧
    (modRing s r f).steps = s.steps ∧ (modRing s r f).nextId = s.nextId ∧ (modRing s r f).agenda = s.agenda ∧
    (modRing s r f).issuer = s.issuer ∧ (modRing s r f).ev = s.ev := by
  and_intros <;> rfl

@[simp] theorem modCopy_writes (s : State) (id : Nat) (f : Copy → Copy) : (modCopy s id f).copies = edit s.copies id f := rfl

@[simp] theorem modCopy_keeps (s : State) (id : Nat) (f : Copy → Copy) :
    (modCopy s id f).time = s.time ∧ (modCopy s id f).phase = s.phase ∧ (modCopy s id f).cycles = s.cycles ∧
    (modCopy s id f).netup = s.netup ∧ (modCopy s id f).fabup = s.fabup ∧ (modCopy s id f).failed = s.failed ∧
    (modCopy s id f).fwok = s.fwok ∧ (modCopy s id f).stage = s.stage ∧ (modCopy s id f).maxlevel = s.maxlevel ∧
    (modCopy s id f).capw = s.capw ∧ (modCopy s id f).tripped = s.tripped ∧ (modCopy s id f).capped = s.capped ∧
    (modCopy s id f).hot = s.hot ∧ (modCopy s id f).clk = s.clk ∧ (modCopy s id f).utmax = s.utmax ∧
    (modCopy s id f).tmax = s.tmax ∧ (modCopy s id f).calmAt = s.calmAt ∧ (modCopy s id f).clkAt = s.clkAt ∧
    (modCopy s id f).powered = s.powered ∧ (modCopy s id f).d3hot = s.d3hot ∧ (modCopy s id f).attErr = s.attErr ∧
    (modCopy s id f).attDone = s.attDone ∧ (modCopy s id f).attGo = s.attGo ∧ (modCopy s id f).attaddr = s.attaddr ∧
    (modCopy s id f).mexbase = s.mexbase ∧ (modCopy s id f).mexrd = s.mexrd ∧ (modCopy s id f).mexwr = s.mexwr ∧
    (modCopy s id f).loftPeriod = s.loftPeriod ∧ (modCopy s id f).loftNext = s.loftNext ∧
    (modCopy s id f).inWindow = s.inWindow ∧ (modCopy s id f).gtoff = s.gtoff ∧ (modCopy s id f).gterr = s.gterr ∧
    (modCopy s id f).ptmlock = s.ptmlock ∧ (modCopy s id f).queues = s.queues ∧ (modCopy s id f).tenancies = s.tenancies ∧
    (modCopy s id f).lots = s.lots ∧ (modCopy s id f).gangs = s.gangs ∧ (modCopy s id f).baskets = s.baskets ∧
    (modCopy s id f).weaves = s.weaves ∧ (modCopy s id f).shops = s.shops ∧ (modCopy s id f).benches = s.benches ∧
    (modCopy s id f).guardPend = s.guardPend ∧ (modCopy s id f).pinned = s.pinned ∧ (modCopy s id f).homes = s.homes ∧
    (modCopy s id f).homesNext = s.homesNext ∧ (modCopy s id f).ops = s.ops ∧ (modCopy s id f).nextOp = s.nextOp ∧
    (modCopy s id f).requests = s.requests ∧ (modCopy s id f).selects = s.selects ∧ (modCopy s id f).loom = s.loom ∧
    (modCopy s id f).net = s.net ∧ (modCopy s id f).prefetch = s.prefetch ∧ (modCopy s id f).rings = s.rings ∧
    (modCopy s id f).noring = s.noring ∧ (modCopy s id f).portViews = s.portViews ∧ (modCopy s id f).keys = s.keys ∧
    (modCopy s id f).tinkers = s.tinkers ∧ (modCopy s id f).far = s.far ∧ (modCopy s id f).dirty = s.dirty ∧
    (modCopy s id f).lines = s.lines ∧ (modCopy s id f).stamp = s.stamp ∧ (modCopy s id f).fences = s.fences ∧
    (modCopy s id f).grains = s.grains ∧ (modCopy s id f).retiredFrames = s.retiredFrames ∧
    (modCopy s id f).halvings = s.halvings ∧ (modCopy s id f).noFetch = s.noFetch ∧ (modCopy s id f).poolWrites = s.poolWrites ∧
    (modCopy s id f).upsets = s.upsets ∧ (modCopy s id f).loft = s.loft ∧ (modCopy s id f).loftOpen = s.loftOpen ∧
    (modCopy s id f).amiopSeq = s.amiopSeq ∧ (modCopy s id f).outbox = s.outbox ∧ (modCopy s id f).hostView = s.hostView ∧
    (modCopy s id f).free = s.free ∧ (modCopy s id f).steps = s.steps ∧ (modCopy s id f).nextId = s.nextId ∧
    (modCopy s id f).agenda = s.agenda ∧ (modCopy s id f).issuer = s.issuer ∧ (modCopy s id f).ev = s.ev := by
  and_intros <;> rfl

/-- A weave that is there is changed; where there is none, nothing is. -/
@[simp] theorem modWeave_writes (s : State) (w : Nat) (f : Weave → Weave) : (modWeave s w f).weaves = edit s.weaves w f := by
  unfold modWeave weaveOf edit
  split <;> simp_all

@[simp] theorem modWeave_keeps (s : State) (w : Nat) (f : Weave → Weave) :
    (modWeave s w f).time = s.time ∧ (modWeave s w f).phase = s.phase ∧ (modWeave s w f).cycles = s.cycles ∧
    (modWeave s w f).netup = s.netup ∧ (modWeave s w f).fabup = s.fabup ∧ (modWeave s w f).failed = s.failed ∧
    (modWeave s w f).fwok = s.fwok ∧ (modWeave s w f).stage = s.stage ∧ (modWeave s w f).maxlevel = s.maxlevel ∧
    (modWeave s w f).capw = s.capw ∧ (modWeave s w f).tripped = s.tripped ∧ (modWeave s w f).capped = s.capped ∧
    (modWeave s w f).hot = s.hot ∧ (modWeave s w f).clk = s.clk ∧ (modWeave s w f).utmax = s.utmax ∧
    (modWeave s w f).tmax = s.tmax ∧ (modWeave s w f).calmAt = s.calmAt ∧ (modWeave s w f).clkAt = s.clkAt ∧
    (modWeave s w f).powered = s.powered ∧ (modWeave s w f).d3hot = s.d3hot ∧ (modWeave s w f).attErr = s.attErr ∧
    (modWeave s w f).attDone = s.attDone ∧ (modWeave s w f).attGo = s.attGo ∧ (modWeave s w f).attaddr = s.attaddr ∧
    (modWeave s w f).mexbase = s.mexbase ∧ (modWeave s w f).mexrd = s.mexrd ∧ (modWeave s w f).mexwr = s.mexwr ∧
    (modWeave s w f).loftPeriod = s.loftPeriod ∧ (modWeave s w f).loftNext = s.loftNext ∧
    (modWeave s w f).inWindow = s.inWindow ∧ (modWeave s w f).gtoff = s.gtoff ∧ (modWeave s w f).gterr = s.gterr ∧
    (modWeave s w f).ptmlock = s.ptmlock ∧ (modWeave s w f).queues = s.queues ∧ (modWeave s w f).tenancies = s.tenancies ∧
    (modWeave s w f).lots = s.lots ∧ (modWeave s w f).gangs = s.gangs ∧ (modWeave s w f).baskets = s.baskets ∧
    (modWeave s w f).shops = s.shops ∧ (modWeave s w f).benches = s.benches ∧ (modWeave s w f).guardPend = s.guardPend ∧
    (modWeave s w f).pinned = s.pinned ∧ (modWeave s w f).homes = s.homes ∧ (modWeave s w f).homesNext = s.homesNext ∧
    (modWeave s w f).ops = s.ops ∧ (modWeave s w f).nextOp = s.nextOp ∧ (modWeave s w f).requests = s.requests ∧
    (modWeave s w f).copies = s.copies ∧ (modWeave s w f).selects = s.selects ∧ (modWeave s w f).loom = s.loom ∧
    (modWeave s w f).net = s.net ∧ (modWeave s w f).prefetch = s.prefetch ∧ (modWeave s w f).rings = s.rings ∧
    (modWeave s w f).noring = s.noring ∧ (modWeave s w f).portViews = s.portViews ∧ (modWeave s w f).keys = s.keys ∧
    (modWeave s w f).tinkers = s.tinkers ∧ (modWeave s w f).far = s.far ∧ (modWeave s w f).dirty = s.dirty ∧
    (modWeave s w f).lines = s.lines ∧ (modWeave s w f).stamp = s.stamp ∧ (modWeave s w f).fences = s.fences ∧
    (modWeave s w f).grains = s.grains ∧ (modWeave s w f).retiredFrames = s.retiredFrames ∧
    (modWeave s w f).halvings = s.halvings ∧ (modWeave s w f).noFetch = s.noFetch ∧ (modWeave s w f).poolWrites = s.poolWrites ∧
    (modWeave s w f).upsets = s.upsets ∧ (modWeave s w f).loft = s.loft ∧ (modWeave s w f).loftOpen = s.loftOpen ∧
    (modWeave s w f).amiopSeq = s.amiopSeq ∧ (modWeave s w f).outbox = s.outbox ∧ (modWeave s w f).hostView = s.hostView ∧
    (modWeave s w f).free = s.free ∧ (modWeave s w f).steps = s.steps ∧ (modWeave s w f).nextId = s.nextId ∧
    (modWeave s w f).agenda = s.agenda ∧ (modWeave s w f).issuer = s.issuer ∧ (modWeave s w f).ev = s.ev := by
  unfold modWeave
  split <;> (and_intros <;> rfl)

@[simp] theorem modSplit_writes (s : State) (w slot : Nat) (f : Split → Split) :
    (modSplit s w slot f).weaves =
      edit s.weaves w (fun x => { x with splits := edit x.splits slot f }) := by
  simp [modSplit]

@[simp] theorem modSplit_keeps (s : State) (w slot : Nat) (f : Split → Split) :
    (modSplit s w slot f).time = s.time ∧ (modSplit s w slot f).phase = s.phase ∧ (modSplit s w slot f).cycles = s.cycles ∧
    (modSplit s w slot f).netup = s.netup ∧ (modSplit s w slot f).fabup = s.fabup ∧ (modSplit s w slot f).failed = s.failed ∧
    (modSplit s w slot f).fwok = s.fwok ∧ (modSplit s w slot f).stage = s.stage ∧ (modSplit s w slot f).maxlevel = s.maxlevel ∧
    (modSplit s w slot f).capw = s.capw ∧ (modSplit s w slot f).tripped = s.tripped ∧ (modSplit s w slot f).capped = s.capped ∧
    (modSplit s w slot f).hot = s.hot ∧ (modSplit s w slot f).clk = s.clk ∧ (modSplit s w slot f).utmax = s.utmax ∧
    (modSplit s w slot f).tmax = s.tmax ∧ (modSplit s w slot f).calmAt = s.calmAt ∧ (modSplit s w slot f).clkAt = s.clkAt ∧
    (modSplit s w slot f).powered = s.powered ∧ (modSplit s w slot f).d3hot = s.d3hot ∧
    (modSplit s w slot f).attErr = s.attErr ∧ (modSplit s w slot f).attDone = s.attDone ∧
    (modSplit s w slot f).attGo = s.attGo ∧ (modSplit s w slot f).attaddr = s.attaddr ∧
    (modSplit s w slot f).mexbase = s.mexbase ∧ (modSplit s w slot f).mexrd = s.mexrd ∧ (modSplit s w slot f).mexwr = s.mexwr ∧
    (modSplit s w slot f).loftPeriod = s.loftPeriod ∧ (modSplit s w slot f).loftNext = s.loftNext ∧
    (modSplit s w slot f).inWindow = s.inWindow ∧ (modSplit s w slot f).gtoff = s.gtoff ∧
    (modSplit s w slot f).gterr = s.gterr ∧ (modSplit s w slot f).ptmlock = s.ptmlock ∧
    (modSplit s w slot f).queues = s.queues ∧ (modSplit s w slot f).tenancies = s.tenancies ∧
    (modSplit s w slot f).lots = s.lots ∧ (modSplit s w slot f).gangs = s.gangs ∧ (modSplit s w slot f).baskets = s.baskets ∧
    (modSplit s w slot f).shops = s.shops ∧ (modSplit s w slot f).benches = s.benches ∧
    (modSplit s w slot f).guardPend = s.guardPend ∧ (modSplit s w slot f).pinned = s.pinned ∧
    (modSplit s w slot f).homes = s.homes ∧ (modSplit s w slot f).homesNext = s.homesNext ∧ (modSplit s w slot f).ops = s.ops ∧
    (modSplit s w slot f).nextOp = s.nextOp ∧ (modSplit s w slot f).requests = s.requests ∧
    (modSplit s w slot f).copies = s.copies ∧ (modSplit s w slot f).selects = s.selects ∧ (modSplit s w slot f).loom = s.loom ∧
    (modSplit s w slot f).net = s.net ∧ (modSplit s w slot f).prefetch = s.prefetch ∧ (modSplit s w slot f).rings = s.rings ∧
    (modSplit s w slot f).noring = s.noring ∧ (modSplit s w slot f).portViews = s.portViews ∧
    (modSplit s w slot f).keys = s.keys ∧ (modSplit s w slot f).tinkers = s.tinkers ∧ (modSplit s w slot f).far = s.far ∧
    (modSplit s w slot f).dirty = s.dirty ∧ (modSplit s w slot f).lines = s.lines ∧ (modSplit s w slot f).stamp = s.stamp ∧
    (modSplit s w slot f).fences = s.fences ∧ (modSplit s w slot f).grains = s.grains ∧
    (modSplit s w slot f).retiredFrames = s.retiredFrames ∧ (modSplit s w slot f).halvings = s.halvings ∧
    (modSplit s w slot f).noFetch = s.noFetch ∧ (modSplit s w slot f).poolWrites = s.poolWrites ∧
    (modSplit s w slot f).upsets = s.upsets ∧ (modSplit s w slot f).loft = s.loft ∧
    (modSplit s w slot f).loftOpen = s.loftOpen ∧ (modSplit s w slot f).amiopSeq = s.amiopSeq ∧
    (modSplit s w slot f).outbox = s.outbox ∧ (modSplit s w slot f).hostView = s.hostView ∧
    (modSplit s w slot f).free = s.free ∧ (modSplit s w slot f).steps = s.steps ∧ (modSplit s w slot f).nextId = s.nextId ∧
    (modSplit s w slot f).agenda = s.agenda ∧ (modSplit s w slot f).issuer = s.issuer ∧ (modSplit s w slot f).ev = s.ev := by
  unfold modSplit
  and_intros <;> simp

@[simp] theorem modGslot_writes (s : State) (w n : Nat) (f : GSlot → GSlot) :
    (modGslot s w n f).weaves =
      edit s.weaves w (fun x => { x with gslots := put x.gslots n (f (gslot x n)) }) := by
  simp [modGslot]

@[simp] theorem modGslot_keeps (s : State) (w n : Nat) (f : GSlot → GSlot) :
    (modGslot s w n f).time = s.time ∧ (modGslot s w n f).phase = s.phase ∧ (modGslot s w n f).cycles = s.cycles ∧
    (modGslot s w n f).netup = s.netup ∧ (modGslot s w n f).fabup = s.fabup ∧ (modGslot s w n f).failed = s.failed ∧
    (modGslot s w n f).fwok = s.fwok ∧ (modGslot s w n f).stage = s.stage ∧ (modGslot s w n f).maxlevel = s.maxlevel ∧
    (modGslot s w n f).capw = s.capw ∧ (modGslot s w n f).tripped = s.tripped ∧ (modGslot s w n f).capped = s.capped ∧
    (modGslot s w n f).hot = s.hot ∧ (modGslot s w n f).clk = s.clk ∧ (modGslot s w n f).utmax = s.utmax ∧
    (modGslot s w n f).tmax = s.tmax ∧ (modGslot s w n f).calmAt = s.calmAt ∧ (modGslot s w n f).clkAt = s.clkAt ∧
    (modGslot s w n f).powered = s.powered ∧ (modGslot s w n f).d3hot = s.d3hot ∧ (modGslot s w n f).attErr = s.attErr ∧
    (modGslot s w n f).attDone = s.attDone ∧ (modGslot s w n f).attGo = s.attGo ∧ (modGslot s w n f).attaddr = s.attaddr ∧
    (modGslot s w n f).mexbase = s.mexbase ∧ (modGslot s w n f).mexrd = s.mexrd ∧ (modGslot s w n f).mexwr = s.mexwr ∧
    (modGslot s w n f).loftPeriod = s.loftPeriod ∧ (modGslot s w n f).loftNext = s.loftNext ∧
    (modGslot s w n f).inWindow = s.inWindow ∧ (modGslot s w n f).gtoff = s.gtoff ∧ (modGslot s w n f).gterr = s.gterr ∧
    (modGslot s w n f).ptmlock = s.ptmlock ∧ (modGslot s w n f).queues = s.queues ∧ (modGslot s w n f).tenancies = s.tenancies ∧
    (modGslot s w n f).lots = s.lots ∧ (modGslot s w n f).gangs = s.gangs ∧ (modGslot s w n f).baskets = s.baskets ∧
    (modGslot s w n f).shops = s.shops ∧ (modGslot s w n f).benches = s.benches ∧ (modGslot s w n f).guardPend = s.guardPend ∧
    (modGslot s w n f).pinned = s.pinned ∧ (modGslot s w n f).homes = s.homes ∧ (modGslot s w n f).homesNext = s.homesNext ∧
    (modGslot s w n f).ops = s.ops ∧ (modGslot s w n f).nextOp = s.nextOp ∧ (modGslot s w n f).requests = s.requests ∧
    (modGslot s w n f).copies = s.copies ∧ (modGslot s w n f).selects = s.selects ∧ (modGslot s w n f).loom = s.loom ∧
    (modGslot s w n f).net = s.net ∧ (modGslot s w n f).prefetch = s.prefetch ∧ (modGslot s w n f).rings = s.rings ∧
    (modGslot s w n f).noring = s.noring ∧ (modGslot s w n f).portViews = s.portViews ∧ (modGslot s w n f).keys = s.keys ∧
    (modGslot s w n f).tinkers = s.tinkers ∧ (modGslot s w n f).far = s.far ∧ (modGslot s w n f).dirty = s.dirty ∧
    (modGslot s w n f).lines = s.lines ∧ (modGslot s w n f).stamp = s.stamp ∧ (modGslot s w n f).fences = s.fences ∧
    (modGslot s w n f).grains = s.grains ∧ (modGslot s w n f).retiredFrames = s.retiredFrames ∧
    (modGslot s w n f).halvings = s.halvings ∧ (modGslot s w n f).noFetch = s.noFetch ∧
    (modGslot s w n f).poolWrites = s.poolWrites ∧ (modGslot s w n f).upsets = s.upsets ∧ (modGslot s w n f).loft = s.loft ∧
    (modGslot s w n f).loftOpen = s.loftOpen ∧ (modGslot s w n f).amiopSeq = s.amiopSeq ∧ (modGslot s w n f).outbox = s.outbox ∧
    (modGslot s w n f).hostView = s.hostView ∧ (modGslot s w n f).free = s.free ∧ (modGslot s w n f).steps = s.steps ∧
    (modGslot s w n f).nextId = s.nextId ∧ (modGslot s w n f).agenda = s.agenda ∧ (modGslot s w n f).issuer = s.issuer ∧
    (modGslot s w n f).ev = s.ev := by
  unfold modGslot
  and_intros <;> simp

@[simp] theorem modCmd_writes (s : State) (w op : Nat) (f : LoomCmd → LoomCmd) :
    (modCmd s w op f).weaves =
      edit s.weaves w (fun x => { x with loomCmds := x.loomCmds.map (fun c => if c.op = op then f c else c) }) := by
  simp [modCmd]

@[simp] theorem modCmd_keeps (s : State) (w op : Nat) (f : LoomCmd → LoomCmd) :
    (modCmd s w op f).time = s.time ∧ (modCmd s w op f).phase = s.phase ∧ (modCmd s w op f).cycles = s.cycles ∧
    (modCmd s w op f).netup = s.netup ∧ (modCmd s w op f).fabup = s.fabup ∧ (modCmd s w op f).failed = s.failed ∧
    (modCmd s w op f).fwok = s.fwok ∧ (modCmd s w op f).stage = s.stage ∧ (modCmd s w op f).maxlevel = s.maxlevel ∧
    (modCmd s w op f).capw = s.capw ∧ (modCmd s w op f).tripped = s.tripped ∧ (modCmd s w op f).capped = s.capped ∧
    (modCmd s w op f).hot = s.hot ∧ (modCmd s w op f).clk = s.clk ∧ (modCmd s w op f).utmax = s.utmax ∧
    (modCmd s w op f).tmax = s.tmax ∧ (modCmd s w op f).calmAt = s.calmAt ∧ (modCmd s w op f).clkAt = s.clkAt ∧
    (modCmd s w op f).powered = s.powered ∧ (modCmd s w op f).d3hot = s.d3hot ∧ (modCmd s w op f).attErr = s.attErr ∧
    (modCmd s w op f).attDone = s.attDone ∧ (modCmd s w op f).attGo = s.attGo ∧ (modCmd s w op f).attaddr = s.attaddr ∧
    (modCmd s w op f).mexbase = s.mexbase ∧ (modCmd s w op f).mexrd = s.mexrd ∧ (modCmd s w op f).mexwr = s.mexwr ∧
    (modCmd s w op f).loftPeriod = s.loftPeriod ∧ (modCmd s w op f).loftNext = s.loftNext ∧
    (modCmd s w op f).inWindow = s.inWindow ∧ (modCmd s w op f).gtoff = s.gtoff ∧ (modCmd s w op f).gterr = s.gterr ∧
    (modCmd s w op f).ptmlock = s.ptmlock ∧ (modCmd s w op f).queues = s.queues ∧ (modCmd s w op f).tenancies = s.tenancies ∧
    (modCmd s w op f).lots = s.lots ∧ (modCmd s w op f).gangs = s.gangs ∧ (modCmd s w op f).baskets = s.baskets ∧
    (modCmd s w op f).shops = s.shops ∧ (modCmd s w op f).benches = s.benches ∧ (modCmd s w op f).guardPend = s.guardPend ∧
    (modCmd s w op f).pinned = s.pinned ∧ (modCmd s w op f).homes = s.homes ∧ (modCmd s w op f).homesNext = s.homesNext ∧
    (modCmd s w op f).ops = s.ops ∧ (modCmd s w op f).nextOp = s.nextOp ∧ (modCmd s w op f).requests = s.requests ∧
    (modCmd s w op f).copies = s.copies ∧ (modCmd s w op f).selects = s.selects ∧ (modCmd s w op f).loom = s.loom ∧
    (modCmd s w op f).net = s.net ∧ (modCmd s w op f).prefetch = s.prefetch ∧ (modCmd s w op f).rings = s.rings ∧
    (modCmd s w op f).noring = s.noring ∧ (modCmd s w op f).portViews = s.portViews ∧ (modCmd s w op f).keys = s.keys ∧
    (modCmd s w op f).tinkers = s.tinkers ∧ (modCmd s w op f).far = s.far ∧ (modCmd s w op f).dirty = s.dirty ∧
    (modCmd s w op f).lines = s.lines ∧ (modCmd s w op f).stamp = s.stamp ∧ (modCmd s w op f).fences = s.fences ∧
    (modCmd s w op f).grains = s.grains ∧ (modCmd s w op f).retiredFrames = s.retiredFrames ∧
    (modCmd s w op f).halvings = s.halvings ∧ (modCmd s w op f).noFetch = s.noFetch ∧
    (modCmd s w op f).poolWrites = s.poolWrites ∧ (modCmd s w op f).upsets = s.upsets ∧ (modCmd s w op f).loft = s.loft ∧
    (modCmd s w op f).loftOpen = s.loftOpen ∧ (modCmd s w op f).amiopSeq = s.amiopSeq ∧ (modCmd s w op f).outbox = s.outbox ∧
    (modCmd s w op f).hostView = s.hostView ∧ (modCmd s w op f).free = s.free ∧ (modCmd s w op f).steps = s.steps ∧
    (modCmd s w op f).nextId = s.nextId ∧ (modCmd s w op f).agenda = s.agenda ∧ (modCmd s w op f).issuer = s.issuer ∧
    (modCmd s w op f).ev = s.ev := by
  unfold modCmd
  and_intros <;> simp

@[simp] theorem newOp_keeps (s : State) (c : Ctx) (k : OpKind) (ds : List Nat) (a n : Nat) :
    (newOp s c k ds a n).time = s.time ∧ (newOp s c k ds a n).phase = s.phase ∧ (newOp s c k ds a n).cycles = s.cycles ∧
    (newOp s c k ds a n).netup = s.netup ∧ (newOp s c k ds a n).fabup = s.fabup ∧ (newOp s c k ds a n).failed = s.failed ∧
    (newOp s c k ds a n).fwok = s.fwok ∧ (newOp s c k ds a n).stage = s.stage ∧ (newOp s c k ds a n).maxlevel = s.maxlevel ∧
    (newOp s c k ds a n).capw = s.capw ∧ (newOp s c k ds a n).tripped = s.tripped ∧ (newOp s c k ds a n).capped = s.capped ∧
    (newOp s c k ds a n).hot = s.hot ∧ (newOp s c k ds a n).clk = s.clk ∧ (newOp s c k ds a n).utmax = s.utmax ∧
    (newOp s c k ds a n).tmax = s.tmax ∧ (newOp s c k ds a n).calmAt = s.calmAt ∧ (newOp s c k ds a n).clkAt = s.clkAt ∧
    (newOp s c k ds a n).powered = s.powered ∧ (newOp s c k ds a n).d3hot = s.d3hot ∧ (newOp s c k ds a n).attErr = s.attErr ∧
    (newOp s c k ds a n).attDone = s.attDone ∧ (newOp s c k ds a n).attGo = s.attGo ∧ (newOp s c k ds a n).attaddr = s.attaddr ∧
    (newOp s c k ds a n).mexbase = s.mexbase ∧ (newOp s c k ds a n).mexrd = s.mexrd ∧ (newOp s c k ds a n).mexwr = s.mexwr ∧
    (newOp s c k ds a n).loftPeriod = s.loftPeriod ∧ (newOp s c k ds a n).loftNext = s.loftNext ∧
    (newOp s c k ds a n).inWindow = s.inWindow ∧ (newOp s c k ds a n).gtoff = s.gtoff ∧ (newOp s c k ds a n).gterr = s.gterr ∧
    (newOp s c k ds a n).ptmlock = s.ptmlock ∧ (newOp s c k ds a n).queues = s.queues ∧
    (newOp s c k ds a n).tenancies = s.tenancies ∧ (newOp s c k ds a n).lots = s.lots ∧ (newOp s c k ds a n).gangs = s.gangs ∧
    (newOp s c k ds a n).baskets = s.baskets ∧ (newOp s c k ds a n).shops = s.shops ∧ (newOp s c k ds a n).benches = s.benches ∧
    (newOp s c k ds a n).guardPend = s.guardPend ∧ (newOp s c k ds a n).pinned = s.pinned ∧
    (newOp s c k ds a n).homes = s.homes ∧ (newOp s c k ds a n).homesNext = s.homesNext ∧
    (newOp s c k ds a n).requests = s.requests ∧ (newOp s c k ds a n).copies = s.copies ∧
    (newOp s c k ds a n).selects = s.selects ∧ (newOp s c k ds a n).loom = s.loom ∧ (newOp s c k ds a n).net = s.net ∧
    (newOp s c k ds a n).prefetch = s.prefetch ∧ (newOp s c k ds a n).rings = s.rings ∧ (newOp s c k ds a n).noring = s.noring ∧
    (newOp s c k ds a n).portViews = s.portViews ∧ (newOp s c k ds a n).keys = s.keys ∧
    (newOp s c k ds a n).tinkers = s.tinkers ∧ (newOp s c k ds a n).far = s.far ∧ (newOp s c k ds a n).dirty = s.dirty ∧
    (newOp s c k ds a n).lines = s.lines ∧ (newOp s c k ds a n).stamp = s.stamp ∧ (newOp s c k ds a n).fences = s.fences ∧
    (newOp s c k ds a n).grains = s.grains ∧ (newOp s c k ds a n).retiredFrames = s.retiredFrames ∧
    (newOp s c k ds a n).halvings = s.halvings ∧ (newOp s c k ds a n).noFetch = s.noFetch ∧
    (newOp s c k ds a n).poolWrites = s.poolWrites ∧ (newOp s c k ds a n).upsets = s.upsets ∧
    (newOp s c k ds a n).loft = s.loft ∧ (newOp s c k ds a n).loftOpen = s.loftOpen ∧
    (newOp s c k ds a n).amiopSeq = s.amiopSeq ∧ (newOp s c k ds a n).outbox = s.outbox ∧
    (newOp s c k ds a n).hostView = s.hostView ∧ (newOp s c k ds a n).free = s.free ∧ (newOp s c k ds a n).steps = s.steps ∧
    (newOp s c k ds a n).nextId = s.nextId ∧ (newOp s c k ds a n).agenda = s.agenda ∧ (newOp s c k ds a n).issuer = s.issuer ∧
    (newOp s c k ds a n).ev = s.ev := by
  unfold newOp
  and_intros <;> simp

@[simp] theorem newOp_number (s : State) (c : Ctx) (k : OpKind) (ds : List Nat) (a n : Nat) :
    (newOp s c k ds a n).nextOp = s.nextOp + 1 := by
  simp [newOp]

/-- A new operation stands under the next number, and every other operation as before. -/
theorem newOp_ops (s : State) (c : Ctx) (k : OpKind) (ds : List Nat) (a n j : Nat) (h : j ≠ s.nextOp) :
    look (newOp s c k ds a n).ops j = look s.ops j := by
  simp [newOp, h]

end Sys2Proof.Machine
end

