-- ==== Sys2Proof/Laws/Memory.lean ====
section
/-!
SUPPORT. Memory, said once: what a byte reads after a change of one, that every operation on memory keeps the canonical form, and which
fields of the state such an operation leaves alone.
-/

namespace Sys2Proof.Machine

open Sys2Proof

/-! ### One byte -/

/-- A changed byte of device memory or of a trap block reads as written (the Loft's bytes are not changed this way). -/
theorem readByte_pokeByte {s : State} (hw : Memory.wf s = true) {pa : Nat} (b : Byte) (h : pa < loftBase) :
    readByte (pokeByte s pa b) pa = b := by
  have hd : trapBase ≤ pa → look s.dirty pa = none := by
    intro ht
    simp only [Memory.wf, Bool.and_eq_true] at hw
    obtain ⟨⟨⟨-, -⟩, hall⟩, -⟩ := hw
    cases e : look s.dirty pa with
    | none => rfl
    | some x =>
      exfalso
      have hm : (pa, x) ∈ s.dirty := by
        clear hall ht
        generalize s.dirty = t at e
        induction t with
        | nil => simp [look] at e
        | cons p t ih =>
          obtain ⟨k, a⟩ := p
          simp only [look] at e
          split at e
          · rename_i hk; subst hk; cases e; exact List.mem_cons_self ..
          · exact List.mem_cons_of_mem _ (ih e)
      have := List.all_eq_true.mp hall _ hm
      simp only [decide_eq_true_eq] at this
      omega
  have hs : ¬ spBase ≤ pa := by simp only [spBase, loftBase] at h ⊢; omega
  unfold pokeByte readByte
  rw [if_neg hs, if_neg hs, if_neg (by omega)]
  by_cases ht : trapBase ≤ pa
  · simp [ht, hd ht]
  · simp [ht]

/-- A changed byte of a scratchpad leaves every other byte of the scratchpads as it was. -/
theorem spByte_edit_ne (s : State) {j k : Nat} (b : Byte) (h : k ≠ j) :
    spByte { s with baskets := edit s.baskets (j / 2 ^ 21) (fun B => { B with spad := setCell B.spad (j % 2 ^ 21) b }) } k = spByte s k := by
  unfold spByte
  by_cases hk : k / 2 ^ 21 = j / 2 ^ 21
  · have hm : k % 2 ^ 21 ≠ j % 2 ^ 21 := by omega
    simp only [hk, look_edit]
    cases look s.baskets (j / 2 ^ 21) with
    | none => rfl
    | some B => exact cell_setCell_ne _ _ hm
  · simp only [look_edit_ne _ _ hk]

/-- A changed byte leaves every other byte as it was. -/
theorem readByte_pokeByte_ne (s : State) {pa qa : Nat} (b : Byte) (h : qa ≠ pa) : readByte (pokeByte s pa b) qa = readByte s qa := by
  unfold pokeByte
  by_cases hs : spBase ≤ pa <;> simp only [hs, if_true, if_false]
  · by_cases hq : spBase ≤ qa
    · rw [readByte, readByte, if_pos hq, if_pos hq]
      exact spByte_edit_ne s b (by omega)
    · simp only [readByte, loftByte, hq, if_false]
  · by_cases ht : trapBase ≤ pa <;> simp only [ht, if_true, if_false] <;> simp [readByte, spByte, loftByte, h]

/-- Changed bytes leave every byte outside them as it was. -/
theorem readByte_pokeBytes_ne (s : State) (pas : List Nat) (bs : List Byte) {qa : Nat} (h : qa ∉ pas) :
    readByte (pokeBytes s pas bs) qa = readByte s qa := by
  induction pas generalizing s bs with
  | nil => cases bs <;> rfl
  | cons pa pas ih =>
    simp only [List.mem_cons, not_or] at h
    cases bs with
    | nil => rfl
    | cons b bs =>
      simp only [pokeBytes]
      rw [ih _ _ h.2, readByte_pokeByte_ne s b h.1]

/-! ### The canonical form -/

theorem memory_wf_reset : Memory.wf State.reset = true := by decide

/-- The canonical form is one of three fields. -/
theorem memory_wf_of {s t : State} (h1 : t.far = s.far) (h2 : t.dirty = s.dirty) (h3 : t.loft = s.loft) (h : Memory.wf s = true) :
    Memory.wf t = true := by
  unfold Memory.wf at *
  rwa [h1, h2, h3]

theorem pokeByte_wf {s : State} (pa : Nat) (b : Byte) (h : Memory.wf s = true) : Memory.wf (pokeByte s pa b) = true := by
  unfold pokeByte Memory.wf at *
  simp only [Bool.and_eq_true] at h ⊢
  obtain ⟨⟨⟨h1, h2⟩, h3⟩, h4⟩ := h
  split
  · exact ⟨⟨⟨h1, h2⟩, h3⟩, h4⟩
  · split
    · exact ⟨⟨⟨cellsWf_setCell _ _ h1, h2⟩, h3⟩, h4⟩
    · refine ⟨⟨⟨h1, tabWf_put _ _ h2⟩, all_put _ _ _ h3 ?_⟩, h4⟩
      simp only [decide_eq_true_eq]; omega

theorem pokeBytes_wf {s : State} (pas : List Nat) (bs : List Byte) (h : Memory.wf s = true) : Memory.wf (pokeBytes s pas bs) = true := by
  induction pas generalizing s bs with
  | nil => cases bs <;> exact h
  | cons pa pas ih =>
    cases bs with
    | nil => exact h
    | cons b bs => exact ih bs (pokeByte_wf pa b h)

theorem setFar_wf {s : State} (pa : Nat) (b : Byte) (h : Memory.wf s = true) :
    Memory.wf { s with far := setCell s.far pa b } = true := by
  unfold Memory.wf at *
  simp only [Bool.and_eq_true] at h ⊢
  exact ⟨⟨⟨cellsWf_setCell _ _ h.1.1.1, h.1.1.2⟩, h.1.2⟩, h.2⟩

theorem noteWrite_wf {s : State} (pa : Nat) (bs : List Byte) (msgs : List Msg) (h : Memory.wf s = true) :
    Memory.wf (noteWrite s pa bs msgs) = true := h

theorem wakeLine_wf {s : State} (l : Nat) (h : Memory.wf s = true) : Memory.wf (wakeLine s l) = true := h

theorem dropLines_wf {s : State} (lo n : Nat) (h : Memory.wf s = true) : Memory.wf (dropLines s lo n) = true := h

theorem writeMem_wf {s : State} (pa : Nat) (bs : List Byte) (msgs : List Msg) (h : Memory.wf s = true) :
    Memory.wf (writeMem s pa bs msgs) = true := pokeBytes_wf _ _ h

theorem writeEach_wf {s : State} (msgs : List Msg) (pas : List Nat) (bs : List Byte) (h : Memory.wf s = true) :
    Memory.wf (writeEach s msgs pas bs) = true := by
  induction pas generalizing s bs with
  | nil => cases bs <;> exact h
  | cons pa pas ih =>
    cases bs with
    | nil => exact h
    | cons b bs => exact ih bs (writeMem_wf pa [b] msgs h)

theorem writeAccess_wf {s : State} (pas : List Nat) (bs : List Byte) (msgs : List Msg) (h : Memory.wf s = true) :
    Memory.wf (writeAccess s pas bs msgs) = true := by
  unfold writeAccess
  split
  · exact h
  · split
    · exact writeMem_wf _ _ _ h
    · exact writeEach_wf _ _ _ h

/-- Bytes of the near tier are written back or dropped. -/
theorem filterDirty_wf {s : State} (p : Nat × Byte → Bool) (h : Memory.wf s = true) :
    Memory.wf { s with dirty := s.dirty.filter p } = true := by
  unfold Memory.wf at *
  simp only [Bool.and_eq_true] at h ⊢
  exact ⟨⟨⟨h.1.1.1, tabWf_filter _ h.1.1.2⟩, all_filter _ _ h.1.2⟩, h.2⟩

theorem cellsWf_foldl {n : Nat} {m : Cells n} (ds : List (Nat × BitVec n)) (h : cellsWf m = true) :
    cellsWf (ds.foldl (fun m p => setCell m p.1 p.2) m) = true := by
  induction ds generalizing m with
  | nil => exact h
  | cons d ds ih => exact ih (cellsWf_setCell _ _ h)

/-- The Loft's bytes are written or dropped. -/
theorem setLoft_wf {s : State} {l : Tab Byte} (hl : tabWf l = true) (h : Memory.wf s = true) :
    Memory.wf { s with loft := l } = true := by
  unfold Memory.wf at *
  simp only [Bool.and_eq_true] at h ⊢
  exact ⟨⟨⟨h.1.1.1, h.1.1.2⟩, h.1.2⟩, hl⟩

/-- Bytes of the near tier go to the pool. -/
theorem flush_wf {s : State} (ds : List (Nat × Byte)) (p : Nat × Byte → Bool) (h : Memory.wf s = true) :
    Memory.wf { s with far := ds.foldl (fun m p => setCell m p.1 p.2) s.far, dirty := s.dirty.filter p } = true := by
  unfold Memory.wf at *
  simp only [Bool.and_eq_true] at h ⊢
  exact ⟨⟨⟨cellsWf_foldl _ h.1.1.1, tabWf_filter _ h.1.1.2⟩, all_filter _ _ h.1.2⟩, h.2⟩

end Sys2Proof.Machine
end

