-- ==== Sys2Proof/Laws/Invariant.lean ====
section
/-!
SUPPORT. What keeps the invariant of the device, one lemma for each shared operation: the operations on records, operations in flight,
registers and traps. `inv_<operation>` says that the operation leads from a state with the invariant to one with it.
-/

namespace Sys2Proof.Machine

open Sys2Proof

/-- The invariant, by the fields that it reads. -/
def invOf (far : List Host.Cell) (dirty loft : Tab Byte) (clk loftPeriod loftNext maxlevel : Nat) : Bool :=
  cellsWf far && tabWf dirty && dirty.all (fun p => decide (p.1 < trapBase)) && tabWf loft && decide (10 ≤ clk ∧ clk ≤ 21) &&
    decide (loftPeriod = 3900 ∨ loftPeriod = 1950) && decide (loftNext = 3900 ∨ loftNext = 1950) &&
    decide (3 ≤ maxlevel ∧ maxlevel ≤ 7)

@[simp] theorem inv_fold (s : State) : invOf s.far s.dirty s.loft s.clk s.loftPeriod s.loftNext s.maxlevel = Inv s := rfl

/-- A changed record keeps the invariant where the fields that the invariant reads stand as before. -/
@[simp] theorem inv_mk
    xtime xphase xcycles xnetup xfabup xfailed xfwok xstage maxlevel xcapw xtripped xcapped xhot clk xutmax xtmax xcalmAt xclkAt xpowered
    xd3hot xattErr xattDone xattGo xattaddr xmexbase xmexrd xmexwr loftPeriod loftNext xinWindow xgtoff xgterr xptmlock
    xqueues xtenancies xlots xgangs xbaskets xweaves xshops xbenches xguardPend xpinned xhomes xhomesNext xops xnextOp
    xrequests xcopies xselects xloom xnet xprefetch xrings xnoring xportViews xkeys xtinkers far dirty xlines xstamp
    xfences xgrains xretiredFrames xhalvings xnoFetch xpoolWrites xupsets loft xloftOpen xamiopSeq xoutbox xhostView xfree
    xsteps xnextId xagenda xissuer xev :
    Inv (State.mk
      xtime xphase xcycles xnetup xfabup xfailed xfwok xstage maxlevel xcapw xtripped xcapped xhot clk xutmax xtmax xcalmAt xclkAt
      xpowered xd3hot xattErr xattDone xattGo xattaddr xmexbase xmexrd xmexwr loftPeriod loftNext xinWindow xgtoff xgterr
      xptmlock xqueues xtenancies xlots xgangs xbaskets xweaves xshops xbenches xguardPend xpinned xhomes xhomesNext xops
      xnextOp xrequests xcopies xselects xloom xnet xprefetch xrings xnoring xportViews xkeys xtinkers far dirty xlines
      xstamp xfences xgrains xretiredFrames xhalvings xnoFetch xpoolWrites xupsets loft xloftOpen xamiopSeq xoutbox
      xhostView xfree xsteps xnextId xagenda xissuer xev) =
      invOf far dirty loft clk loftPeriod loftNext maxlevel := rfl

/-- The invariant is the canonical form of the memories and what it says of four numbers. -/
theorem inv_parts {s : State} (h : Inv s = true) : Memory.wf s = true ∧ (10 ≤ s.clk ∧ s.clk ≤ 21) ∧
    (s.loftPeriod = 3900 ∨ s.loftPeriod = 1950) ∧ (s.loftNext = 3900 ∨ s.loftNext = 1950) ∧ (3 ≤ s.maxlevel ∧ s.maxlevel ≤ 7) := by
  simpa only [Inv, Bool.and_eq_true, decide_eq_true_eq, and_assoc] using h

/-- A step that changes only the memories, and keeps their canonical form, keeps the invariant. -/
theorem inv_of_memory {s t : State} (h : Inv s = true) (hm : Memory.wf t = true) (h1 : t.clk = s.clk) (h2 : t.loftPeriod = s.loftPeriod)
    (h3 : t.loftNext = s.loftNext) (h4 : t.maxlevel = s.maxlevel) : Inv t = true := by
  have p := inv_parts h
  simp only [Inv, Bool.and_eq_true, decide_eq_true_eq, h1, h2, h3, h4]
  exact ⟨⟨⟨⟨hm, p.2.1⟩, p.2.2.1⟩, p.2.2.2.1⟩, p.2.2.2.2⟩

@[simp] theorem inv_ite (c : Prop) [Decidable c] (s t : State) : Inv (if c then s else t) = if c then Inv s else Inv t := by
  split <;> rfl

/-- Steps of a list, each of which keeps the invariant. -/
@[simp] theorem inv_foldl {α : Type} (f : State → α → State) (hf : ∀ s x, Inv s = true → Inv (f s x) = true) (xs : List α)
    (s : State) (h : Inv s = true) : Inv (xs.foldl f s) = true := by
  induction xs generalizing s with
  | nil => exact h
  | cons x xs ih => exact ih (f s x) (hf s x h)

/-- What every step of a fold keeps. -/
theorem foldl_keeps {α β : Type} (p : β → Prop) (f : β → α → β) (hf : ∀ b x, p b → p (f b x)) (xs : List α) (b : β)
    (h : p b) :
    p (xs.foldl f b) := by
  induction xs generalizing b with
  | nil => exact h
  | cons x xs ih => exact ih (f b x) (hf b x h)

/-- The state that an operation may give. -/
theorem inv_of_some {o : Option State} {t : State} (e : o = some t) (ho : o.all Inv = true) : Inv t = true := by
  subst e; exact ho

@[simp] theorem inv_getD (o : Option State) (s : State) (ho : o.all Inv = true) (h : Inv s = true) : Inv (o.getD s) = true := by
  cases o with
  | none => exact h
  | some t => exact ho

/-- What an effect leaves has the invariant. -/
def Effect.inv : Effect → Bool
  | .done s | .doneTrap s _ | .hold s _ _ _ | .goto s _ _ | .gone s | .stay s _ => Inv s
  | .trap _ => true

@[simp] theorem inv_done (s : State) : (Effect.done s).inv = Inv s := rfl
@[simp] theorem inv_trap (t : Trap) : (Effect.trap t).inv = true := rfl
@[simp] theorem inv_doneTrap (s : State) (t : Trap) : (Effect.doneTrap s t).inv = Inv s := rfl
@[simp] theorem inv_hold (s : State) (a : Stall) (w : Wait) (x : Tab Word) : (Effect.hold s a w x).inv = Inv s := rfl
@[simp] theorem inv_goto (s : State) (pc : DWord) (b : Bool) : (Effect.goto s pc b).inv = Inv s := rfl
@[simp] theorem inv_gone (s : State) : (Effect.gone s).inv = Inv s := rfl
@[simp] theorem inv_stay (s : State) (a : Option Stall) : (Effect.stay s a).inv = Inv s := rfl

@[simp] theorem effect_inv_ite (c : Prop) [Decidable c] (a b : Effect) : (if c then a else b).inv = if c then a.inv else b.inv := by
  split <;> rfl

/-- The next state of an outcome, if there is one, has the invariant. -/
def outInv : Host.Outcome State Fault Refusal → Bool
  | .next s => Inv s
  | _ => true

@[simp] theorem outInv_next (s : State) : outInv (.next s) = Inv s := rfl
@[simp] theorem outInv_fault (f : Fault) : outInv (.fault f) = true := rfl

@[simp] theorem outInv_ite (c : Prop) [Decidable c] (a b : Host.Outcome State Fault Refusal) :
    outInv (if c then a else b) = if c then outInv a else outInv b := by
  split <;> rfl

/-- Both ends of a write that may have to wait have the invariant. -/
def Try.inv : Try → Bool
  | .ok s | .wait s => Inv s

@[simp] theorem try_inv_ok (s : State) : (Try.ok s).inv = Inv s := rfl
@[simp] theorem try_inv_wait (s : State) : (Try.wait s).inv = Inv s := rfl

@[simp] theorem try_inv_ite (c : Prop) [Decidable c] (a b : Try) : (if c then a else b).inv = if c then a.inv else b.inv := by
  split <;> rfl

/-- Writes of a list, each of which may have to wait. -/
theorem inv_foldl_try {α : Type} (f : Try → α → Try) (hf : ∀ t x, t.inv = true → (f t x).inv = true) (xs : List α) (t : Try)
    (h : t.inv = true) : (xs.foldl f t).inv = true := by
  induction xs generalizing t with
  | nil => exact h
  | cons x xs ih => exact ih (f t x) (hf t x h)

/-- Reads of a list, one after another. -/
theorem inv_foldl_run {α : Type} (f : Run → α → Run) (hf : ∀ r x, Inv r.s = true → Inv (f r x).s = true) (xs : List α) (r : Run)
    (h : Inv r.s = true) : Inv (xs.foldl f r).s = true := by
  induction xs generalizing r with
  | nil => exact h
  | cons x xs ih => exact ih (f r x) (hf r x h)

theorem inv_of_ok {t : Try} {s : State} (e : t = .ok s) (h : t.inv = true) : Inv s = true := by subst e; exact h

theorem inv_of_wait {t : Try} {s : State} (e : t = .wait s) (h : t.inv = true) : Inv s = true := by subst e; exact h

/-- What the checks of an access leave has the invariant. -/
def Checked.inv : Checked → Bool
  | .go => true
  | .trap s _ | .wait s => Inv s

@[simp] theorem checked_inv_trap (s : State) (t : Trap) : (Checked.trap s t).inv = Inv s := rfl
@[simp] theorem checked_inv_wait (s : State) : (Checked.wait s).inv = Inv s := rfl
@[simp] theorem checked_inv_go : Checked.go.inv = true := rfl

/-- What renaming leaves has the invariant. -/
def Renaming.inv : Renaming → Bool
  | .go s | .refill s => Inv s

@[simp] theorem renaming_inv_go (s : State) : (Renaming.go s).inv = Inv s := rfl
@[simp] theorem renaming_inv_refill (s : State) : (Renaming.refill s).inv = Inv s := rfl

/-- What a fetch leaves has the invariant. -/
def Fetch.inv : Fetch → Bool
  | .ok _ _ | .poison => true
  | .wait s _ | .trap s _ _ => Inv s

@[simp] theorem fetch_inv_ok (ps : List Nat) (ws : List DWord) : (Fetch.ok ps ws).inv = true := rfl
@[simp] theorem fetch_inv_wait (s : State) (ps : Parked) : (Fetch.wait s ps).inv = Inv s := rfl
@[simp] theorem fetch_inv_trap (s : State) (t : Trap) (h : Option DWord) : (Fetch.trap s t h).inv = Inv s := rfl
@[simp] theorem fetch_inv_poison : Fetch.poison.inv = true := rfl

/-- What is left by an operation that gives a state or ends an instruction has the invariant. -/
def sumInv : State ⊕ Effect → Bool
  | .inl s => Inv s
  | .inr e => e.inv

@[simp] theorem sumInv_inl (s : State) : sumInv (.inl s) = Inv s := rfl
@[simp] theorem sumInv_inr (e : Effect) : sumInv (.inr e) = e.inv := rfl

/-- What a network command leaves has the invariant. -/
def NetDone.inv : NetDone → Bool
  | .wait _ _ _ | .poison => true
  | .done s _ _ _ _ => Inv s

@[simp] theorem netDone_inv_done (s : State) (a b c : Nat) (v : View) : (NetDone.done s a b c v).inv = Inv s := rfl
@[simp] theorem netDone_inv_wait (xs : List NetAbsent) (a : Stall) (ps : Parked) : (NetDone.wait xs a ps).inv = true := rfl
@[simp] theorem netDone_inv_poison : NetDone.poison.inv = true := rfl

theorem inv_of_fst {α : Type} {p : State × α} {s : State} {x : α} (e : p = (s, x)) (h : Inv p.1 = true) : Inv s = true := by
  subst e; exact h

theorem inv_of_some_fst {α : Type} {o : Option (State × α)} {s : State} {x : α} (e : o = some (s, x))
    (h : o.all (fun p => Inv p.1) = true) : Inv s = true := by subst e; exact h

theorem inv_of_run {α : Type} {p : Run × α} {r : Run} {x : α} (e : p = (r, x)) (h : Inv p.1.s = true) : Inv r.s = true := by
  subst e; exact h

/-! ### Memory -/

@[simp] theorem inv_pokeByte (s : State) (pa : Nat) (b : Byte) (h : Inv s = true) :
    Inv (pokeByte s pa b) = true := by
  exact inv_of_memory h (pokeByte_wf pa b (inv_parts h).1) (by unfold pokeByte; (repeat' split) <;> rfl)
    (by unfold pokeByte; (repeat' split) <;> rfl) (by unfold pokeByte; (repeat' split) <;> rfl) (by unfold pokeByte; (repeat' split) <;> rfl)

@[simp] theorem inv_pokeBytes (s : State) (pas : List Nat) (bs : List Byte) (h : Inv s = true) : Inv (pokeBytes s pas bs) = true := by
  induction pas generalizing s bs with
  | nil => cases bs <;> exact h
  | cons pa pas ih =>
    cases bs with
    | nil => exact h
    | cons b bs => exact ih _ bs (inv_pokeByte s pa b h)

@[simp] theorem inv_noteWrite (s : State) (pa : Nat) (bs : List Byte) (msgs : List Msg) (vstamp : optParam Nat 0)
    (vbasket : optParam Nat 0) (h : Inv s = true) :
    Inv (noteWrite s pa bs msgs vstamp vbasket) = true := by
  unfold noteWrite; simp [h]

@[simp] theorem inv_wakeLine (s : State) (line : Nat) (h : Inv s = true) :
    Inv (wakeLine s line) = true := by
  unfold wakeLine; simp [h]

@[simp] theorem inv_writeMem (s : State) (pa : Nat) (bs : List Byte) (msgs : List Msg) (vstamp : optParam Nat 0)
    (vbasket : optParam Nat 0) (h : Inv s = true) :
    Inv (writeMem s pa bs msgs vstamp vbasket) = true := by
  exact inv_pokeBytes _ _ _ h

@[simp] theorem inv_writeEach (s : State) (msgs : List Msg) (pas : List Nat) (bs : List Byte) (h : Inv s = true) :
    Inv (writeEach s msgs pas bs) = true := by
  induction pas generalizing s bs with
  | nil => cases bs <;> exact h
  | cons pa pas ih =>
    cases bs with
    | nil => exact h
    | cons b bs => exact ih _ bs (inv_writeMem s pa [b] msgs _ _ h)

@[simp] theorem inv_writeAccess (s : State) (pas : List Nat) (bs : List Byte) (msgs : List Msg) (h : Inv s = true) :
    Inv (writeAccess s pas bs msgs) = true := by
  unfold writeAccess; (repeat' split) <;> simp +contextual (maxDischargeDepth := 99) [h]

@[simp] theorem inv_dropLines (s : State) (lo : Nat) (n : Nat) (h : Inv s = true) :
    Inv (dropLines s lo n) = true := by
  unfold dropLines; simp [h]

/-! ### Translate -/

@[simp] theorem inv_setTen (s : State) (t : Nat) (x : Tenancy) (h : Inv s = true) :
    Inv (setTen s t x) = true := by
  unfold setTen; simp [h]

@[simp] theorem inv_setReeve (s : State) (t : Nat) (f : Reeve → Reeve) (h : Inv s = true) :
    Inv (setReeve s t f) = true := by
  unfold setReeve; simp [h]

@[simp] theorem inv_setLease (s : State) (t : Nat) (slot : Nat) (l : Lease) (h : Inv s = true) :
    Inv (setLease s t slot l) = true := by
  unfold setLease; simp [h]

@[simp] theorem inv_cacheWalk (s : State) (t : Nat) (va : Nat) (h : Inv s = true) :
    Inv (cacheWalk s t va) = true := by
  unfold cacheWalk; (repeat' split) <;> simp +contextual (maxDischargeDepth := 99) [h]

@[simp] theorem inv_askLines (s : State) (t : Nat) (pas : List Nat) (h : Inv s = true) :
    Inv (askLines s t pas) = true := by
  unfold askLines; simp [h]

/-! ### Records -/

@[simp] theorem inv_setWeave (s : State) (w : Nat) (wv : Weave) (h : Inv s = true) :
    Inv (setWeave s w wv) = true := by
  unfold setWeave; simp [h]

@[simp] theorem inv_modWeave (s : State) (w : Nat) (f : Weave → Weave) (h : Inv s = true) :
    Inv (modWeave s w f) = true := by
  unfold modWeave; (repeat' split) <;> simp +contextual (maxDischargeDepth := 99) [h]

@[simp] theorem inv_modBasket (s : State) (b : Nat) (f : Basket → Basket) (h : Inv s = true) :
    Inv (modBasket s b f) = true := by
  unfold modBasket; simp [h]

@[simp] theorem inv_modShop (s : State) (h1 : Nat) (f : Shop → Shop) (h : Inv s = true) :
    Inv (modShop s h1 f) = true := by
  unfold modShop; simp [h]

@[simp] theorem inv_modQueue (s : State) (q : Nat) (f : Queue → Queue) (h : Inv s = true) :
    Inv (modQueue s q f) = true := by
  unfold modQueue; simp [h]

@[simp] theorem inv_send (s : State) (o : Out) (h : Inv s = true) :
    Inv (send s o) = true := by
  unfold send; simp [h]

@[simp] theorem inv_agentWrite (s : State) (t : Nat) (va : Nat) (bs : List Byte) (msgs : List Msg) (h : Inv s = true) :
    (agentWrite s t va bs msgs).all Inv = true := by
  unfold agentWrite; (repeat' split) <;> simp +contextual (maxDischargeDepth := 99) [h]

@[simp] theorem inv_exWrite (s : State) (q : Nat) (r : ExRec) (h : Inv s = true) :
    Inv (exWrite s q r) = true := by
  unfold exWrite; simp +contextual (maxDischargeDepth := 99) [h]

@[simp] theorem inv_postEx (s : State) (q : Nat) (r : ExRec) (h : Inv s = true) :
    Inv (postEx s q r) = true := by
  unfold postEx; simp [h]

@[simp] theorem inv_stallOn (s : State) (q : Nat) (r : ExRec) (lot : Nat) (gid : Nat) (started : optParam Bool true)
    (h : Inv s = true) :
    Inv (stallOn s q r lot gid started) = true := by
  unfold stallOn; simp [h]

@[simp] theorem inv_postMex (s : State) (t : Nat) (cause : Nat) (cmd : Nat) (h : Inv s = true) :
    Inv (postMex s t cause cmd) = true := by
  unfold postMex; simp [h]

@[simp] theorem inv_postEvent (s : State) (t : Nat) (reason : Nat) (detail : List Byte) (h : Inv s = true) :
    Inv (postEvent s t reason detail) = true := by
  unfold postEvent; simp [h]

@[simp] theorem inv_faultWrite (s : State) (t : Nat) (f : FaultInfo) (await : Bool) (h : Inv s = true) :
    Inv (faultWrite s t f await) = true := by
  unfold faultWrite; dsimp only
  (repeat' split) <;> first
    | (simp +contextual (maxDischargeDepth := 99) [h]; done)
    | (have h2 := inv_of_some ‹(_ : Option State) = some _› (by simp (maxDischargeDepth := 99) [h])
       simp +contextual (maxDischargeDepth := 99) [h2])

@[simp] theorem inv_postFault (s : State) (t : Nat) (f : FaultInfo) (h : Inv s = true) :
    Inv (postFault s t f) = true := by
  unfold postFault; simp [h]

@[simp] theorem inv_postAbsent (s : State) (t : Nat) (f : FaultInfo) (op : Option Nat) (w : Nat) (sp : Nat) (h : Inv s = true) :
    Inv (postAbsent s t f op w sp) = true := by
  unfold postAbsent; simp [h]

@[simp] theorem inv_setScriv (s : State) (t : Nat) (f : Scriv → Scriv) (h : Inv s = true) :
    Inv (setScriv s t f) = true := by
  unfold setScriv; simp [h]

@[simp] theorem inv_traceWrite (s : State) (t : Nat) (bs : List Byte) (h : Inv s = true) :
    Inv (traceWrite s t bs) = true := by
  unfold traceWrite; dsimp only
  (repeat' split) <;> first
    | (simp +contextual (maxDischargeDepth := 99) [h]; done)
    | (have h2 := inv_of_some ‹(_ : Option State) = some _› (by simp (maxDischargeDepth := 99) [h])
       simp +contextual (maxDischargeDepth := 99) [h2])

@[simp] theorem inv_traceSync (s : State) (t : Nat) (shop : Nat) (h : Inv s = true) :
    Inv (traceSync s t shop) = true := by
  unfold traceSync; simp [h]

@[simp] theorem inv_trace (s : State) (t : Nat) (shop : Nat) (kind : Nat) (wid : Nat) (slot : Nat) (pc : BitVec 64) (mask : Mask)
    (lotid : BitVec 32) (data : Nat) (h : Inv s = true) :
    Inv (trace s t shop kind wid slot pc mask lotid data) = true := by
  unfold trace; simp [h]

@[simp] theorem inv_traceWeave (s : State) (w : Nat) (slot : Nat) (kind : Nat) (data : Nat) (h : Inv s = true) :
    Inv (traceWeave s w slot kind data) = true := by
  unfold traceWeave; (repeat' split) <;> simp +contextual (maxDischargeDepth := 99) [h]

@[simp] theorem inv_traceBasket (s : State) (b : Nat) (what : Nat) (h : Inv s = true) :
    Inv (traceBasket s b what) = true := by
  unfold traceBasket; (repeat' split) <;> simp +contextual (maxDischargeDepth := 99) [h]

@[simp] theorem inv_count (s : State) (shop : Nat) (t : Nat) (lotid : BitVec 32) (event : Nat) (n : Nat) (h : Inv s = true) :
    Inv (count s shop t lotid event n) = true := by
  unfold count; simp [h]

@[simp] theorem inv_countW (s : State) (wv : Weave) (event : Nat) (n : Nat) (h : Inv s = true) :
    Inv (countW s wv event n) = true := by
  unfold countW; simp [h]

/-! ### Completion -/

@[simp] theorem inv_loseLines (s : State) (shop : Nat) (lost : Nat → Held → Bool) (h : Inv s = true) :
    Inv (loseLines s shop lost) = true := by
  unfold loseLines; simp [h]

@[simp] theorem inv_acquireAction (s : State) (shop : Nat) (scope : Nat) (h : Inv s = true) :
    Inv (acquireAction s shop scope) = true := by
  unfold acquireAction; simp [h]

@[simp] theorem inv_observe (s : State) (w : Nat) (m : Mask) (ms : List Msg) (h : Inv s = true) :
    Inv (observe s w m ms) = true := by
  unfold observe; (repeat' split) <;> simp +contextual (maxDischargeDepth := 99) [h]

@[simp] theorem inv_spStore (s : State) (b : Nat) (off : Nat) (bs : List Byte) (msgs : List Msg) (h : Inv s = true) :
    Inv (spStore s b off bs msgs) = true := by
  unfold spStore; simp [h]

@[simp] theorem inv_barApply (s : State) (b : Nat) (off : Nat) (r : BarReq) (ms : List Msg) (h : Inv s = true) :
    Inv (barApply s b off r ms).1 = true := by
  unfold barApply; (repeat' split) <;> simp +contextual (maxDischargeDepth := 99) [h]

@[simp] theorem inv_tobWrite (s : State) (b : Nat) (off : Nat) (bs : List Byte) (h : Inv s = true) :
    Inv (tobWrite s b off bs) = true := by
  unfold tobWrite; simp [h]

@[simp] theorem inv_finishOp (s : State) (n : Nat) (clears : Bool) (h : Inv s = true) :
    Inv (finishOp s n clears) = true := by
  unfold finishOp; (repeat' split) <;> simp +contextual (maxDischargeDepth := 99) [h]

@[simp] theorem inv_doFill (s : State) (b : Nat) (word : Nat) (v : Word) (ms : List Msg) (h : Inv s = true) :
    Inv (doFill s b word v ms) = true := by
  unfold doFill; simp [h]

@[simp] theorem inv_applyArrival (s : State) (shop : Nat) (x2 : Pending) (h : Inv s = true) :
    Inv (applyArrival s shop x2) = true := by
  unfold applyArrival; dsimp only; (repeat' split) <;> simp +contextual (maxDischargeDepth := 99) [h]

@[simp] theorem inv_applyHeld (x0 : Nat) (x1 : State) (x2 : Nat) (x3 : Nat) (x4 : Nat) (hx1 : Inv x1 = true) :
    Inv (applyHeld x0 x1 x2 x3 x4) = true := by
  induction x0 generalizing x1 x2 x3 x4 with
  | zero => first | exact hx1 | (simp_all (maxDischargeDepth := 99) [applyHeld]; done) | simpa [applyHeld] using hx1
  | succ n ih =>
    unfold applyHeld; try dsimp only
    (repeat' split) <;> simp +contextual (maxDischargeDepth := 99) [ih, hx1]

@[simp] theorem inv_barServe (s : State) (shop : Nat) (b : Nat) (off : Nat) (r : BarReq) (ms : List Msg) (h : Inv s = true) :
    Inv (barServe s shop b off r ms) = true := by
  have key : ∀ p : State × Bool, Inv p.1 = true → Inv (match p with
      | (s1, true) => applyHeld ((shopOf s1 shop).pending.length + 1) s1 shop b off
      | (s1, false) => s1) = true := by
    rintro ⟨s1, d⟩ h1
    cases d
    · exact h1
    · exact inv_applyHeld _ _ _ _ _ h1
  exact key _ (inv_barApply _ _ _ _ _ h)

@[simp] theorem inv_holdRequest (s : State) (shop : Nat) (p : Pending) (h : Inv s = true) :
    Inv (holdRequest s shop p) = true := by
  unfold holdRequest; simp [h]

@[simp] theorem inv_present (s : State) (shop : Nat) (p : Pending) (h : Inv s = true) :
    Inv (present s shop p) = true := by
  unfold present; (repeat' split) <;> simp +contextual (maxDischargeDepth := 99) [h]

@[simp] theorem inv_settleLoop (x0 : Nat) (x1 : State) (x2 : Nat) (hx1 : Inv x1 = true) :
    Inv (settleLoop x0 x1 x2) = true := by
  induction x0 generalizing x1 x2 with
  | zero => first | exact hx1 | (simp_all (maxDischargeDepth := 99) [settleLoop]; done) | simpa [settleLoop] using hx1
  | succ n ih =>
    unfold settleLoop; try dsimp only
    (repeat' split) <;> simp +contextual (maxDischargeDepth := 99) [ih, hx1]

@[simp] theorem inv_settle (s : State) (shop : Nat) (h : Inv s = true) :
    Inv (settle s shop) = true := by
  unfold settle; simp [h]

@[simp] theorem inv_toBasket (s : State) (b : Nat) (p : Pending) (h : Inv s = true) :
    Inv (toBasket s b p) = true := by
  unfold toBasket; (repeat' split) <;> simp +contextual (maxDischargeDepth := 99) [h]

@[simp] theorem inv_engineArrival (s : State) (b : Nat) (off : Nat) (msg : Option Msg) (op : Nat) (h : Inv s = true) :
    Inv (engineArrival s b off msg op) = true := by
  unfold engineArrival; simp [h]

@[simp] theorem inv_engineFill (s : State) (b : Nat) (word : Nat) (v : Word) (msg : Option Msg) (op : Nat) (h : Inv s = true) :
    Inv (engineFill s b word v msg op) = true := by
  unfold engineFill; (repeat' split) <;> simp +contextual (maxDischargeDepth := 99) [h]

@[simp] theorem inv_engineLanding (s : State) (b : Nat) (off : Nat) (n : Nat) (msg : Option Msg) (h : Inv s = true) :
    Inv (engineLanding s b off n msg) = true := by
  unfold engineLanding; (repeat' split) <;> simp +contextual (maxDischargeDepth := 99) [h]

@[simp] theorem inv_passFlag (s : State) (L : Nat) (bits : Nat) (h : Inv s = true) :
    Inv (passFlag s L bits) = true := by
  unfold passFlag; (repeat' split) <;> simp +contextual (maxDischargeDepth := 99) [h]

@[simp] theorem inv_saveBytes (s : State) (L : Nat) (pas : List Nat) (h : Inv s = true) :
    Inv (saveBytes s L pas) = true := by
  unfold saveBytes; (repeat' split) <;> simp +contextual (maxDischargeDepth := 99) [h]

@[simp] theorem inv_noteOwn (s : State) (L : Nat) (lo : Nat) (h : Inv s = true) :
    Inv (noteOwn s L lo) = true := by
  unfold noteOwn; (repeat' split) <;> simp +contextual (maxDischargeDepth := 99) [h]

@[simp] theorem inv_restorePass (s : State) (r : Nat) (h : Inv s = true) :
    Inv (restorePass s r) = true := by
  unfold restorePass; (repeat' split) <;> simp +contextual (maxDischargeDepth := 99) [h]

@[simp] theorem inv_clearPoison (s : State) (pas : List Nat) (h : Inv s = true) :
    Inv (clearPoison s pas) = true := by
  unfold clearPoison; simp [h]

@[simp] theorem inv_lotWrite (s : State) (L : Nat) (pas : List Nat) (bs : List Byte) (msgs : List Msg) (h : Inv s = true) :
    Inv (lotWrite s L pas bs msgs) = true := by
  unfold lotWrite; simp +contextual (maxDischargeDepth := 99) [h]

@[simp] theorem inv_commitWrites (s : State) (L t : Nat) (xs : List VWrite) (h : Inv s = true) :
    Inv (commitWrites s L t xs) = true := by
  induction xs generalizing s with
  | nil => exact h
  | cons x xs ih => unfold commitWrites; split <;> (apply ih; simp (maxDischargeDepth := 99) [h])

@[simp] theorem inv_closeVersion (s : State) (b : Nat) (h : Inv s = true) :
    Inv (closeVersion s b) = true := by
  unfold closeVersion; simp [h]

@[simp] theorem inv_commitBasket (s : State) (b : Nat) (counts : Bool) (h : Inv s = true) :
    Inv (commitBasket s b counts) = true := by
  unfold commitBasket; (repeat' split) <;> simp +contextual (maxDischargeDepth := 99) [h]

@[simp] theorem inv_releaseShop (s : State) (B : Basket) (h : Inv s = true) :
    Inv (releaseShop s B) = true := by
  unfold releaseShop; simp [h]

@[simp] theorem inv_removeWeave (s : State) (w : Nat) (h : Inv s = true) :
    Inv (removeWeave s w) = true := by
  unfold removeWeave; simp [h]

@[simp] theorem inv_stopWeave (s : State) (B : Basket) (versioned : Bool) (w : Nat) (h : Inv s = true) :
    Inv (stopWeave s B versioned w) = true := by
  unfold stopWeave; simp [h]

@[simp] theorem inv_cancelCommands (s : State) (ws : List Nat) (h : Inv s = true) :
    Inv (cancelCommands s ws) = true := by
  unfold cancelCommands; simp [h]

@[simp] theorem inv_dropPending (s : State) (b : Nat) (shop : Nat) (h : Inv s = true) :
    Inv (dropPending s b shop) = true := by
  unfold dropPending; simp [h]

@[simp] theorem inv_dropBasket (s : State) (b : Nat) (h : Inv s = true) :
    Inv (dropBasket s b) = true := by
  unfold dropBasket; (repeat' split) <;> simp +contextual (maxDischargeDepth := 99) [h]

@[simp] theorem inv_nowBare (s : State) (L : Nat) (h : Inv s = true) :
    Inv (nowBare s L) = true := by
  unfold nowBare; simp [h]

@[simp] theorem inv_dropGang (s : State) (g : Nat) (h : Inv s = true) :
    Inv (dropGang s g) = true := by
  unfold dropGang; (repeat' split) <;> simp +contextual (maxDischargeDepth := 99) [h]

@[simp] theorem inv_wakeCont (s : State) (op : Nat) (h : Inv s = true) :
    Inv (wakeCont s op) = true := by
  unfold wakeCont; (repeat' split) <;> simp +contextual (maxDischargeDepth := 99) [h]

@[simp] theorem inv_observeOp (s : State) (op : Nat) (msg : Option Msg) (h : Inv s = true) :
    Inv (observeOp s op msg) = true := by
  unfold observeOp; (repeat' split) <;> simp +contextual (maxDischargeDepth := 99) [h]

@[simp] theorem inv_postResult (s : State) (w : Nat) (n : Nat) (words : List Word) (msg : Option Msg) (h : Inv s = true) :
    Inv (postResult s w n words msg) = true := by
  unfold postResult; simp [h]

@[simp] theorem inv_finishEvents (s : State) (op : Nat) (f : Finish) (h : Inv s = true) :
    Inv (finishEvents s op f) = true := by
  unfold finishEvents; (repeat' split) <;> simp +contextual (maxDischargeDepth := 99) [h]

@[simp] theorem inv_lastEvents (s : State) (op : Nat) (f : Finish) (h : Inv s = true) :
    Inv (lastEvents s op f) = true := by
  unfold lastEvents; simp [h]

@[simp] theorem inv_lotEvents (s : State) (L : Nat) (l : Lot) (h : Inv s = true) :
    Inv (lotEvents s L l) = true := by
  unfold lotEvents; (repeat' split) <;> simp +contextual (maxDischargeDepth := 99) [h]

@[simp] theorem inv_lotCheck (s : State) (L : Nat) (h : Inv s = true) :
    Inv (lotCheck s L) = true := by
  unfold lotCheck; (repeat' split) <;> simp +contextual (maxDischargeDepth := 99) [h]

@[simp] theorem inv_stopLotBut (s : State) (keep : List Nat) (L : Nat) (h : Inv s = true) :
    Inv (stopLotBut s keep L) = true := by
  unfold stopLotBut; simp +contextual (maxDischargeDepth := 99) [h]

@[simp] theorem inv_stopLot (s : State) (L : Nat) (h : Inv s = true) :
    Inv (stopLot s L) = true := by
  unfold stopLot; simp +contextual (maxDischargeDepth := 99) [h]

@[simp] theorem inv_stopPass (s : State) (r : Nat) (bits : Nat) (h : Inv s = true) :
    Inv (stopPass s r bits) = true := by
  unfold stopPass; simp +contextual (maxDischargeDepth := 99) [h]

@[simp] theorem inv_endPass (s : State) (r : Nat) (h : Inv s = true) :
    Inv (endPass s r) = true := by
  unfold endPass; simp [h]

@[simp] theorem inv_haltReport (s : State) (L : Nat) (reason : Nat) (basket : Nat) (detail : List Byte) (xflags : BitVec 32)
    (h : Inv s = true) :
    Inv (haltReport s L reason basket detail xflags) = true := by
  unfold haltReport; (repeat' split) <;> simp +contextual (maxDischargeDepth := 99) [h]

@[simp] theorem inv_taskTrap (s : State) (b : Nat) (cause : Nat) (slot : Nat) (va : Nat) (kind : Nat) (h : Inv s = true) :
    Inv (taskTrap s b cause slot va kind) = true := by
  unfold taskTrap; dsimp only; (repeat' split) <;> simp +contextual (maxDischargeDepth := 99) [h]

@[simp] theorem inv_dropWalks (s : State) (t : Nat) (w : Nat) (sp : Nat) (h : Inv s = true) :
    Inv (dropWalks s t w sp) = true := by
  unfold dropWalks; simp [h]

@[simp] theorem inv_commitTry (s : State) (op : Option Nat) (wv : Weave) (w : Nat) (counts : Bool) (why : Nat) (h : Inv s = true) :
    (commitTry s op wv w counts why).inv = true := by
  unfold commitTry; dsimp only; (repeat' split) <;> simp +contextual (maxDischargeDepth := 99) [h]

@[simp] theorem inv_retireBasket (s : State) (b : Nat) (ver : List VWrite) (h : Inv s = true) :
    Inv (retireBasket s b ver) = true := by
  unfold retireBasket; dsimp only; (repeat' split) <;> simp +contextual (maxDischargeDepth := 99) [h]

@[simp] theorem inv_retireFrom (x0 : Nat) (x1 : State) (x2 : Nat) (hx1 : Inv x1 = true) :
    Inv (retireFrom x0 x1 x2) = true := by
  induction x0 generalizing x1 x2 with
  | zero => first | exact hx1 | (simp_all (maxDischargeDepth := 99) [retireFrom]; done) | simpa [retireFrom] using hx1
  | succ n ih =>
    unfold retireFrom; try dsimp only
    (repeat' split) <;> first
      | (simp +contextual (maxDischargeDepth := 99) [ih, hx1]; done)
      | (have h2 := inv_of_ok ‹_ = Try.ok _› (by simp (maxDischargeDepth := 99) [ih, hx1]); simp +contextual (maxDischargeDepth := 99) [ih, hx1, h2]; done)
      | (have h2 := inv_of_wait ‹_ = Try.wait _› (by simp (maxDischargeDepth := 99) [ih, hx1]); simp +contextual (maxDischargeDepth := 99) [ih, hx1, h2]; done)

@[simp] theorem inv_retireCheck (s : State) (w : Nat) (h : Inv s = true) :
    Inv (retireCheck s w) = true := by
  unfold retireCheck; simp [h]

@[simp] theorem inv_lotOver (s : State) (L : Nat) (h : Inv s = true) :
    Inv (lotOver s L) = true := by
  unfold lotOver; (repeat' split) <;> simp +contextual (maxDischargeDepth := 99) [h]

@[simp] theorem inv_completeOp (s : State) (n : Nat) (clears : Bool) (h : Inv s = true) :
    Inv (completeOp s n clears) = true := by
  unfold completeOp; (repeat' split) <;> simp +contextual (maxDischargeDepth := 99) [h]

@[simp] theorem inv_completeCommand (s : State) (op : Nat) (f : Finish) (h : Inv s = true) :
    Inv (completeCommand s op f) = true := by
  unfold completeCommand; (repeat' split) <;> simp +contextual (maxDischargeDepth := 99) [h]

@[simp] theorem inv_finishHeld (s : State) (op : Nat) (h : Inv s = true) :
    Inv (finishHeld s op) = true := by
  unfold finishHeld; (repeat' split) <;> simp +contextual (maxDischargeDepth := 99) [h]

/-! ### Rings -/

@[simp] theorem inv_modRing (s : State) (r : Nat) (f : Ring → Ring) (h : Inv s = true) :
    Inv (modRing s r f) = true := by
  unfold modRing; simp [h]

@[simp] theorem inv_agentWriteLines (s : State) (t : Nat) (msgs : List Msg) (va : Nat) (bs : List Byte) (x5 : Nat)
    (h : Inv s = true) :
    Inv (agentWriteLines s t msgs va bs x5) = true := by
  induction x5 generalizing s t msgs va bs with
  | zero => first | exact h | (simp_all (maxDischargeDepth := 99) [agentWriteLines]; done) | simpa [agentWriteLines] using h
  | succ n ih =>
    unfold agentWriteLines; try dsimp only
    (repeat' split) <;> simp +contextual (maxDischargeDepth := 99) [ih, h]

@[simp] theorem inv_ringWrite (s : State) (R : Ring) (va : Nat) (bs : List Byte) (msgs : List Msg) (h : Inv s = true) :
    Inv (ringWrite s R va bs msgs) = true := by
  unfold ringWrite; simp [h]

@[simp] theorem inv_portWrite (s : State) (d : Nat) (R : Ring) (va : Nat) (bs : List Byte) (msgs : List Msg) (h : Inv s = true) :
    Inv (portWrite s d R va bs msgs) = true := by
  unfold portWrite; simp [h]

@[simp] theorem inv_ringPop (s : State) (w : Nat) (m : Mask) (r : Nat) (nw : Bool) (h : Inv s = true) :
    (ringPop s w m r nw).all (fun p => Inv p.1) = true := by
  unfold ringPop; dsimp only; (repeat' split) <;> simp +contextual (maxDischargeDepth := 99) [h]

/-! ### Ops -/

@[simp] theorem inv_noteOver (s : State) (w : Nat) (keys : List Nat) (h : Inv s = true) :
    Inv (noteOver s w keys) = true := by
  unfold noteOver; simp [h]

@[simp] theorem inv_writeWords (s : State) (w : Nat) (ws : Tab Word) (h : Inv s = true) :
    Inv (writeWords s w ws) = true := by
  unfold writeWords; simp [h]

@[simp] theorem inv_newOp (s : State) (c : Ctx) (kind : OpKind) (dests : List Nat) (ann : Nat) (scope : Nat) (h : Inv s = true) :
    Inv (newOp s c kind dests ann scope) = true := by
  unfold newOp; simp [h]

@[simp] theorem inv_pushEntry (s : State) (c : Ctx) (n : Nat) (dests : List Nat) (e : Entry) (h : Inv s = true) :
    Inv (pushEntry s c n dests e) = true := by
  unfold pushEntry; simp [h]

@[simp] theorem inv_writeDst (s : State) (c : Ctx) (r : Nat) (n : Nat) (f : Nat → Nat) (h : Inv s = true) :
    Inv (writeDst s c r n f) = true := by
  unfold writeDst; simp [h]

@[simp] theorem inv_freeHeld (s : State) (w : Nat) (n : Nat) (h : Inv s = true) :
    Inv (freeHeld s w n) = true := by
  unfold freeHeld; dsimp only; (repeat' split) <;> simp +contextual (maxDischargeDepth := 99) [h]

@[simp] theorem inv_popAll (s : State) (c : Ctx) (ns : List Nat) (h : Inv s = true) :
    (popAll s c ns).all (fun p => Inv p.1) = true := by
  induction ns generalizing s c with
  | nil => simpa [popAll] using h
  | cons n ns ih =>
    unfold popAll
    dsimp only
    split
    · exact ih s c h
    · split
      · split
        · rfl
        · apply ih
          refine inv_of_some_fst ‹_ = some (_, _)› ?_
          split
          · exact inv_ringPop _ _ _ _ _ h
          · exact h
      · split
        · rfl
        · split
          · rfl
          · exact ih _ _ (inv_freeHeld _ _ _ (inv_observe _ _ _ _ (inv_setWeave _ _ _ h)))

@[simp] theorem inv_reconverge (s : State) (w : Nat) (m : Mask) (h : Inv s = true) :
    Inv (reconverge s w m) = true := by
  unfold reconverge; (repeat' split) <;> simp +contextual (maxDischargeDepth := 99) [h]

@[simp] theorem inv_popEntries (fuel : Nat) (s : State) (w : Nat) (h : Inv s = true) :
    Inv (popEntries fuel s w) = true := by
  induction fuel generalizing s w with
  | zero => first | exact h | (simp_all (maxDischargeDepth := 99) [popEntries]; done) | simpa [popEntries] using h
  | succ n ih =>
    unfold popEntries; try dsimp only
    (repeat' split) <;> simp +contextual (maxDischargeDepth := 99) [ih, h]

@[simp] theorem inv_settleJoins (s : State) (w : Nat) (h : Inv s = true) :
    Inv (settleJoins s w) = true := by
  unfold settleJoins; (repeat' split) <;> simp +contextual (maxDischargeDepth := 99) [h]

@[simp] theorem inv_modSplit (s : State) (w : Nat) (slot : Nat) (f : Split → Split) (h : Inv s = true) :
    Inv (modSplit s w slot f) = true := by
  unfold modSplit; simp [h]

@[simp] theorem inv_fuse (fuel : Nat) (s : State) (w : Nat) (slot : Nat) (h : Inv s = true) :
    Inv (fuse fuel s w slot) = true := by
  induction fuel generalizing s w slot with
  | zero => first | exact h | (simp_all (maxDischargeDepth := 99) [fuse]; done) | simpa [fuse] using h
  | succ n ih =>
    unfold fuse; try dsimp only
    (repeat' split) <;> simp +contextual (maxDischargeDepth := 99) [ih, h]

@[simp] theorem inv_boundary (s : State) (w : Nat) (slot : Nat) (pc : DWord) (needP : Bool) (h : Inv s = true) :
    Inv (boundary s w slot pc needP) = true := by
  unfold boundary; (repeat' split) <;> simp +contextual (maxDischargeDepth := 99) [h]

@[simp] theorem inv_deliver (s : State) (w : Nat) (slot : Nat) (x : TrapAt) (t : Trap) (h : Inv s = true) :
    Inv (deliver s w slot x t) = true := by
  unfold deliver; (repeat' split) <;> simp +contextual (maxDischargeDepth := 99) [h]

@[simp] theorem inv_deliverLate (s : State) (w : Nat) (h : Inv s = true) :
    Inv (deliverLate s w) = true := by
  unfold deliverLate; (repeat' split) <;> simp +contextual (maxDischargeDepth := 99) [h]

@[simp] theorem inv_raise (s : State) (c : Ctx) (t : Trap) (h : Inv s = true) :
    Inv (raise s c t) = true := by
  unfold raise; simp [h]

@[simp] theorem inv_holdAt (s : State) (c : Ctx) (regs : List (Nat × Nat)) (dests : List (Nat × Nat)) (stall : Stall) (wait : Wait)
    (extra : Tab Word) (h : Inv s = true) :
    Inv (holdAt s c regs dests stall wait extra) = true := by
  unfold holdAt; (repeat' split) <;> simp +contextual (maxDischargeDepth := 99) [h]

@[simp] theorem inv_advance (s : State) (c : Ctx) (waits : Bool) (h : Inv s = true) :
    Inv (advance s c waits) = true := by
  unfold advance; simp [h]

@[simp] theorem inv_transfer (s : State) (c : Ctx) (pc : DWord) (needP : Bool) (h : Inv s = true) :
    Inv (transfer s c pc needP) = true := by
  unfold transfer; simp [h]

@[simp] theorem inv_finish (s0 : State) (c : Ctx) (regs : List (Nat × Nat)) (dests : List (Nat × Nat)) (waits : Bool) (e : Effect)
    (hs0 : Inv s0 = true) (he : e.inv = true) :
    Inv (finish s0 c regs dests waits e) = true := by
  cases e <;> simp_all [finish]

@[simp] theorem inv_mapReg (s : State) (w : Nat) (keep : List Nat) (r : Nat) (h : Inv s = true) :
    (mapReg s w keep r).all Inv = true := by
  unfold mapReg; (repeat' split) <;> simp +contextual (maxDischargeDepth := 99) [h]

@[simp] theorem inv_mapRegs (s : State) (w : Nat) (keep : List Nat) (x3 : List Nat) (h : Inv s = true) :
    (mapRegs s w keep x3).all Inv = true := by
  induction x3 generalizing s w keep with
  | nil => first | exact h | (simp_all (maxDischargeDepth := 99) [mapRegs]; done) | simpa [mapRegs] using h
  | cons a as ih =>
    unfold mapRegs; try dsimp only
    (repeat' split) <;> first
      | (simp +contextual (maxDischargeDepth := 99) [ih, h]; done)
      | (have h2 := inv_of_some ‹(_ : Option State) = some _› (by simp (maxDischargeDepth := 99) [ih, h]); simp +contextual (maxDischargeDepth := 99) [ih, h, h2]; done)

@[simp] theorem inv_renameRegs (s : State) (c : Ctx) (srcs : List Nat) (dsts : List Nat) (h : Inv s = true) :
    (renameRegs s c srcs dsts).inv = true := by
  unfold renameRegs; dsimp only
  (repeat' split) <;> first
    | (simp +contextual (maxDischargeDepth := 99) [h]; done)
    | (have h2 := inv_of_some ‹(_ : Option State) = some _› (by simp (maxDischargeDepth := 99) [h])
       simp +contextual (maxDischargeDepth := 99) [h2])

@[simp] theorem inv_counted (s : State) (c : Ctx) (h : Inv s = true) :
    Inv (counted s c) = true := by
  unfold counted; (repeat' split) <;> simp +contextual (maxDischargeDepth := 99) [h]

@[simp] theorem inv_latch (s : State) (c : Ctx) (regs : List (Nat × Nat)) (h : Inv s = true) :
    Inv (latch s c regs) = true := by
  unfold latch; simp [h]

/-! ### Operands -/

@[simp] theorem inv_issueRow (s : State) (pn : BitVec 1) (pred : BitVec 3) (form : Form) (body : State → Ctx → Effect)
    (hbody : ∀ s c, Inv s = true → (body s c).inv = true) (h : Inv s = true) : outInv (issueRow s pn pred form body) = true := by
  unfold issueRow
  split
  · rfl
  · rename_i c _
    split
    · exact h
    · split
      · simp (maxDischargeDepth := 99) [h]
      · have hn := inv_renameRegs s c (if c.held.isSome then [] else vregsOf form.reads) (vregsOf form.writes) h
        split
        · rename_i s1 e
          rw [e] at hn
          exact inv_finish _ _ _ _ _ _ h hn
        · rename_i s0 e
          rw [e] at hn
          have hl := inv_latch s0 c form.sources hn
          dsimp only
          split
          · simp (maxDischargeDepth := 99) [hl]
          · rename_i s2 c2 hq
            have h2 := inv_of_some_fst hq (inv_popAll _ c form.pops hl)
            have hb := hbody s2 c2 h2
            split
            · simp (maxDischargeDepth := 99) [hl]
            · split
              · rename_i e
                rw [e] at hb
                exact inv_finish _ _ _ _ _ _ h hb
              · exact inv_counted _ _ (inv_finish _ _ _ _ _ _ h hb)

@[simp] theorem inv_writePredicate (s : State) (c : Ctx) (d : Nat) (x : Mask) (h : Inv s = true) :
    Inv (writePredicate s c d x) = true := by
  unfold writePredicate; simp [h]

/-! ### Flags -/

@[simp] theorem inv_raiseFlags (s : State) (c : Ctx) (fl : Nat → Nat) (h : Inv s = true) :
    (raiseFlags s c fl).inv = true := by
  unfold raiseFlags; simp [h]

@[simp] theorem inv_perStrand (s : State) (c : Ctx) (r : Nat) (n : Nat) (f : Nat → FRes) (h : Inv s = true) :
    (perStrand s c r n f).inv = true := by
  unfold perStrand; simp [h]

/-! ### Bench -/

@[simp] theorem inv_withRefill (s : State) (c : Ctx) (before : List JoinItem) (s1 : State) (e : State → Effect) (h : Inv s = true)
    (hs1 : Inv s1 = true) (he : ∀ s, Inv s = true → (e s).inv = true) :
    (withRefill s c before s1 e).inv = true := by
  unfold withRefill; (repeat' split) <;> simp +contextual (maxDischargeDepth := 99) [h, hs1, he]

@[simp] theorem inv_taken6 (s : State) (c : Ctx) (h : Inv s = true) :
    Inv (taken6 s c) = true := by
  unfold taken6; simp [h]

@[simp] theorem inv_endHandler (s : State) (c : Ctx) (target : DWord) (h : Inv s = true) :
    Inv (endHandler s c target) = true := by
  unfold endHandler; simp [h]

@[simp] theorem inv_indirect (f : RRR) (s : State) (h : Inv s = true) :
    outInv (indirect f s) = true := by
  unfold indirect; simp +contextual (maxDischargeDepth := 99) [h]

/-! ### Scalar -/

@[simp] theorem inv_scaRRR (f : RRR) (h1 : ScaShape) (g : Bool → Nat → Nat → Nat → Nat → Nat) (s : State) (h : Inv s = true) :
    outInv (scaRRR f h1 g s) = true := by
  unfold scaRRR; simp +contextual (maxDischargeDepth := 99) [h]

@[simp] theorem inv_scaRI (f : RI) (usesA : Bool) (g : Bool → Nat → Nat → Nat) (s : State) (h : Inv s = true) :
    outInv (scaRI f usesA g s) = true := by
  unfold scaRI; simp +contextual (maxDischargeDepth := 99) [h]

/-! ### Spindle -/

@[simp] theorem inv_vecRRR (f : RRR) (h1 : VShape) (opxOk : Bool) (op : Nat → Nat → Nat → Nat → Nat → FRes) (s : State)
    (h : Inv s = true) :
    outInv (vecRRR f h1 opxOk op s) = true := by
  unfold vecRRR; simp +contextual (maxDischargeDepth := 99) [h]

@[simp] theorem inv_vecRI (f : RI) (usesA : Bool) (floats : Bool) (op : Nat → Nat → Nat → FRes) (s : State) (h : Inv s = true) :
    outInv (vecRI f usesA floats op s) = true := by
  unfold vecRI; simp +contextual (maxDischargeDepth := 99) [h]

@[simp] theorem inv_writeCompare (s : State) (c : Ctx) (x : Nat) (r : Nat → Bool × Nat) (h : Inv s = true) :
    (writeCompare s c x r).inv = true := by
  unfold writeCompare; simp [h]

@[simp] theorem inv_dotRow (f : RRR) (n : Nat) (pairs : Nat → Nat → Bool) (s : State) (h : Inv s = true) :
    outInv (dotRow f n pairs s) = true := by
  unfold dotRow; simp +contextual (maxDischargeDepth := 99) [h]

/-! ### Assay -/

@[simp] theorem inv_fnRow (g : Fn) (types : List Nat) (f : RRR) (s : State) (h : Inv s = true) :
    outInv (fnRow g types f s) = true := by
  unfold fnRow; simp [h]

@[simp] theorem inv_perStrandSR (s : State) (c : Ctx) (r : Nat) (n : Nat) (g : Nat → Nat → FRes × Nat) (h : Inv s = true) :
    (perStrandSR s c r n g).inv = true := by
  unfold perStrandSR; simp [h]

end Sys2Proof.Machine
end

