-- ==== Sys2Proof/Laws/InvariantUnits.lean ====
section
/-!
SUPPORT. What keeps the invariant of the device, one lemma for each shared operation:
the operations of the units: accesses of memory, the Porter, the Stockroom, the Clerks, the Dray, the Gleaner, the Loom, the Courier.
-/

namespace Sys2Proof.Machine

open Sys2Proof

/-! ### Access -/

@[simp] theorem inv_postWalks (s : State) (c : Ctx) (kind : Kind) (cs : List Chk) (h : Inv s = true) :
    Inv (postWalks s c kind cs) = true := by
  unfold postWalks
  refine inv_foldl _ (fun s x h => ?_) _ _ (by simp (maxDischargeDepth := 99) [h])
  dsimp only
  (repeat' split) <;> simp +contextual (maxDischargeDepth := 99) [h]

@[simp] theorem inv_postLost (s : State) (c : Ctx) (cs : List Chk) (h : Inv s = true) :
    Inv (postLost s c cs) = true := by
  unfold postLost; simp +contextual (maxDischargeDepth := 99) [h]

@[simp] theorem inv_resolve (s : State) (c : Ctx) (kind : Kind) (cs : List Chk) (h : Inv s = true) :
    (resolve s c kind cs).inv = true := by
  unfold resolve; dsimp only; (repeat' split) <;> simp +contextual (maxDischargeDepth := 99) [h]

@[simp] theorem inv_cachePages (s : State) (t : Nat) (vas : List Nat) (h : Inv s = true) :
    Inv (cachePages s t vas) = true := by
  unfold cachePages; simp +contextual (maxDischargeDepth := 99) [h]

@[simp] theorem inv_commitFor (s : State) (n : Nat) (wv : Weave) (counts : Bool) (h : Inv s = true) :
    (commitFor s n wv counts).inv = true := by
  unfold commitFor; simp [h]

@[simp] theorem inv_joinVersion (s : State) (n : Nat) (wv : Weave) (x : VWrite) (h : Inv s = true) :
    (joinVersion s n wv x).inv = true := by
  unfold joinVersion; dsimp only
  (repeat' split) <;> first
    | (simp +contextual (maxDischargeDepth := 99) [h]; done)
    | (have h2 := inv_of_ok ‹_ = Try.ok _› (by simp (maxDischargeDepth := 99) [h])
       simp +contextual (maxDischargeDepth := 99) [h2])
    | (have h2 := inv_of_wait ‹_ = Try.wait _› (by simp (maxDischargeDepth := 99) [h])
       simp +contextual (maxDischargeDepth := 99) [h2])

@[simp] theorem inv_postLane (s : State) (n : Nat) (o : Op) (wv : Weave) (engine : Nat) (sl : Nat) (va : Nat) (pa : Nat)
    (lanes : Mask) (h : Inv s = true) :
    Inv (postLane s n o wv engine sl va pa lanes) = true := by
  unfold postLane; simp [h]

@[simp] theorem inv_eachLane {α : Type} (n : Nat) (o : Op) (wv : Weave) (bytes : α → Nat × List Nat × List Nat × Nat)
    (go : Run → α → Run × Bool) (r : Run) (kept ls : List α) (hgo : ∀ r a, Inv r.s = true → Inv (go r a).1.s = true)
    (h : Inv r.s = true) : Inv (eachLane n o wv bytes go r kept ls).1.s = true := by
  induction ls generalizing r kept with
  | nil => exact h
  | cons a ls ih =>
    unfold eachLane
    dsimp only
    (repeat' split) <;> first
      | (apply ih; simp [h]; done)
      | (apply ih; exact inv_of_run ‹go _ _ = (_, _)› (hgo _ a (by exact h)))
      | (apply ih; exact inv_askLines _ _ _ (inv_of_run ‹go _ _ = (_, _)› (hgo _ a (by exact h))))

@[simp] theorem inv_runRead (r : Run) (wv : Weave) (v : View) (whole : Bool) (salt : Nat) (pas : List Nat) (hr : Inv r.s = true) :
    Inv (runRead r wv v whole salt pas).1.s = true := by
  unfold runRead; (repeat' split) <;> simp +contextual (maxDischargeDepth := 99) [hr]

@[simp] theorem inv_joinPart (n : Nat) (wv : Weave) (msgs : List Msg) (t : Try × View) (p : List Nat × Nat × List Byte)
    (h : t.1.inv = true) : (joinPart n wv msgs t p).1.inv = true := by
  obtain ⟨t, v⟩ := t
  unfold joinPart
  cases t with
  | wait s => exact h
  | ok s =>
    have hj := inv_joinVersion s n wv { pa := p.1.headD 0, slot := p.2.1, data := p.2.2, msgs := msgs } h
    dsimp only
    split
    · exact inv_of_wait ‹_ = Try.wait _› hj
    · exact inv_of_ok ‹_ = Try.ok _› hj

@[simp] theorem inv_runWrite (r : Run) (n : Nat) (o : Op) (wv : Weave) (pas slots : List Nat) (bs : List Byte) (msgs : List Msg)
    (hr : Inv r.s = true) : Inv (runWrite r n o wv pas slots bs msgs).1.s = true := by
  unfold runWrite
  split
  · dsimp only
    have key := fun parts => foldl_keeps (fun t : Try × View => t.1.inv = true) (joinPart n wv msgs)
      (fun t p ht => inv_joinPart n wv msgs t p ht) parts (.ok r.s, r.view) hr
    split
    · have e := ‹_ = (Try.ok _, _)›
      have hk := key (if oneLine pas && o.whole then [(pas, slots.headD 0, bs)]
        else (pas.zip (slots.zip bs)).map (fun x => ([x.1], x.2.1, [x.2.2])))
      rw [e] at hk
      exact hk
    · have e := ‹_ = (Try.wait _, _)›
      have hk := key (if oneLine pas && o.whole then [(pas, slots.headD 0, bs)]
        else (pas.zip (slots.zip bs)).map (fun x => ([x.1], x.2.1, [x.2.2])))
      rw [e] at hk
      exact hk
  · split <;> first
      | (simp [hr]; done)
      | exact inv_foldl _ (fun s p h => inv_lotWrite _ _ _ _ _ h) _ _ hr

@[simp] theorem inv_unresolved (s : State) (n : Nat) (o : Op) (wv : Weave) (engine : Nat) (ls : List Lost) (h : Inv s = true) :
    Inv (unresolved s n o wv engine ls) = true := by
  unfold unresolved
  refine inv_foldl _ (fun s x h => ?_) _ _ (by simp (maxDischargeDepth := 99) [h])
  dsimp only
  (repeat' split) <;> simp +contextual (maxDischargeDepth := 99) [h]

@[simp] theorem inv_settleRun (r : Run) (n : Nat) (o : Op) (wv : Weave) (kind : OpKind) (engine : Nat) (va : Nat)
    (hr : Inv r.s = true) :
    Inv (settleRun r n o wv kind engine va) = true := by
  unfold settleRun; simp +contextual (maxDischargeDepth := 99) [hr]

@[simp] theorem inv_performLoad (s : State) (n : Nat) (o : Op) (wv : Weave) (lanes : List Lane) (value : Lane → Nat → Tab Word)
    (monitors : Bool) (rebuild : List Lane → OpKind) (h : Inv s = true) :
    Inv (performLoad s n o wv lanes value monitors rebuild) = true := by
  unfold performLoad
  dsimp only
  apply inv_settleRun
  refine inv_eachLane _ _ _ _ _ _ _ _ (fun r l hr => ?_) h
  dsimp only
  split <;> simp [hr]

@[simp] theorem inv_performStore (s : State) (n : Nat) (o : Op) (wv : Weave) (lanes : List Lane) (data : State → Lane → List Byte)
    (rebuild : List Lane → OpKind) (h : Inv s = true) :
    Inv (performStore s n o wv lanes data rebuild) = true := by
  unfold performStore
  dsimp only
  have ht : (if o.releases && versioned s wv && o.bound.isNone then commitFor s n wv true else .ok s : Try).inv = true := by
    split
    · exact inv_commitFor _ _ _ _ h
    · exact h
  split
  · exact inv_of_wait ‹_ = Try.wait _› ht
  · have h1 := inv_of_ok ‹_ = Try.ok _› ht
    split
    · exact h1
    · apply inv_settleRun
      exact inv_eachLane _ _ _ _ _ _ _ _ (fun r l hr => inv_runWrite _ _ _ _ _ _ _ _ hr) h1

/-! ### Porter -/

@[simp] theorem inv_onChecked (s : State) (c : Ctx) (kind : Kind) (cs : List Chk) (go : State → Effect) (h : Inv s = true)
    (hgo : ∀ s, Inv s = true → (go s).inv = true) :
    (onChecked s c kind cs go).inv = true := by
  unfold onChecked
  have hr := inv_resolve s c kind cs h
  split <;> simp_all

@[simp] theorem inv_countLines (s : State) (wv : Weave) (store : Bool) (pas : List Nat) (h : Inv s = true) :
    Inv (countLines s wv store pas) = true := by
  unfold countLines; simp [h]

@[simp] theorem inv_startMem (s : State) (c : Ctx) (f : MemF) (kind : OpKind) (dests : List Nat) (store : Bool) (ks : List Nat)
    (h : Inv s = true) :
    (startMem s c f kind dests store ks).inv = true := by
  unfold startMem; simp +contextual (maxDischargeDepth := 99) [h]

@[simp] theorem inv_loadRow (f : MemF) (r : MemRow) (aligned : Bool) (s : State) (h : Inv s = true) :
    outInv (loadRow f r aligned s) = true := by
  unfold loadRow; simp +contextual (maxDischargeDepth := 99) [h]

@[simp] theorem inv_storeRow (f : MemF) (r : MemRow) (aligned : Bool) (s : State) (h : Inv s = true) :
    outInv (storeRow f r aligned s) = true := by
  unfold storeRow; simp +contextual (maxDischargeDepth := 99) [h]

@[simp] theorem inv_noteNF (s : State) (c : Ctx) (cs : List Chk) (h : Inv s = true) :
    Inv (noteNF s c cs) = true := by
  unfold noteNF
  refine inv_foldl _ (fun s x h => ?_) _ _ (by simp (maxDischargeDepth := 99) [h])
  dsimp only
  (repeat' split) <;> simp +contextual (maxDischargeDepth := 99) [h]

@[simp] theorem inv_postLoadNF (s : State) (n : Nat) (o : Op) (wv : Weave) (lost : List (Lane × Nat × Nat)) (h : Inv s = true) :
    Inv (postLoadNF s n o wv lost) = true := by
  unfold postLoadNF
  refine inv_foldl _ (fun s x h => ?_) _ _ (by simp (maxDischargeDepth := 99) [h])
  dsimp only
  (repeat' split) <;> simp +contextual (maxDischargeDepth := 99) [h]

@[simp] theorem inv_performLoadNF (s : State) (n : Nat) (o : Op) (wv : Weave) (size : Nat) (dst : Dest) (pn : Nat) (lanes : List Lane)
    (bad : Mask) (line : Option Nat) (h : Inv s = true) :
    Inv (performLoadNF s n o wv size dst pn lanes bad line) = true := by
  unfold performLoadNF
  apply inv_performLoad
  refine inv_foldl _ (fun s l h => ?_) _ _ h
  split <;> simp [h]

@[simp] theorem inv_performLoadFmt (s : State) (n : Nat) (o : Op) (wv : Weave) (d : Nat) (dst : Dest) (rows : List (List Elem))
    (h : Inv s = true) :
    Inv (performLoadFmt s n o wv d dst rows) = true := by
  unfold performLoadFmt
  dsimp only
  apply inv_settleRun
  refine inv_eachLane _ _ _ _ _ _ _ _ (fun r row hr => ?_) h
  cases row with
  | nil => exact hr
  | cons e tail =>
    refine foldl_keeps (fun a : Run × Nat × Nat => Inv a.1.s = true) _ (fun a e ha => ?_) _ _ hr
    dsimp only
    split <;> simp [ha]

@[simp] theorem inv_tobLane (n : Nat) (wv : Weave) (v : View) (ready : Bool) (r : Run) (l : Lane) (h : Inv r.s = true) :
    Inv (tobLane n wv v ready r l).1.s = true := by
  unfold tobLane
  cases ready
  · exact h
  · exact inv_tobWrite _ _ _ _ (inv_runRead _ _ _ _ _ _ h)

@[simp] theorem inv_performTob (s : State) (n : Nat) (o : Op) (wv : Weave) (lanes : List Lane) (rebuild : List Lane → OpKind)
    (h : Inv s = true) : Inv (performTob s n o wv lanes rebuild) = true := by
  unfold performTob
  dsimp only
  split
  · exact inv_observeOp _ _ _ (inv_settleRun _ _ _ _ _ _ _ (inv_eachLane _ _ _ _ _ _ _ _ (fun r l hr => inv_tobLane _ _ _ _ r l hr) h))
  · exact inv_settleRun _ _ _ _ _ _ _ (inv_eachLane _ _ _ _ _ _ _ _ (fun r l hr => inv_tobLane _ _ _ _ r l hr) h)

@[simp] theorem inv_flushBytes (s : State) (pas : List Nat) (h : Inv s = true) :
    Inv (flushBytes s pas) = true := by
  unfold flushBytes
  refine inv_foldl _ (fun s pa h => ?_) _ _ h
  split
  · exact inv_of_memory h (flush_wf [(pa, _)] (fun p => decide (p.1 ≠ pa)) (inv_parts h).1) rfl rfl rfl rfl
  · exact h

@[simp] theorem inv_wblLane (r : Run) (l : Lane) (h : Inv r.s = true) : Inv (wblLane r l).1.s = true := by
  unfold wblLane
  dsimp only
  apply inv_flushBytes
  exact h

@[simp] theorem inv_performWbl (s : State) (n : Nat) (o : Op) (wv : Weave) (lanes : List Lane) (h : Inv s = true) :
    Inv (performWbl s n o wv lanes) = true := by
  unfold performWbl
  dsimp only
  split
  · exact inv_passFlag _ _ _ h
  · apply inv_settleRun
    exact inv_eachLane _ _ _ _ _ _ _ _ (fun r l hr => inv_wblLane r l hr) h

@[simp] theorem inv_performFence (s : State) (n : Nat) (o : Op) (wv : Weave) (h : Inv s = true) :
    Inv (performFence s n o wv) = true := by
  unfold performFence; dsimp only
  (repeat' split) <;> first
    | (simp +contextual (maxDischargeDepth := 99) [h]; done)
    | (have h2 := inv_of_ok ‹_ = Try.ok _› (by simp (maxDischargeDepth := 99) [h])
       simp +contextual (maxDischargeDepth := 99) [h2])
    | (have h2 := inv_of_wait ‹_ = Try.wait _› (by simp (maxDischargeDepth := 99) [h])
       simp +contextual (maxDischargeDepth := 99) [h2])

@[simp] theorem inv_finishLoadNF (s : State) (n : Nat) (o : Op) (size : Nat) (dst : Dest) (pn : Nat) (bad : Mask) (line : Option Nat)
    (h : Inv s = true) :
    Inv (finishLoadNF s n o size dst pn bad line) = true := by
  unfold finishLoadNF; simp [h]

/-! ### Stockroom -/

@[simp] theorem inv_countSpad (s : State) (c : Ctx) (n : Nat) (h : Inv s = true) :
    Inv (countSpad s c n) = true := by
  unfold countSpad; simp [h]

@[simp] theorem inv_spadAtomic (f : RRR) (kind : AtomKind) (sc : Nat → Opnd) (ok : Bool) (s : State) (h : Inv s = true) :
    outInv (spadAtomic f kind sc ok s) = true := by
  unfold spadAtomic
  refine inv_issueRow _ _ _ _ _ (fun s c h => ?_) h
  dsimp only
  (repeat' split) <;> simp (maxDischargeDepth := 99) [h]

@[simp] theorem inv_feRow (f : MemF) (ds : Opnd) (kind : List Lane → OpKind) (ann : Nat)
    (act : State → Ctx → Basket → List Nat → State) (s : State) (hact : ∀ s c B xs, Inv s = true → Inv (act s c B xs) = true)
    (h : Inv s = true) :
    outInv (feRow f ds kind ann act s) = true := by
  unfold feRow
  refine inv_issueRow _ _ _ _ _ (fun s c h => ?_) h
  dsimp only
  (repeat' split) <;> simp (maxDischargeDepth := 99) [h, hact]

@[simp] theorem inv_feTake (f : MemF) (s : State) (c : Ctx) (B : Basket) (ws : List Nat) (h : Inv s = true) :
    Inv (feTake f s c B ws) = true := by
  unfold feTake; simp +contextual (maxDischargeDepth := 99) [h]

@[simp] theorem inv_barRow (f : MemF) (ds : Opnd) (mxOk : Bool) (req : State → Ctx → BarReq) (dest : Bool) (s : State)
    (h : Inv s = true) :
    outInv (barRow f ds mxOk req dest s) = true := by
  unfold barRow
  refine inv_issueRow _ _ _ _ _ (fun s c h => ?_) h
  dsimp only
  (repeat' split) <;> simp (maxDischargeDepth := 99) [h]

@[simp] theorem inv_wakePhase (s : State) (B : Basket) (waiters : BitVec 128) (ms : List Msg) (h : Inv s = true) :
    Inv (wakePhase s B waiters ms) = true := by
  unfold wakePhase
  refine inv_foldl _ (fun s x h => ?_) _ _ (by simp (maxDischargeDepth := 99) [h])
  (repeat' split) <;> simp +contextual (maxDischargeDepth := 99) [h]

@[simp] theorem inv_endPhase (s : State) (b : Nat) (n : Nat) (nb : NamedBar) (h : Inv s = true) :
    Inv (endPhase s b n nb) = true := by
  unfold endPhase; (repeat' split) <;> simp +contextual (maxDischargeDepth := 99) [h]

@[simp] theorem inv_nbArrive (s : State) (b : Nat) (n : Nat) (k : Nat) (m : Msg) (h : Inv s = true) :
    Inv (nbArrive s b n k m).1 = true := by
  unfold nbArrive; dsimp only; (repeat' split) <;> simp +contextual (maxDischargeDepth := 99) [h]

@[simp] theorem inv_imageRow (f : RRR) (kind : Nat → OpKind) (s : State) (h : Inv s = true) :
    outInv (imageRow f kind s) = true := by
  unfold imageRow
  refine inv_issueRow _ _ _ _ _ (fun s c h => ?_) h
  dsimp only
  (repeat' split) <;> simp (maxDischargeDepth := 99) [h]

@[simp] theorem inv_performSpLoad (s : State) (n : Nat) (o : Op) (wv : Weave) (size : Nat) (sx : Bool) (dst : Dest)
    (lanes : List Lane) (h : Inv s = true) :
    Inv (performSpLoad s n o wv size sx dst lanes) = true := by
  unfold performSpLoad; simp +contextual (maxDischargeDepth := 99) [h]

@[simp] theorem inv_performSpStore (s : State) (n : Nat) (o : Op) (wv : Weave) (size : Nat) (lanes : List Lane) (h : Inv s = true) :
    Inv (performSpStore s n o wv size lanes) = true := by
  unfold performSpStore; simp +contextual (maxDischargeDepth := 99) [h]

@[simp] theorem inv_spAtomicLane (o : Op) (wv : Weave) (kind : AtomKind) (t : Nat) (dst : Dest) (ms : List Msg) (r : Run)
    (l : AtomLane)
    (h : Inv r.s = true) : Inv (spAtomicLane o wv kind t dst ms r l).s = true := by
  unfold spAtomicLane
  dsimp only
  split
  · exact inv_spStore _ _ _ _ _ h
  · exact h

@[simp] theorem inv_performSpAtomic (s : State) (n : Nat) (o : Op) (wv : Weave) (kind : AtomKind) (t : Nat) (dst : Dest)
    (lanes : List AtomLane) (h : Inv s = true) : Inv (performSpAtomic s n o wv kind t dst lanes) = true := by
  unfold performSpAtomic
  exact inv_settleRun _ _ _ _ _ _ _ (inv_foldl_run _ (fun r l hr => inv_spAtomicLane _ _ _ _ _ _ r l hr) _ _ h)

@[simp] theorem inv_performReset (s : State) (n : Nat) (wv : Weave) (full : Bool) (words : List Nat) (h : Inv s = true) :
    Inv (performReset s n wv full words) = true := by
  unfold performReset; simp [h]

@[simp] theorem inv_performBarrier (s : State) (n : Nat) (o : Op) (wv : Weave) (off : Nat) (req : BarReq) (h : Inv s = true) :
    Inv (performBarrier s n o wv off req) = true := by
  unfold performBarrier; (repeat' split) <;> simp +contextual (maxDischargeDepth := 99) [h]

@[simp] theorem inv_nbLoad (s : State) (b : Nat) (n : Nat) (img : List Byte) (h : Inv s = true) :
    Inv (nbLoad s b n img) = true := by
  unfold nbLoad; (repeat' split) <;> simp +contextual (maxDischargeDepth := 99) [h]

@[simp] theorem inv_performBsave (s : State) (n : Nat) (o : Op) (wv : Weave) (off : Nat) (h : Inv s = true) :
    Inv (performBsave s n o wv off) = true := by
  unfold performBsave; (repeat' split) <;> simp +contextual (maxDischargeDepth := 99) [h]

@[simp] theorem inv_performBrestore (s : State) (n : Nat) (o : Op) (wv : Weave) (off : Nat) (h : Inv s = true) :
    Inv (performBrestore s n o wv off) = true := by
  unfold performBrestore; (repeat' split) <;> simp +contextual (maxDischargeDepth := 99) [h]

/-! ### Clerk -/

@[simp] theorem inv_settleHomes (s : State) (h : Inv s = true) :
    Inv (settleHomes s) = true := by
  unfold settleHomes; (repeat' split) <;> simp +contextual (maxDischargeDepth := 99) [h]

@[simp] theorem inv_sendRequests (s : State) (wv : Weave) (r : ClerkReq) (lanes : List AtomLane) (h : Inv s = true) :
    Inv (sendRequests s wv r lanes) = true := by
  unfold sendRequests; simp +contextual (maxDischargeDepth := 99) [h]

@[simp] theorem inv_atomRow (f : RRR) (r : AtomRow) (s : State) (h : Inv s = true) :
    outInv (atomRow f r s) = true := by
  unfold atomRow; simp +contextual (maxDischargeDepth := 99) [h]

@[simp] theorem inv_addHash (s : State) (wv : Weave) (size : Nat) (v : Nat) (l : AtomLane) (h : Inv s = true) :
    Inv (addHash s wv size v l) = true := by
  unfold addHash; (repeat' split) <;> simp +contextual (maxDischargeDepth := 99) [h]

@[simp] theorem inv_performAt (s : State) (r : ClerkReq) (msgs : List Msg) (ls : List AtomLane) (h : Inv s = true) :
    Inv (performAt s r msgs ls).1 = true := by
  unfold performAt; (repeat' split) <;> simp +contextual (maxDischargeDepth := 99) [h]

@[simp] theorem inv_clerkRun (r : ClerkReq) (o : Op) (wv : Weave) (msgs : List Msg) (a : Run) (run : List AtomLane)
    (h : Inv a.s = true) : Inv (clerkRun r o wv msgs a run).s = true := by
  have h1 := inv_performAt a.s r msgs run h
  unfold clerkRun
  dsimp only
  split
  · exact h1
  · exact inv_foldl _ (fun s x hs => inv_addHash _ _ _ _ _ hs) _ _ h1

@[simp] theorem inv_performRequest (s : State) (id : Nat) (r : ClerkReq) (o : Op) (wv : Weave) (h : Inv s = true) :
    Inv (performRequest s id r o wv) = true := by
  unfold performRequest
  dsimp only
  split
  · exact inv_settleRun _ _ _ _ _ _ _ h
  · split
    · exact h
    · exact inv_settleRun _ _ _ _ _ _ _ (inv_postLane _ _ _ _ _ _ _ _ _ h)
  · exact inv_settleRun _ _ _ _ _ _ _ h
  · split
    · exact h
    · exact inv_settleRun _ _ _ _ _ _ _ (inv_foldl_run _ (fun a run ha => inv_clerkRun _ _ _ _ a run ha) _ _ (inv_askLines _ _ _ h))

@[simp] theorem inv_sendOne (s : State) (shop : Nat) (id : Nat) (h : Inv s = true) :
    Inv (sendOne s shop id) = true := by
  unfold sendOne; (repeat' split) <;> simp +contextual (maxDischargeDepth := 99) [h]

@[simp] theorem inv_sendOp (s : State) (n : Nat) (o : Op) (wv : Weave) (h : Inv s = true) :
    Inv (sendOp s n o wv) = true := by
  unfold sendOp; dsimp only
  (repeat' split) <;> first
    | (simp +contextual (maxDischargeDepth := 99) [h]; done)
    | (have h2 := inv_of_ok ‹_ = Try.ok _› (by simp (maxDischargeDepth := 99) [h])
       simp +contextual (maxDischargeDepth := 99) [h2])
    | (have h2 := inv_of_wait ‹_ = Try.wait _› (by simp (maxDischargeDepth := 99) [h])
       simp +contextual (maxDischargeDepth := 99) [h2])

@[simp] theorem inv_completeClerk (s : State) (n : Nat) (h : Inv s = true) :
    Inv (completeClerk s n) = true := by
  unfold completeClerk; (repeat' split) <;> simp +contextual (maxDischargeDepth := 99) [h]

@[simp] theorem inv_serveRequest (s : State) (id : Nat) (h : Inv s = true) :
    Inv (serveRequest s id) = true := by
  unfold serveRequest; (repeat' split) <;> simp +contextual (maxDischargeDepth := 99) [h]

/-! ### Engine -/

@[simp] theorem inv_badDesc (c : Ctx) :
    (badDesc c).inv = true := by
  unfold badDesc; simp []

@[simp] theorem inv_badBounds (c : Ctx) (off : Nat) (info : Nat) :
    (badBounds c off info).inv = true := by
  unfold badBounds; simp []

@[simp] theorem inv_pushEng (s : State) (c : Ctx) (f : ENG) (n : Nat) (dests : List Nat) (accept : State → State)
    (go : Entry ⊕ Effect) (h : Inv s = true) (haccept : ∀ s, Inv s = true → Inv (accept s) = true)
    (hgo : ∀ x, go = .inr x → x.inv = true) :
    (pushEng s c f n dests accept go).inv = true := by
  unfold pushEng
  split
  · exact hgo _ rfl
  · dsimp only
    split
    · exact h
    · split <;> exact haccept _ (inv_pushEntry _ _ _ _ _ h)

@[simp] theorem inv_onFirst (s : State) (c : Ctx) (go : Unit → Effect) (h : Inv s = true) (hgo : (go ()).inv = true) :
    (onFirst s c go).inv = true := by
  unfold onFirst
  (repeat' split) <;> simp_all

@[simp] theorem inv_finishCommand (s : State) (ev : Events) (n : Nat) (words : List Word) (msg : Msg) (h : Inv s = true) :
    Inv (finishCommand s ev n words msg) = true := by
  unfold finishCommand; simp +contextual (maxDischargeDepth := 99) [h]

@[simp] theorem inv_cwordEvents (s : State) (ev : Events) (b : Nat) (value : Word) (msg : Msg) (h : Inv s = true) :
    Inv (cwordEvents s ev b value msg) = true := by
  unfold cwordEvents; simp [h]

@[simp] theorem inv_dropHead (s : State) (w : Nat) (n : Nat) (h : Inv s = true) :
    Inv (dropHead s w n) = true := by
  unfold dropHead; simp [h]

/-! ### Dray -/

@[simp] theorem inv_drayAccept (x0 : Nat) (x1 : State) (x2 : Nat) (hx1 : Inv x1 = true) :
    Inv (drayAccept x0 x1 x2) = true := by
  induction x0 generalizing x1 x2 with
  | zero => first | exact hx1 | (simp_all (maxDischargeDepth := 99) [drayAccept]; done) | simpa [drayAccept] using hx1
  | succ n ih =>
    unfold drayAccept; try dsimp only
    (repeat' split) <;> simp +contextual (maxDischargeDepth := 99) [ih, hx1]

@[simp] theorem inv_drayPush (f : ENG) (multi : Bool) (s : State) (h : Inv s = true) :
    outInv (drayPush f multi s) = true := by
  unfold drayPush
  refine inv_issueRow _ _ _ _ _ (fun s c h => ?_) h
  refine inv_onFirst _ _ _ h ?_
  dsimp only
  split
  · refine inv_pushEng _ _ _ _ _ _ _ h (fun s h => inv_drayAccept _ _ _ h) (fun x hx => ?_)
    (repeat' split at hx) <;> cases hx <;> rfl
  · exact h

@[simp] theorem inv_copyWrite (s : State) (c : Copy) (v : View) (pas : List Nat) (slots : List Nat) (bs : List Byte)
    (h : Inv s = true) :
    (copyWrite s c v pas slots bs).1.inv = true := by
  unfold copyWrite
  split
  · simp [h]
  · split
    · exact h
    · split
      · exact foldl_keeps (fun t : Try × View => t.1.inv = true) _ (fun t p ht => inv_joinPart _ _ _ t p ht) _ _ h
      · exact inv_lotWrite _ _ _ _ _ h

@[simp] theorem inv_modCopy (s : State) (id : Nat) (f : Copy → Copy) (h : Inv s = true) :
    Inv (modCopy s id f) = true := by
  unfold modCopy; simp [h]

@[simp] theorem inv_drayFault (s : State) (c : Copy) (b : CopyBad) (h : Inv s = true) :
    Inv (drayFault s c b) = true := by
  unfold drayFault; (repeat' split) <;> simp +contextual (maxDischargeDepth := 99) [h]

@[simp] theorem inv_failCopy (s : State) (id : Nat) (c : Copy) (b : CopyBad) (h : Inv s = true) :
    Inv (failCopy s id c b) = true := by
  unfold failCopy; (repeat' split) <;> simp +contextual (maxDischargeDepth := 99) [h]

@[simp] theorem inv_poisonCopy (s : State) (c : Copy) (h : Inv s = true) :
    Inv (poisonCopy s c) = true := by
  unfold poisonCopy; (repeat' split) <;> simp +contextual (maxDischargeDepth := 99) [h]

@[simp] theorem inv_visitChunk (x0 : Nat) (x1 : State) (x2 : Nat) (hx1 : Inv x1 = true) :
    Inv (visitChunk x0 x1 x2) = true := by
  induction x0 generalizing x1 x2 with
  | zero => first | exact hx1 | (simp_all (maxDischargeDepth := 99) [visitChunk]; done) | simpa [visitChunk] using hx1
  | succ n ih =>
    unfold visitChunk; try dsimp only
    (repeat' split) <;> simp +contextual (maxDischargeDepth := 99) [ih, hx1]

@[simp] theorem inv_landFlight (s : State) (c : Copy) (v : View) (f : Flight) (h : Inv s = true) :
    (landFlight s c v f).1.inv = true := by
  unfold landFlight; (repeat' split) <;> simp +contextual (maxDischargeDepth := 99) [h]

@[simp] theorem inv_landFlights (stay : Nat → Bool) (id i : Nat) (s : State) (kept fs : List Flight) (h : Inv s = true) :
    Inv (landFlights stay id i s kept fs) = true := by
  induction fs generalizing i s kept with
  | nil => exact inv_modCopy _ _ _ h
  | cons f fs ih =>
    unfold landFlights
    split
    · exact h
    · split
      · exact ih _ _ _ h
      · rename_i c _ _
        have hf := inv_landFlight s c c.after f h
        split
        · rename_i e
          rw [e] at hf
          exact ih _ _ _ hf
        · rename_i e
          rw [e] at hf
          exact ih _ _ _ (inv_modCopy _ _ _ hf)

@[simp] theorem inv_copyCommit (s : State) (id : Nat) (c : Copy) (h : Inv s = true) :
    (copyCommit s id c).inv = true := by
  unfold copyCommit; dsimp only
  (repeat' split) <;> first
    | (simp +contextual (maxDischargeDepth := 99) [h]; done)
    | (have h2 := inv_of_ok ‹_ = Try.ok _› (by simp (maxDischargeDepth := 99) [h])
       simp +contextual (maxDischargeDepth := 99) [h2])
    | (have h2 := inv_of_wait ‹_ = Try.wait _› (by simp (maxDischargeDepth := 99) [h])
       simp +contextual (maxDischargeDepth := 99) [h2])

@[simp] theorem inv_countDray (s : State) (c : Copy) (n : Nat) (h : Inv s = true) :
    Inv (countDray s c n) = true := by
  unfold countDray; (repeat' split) <;> simp +contextual (maxDischargeDepth := 99) [h]

@[simp] theorem inv_chunkLand (s : State) (id : Nat) (b : Nat) (h : Inv s = true) :
    Inv (chunkLand s id b) = true := by
  unfold chunkLand; (repeat' split) <;> simp +contextual (maxDischargeDepth := 99) [h]

@[simp] theorem inv_closeChunk (s : State) (id : Nat) (h : Inv s = true) :
    Inv (closeChunk s id) = true := by
  unfold closeChunk; dsimp only
  (repeat' split) <;> first
    | (simp +contextual (maxDischargeDepth := 99) [h]; done)
    | (have h2 := inv_of_ok ‹_ = Try.ok _› (by simp (maxDischargeDepth := 99) [h])
       simp +contextual (maxDischargeDepth := 99) [h2])
    | (have h2 := inv_of_wait ‹_ = Try.wait _› (by simp (maxDischargeDepth := 99) [h])
       simp +contextual (maxDischargeDepth := 99) [h2])

@[simp] theorem inv_copyStart (s : State) (id : Nat) (c : Copy) (h : Inv s = true) :
    Inv (copyStart s id c) = true := by
  unfold copyStart; (repeat' split) <;> simp +contextual (maxDischargeDepth := 99) [h]

@[simp] theorem inv_finishPacket (s : State) (id : Nat) (c : Copy) (h : Inv s = true) :
    Inv (finishPacket s id c) = true := by
  unfold finishPacket; dsimp only; (repeat' split) <;> simp +contextual (maxDischargeDepth := 99) [h]

@[simp] theorem inv_copyLand (s : State) (c : Copy) (msg : Msg) (h : Inv s = true) :
    Inv (copyLand s c msg) = true := by
  unfold copyLand; simp +contextual (maxDischargeDepth := 99) [h]

/-! ### Gleaner -/

@[simp] theorem inv_modGslot (s : State) (w : Nat) (n : Nat) (f : GSlot → GSlot) (h : Inv s = true) :
    Inv (modGslot s w n f) = true := by
  unfold modGslot; simp [h]

@[simp] theorem inv_gatherPush (f : ENG) (r : GatherRow) (s : State) (h : Inv s = true) :
    outInv (gatherPush f r s) = true := by
  unfold gatherPush
  refine inv_issueRow _ _ _ _ _ (fun s c h => ?_) h
  refine inv_onFirst _ _ _ h ?_
  dsimp only
  split
  · exact h
  · refine inv_pushEng _ _ _ _ _ _ _ h (fun s h => h) (fun x hx => ?_)
    split at hx <;> cases hx
    rfl

@[simp] theorem inv_observeStrands (s : State) (w : Nat) (n : Nat) (told : Mask) (m : Mask) (h : Inv s = true) :
    Inv (observeStrands s w n told m) = true := by
  unfold observeStrands; dsimp only; (repeat' split) <;> simp +contextual (maxDischargeDepth := 99) [h]

@[simp] theorem inv_gleanerFinish (s : State) (w : Nat) (n : Nat) (h : Inv s = true) :
    Inv (gleanerFinish s w n) = true := by
  unfold gleanerFinish; dsimp only
  (repeat' split) <;> first
    | (simp +contextual (maxDischargeDepth := 99) [h]; done)
    | (have h2 := inv_of_ok ‹_ = Try.ok _› (by simp (maxDischargeDepth := 99) [h])
       simp +contextual (maxDischargeDepth := 99) [h2])
    | (have h2 := inv_of_wait ‹_ = Try.wait _› (by simp (maxDischargeDepth := 99) [h])
       simp +contextual (maxDischargeDepth := 99) [h2])

@[simp] theorem inv_setCode (s : State) (w : Nat) (n : Nat) (k : Nat) (detail : Nat) (code : Nat) (h : Inv s = true) :
    Inv (setCode s w n k detail code) = true := by
  unfold setCode; simp [h]

@[simp] theorem inv_bindWords (s : State) (op : Nat) (ws : Tab Word) (h : Inv s = true) :
    Inv (bindWords s op ws) = true := by
  unfold bindWords; simp [h]

@[simp] theorem inv_strandDone (s : State) (w : Nat) (n : Nat) (k : Nat) (ws : Tab Word) (h : Inv s = true) :
    Inv (strandDone s w n k ws) = true := by
  unfold strandDone; (repeat' split) <;> simp +contextual (maxDischargeDepth := 99) [h]

@[simp] theorem inv_readStrand (s : State) (w : Nat) (n : Nat) (k : Nat) (wv : Weave) (g : GSlot) (pas : List Nat)
    (h : Inv s = true) :
    Inv (readStrand s w n k wv g pas) = true := by
  unfold readStrand; simp [h]

@[simp] theorem inv_spadStrand (s : State) (w : Nat) (n : Nat) (k : Nat) (off : Nat) (wv : Weave) (g : GSlot) (h : Inv s = true) :
    Inv (spadStrand s w n k off wv g) = true := by
  unfold spadStrand; (repeat' split) <;> simp +contextual (maxDischargeDepth := 99) [h]

@[simp] theorem inv_memStrand (s : State) (w : Nat) (n : Nat) (k : Nat) (wv : Weave) (g : GSlot) (pas : List Nat) (slots : List Nat)
    (h : Inv s = true) :
    Inv (memStrand s w n k wv g pas slots) = true := by
  unfold memStrand; dsimp only
  (repeat' split) <;> first
    | (simp +contextual (maxDischargeDepth := 99) [h]; done)
    | (have h2 := inv_of_ok ‹_ = Try.ok _› (by simp (maxDischargeDepth := 99) [h])
       simp +contextual (maxDischargeDepth := 99) [h2])
    | (have h2 := inv_of_wait ‹_ = Try.wait _› (by simp (maxDischargeDepth := 99) [h])
       simp +contextual (maxDischargeDepth := 99) [h2])

@[simp] theorem inv_loseStrands (s : State) (w : Nat) (n : Nat) (sl : Nat) (kind : Nat) (tb : Bool) (wv : Weave) (g : GSlot)
    (h : Inv s = true) :
    Inv (loseStrands s w n sl kind tb wv g) = true := by
  unfold loseStrands; simp +contextual (maxDischargeDepth := 99) [h]

@[simp] theorem inv_gleanerStart (s : State) (w : Nat) (n : Nat) (g : GSlot) (h : Inv s = true) :
    Inv (gleanerStart s w n g) = true := by
  unfold gleanerStart; (repeat' split) <;> simp +contextual (maxDischargeDepth := 99) [h]

@[simp] theorem inv_selFinish (s : State) (id : Nat) (x : Select) (wv : Weave) (status : Nat) (faddr : Nat) (count : Nat) (kth : Nat)
    (ties : Nat) (view : View) (h : Inv s = true) :
    Inv (selFinish s id x wv status faddr count kth ties view) = true := by
  unfold selFinish; dsimp only
  (repeat' split) <;> first
    | (simp +contextual (maxDischargeDepth := 99) [h]; done)
    | (have h2 := inv_of_ok ‹_ = Try.ok _› (by simp (maxDischargeDepth := 99) [h])
       simp +contextual (maxDischargeDepth := 99) [h2])
    | (have h2 := inv_of_wait ‹_ = Try.wait _› (by simp (maxDischargeDepth := 99) [h])
       simp +contextual (maxDischargeDepth := 99) [h2])

@[simp] theorem inv_selFault (s : State) (wv : Weave) (b : CopyBad) (h : Inv s = true) :
    Inv (selFault s wv b) = true := by
  unfold selFault; simp [h]

@[simp] theorem inv_selFail (s : State) (id : Nat) (x : Select) (wv : Weave) (b : CopyBad) (count : Nat) (view : View)
    (h : Inv s = true) :
    Inv (selFail s id x wv b count view) = true := by
  unfold selFail; simp [h]

@[simp] theorem inv_selWrites (x0 : Nat) (x1 : State) (x2 : Nat) (x3 : Nat) (x4 : Select) (x5 : Weave) (x6 : SelOut)
    (hx1 : Inv x1 = true) :
    Inv (selWrites x0 x1 x2 x3 x4 x5 x6) = true := by
  induction x0 generalizing x1 x2 x3 x4 x5 x6 with
  | zero => first | exact hx1 | (simp_all (maxDischargeDepth := 99) [selWrites]; done) | simpa [selWrites] using hx1
  | succ n ih =>
    unfold selWrites; try dsimp only
    (repeat' split) <;> first
      | (simp +contextual (maxDischargeDepth := 99) [ih, hx1]; done)
      | (have h2 := inv_of_ok ‹_ = Try.ok _› (by simp (maxDischargeDepth := 99) [ih, hx1]); simp +contextual (maxDischargeDepth := 99) [ih, hx1, h2]; done)
      | (have h2 := inv_of_wait ‹_ = Try.wait _› (by simp (maxDischargeDepth := 99) [ih, hx1]); simp +contextual (maxDischargeDepth := 99) [ih, hx1, h2]; done)

/-! ### Loom -/

@[simp] theorem inv_noteReady (s : State) (b : Nat) (h : Inv s = true) :
    Inv (noteReady s b) = true := by
  unfold noteReady; (repeat' split) <;> simp +contextual (maxDischargeDepth := 99) [h]

@[simp] theorem inv_loomAccept (s : State) (w : Nat) (h : Inv s = true) :
    Inv (loomAccept s w) = true := by
  unfold loomAccept; (repeat' split) <;> simp +contextual (maxDischargeDepth := 99) [h]

@[simp] theorem inv_modCmd (s : State) (w : Nat) (op : Nat) (f : LoomCmd → LoomCmd) (h : Inv s = true) :
    Inv (modCmd s w op f) = true := by
  unfold modCmd; simp [h]

@[simp] theorem inv_loomStart (s : State) (id : Nat) (h : Inv s = true) :
    Inv (loomStart s id) = true := by
  unfold loomStart; (repeat' split) <;> simp +contextual (maxDischargeDepth := 99) [h]

@[simp] theorem inv_endPart (s : State) (x : LoomOp) (status : Nat) (v : View) (p : Nat × Entry) (h : Inv s = true) :
    Inv (endPart s x status v p) = true := by
  unfold endPart; (repeat' split) <;> simp +contextual (maxDischargeDepth := 99) [h]

@[simp] theorem inv_loomEnd (s : State) (id : Nat) (h : Inv s = true) :
    Inv (loomEnd s id) = true := by
  unfold loomEnd
  dsimp only
  split
  · exact h
  · split
    · exact h
    · split
      · exact h
      · rename_i x _ _ _ p _ _
        have ht : (match weaveOf s p.1 with
          | some wv => if versioned s wv then commitFor s p.2.op wv false else .ok s
          | none => .ok s : Try).inv = true := by
          split
          · split
            · exact inv_commitFor _ _ _ _ h
            · exact h
          · exact h
        split
        · exact inv_of_wait ‹_ = Try.wait _› ht
        · have h1 := inv_of_ok ‹_ = Try.ok _› ht
          split
          · exact h1
          · exact inv_foldl _ (fun s p hs => inv_endPart _ _ _ _ _ hs) _ _ h1

@[simp] theorem inv_splitA (s : State) (x : LoomOp) (lines : List (Int × List (List Nat))) (h : Inv s = true) :
    Inv (splitA s x lines) = true := by
  unfold splitA; simp [h]

@[simp] theorem inv_splitSeen (s : State) (w : Nat) (ws : Tab Word) (h : Inv s = true) :
    Inv (splitSeen s w ws) = true := by
  unfold splitSeen; simp [h]

@[simp] theorem inv_runSplit (s : State) (x : LoomOp) (B : Basket) (h : Inv s = true) :
    Inv (runSplit s x B) = true := by
  unfold runSplit; simp +contextual (maxDischargeDepth := 99) [h]

@[simp] theorem inv_loomPush (f : ENG) (dlen : Nat) (s : State) (c : Ctx) (h : Inv s = true) :
    (loomPush f dlen s c).inv = true := by
  unfold loomPush
  dsimp only
  split
  · simp
  · split
    · have hr := inv_renameRegs s c
      split
      · rename_i e
        have h1 := congrArg Renaming.inv e
        rw [hr _ _ h] at h1
        split
        · exact h1.symm
        · refine inv_pushEng _ _ _ _ _ _ _ h (fun s h => inv_loomAccept _ _ (inv_modWeave _ _ _ h)) (fun x hx => ?_)
          (repeat' split at hx) <;> first
            | (cases hx; done)
            | (cases hx; simp)
      · rename_i e
        have h1 := congrArg Renaming.inv e
        rw [hr _ _ h] at h1
        refine inv_pushEng _ _ _ _ _ _ _ h1.symm (fun s h => inv_loomAccept _ _ (inv_modWeave _ _ _ h)) (fun x hx => ?_)
        (repeat' split at hx) <;> first
          | (cases hx; done)
          | (cases hx; simp)
    · exact h

@[simp] theorem inv_landSplits (s : State) (w : Nat) (limit : Nat) (h : Inv s = true) :
    Inv (landSplits s w limit) = true := by
  unfold landSplits; simp +contextual (maxDischargeDepth := 99) [h]

@[simp] theorem inv_accTake (s : State) (b : Nat) (a : Nat) (n : Nat) (h : Inv s = true) :
    Inv (accTake s b a n) = true := by
  unfold accTake; (repeat' split) <;> simp +contextual (maxDischargeDepth := 99) [h]

@[simp] theorem inv_accGive (s : State) (b : Nat) (as : List Nat) (h : Inv s = true) :
    Inv (accGive s b as) = true := by
  unfold accGive; (repeat' split) <;> simp +contextual (maxDischargeDepth := 99) [h]

@[simp] theorem inv_accTrap (c : Ctx) (a : Nat) (o : Nat) :
    (accTrap c a o).inv = true := by
  unfold accTrap; simp []

@[simp] theorem inv_accPlace (s : State) (c : Ctx) (f : RRR) (n : Nat) (h : Inv s = true) :
    ∀ x, accPlace s c f n = .inr x → x.inv = true := by
  unfold accPlace; dsimp only; (repeat' split) <;> simp +contextual (maxDischargeDepth := 99) [h]

@[simp] theorem inv_accStore (s : State) (c : Ctx) (ws : List (Nat × Word)) (h : Inv s = true) :
    Inv (accStore s c ws) = true := by
  unfold accStore; simp [h]

/-! ### Courier -/

@[simp] theorem inv_pushCommit (s : State) (c : Ctx) (h : Inv s = true) :
    sumInv (pushCommit s c) = true := by
  unfold pushCommit; dsimp only
  (repeat' split) <;> first
    | (simp +contextual (maxDischargeDepth := 99) [h]; done)
    | (have h2 := inv_of_ok ‹_ = Try.ok _› (by simp (maxDischargeDepth := 99) [h])
       simp +contextual (maxDischargeDepth := 99) [h2])
    | (have h2 := inv_of_wait ‹_ = Try.wait _› (by simp (maxDischargeDepth := 99) [h])
       simp +contextual (maxDischargeDepth := 99) [h2])

@[simp] theorem inv_netPush (f : ENG) (s : State) (c : Ctx) (h : Inv s = true) :
    (netPush f s c).inv = true := by
  unfold netPush
  refine inv_onFirst _ _ _ h ?_
  dsimp only
  split
  · split
    · simp
    · split
      · simp
      · split
        · exact h
        · have hp := inv_pushCommit s c h
          split
          · rename_i e
            rw [e] at hp
            exact hp
          · rename_i e
            rw [e] at hp
            split
            · exact hp
            · exact inv_pushEng _ _ _ _ _ _ _ hp (fun s h => h) (fun x hx => by cases hx)
  · exact h

@[simp] theorem inv_netWrite (s : State) (whole : Bool) (v : View) (xs : List (Option (List Nat) × Option (List Byte))) (n : Nat)
    (h : Inv s = true) : Inv (netWrite s whole v xs n).1 = true := by
  induction xs generalizing s v n with
  | nil => exact h
  | cons x xs ih =>
    unfold netWrite
    dsimp only
    split <;> rename_i e
    · cases e
    · split
      · cases e; exact ih _ _ _ (inv_clearPoison _ _ (inv_writeAccess _ _ _ _ h))
      · cases e
        exact ih _ _ _ (inv_foldl _ (fun s p hs => inv_clearPoison _ _ (inv_writeMem _ _ _ _ _ _ hs)) _ _ h)
    · cases e; exact ih _ _ _ h

@[simp] theorem inv_netFault (s : State) (x : NetCmd) (b : CopyBad) (h : Inv s = true) :
    Inv (netFault s x b) = true := by
  unfold netFault; simp [h]

@[simp] theorem inv_netAbsent (s : State) (x : NetCmd) (xs : List NetAbsent) (h : Inv s = true) :
    Inv (netAbsent s x xs) = true := by
  unfold netAbsent; simp +contextual (maxDischargeDepth := 99) [h]

@[simp] theorem inv_netRun (s : State) (x : NetCmd) (view : View) (reply : NetReply) (h : Inv s = true) :
    (netRun s x view reply).inv = true := by
  unfold netRun; dsimp only; (repeat' split) <;> simp +contextual (maxDischargeDepth := 99) [h]

@[simp] theorem inv_netFinish (s : State) (id : Nat) (h : Inv s = true) :
    Inv (netFinish s id) = true := by
  unfold netFinish; dsimp only
  (repeat' split) <;> first
    | (simp +contextual (maxDischargeDepth := 99) [h]; done)
    | (have h2 := inv_of_ok ‹_ = Try.ok _› (by simp (maxDischargeDepth := 99) [h])
       simp +contextual (maxDischargeDepth := 99) [h2])
    | (have h2 := inv_of_wait ‹_ = Try.wait _› (by simp (maxDischargeDepth := 99) [h])
       simp +contextual (maxDischargeDepth := 99) [h2])

@[simp] theorem inv_netAccept (s : State) (w : Nat) (e : Entry) (h : Inv s = true) :
    Inv (netAccept s w e) = true := by
  unfold netAccept; (repeat' split) <;> simp +contextual (maxDischargeDepth := 99) [h]

@[simp] theorem inv_netStep (s : State) (id : Nat) (reply : NetReply) (h : Inv s = true) :
    Inv (netStep s id reply) = true := by
  unfold netStep
  dsimp only
  (repeat' split) <;> try (simp [h]; done)
  rename_i x _ _ _ v _ _ s1 st nb rank after e
  have h1 : Inv s1 = true := by
    have := inv_netRun s x v reply h
    rw [e] at this
    exact this
  exact inv_netFinish _ _ h1

@[simp] theorem inv_takeConsIdx (s : State) (r : Nat) (h : Inv s = true) :
    Inv (takeConsIdx s r) = true := by
  unfold takeConsIdx; dsimp only; (repeat' split) <;> simp +contextual (maxDischargeDepth := 99) [h]

@[simp] theorem inv_ringAccept (s : State) (r : Nat) (f : Frame) (slotKey : Nat) (h : Inv s = true) :
    Inv (ringAccept s r f slotKey) = true := by
  unfold ringAccept; simp +contextual (maxDischargeDepth := 99) [h]

/-! ### System -/

@[simp] theorem inv_sregWrite (s : State) (w : Nat) (wv : Weave) (n : Nat) (v : Word) (h : Inv s = true) :
    Inv (sregWrite s w wv n v) = true := by
  unfold sregWrite; (repeat' split) <;> simp +contextual (maxDischargeDepth := 99) [h]

@[simp] theorem inv_traceIssue (s : State) (c : Ctx) (kind : Nat) (data : Nat) (h : Inv s = true) :
    Inv (traceIssue s c kind data) = true := by
  unfold traceIssue; simp [h]

@[simp] theorem inv_pgqRange (s : State) (c : Ctx) (f : SYS) (ann : Nat) (scope : Nat) (kind : Nat → OpKind) (h : Inv s = true) :
    (pgqRange s c f ann scope kind).inv = true := by
  unfold pgqRange; simp [h]

end Sys2Proof.Machine
end

