-- ==== Sys2Proof/Laws/InvariantDevice.lean ====
section
/-!
SUPPORT. What keeps the invariant of the device, one lemma for each shared operation:
the operations of the device around the shops: queues, placement, frames, tenancies, leases, repair, debugging, the
package, clause starts, completions, time.
-/

namespace Sys2Proof.Machine

open Sys2Proof

/-! ### Launch -/

@[simp] theorem inv_beginPass (s : State) (t : Nat) (k : Nat) (lotid : BitVec 32) (h : Inv s = true) :
    Inv (beginPass s t k lotid) = true := by
  unfold beginPass; simp [h]

@[simp] theorem inv_enterLot (s : State) (key : Nat) (l : Lot) (replay : Bool) (h : Inv s = true) :
    Inv (enterLot s key l replay) = true := by
  unfold enterLot; simp [h]

/-! ### Queues -/

@[simp] theorem inv_reapPackets (s : State) (q : Nat) (h : Inv s = true) :
    Inv (reapPackets s q) = true := by
  unfold reapPackets; dsimp only; (repeat' split) <;> simp +contextual (maxDischargeDepth := 99) [h]

@[simp] theorem inv_failPacket (s : State) (q : Nat) (i : Nat) (reason : Nat) (tag : BitVec 32) (detail : List Byte) (started : Bool)
    (h : Inv s = true) :
    Inv (failPacket s q i reason tag detail started) = true := by
  unfold failPacket; simp [h]

@[simp] theorem inv_soon (s : State) (i : Instr) (a : EventArgs) (h : Inv s = true) :
    Inv (soon s i a) = true := by
  unfold soon; simp [h]

@[simp] theorem inv_readPacket (s : State) (q : Nat) (i : Nat) (started : Bool) (h : Inv s = true) :
    Inv (readPacket s q i started) = true := by
  unfold readPacket; dsimp only; (repeat' split) <;> simp +contextual (maxDischargeDepth := 99) [h]

@[simp] theorem inv_postHeld (n : Nat) (s : State) (q : Nat) (h : Inv s = true) : Inv (postHeld n s q) = true := by
  induction n generalizing s with
  | zero => exact h
  | succ n ih =>
    unfold postHeld
    (repeat' split) <;> first
      | exact h
      | exact ih _ (inv_exWrite _ _ _ (inv_modQueue _ _ _ h))

@[simp] theorem inv_begin (s : State) (q : Nat) (i : Nat) (f : Packet → Packet) (h : Inv s = true) :
    Inv (begin s q i f) = true := by
  unfold begin; simp [h]

@[simp] theorem inv_completePacket (s : State) (q : Nat) (i : Nat) (h : Inv s = true) :
    Inv (completePacket s q i) = true := by
  unfold completePacket; simp [h]

@[simp] theorem inv_refusePacket (s : State) (q : Nat) (i : Nat) (reason : Nat) (tag : BitVec 32) (detail : List Byte)
    (h : Inv s = true) :
    Inv (refusePacket s q i reason tag detail) = true := by
  unfold refusePacket; simp [h]

@[simp] theorem inv_parkPacket (s : State) (q : Nat) (i : Nat) (ps : Parked) (h : Inv s = true) :
    Inv (parkPacket s q i ps) = true := by
  unfold parkPacket; simp [h]

@[simp] theorem inv_pollSignal (s : State) (q : Nat) (i : Nat) (h : Inv s = true) :
    Inv (pollSignal s q i) = true := by
  unfold pollSignal; dsimp only; (repeat' split) <;> simp +contextual (maxDischargeDepth := 99) [h]

@[simp] theorem inv_repoll (s : State) (t : Nat) (va : Nat) (h : Inv s = true) :
    Inv (repoll s t va) = true := by
  unfold repoll; simp [h]

@[simp] theorem inv_performSignal (s : State) (q : Nat) (i : Nat) (h : Inv s = true) :
    Inv (performSignal s q i) = true := by
  unfold performSignal; dsimp only; (repeat' split) <;> simp +contextual (maxDischargeDepth := 99) [h]

@[simp] theorem inv_abortQueue (s : State) (q : Nat) (i : Nat) (h : Inv s = true) :
    Inv (abortQueue s q i) = true := by
  unfold abortQueue; simp +contextual (maxDischargeDepth := 99) [h]

@[simp] theorem inv_skipGang (s : State) (L : Nat) (gid : Nat) (h : Inv s = true) :
    Inv (skipGang s L gid) = true := by
  unfold skipGang; simp [h]

@[simp] theorem inv_resumeGang (s : State) (L : Nat) (gid : Nat) (h : Inv s = true) :
    Inv (resumeGang s L gid) = true := by
  unfold resumeGang; simp [h]

@[simp] theorem inv_takeReply (s : State) (q : Nat) (x : Stalled) (r : Nat) (h : Inv s = true) :
    Inv (takeReply s q x r) = true := by
  unfold takeReply; simp +contextual (maxDischargeDepth := 99) [h]

@[simp] theorem inv_writeIndex (s : State) (q : Nat) (v : BitVec 64) (h : Inv s = true) :
    Inv (writeIndex s q v) = true := by
  unfold writeIndex; simp [h]

@[simp] theorem inv_childOver (s : State) (e : Entry) (w : Nat) (b : Nat) (cword : Nat) (touch : Bool) (h : Inv s = true) :
    Inv (childOver s e w b cword touch) = true := by
  unfold childOver; simp +contextual (maxDischargeDepth := 99) [h]

/-! ### Placement -/

@[simp] theorem inv_seatBasket (s : State) (b : Nat) (hs : List Hdr) (h : Inv s = true) :
    Inv (seatBasket s b hs) = true := by
  unfold seatBasket; (repeat' split) <;> simp +contextual (maxDischargeDepth := 99) [h]

@[simp] theorem inv_placeBasket (s : State) (g : Nat) (L : Nat) (l : Lot) (gid : Nat) (bid : Nat) (p : Placement) (h : Inv s = true) :
    Inv (placeBasket s g L l gid bid p) = true := by
  unfold placeBasket; simp +contextual (maxDischargeDepth := 99) [h]

@[simp] theorem inv_placeGang (s : State) (L : Nat) (l : Lot) (gid : Nat) (prio : Nat) (ps : List Placement) (h : Inv s = true) :
    Inv (placeGang s L l gid prio ps) = true := by
  unfold placeGang; simp +contextual (maxDischargeDepth := 99) [h]

@[simp] theorem inv_requestGang (s : State) (g : Nat) (cause : PreemptCause) (h : Inv s = true) :
    Inv (requestGang s g cause) = true := by
  unfold requestGang; (repeat' split) <;> simp +contextual (maxDischargeDepth := 99) [h]

@[simp] theorem inv_guardPaid (s : State) (g : Nat) (h : Inv s = true) :
    Inv (guardPaid s g) = true := by
  unfold guardPaid; simp [h]

@[simp] theorem inv_dropFlags (s : State) (w : Nat) (r : Live) (h : Inv s = true) :
    Inv (dropFlags s w r) = true := by
  unfold dropFlags; simp [h]

@[simp] theorem inv_saveSpad (s : State) (b : Nat) (size : Nat) (ranges : List (Nat × Nat)) (h : Inv s = true) :
    Inv (saveSpad s b size ranges) = true := by
  unfold saveSpad; simp +contextual (maxDischargeDepth := 99) [h]

@[simp] theorem inv_holdBasket (s : State) (b : Nat) (h : Inv s = true) :
    Inv (holdBasket s b) = true := by
  unfold holdBasket; (repeat' split) <;> simp +contextual (maxDischargeDepth := 99) [h]

@[simp] theorem inv_returnPending (s : State) (b : Nat) (h : Inv s = true) :
    Inv (returnPending s b) = true := by
  unfold returnPending; (repeat' split) <;> simp +contextual (maxDischargeDepth := 99) [h]

@[simp] theorem inv_unholdBasket (s : State) (b : Nat) (h : Inv s = true) :
    Inv (unholdBasket s b) = true := by
  unfold unholdBasket; (repeat' split) <;> simp +contextual (maxDischargeDepth := 99) [h]

@[simp] theorem inv_saveBasket (s : State) (b : Nat) (h : Inv s = true) :
    Inv (saveBasket s b) = true := by
  unfold saveBasket; (repeat' split) <;> simp +contextual (maxDischargeDepth := 99) [h]

@[simp] theorem inv_saveGang (s : State) (g : Nat) (h : Inv s = true) :
    Inv (saveGang s g) = true := by
  unfold saveGang; (repeat' split) <;> simp +contextual (maxDischargeDepth := 99) [h]

@[simp] theorem inv_lateChildren (s : State) (b : Nat) (h : Inv s = true) :
    Inv (lateChildren s b) = true := by
  unfold lateChildren
  refine inv_foldl _ (fun s p h => ?_) _ _ h
  dsimp only
  split <;> simp [h]

@[simp] theorem inv_noteRevoked (s : State) (ws : List Nat) (slots : List Nat) (h : Inv s = true) :
    Inv (noteRevoked s ws slots) = true := by
  unfold noteRevoked; simp [h]

@[simp] theorem inv_restoreBasket (s : State) (b : Nat) (hs : List Hdr) (p : Placement) (h : Inv s = true) :
    Inv (restoreBasket s b hs p) = true := by
  unfold restoreBasket; (repeat' split) <;> simp +contextual (maxDischargeDepth := 99) [h]

/-! ### Frames -/

@[simp] theorem inv_loseGrainLines (s : State) (g : Nat) (h : Inv s = true) :
    Inv (loseGrainLines s g) = true := by
  unfold loseGrainLines; simp +contextual (maxDischargeDepth := 99) [h]

@[simp] theorem inv_flushGrain (s : State) (g : Nat) (h : Inv s = true) :
    Inv (flushGrain s g) = true := by
  unfold flushGrain
  exact inv_loseGrainLines _ _ (inv_of_memory h (flush_wf _ _ (inv_parts h).1) rfl rfl rfl rfl)

@[simp] theorem inv_evictGrain (s : State) (k : Nat) (h : Inv s = true) :
    Inv (evictGrain s k) = true := by
  unfold evictGrain; simp [h]

@[simp] theorem inv_dropGrain (s : State) (k : Nat) (h : Inv s = true) :
    Inv (dropGrain s k) = true := by
  unfold dropGrain
  have h0 := inv_loseGrainLines s (keyGrain k) h
  dsimp only
  split
  · exact inv_dropLines _ _ _ (inv_of_memory h0 (filterDirty_wf _ (inv_parts h0).1) rfl rfl rfl rfl)
  · exact h0

@[simp] theorem inv_forgetRange (s : State) (t : Nat) (slot : Nat) (h : Inv s = true) :
    Inv (forgetRange s t slot) = true := by
  unfold forgetRange; simp [h]

@[simp] theorem inv_roomFor (may : State → Nat → Grain → Bool) (n : Nat) (s : State) (t d : Nat) (h : Inv s = true) :
    (roomFor may n s t d).all Inv = true := by
  induction n generalizing s with
  | zero => rfl
  | succ n ih => unfold roomFor; (repeat' split) <;> simp [h, ih]

@[simp] theorem inv_coverFrame (s : State) (f : Nat) (h : Inv s = true) :
    Inv (coverFrame s f) = true := by
  unfold coverFrame; simp [h]

@[simp] theorem inv_placeGrain (s : State) (t : Nat) (slot : Nat) (g : Nat) (h : Inv s = true) :
    (placeGrain s t slot g).all Inv = true := by
  unfold placeGrain
  cases (freeFrame s (homeDie g)).filter (fun f => !(frameRepairing s f)) with
  | none => rfl
  | some f => exact inv_coverFrame s f h

@[simp] theorem inv_fillGrain (s : State) (t : Nat) (slot : Nat) (g : Nat) (h : Inv s = true) :
    (fillGrain s t slot g).all Inv = true := by
  unfold fillGrain
  dsimp only
  split
  · rfl
  · have h1 := inv_roomFor evictable (s.grains.length + 2) s t (homeDie g) h
    cases e : roomFor evictable (s.grains.length + 2) s t (homeDie g) with
    | none => rfl
    | some s1 => rw [e] at h1; exact inv_placeGrain s1 t slot g h1

@[simp] theorem inv_fitQuota (n : Nat) (s : State) (t : Nat) (h : Inv s = true) : Inv (fitQuota n s t) = true := by
  induction n generalizing s with
  | zero => exact h
  | succ n ih =>
    unfold fitQuota
    (repeat' split) <;> first
      | exact h
      | exact ih _ (inv_evictGrain _ _ h)

@[simp] theorem inv_dropSlotPages (s : State) (t : Nat) (slot : Nat) (h : Inv s = true) :
    Inv (dropSlotPages s t slot) = true := by
  unfold dropSlotPages; simp [h]

@[simp] theorem inv_replyQ9 (s : State) (op : Nat) (status : Nat) (dropped : Nat) (tag : Word) (image : List Byte)
    (h : Inv s = true) :
    Inv (replyQ9 s op status dropped tag image) = true := by
  unfold replyQ9; (repeat' split) <;> simp +contextual (maxDischargeDepth := 99) [h]

@[simp] theorem inv_replySlot (s : State) (t : Nat) (slot : Nat) (status : Nat) (h : Inv s = true) :
    Inv (replySlot s t slot status) = true := by
  unfold replySlot; dsimp only; (repeat' split) <;> simp +contextual (maxDischargeDepth := 99) [h]

@[simp] theorem inv_leaseEvent (s : State) (t : Nat) (slot : Nat) (reason : Nat) (two : Nat) (four : Nat) (deadline : Nat)
    (h : Inv s = true) :
    Inv (leaseEvent s t slot reason two four deadline) = true := by
  unfold leaseEvent; simp [h]

@[simp] theorem inv_loseParked (s : State) (t : Nat) (slot : Nat) (kind : Nat) (h : Inv s = true) :
    Inv (loseParked s t slot kind) = true := by
  unfold loseParked; simp [h]

@[simp] theorem inv_loseSlot (s : State) (t : Nat) (slot : Nat) (cause : Nat) (h : Inv s = true) :
    Inv (loseSlot s t slot cause) = true := by
  unfold loseSlot; dsimp only; (repeat' split) <;> simp +contextual (maxDischargeDepth := 99) [h]

@[simp] theorem inv_endSlot (s : State) (t : Nat) (slot : Nat) (deadline : Nat) (cause : Nat) (h : Inv s = true) :
    Inv (endSlot s t slot deadline cause) = true := by
  unfold endSlot; dsimp only; (repeat' split) <;> simp +contextual (maxDischargeDepth := 99) [h]

@[simp] theorem inv_releaseSlot (s : State) (t : Nat) (slot : Nat) (h : Inv s = true) :
    Inv (releaseSlot s t slot) = true := by
  unfold releaseSlot; simp [h]

@[simp] theorem inv_sendAmiop (s : State) (kind : Nat) (t : Nat) (slot : Nat) (node : Nat) (id : BitVec 64) (size : Nat)
    (duration : Nat) (rights : Nat) (h : Inv s = true) :
    Inv (sendAmiop s kind t slot node id size duration rights) = true := by
  unfold sendAmiop; simp [h]

@[simp] theorem inv_releaseDone (s : State) (t : Nat) (slot : Nat) (send : Bool) (h : Inv s = true) :
    Inv (releaseDone s t slot send) = true := by
  unfold releaseDone; simp +contextual (maxDischargeDepth := 99) [h]

/-! ### Tenancies -/

@[simp] theorem inv_modTen (s : State) (t : Nat) (f : Tenancy → Tenancy) (h : Inv s = true) :
    Inv (modTen s t f) = true := by
  unfold modTen; simp [h]

@[simp] theorem inv_refuseTen (s : State) (t : Nat) (cmd : Nat) (causes : List Nat) (h : Inv s = true) :
    Inv (refuseTen s t cmd causes) = true := by
  unfold refuseTen; simp [h]

@[simp] theorem inv_busyTen (s : State) (t : Nat) (cmd : Nat) (h : Inv s = true) :
    Inv (busyTen s t cmd) = true := by
  unfold busyTen; simp [h]

@[simp] theorem inv_rehome (s : State) (s1 : State) (h : Inv s = true) (hs1 : Inv s1 = true) :
    Inv (rehome s s1) = true := by
  unfold rehome; simp [h]

@[simp] theorem inv_clearLoft (s : State) (lbase : Nat) (lsize : Nat) (h : Inv s = true) :
    Inv (clearLoft s lbase lsize) = true := by
  exact inv_of_memory h (setLoft_wf (tabWf_filter _ (by
    have := (inv_parts h).1
    simp only [Memory.wf, Bool.and_eq_true] at this
    exact this.2)) (inv_parts h).1) rfl rfl rfl rfl

@[simp] theorem inv_clearTen (s : State) (t : Nat) (h : Inv s = true) :
    Inv (clearTen s t) = true := by
  unfold clearTen; simp +contextual (maxDischargeDepth := 99) [h]

@[simp] theorem inv_writeTen (s : State) (t : Nat) (o : Nat) (v : BitVec 64) (h : Inv s = true) :
    Inv (writeTen s t o v) = true := by
  unfold writeTen; simp [h]

@[simp] theorem inv_writeReeve (s : State) (t : Nat) (o : Nat) (v : BitVec 64) (h : Inv s = true) :
    Inv (writeReeve s t o v) = true := by
  unfold writeReeve; simp [h]

@[simp] theorem inv_writeQueue (s : State) (q : Nat) (o : Nat) (v : BitVec 64) (h : Inv s = true) :
    Inv (writeQueue s q o v) = true := by
  unfold writeQueue; simp [h]

@[simp] theorem inv_writeScriv (s : State) (t : Nat) (o : Nat) (v : BitVec 64) (h : Inv s = true) :
    Inv (writeScriv s t o v) = true := by
  unfold writeScriv; simp [h]

@[simp] theorem inv_writeShop (s : State) (h1 : Nat) (o : Nat) (v : BitVec 64) (h : Inv s = true) :
    Inv (writeShop s h1 o v) = true := by
  unfold writeShop; simp [h]

@[simp] theorem inv_writeTinker (s : State) (k : Nat) (o : Nat) (v : BitVec 64) (h : Inv s = true) :
    Inv (writeTinker s k o v) = true := by
  unfold writeTinker; simp [h]

@[simp] theorem inv_writeRing (s : State) (r : Nat) (o : Nat) (v : BitVec 64) (h : Inv s = true) :
    Inv (writeRing s r o v) = true := by
  unfold writeRing; simp [h]

@[simp] theorem inv_modComm (s : State) (t : Nat) (c : Nat) (f : Comm → Comm) (h : Inv s = true) :
    Inv (modComm s t c f) = true := by
  unfold modComm; simp [h]

@[simp] theorem inv_writeComm (s : State) (t : Nat) (c : Nat) (o : Nat) (v : BitVec 64) (h : Inv s = true) :
    Inv (writeComm s t c o v) = true := by
  unfold writeComm; simp [h]

@[simp] theorem inv_writePackage (s : State) (o : Nat) (v : BitVec 64) (h : Inv s = true) :
    Inv (writePackage s o v) = true := by
  unfold writePackage; simp [h]

/-! ### Reeve -/

@[simp] theorem inv_serveQ9 (s : State) (w : Nat) (mine : Nat → Bool) (go : State → Nat → Nat → Nat → Word → List Nat → State)
    (h : Inv s = true) (hgo : ∀ s a b c d e, Inv s = true → Inv (go s a b c d e) = true) :
    Inv (serveQ9 s w mine go) = true := by
  unfold serveQ9
  dsimp only
  (repeat' split) <;> first
    | (simp [h]; done)
    | exact hgo _ _ _ _ _ _ (inv_dropHead _ _ _ h)

@[simp] theorem inv_sendRenew (s : State) (t : Nat) (n : Nat) (h : Inv s = true) :
    Inv (sendRenew s t n) = true := by
  unfold sendRenew; simp [h]

@[simp] theorem inv_takeResponse (s : State) (t : Nat) (seq : Nat) (r : Nat) (h : Inv s = true) :
    Inv (takeResponse s t seq r) = true := by
  unfold takeResponse; simp [h]

@[simp] theorem inv_postHeldFault (s : State) (t : Nat) (f : FaultRec) (h : Inv s = true) :
    Inv (postHeldFault s t f) = true := by
  unfold postHeldFault; dsimp only
  (repeat' split) <;> first
    | (simp +contextual (maxDischargeDepth := 99) [h]; done)
    | (have h2 := inv_of_some ‹(_ : Option State) = some _› (by simp (maxDischargeDepth := 99) [h])
       simp +contextual (maxDischargeDepth := 99) [h2])

@[simp] theorem inv_postHeldFaults (x0 : Nat) (x1 : State) (x2 : Nat) (hx1 : Inv x1 = true) :
    Inv (postHeldFaults x0 x1 x2) = true := by
  induction x0 generalizing x1 x2 with
  | zero => first | exact hx1 | (simp_all (maxDischargeDepth := 99) [postHeldFaults]; done) | simpa [postHeldFaults] using hx1
  | succ n ih =>
    unfold postHeldFaults; try dsimp only
    (repeat' split) <;> simp +contextual (maxDischargeDepth := 99) [ih, hx1]

@[simp] theorem inv_sendAck (s : State) (m : Amiop) (ok : Bool) (h : Inv s = true) :
    Inv (sendAck s m ok) = true := by
  unfold sendAck; simp [h]

@[simp] theorem inv_nodeFails (s : State) (t : Nat) (n : Nat) (h : Inv s = true) :
    Inv (nodeFails s t n) = true := by
  unfold nodeFails; simp +contextual (maxDischargeDepth := 99) [h]

@[simp] theorem inv_toPool (s : State) (pas : List Nat) (h : Inv s = true) :
    Inv (toPool s pas) = true := by
  have hf : ∀ (pas : List Nat) (f : Nat → Byte) (m : List Host.Cell), cellsWf m = true →
      cellsWf (pas.foldl (fun m pa => setCell m pa (f pa)) m) = true := by
    intro pas f
    induction pas with
    | nil => exact fun m hm => hm
    | cons a as ih => exact fun m hm => ih _ (cellsWf_setCell _ _ hm)
  have hm := (inv_parts h).1
  refine inv_of_memory h ?_ rfl rfl rfl rfl
  unfold Memory.wf toPool at *
  simp only [Bool.and_eq_true] at hm ⊢
  exact ⟨⟨⟨hf _ _ _ hm.1.1.1, tabWf_filter _ hm.1.1.2⟩, all_filter _ _ hm.1.2⟩, hm.2⟩

@[simp] theorem inv_poolWrite (s : State) (w : Nat × Nat × List Byte) (h : Inv s = true) :
    Inv (poolWrite s w) = true := by
  unfold poolWrite; simp [h]

@[simp] theorem inv_snoopGrain (s : State) (g : Nat) (h : Inv s = true) :
    Inv (snoopGrain s g) = true := by
  unfold snoopGrain; dsimp only; (repeat' split) <;> simp +contextual (maxDischargeDepth := 99) [h]

@[simp] theorem inv_prefFinish (s : State) (id : Nat) (p : Prefetch) (h : Inv s = true) :
    Inv (prefFinish s id p) = true := by
  unfold prefFinish
  dsimp only
  (repeat' split) <;> first
    | (simp [h]; done)
    | exact inv_of_wait ‹_ = Try.wait _› (by split <;> simp [h])
    | (have h1 := inv_of_ok ‹_ = Try.ok _› (by split <;> simp [h]); simp (maxDischargeDepth := 99) [h1])

@[simp] theorem inv_prefAccept (s : State) (w : Nat) (e : Entry) (h : Inv s = true) :
    Inv (prefAccept s w e) = true := by
  unfold prefAccept; (repeat' split) <;> simp +contextual (maxDischargeDepth := 99) [h]

@[simp] theorem inv_prefFault (s : State) (p : Prefetch) (kind : Nat) (slot : Nat) (va : Nat) (table : Bool) (h : Inv s = true) :
    Inv (prefFault s p kind slot va table).1 = true := by
  unfold prefFault; (repeat' split) <;> simp +contextual (maxDischargeDepth := 99) [h]

@[simp] theorem inv_prefStep (s : State) (p : Prefetch) (t : Nat) (g : Nat) (h : Inv s = true) :
    Inv (prefStep s p t g).1 = true := by
  have key : ∀ slot g, ((roomFor coldGrain 2 s t (homeDie g)).bind (fun s1 => placeGrain s1 t slot g)).all Inv = true := by
    intro slot g
    have h1 := inv_roomFor coldGrain 2 s t (homeDie g) h
    cases e : roomFor coldGrain 2 s t (homeDie g) with
    | none => rfl
    | some s1 => rw [e] at h1; exact inv_placeGrain s1 t slot g h1
  unfold prefStep
  dsimp only
  (repeat' split) <;> first
    | (simp [h]; done)
    | (have h1 := inv_of_some ‹(_ : Option State) = some _› (key _ _); simp [h1])

/-! ### Tinker -/

@[simp] theorem inv_modTinker (s : State) (k : Nat) (f : Tinker → Tinker) (h : Inv s = true) :
    Inv (modTinker s k f) = true := by
  unfold modTinker; simp [h]

@[simp] theorem inv_gainEvent (s : State) (k : Nat) (bit : Nat) (h : Inv s = true) :
    Inv (gainEvent s k bit) = true := by
  unfold gainEvent; simp [h]

@[simp] theorem inv_raiseExhausted (s : State) (k : Nat) (fs : List Nat) (h : Inv s = true) :
    Inv (raiseExhausted s k fs) = true := by
  unfold raiseExhausted; simp [h]

@[simp] theorem inv_queueRow (s : State) (k : Nat) (p : Nat) (b : Nat) (r : Nat) (h : Inv s = true) :
    Inv (queueRow s k p b r) = true := by
  unfold queueRow; dsimp only; (repeat' split) <;> simp +contextual (maxDischargeDepth := 99) [h]

@[simp] theorem inv_queueColumn (s : State) (k : Nat) (p : Nat) (b : Nat) (c : Nat) (h : Inv s = true) :
    Inv (queueColumn s k p b c) = true := by
  unfold queueColumn; simp [h]

@[simp] theorem inv_queueTsv (s : State) (k : Nat) (chan : Nat) (n : Nat) (command : Bool) (h : Inv s = true) :
    Inv (queueTsv s k chan n command) = true := by
  unfold queueTsv; simp +contextual (maxDischargeDepth := 99) [h]

@[simp] theorem inv_countError (s : State) (x : TinkerReq) (h : Inv s = true) :
    Inv (countError s x) = true := by
  unfold countError; (repeat' split) <;> simp +contextual (maxDischargeDepth := 99) [h]

@[simp] theorem inv_markUncorrectable (s : State) (frame : Nat) (sector : Nat) (h : Inv s = true) :
    Inv (markUncorrectable s frame sector) = true := by
  unfold markUncorrectable; simp [h]

@[simp] theorem inv_corruptSector (s : State) (x : TinkerReq) (h : Inv s = true) :
    Inv (corruptSector s x) = true := by
  unfold corruptSector; (repeat' split) <;> simp +contextual (maxDischargeDepth := 99) [h]

@[simp] theorem inv_spareGone (s : State) (k : Nat) (x : Nat × Nat × Nat × Nat) (h : Inv s = true) :
    Inv (spareGone s k x) = true := by
  unfold spareGone; (repeat' split) <;> simp +contextual (maxDischargeDepth := 99) [h]

@[simp] theorem inv_chargeFrame (s : State) (t : Nat) (g : Nat) (dropped : Nat) (migrated : Nat) (h : Inv s = true) :
    Inv (chargeFrame s t g dropped migrated) = true := by
  unfold chargeFrame; simp +contextual (maxDischargeDepth := 99) [h]

@[simp] theorem inv_retireFrame (s : State) (f : Nat) (corrects : Bool) (h : Inv s = true) :
    Inv (retireFrame s f corrects) = true := by
  unfold retireFrame; (repeat' split) <;> simp +contextual (maxDischargeDepth := 99) [h]

/-! ### Scrivener -/

@[simp] theorem inv_syncShop (s : State) (shop : Nat) (h : Inv s = true) :
    Inv (syncShop s shop) = true := by
  unfold syncShop; simp +contextual (maxDischargeDepth := 99) [h]

@[simp] theorem inv_samplePost (s : State) (t : Nat) (bs : List Byte) (h : Inv s = true) :
    Inv (samplePost s t bs) = true := by
  unfold samplePost; dsimp only
  (repeat' split) <;> first
    | (simp +contextual (maxDischargeDepth := 99) [h]; done)
    | (have h2 := inv_of_some ‹(_ : Option State) = some _› (by simp (maxDischargeDepth := 99) [h])
       simp +contextual (maxDischargeDepth := 99) [h2])

@[simp] theorem inv_dropL1 (s : State) (t : Nat) (h : Inv s = true) :
    Inv (dropL1 s t) = true := by
  unfold dropL1; simp +contextual (maxDischargeDepth := 99) [h]

@[simp] theorem inv_nextPass (s : State) (L : Nat) (l : Lot) (h : Inv s = true) :
    Inv (nextPass s L l) = true := by
  unfold nextPass; (repeat' split) <;> simp +contextual (maxDischargeDepth := 99) [h]

@[simp] theorem inv_postPass (s : State) (L : Nat) (h : Inv s = true) :
    Inv (postPass s L) = true := by
  unfold postPass; dsimp only
  (repeat' split) <;> first
    | (simp +contextual (maxDischargeDepth := 99) [h]; done)
    | (have h2 := inv_of_some ‹(_ : Option State) = some _› (by simp (maxDischargeDepth := 99) [h])
       simp +contextual (maxDischargeDepth := 99) [h2])

/-! ### Network -/

@[simp] theorem inv_pinGrain (s : State) (t : Nat) (g : Nat × Nat) (h : Inv s = true) :
    (pinGrain s t g).all Inv = true := by
  unfold pinGrain
  dsimp only
  split
  · exact h
  · have h1 := inv_fillGrain s t g.2 g.1 h
    cases e : fillGrain s t g.2 g.1 with
    | none => rfl
    | some s1 => rw [e] at h1; exact h1

@[simp] theorem inv_pinGrains (s : State) (t : Nat) (gs : List (Nat × Nat)) (h : Inv s = true) :
    (pinGrains s t gs).all Inv = true := by
  induction gs generalizing s with
  | nil => exact h
  | cons g gs ih =>
    unfold pinGrains
    split
    · rfl
    · exact ih _ (inv_of_some ‹_› (inv_pinGrain s t g h))

/-! ### Package -/

@[simp] theorem inv_clockTo (s : State) (clk : Nat) (h : Inv s = true) (lo : 10 ≤ clk) (hi : clk ≤ 21) :
    Inv (clockTo s clk) = true := by
  have p := inv_parts h
  unfold clockTo
  split
  · simp only [Inv, Bool.and_eq_true, decide_eq_true_eq]
    exact ⟨⟨⟨⟨p.1, lo, hi⟩, p.2.2.1⟩, p.2.2.2.1⟩, p.2.2.2.2⟩
  · exact h

@[simp] theorem inv_resetDevice (s : State) (tripped : Bool) (h : Inv s = true) :
    Inv (resetDevice s tripped) = true := by
  have hm := (inv_parts h).1
  simp only [Memory.wf, Bool.and_eq_true] at hm
  simp only [resetDevice, inv_mk, invOf, Bool.and_eq_true, decide_eq_true_eq]
  refine ⟨⟨⟨⟨⟨⟨⟨cellsWf_filter _ hm.1.1.1, ?_⟩, ?_⟩, ?_⟩, ?_⟩, ?_⟩, ?_⟩, ?_⟩ <;> decide

@[simp] theorem inv_openLoft (s : State) (lbase : Nat) (lsize : Nat) (h : Inv s = true) :
    Inv (openLoft s lbase lsize) = true := by
  unfold openLoft; simp [h]

/-! ### Clause -/

@[simp] theorem inv_fetchWord (s : State) (w : Nat) (slot : Nat) (wv : Weave) (sp : Split) (va : Nat) (h : Inv s = true) :
    (fetchWord s w slot wv sp va).inv = true := by
  unfold fetchWord; dsimp only; (repeat' split) <;> simp +contextual (maxDischargeDepth := 99) [h]

@[simp] theorem inv_fetchWords (s : State) (w : Nat) (slot : Nat) (wv : Weave) (sp : Split) (x5 : Nat) (x6 : Nat) (h : Inv s = true) :
    (fetchWords s w slot wv sp x5 x6).inv = true := by
  induction x6 generalizing s w slot wv sp x5 with
  | zero => first | exact h | (simp_all (maxDischargeDepth := 99) [fetchWords]; done) | simpa [fetchWords] using h
  | succ n ih =>
    unfold fetchWords; try dsimp only
    (repeat' split) <;> simp +contextual (maxDischargeDepth := 99) [ih, h]

@[simp] theorem inv_fetchRest (s : State) (w : Nat) (slot : Nat) (wv : Weave) (sp : Split) (pas : List Nat) (h6 : DWord)
    (h : Inv s = true) :
    (fetchRest s w slot wv sp pas h6).inv = true := by
  unfold fetchRest
  have hf := inv_fetchWords s w slot wv sp (sp.pc.toNat + 8) (hdrCount h6 + 1) h
  split
  · rfl
  · rename_i e
    rw [e] at hf
    exact hf
  · exact hf

@[simp] theorem inv_fetchClause (s : State) (w : Nat) (slot : Nat) (wv : Weave) (sp : Split) (h : Inv s = true) :
    (fetchClause s w slot wv sp).inv = true := by
  unfold fetchClause; dsimp only; (repeat' split) <;> simp +contextual (maxDischargeDepth := 99) [h]

@[simp] theorem inv_actBreaks (s : State) (w : Nat) (slot : Nat) (wv : Weave) (ms : List (Nat × Nat)) (h : Inv s = true) :
    Inv (actBreaks s w slot wv ms).1 = true := by
  unfold actBreaks; simp +contextual (maxDischargeDepth := 99) [h]

@[simp] theorem inv_selectWeave (s : State) (w : Nat) (wv : Weave) (h : Inv s = true) :
    Inv (selectWeave s w wv) = true := by
  unfold selectWeave; simp [h]

@[simp] theorem inv_observeFlags (s : State) (w : Nat) (wv : Weave) (sp : Split) (h4 : DWord) (h : Inv s = true) :
    Inv (observeFlags s w wv sp h4) = true := by
  unfold observeFlags; simp [h]

@[simp] theorem inv_runClause (s : State) (w : Nat) (slot : Nat) (h3 : DWord) (ws : List DWord) (h : Inv s = true) :
    Inv (runClause s w slot h3 ws) = true := by
  unfold runClause; simp [h]

@[simp] theorem inv_beginClause (s : State) (w : Nat) (slot : Nat) (wv : Weave) (sp : Split) (h5 : DWord) (ws : List DWord)
    (h : Inv s = true) :
    Inv (beginClause s w slot wv sp h5 ws) = true := by
  unfold beginClause; dsimp only
  (repeat' split) <;> first
    | (simp +contextual (maxDischargeDepth := 99) [h]; done)
    | (have h2 := inv_of_fst ‹_ = (_, _)› (by simp (maxDischargeDepth := 99) [h])
       simp +contextual (maxDischargeDepth := 99) [h2])

@[simp] theorem inv_fetchTrap (s : State) (w : Nat) (slot : Nat) (wv : Weave) (sp : Split) (t : Trap) (hdr : Option DWord)
    (h : Inv s = true) :
    Inv (fetchTrap s w slot wv sp t hdr) = true := by
  unfold fetchTrap; simp +contextual (maxDischargeDepth := 99) [h]

@[simp] theorem inv_fetched (s : State) (w : Nat) (slot : Nat) (h : Inv s = true) :
    Inv (fetched s w slot) = true := by
  unfold fetched; simp [h]

@[simp] theorem inv_startClause (s : State) (w : Nat) (slot : Nat) (wv : Weave) (sp : Split) (h : Inv s = true) :
    Inv (startClause s w slot wv sp) = true := by
  unfold startClause
  have hf := inv_fetchClause s w slot wv sp h
  split <;> rename_i e <;> (try rw [e] at hf)
  · exact inv_modSplit _ _ _ _ hf
  · exact inv_taskTrap _ _ _ _ _ _ (inv_fetched _ _ _ h)
  · exact inv_fetchTrap _ _ _ _ _ _ _ (inv_fetched _ _ _ hf)
  · exact h
  · exact inv_beginClause _ _ _ _ _ _ _ (inv_askLines _ _ _ (inv_fetched _ _ _ h))

@[simp] theorem inv_noteVisit (s : State) (bench : Nat) (w : Nat) (slot : Nat) (wv : Weave) (left : List (Nat × Nat))
    (h : Inv s = true) :
    Inv (noteVisit s bench w slot wv left) = true := by
  unfold noteVisit; simp [h]

@[simp] theorem inv_startPair (s : State) (bench : Nat) (w : Nat) (slot : Nat) (h : Inv s = true) :
    Inv (startPair s bench w slot) = true := by
  unfold startPair; dsimp only; (repeat' split) <;> simp +contextual (maxDischargeDepth := 99) [h]

@[simp] theorem inv_farHalt (s : State) (w : Nat) (wv : Weave) (f : FarTrap) (t : Trap) (h : Inv s = true) :
    Inv (farHalt s w wv f t) = true := by
  unfold farHalt; simp +contextual (maxDischargeDepth := 99) [h]

@[simp] theorem inv_wakeWait (s : State) (w : Nat) (slot : Nat) (wait : Wait) (h : Inv s = true) :
    Inv (wakeWait s w slot wait) = true := by
  unfold wakeWait; simp [h]

/-! ### Complete -/

@[simp] theorem inv_performedOp (s : State) (n : Nat) (kind : OpKind → OpKind) (h : Inv s = true) :
    Inv (performedOp s n kind) = true := by
  unfold performedOp; simp [h]

@[simp] theorem inv_performInvalidate (s : State) (n : Nat) (wv : Weave) (lo : Nat) (grains : Nat) (all : Bool) (h : Inv s = true) :
    Inv (performInvalidate s n wv lo grains all) = true := by
  unfold performInvalidate; simp [h]

@[simp] theorem inv_evictAt (s : State) (t : Nat) (va : Nat) (h : Inv s = true) :
    Inv (evictAt s t va).1 = true := by
  unfold evictAt; dsimp only; (repeat' split) <;> simp +contextual (maxDischargeDepth := 99) [h]

@[simp] theorem inv_performEvict (s : State) (n : Nat) (wv : Weave) (vas : List Nat) (h : Inv s = true) :
    Inv (performEvict s n wv vas) = true := by
  unfold performEvict
  dsimp only
  split
  · simp [h]
  · have key := foldl_keeps (fun x : State × List Nat => Inv x.1 = true) (fun x va => match evictAt x.1 wv.ids.tenancy va with
        | (s1, true) => (s1, x.2)
        | (s1, false) => (s1, x.2 ++ [va]))
      (fun x va hx => by
        have he := inv_evictAt x.1 wv.ids.tenancy va hx
        split <;> exact inv_of_fst ‹_ = (_, _)› he) vas (s, []) h
    split
    · exact inv_performedOp _ _ _ key
    · exact key

@[simp] theorem inv_performCkpt (s : State) (n : Nat) (wv : Weave) (h : Inv s = true) :
    Inv (performCkpt s n wv) = true := by
  unfold performCkpt
  split
  · exact inv_of_wait ‹_ = Try.wait _› (inv_commitFor _ _ _ _ h)
  · exact inv_performedOp _ _ _ (inv_of_ok ‹_ = Try.ok _› (inv_commitFor _ _ _ _ h))

@[simp] theorem inv_performArrive (s : State) (n : Nat) (o : Op) (wv : Weave) (bar : Nat) (k : Nat) (h : Inv s = true) :
    Inv (performArrive s n o wv bar k) = true := by
  unfold performArrive; simp [h]

@[simp] theorem inv_performOp (s : State) (n : Nat) (o : Op) (wv : Weave) (h : Inv s = true) :
    Inv (performOp s n o wv) = true := by
  unfold performOp; (repeat' split) <;> simp +contextual (maxDischargeDepth := 99) [h]

@[simp] theorem inv_completeOne (s : State) (n : Nat) (h : Inv s = true) :
    Inv (completeOne s n) = true := by
  unfold completeOne; (repeat' split) <;> simp +contextual (maxDischargeDepth := 99) [h]

@[simp] theorem inv_dropPlain (s : State) (n : Nat) (w : Nat) (q : Nat) (h : Inv s = true) :
    Inv (dropPlain s n w q) = true := by
  unfold dropPlain; simp +contextual (maxDischargeDepth := 99) [h]

/-! ### Schedule -/

@[simp] theorem inv_elapse (s : State) (h : Inv s = true) :
    Inv (elapse s) = true := by
  have p := inv_parts h
  simp only [Inv, Bool.and_eq_true, decide_eq_true_eq]
  refine ⟨⟨⟨⟨p.1, p.2.1⟩, ?_⟩, p.2.2.2.1⟩, p.2.2.2.2⟩
  change periodAt s _ = 3900 ∨ periodAt s _ = 1950
  unfold periodAt
  split
  · exact p.2.2.1
  · exact p.2.2.2.1

@[simp] theorem inv_tick (s : State) (h : Inv s = true) :
    Inv (tick s) = true := by
  unfold tick; simp [h]

@[simp] theorem inv_outerParts (s : State) (hops : Nat) (pa : Nat) (bs : List Byte) (view : View) (h : Inv s = true) :
    Inv (outerParts s hops pa bs view).1 = true := by
  unfold outerParts
  split
  · exact h
  · refine foldl_keeps (fun x : State × View => Inv x.1 = true) _ (fun x g hx => ?_) _ _ h
    dsimp only
    split
    · exact hx
    · exact inv_poolWrite _ _ hx

@[simp] theorem inv_outerWrite (s : State) (hops : Nat) (pa : Nat) (bs : List Byte) (h : Inv s = true) :
    Inv (outerWrite s hops pa bs) = true := by
  unfold outerWrite; simp [h]

@[simp] theorem inv_hostWrite (s : State) (pa : Nat) (bs : List Byte) (h : Inv s = true) :
    Inv (hostWrite s pa bs) = true := by
  unfold hostWrite; simp [h]

@[simp] theorem inv_hostRead (s : State) (pa : Nat) (n : Nat) (h : Inv s = true) :
    Inv (hostRead s pa n) = true := by
  unfold hostRead; simp [h]

@[simp] theorem inv_upsetAt (s : State) (u : Upset) (h : Inv s = true) :
    Inv (upsetAt s u) = true := by
  unfold upsetAt; simp [h]

end Sys2Proof.Machine
end

