-- ==== Sys2Proof/Laws/PerInstr.lean ====
section
/-!
SUPPORT. Instruction by instruction: a well-formed instruction is read back from its word.
-/

namespace Sys2Proof.Laws

open Sys2Proof

set_option maxRecDepth 8000

/-- PGQ's operation stands in the top bits of IMM16 (R325). -/
theorem pgqWord_op (f : SYS) : ((sysWord 0xFC#8 f).extractLsb' 14 2).toNat = pgqOp f := by
  have h := congrArg SYS.imm (sysWord_fields 0xFC#8 f)
  simp only [sysOf] at h
  rw [pgqOp, ← h]
  congr 1
  apply BitVec.eq_of_getLsbD_eq
  intro i hi
  simp (disch := omega)

/-- The family Encoded: a well-formed instruction has a word, and the decoder reads the instruction back from it. -/
def Encoded.Statement (i : Instr) : Prop := i.wf = true → ∃ w, encode i = some w ∧ decodeWord w = i

theorem Encoded.nop (f : RRR) : Encoded.Statement (.nop f) := fun _ => ⟨rrrWord 0x00#8 f, rfl, by
  have h : decodeWord (rrrWord 0x00#8 f) = .nop (rrrOf (rrrWord 0x00#8 f)) := by unfold decodeWord; rw [rrrWord_opcode]; rfl
  rw [h, rrrWord_fields]⟩
theorem Encoded.endSplit (f : RRR) : Encoded.Statement (.endSplit f) := fun _ => ⟨rrrWord 0x01#8 f, rfl, by
  have h : decodeWord (rrrWord 0x01#8 f) = .endSplit (rrrOf (rrrWord 0x01#8 f)) := by unfold decodeWord; rw [rrrWord_opcode]; rfl
  rw [h, rrrWord_fields]⟩
theorem Encoded.bra (f : BR) : Encoded.Statement (.bra f) := fun _ => ⟨brWord 0x02#8 f, rfl, by
  have h : decodeWord (brWord 0x02#8 f) = .bra (brOf (brWord 0x02#8 f)) := by unfold decodeWord; rw [brWord_opcode]; rfl
  rw [h, brWord_fields]⟩
theorem Encoded.brv (f : BR) : Encoded.Statement (.brv f) := fun _ => ⟨brWord 0x03#8 f, rfl, by
  have h : decodeWord (brWord 0x03#8 f) = .brv (brOf (brWord 0x03#8 f)) := by unfold decodeWord; rw [brWord_opcode]; rfl
  rw [h, brWord_fields]⟩
theorem Encoded.brx (f : RRR) : Encoded.Statement (.brx f) := fun _ => ⟨rrrWord 0x04#8 f, rfl, by
  have h : decodeWord (rrrWord 0x04#8 f) = .brx (rrrOf (rrrWord 0x04#8 f)) := by unfold decodeWord; rw [rrrWord_opcode]; rfl
  rw [h, rrrWord_fields]⟩
theorem Encoded.call (f : BR) : Encoded.Statement (.call f) := fun _ => ⟨brWord 0x05#8 f, rfl, by
  have h : decodeWord (brWord 0x05#8 f) = .call (brOf (brWord 0x05#8 f)) := by unfold decodeWord; rw [brWord_opcode]; rfl
  rw [h, brWord_fields]⟩
theorem Encoded.ret (f : RRR) : Encoded.Statement (.ret f) := fun _ => ⟨rrrWord 0x06#8 f, rfl, by
  have h : decodeWord (rrrWord 0x06#8 f) = .ret (rrrOf (rrrWord 0x06#8 f)) := by unfold decodeWord; rw [rrrWord_opcode]; rfl
  rw [h, rrrWord_fields]⟩
theorem Encoded.jmark (f : BR) : Encoded.Statement (.jmark f) := fun _ => ⟨brWord 0x07#8 f, rfl, by
  have h : decodeWord (brWord 0x07#8 f) = .jmark (brOf (brWord 0x07#8 f)) := by unfold decodeWord; rw [brWord_opcode]; rfl
  rw [h, brWord_fields]⟩
theorem Encoded.join (f : RRR) : Encoded.Statement (.join f) := fun _ => ⟨rrrWord 0x08#8 f, rfl, by
  have h : decodeWord (rrrWord 0x08#8 f) = .join (rrrOf (rrrWord 0x08#8 f)) := by unfold decodeWord; rw [rrrWord_opcode]; rfl
  rw [h, rrrWord_fields]⟩
theorem Encoded.pause (f : RI) : Encoded.Statement (.pause f) := fun _ => ⟨riWord 0x09#8 f, rfl, by
  have h : decodeWord (riWord 0x09#8 f) = .pause (riOf (riWord 0x09#8 f)) := by unfold decodeWord; rw [riWord_opcode]; rfl
  rw [h, riWord_fields]⟩
theorem Encoded.waitf (f : RI) : Encoded.Statement (.waitf f) := fun _ => ⟨riWord 0x0A#8 f, rfl, by
  have h : decodeWord (riWord 0x0A#8 f) = .waitf (riOf (riWord 0x0A#8 f)) := by unfold decodeWord; rw [riWord_opcode]; rfl
  rw [h, riWord_fields]⟩
theorem Encoded.trap (f : RI) : Encoded.Statement (.trap f) := fun _ => ⟨riWord 0x0B#8 f, rfl, by
  have h : decodeWord (riWord 0x0B#8 f) = .trap (riOf (riWord 0x0B#8 f)) := by unfold decodeWord; rw [riWord_opcode]; rfl
  rw [h, riWord_fields]⟩
theorem Encoded.dead (f : RRR) : Encoded.Statement (.dead f) := fun _ => ⟨rrrWord 0x0C#8 f, rfl, by
  have h : decodeWord (rrrWord 0x0C#8 f) = .dead (rrrOf (rrrWord 0x0C#8 f)) := by unfold decodeWord; rw [rrrWord_opcode]; rfl
  rw [h, rrrWord_fields]⟩
theorem Encoded.actm (f : RRR) : Encoded.Statement (.actm f) := fun _ => ⟨rrrWord 0x0D#8 f, rfl, by
  have h : decodeWord (rrrWord 0x0D#8 f) = .actm (rrrOf (rrrWord 0x0D#8 f)) := by unfold decodeWord; rw [rrrWord_opcode]; rfl
  rw [h, rrrWord_fields]⟩
theorem Encoded.plog (f : RRR) : Encoded.Statement (.plog f) := fun _ => ⟨rrrWord 0x0E#8 f, rfl, by
  have h : decodeWord (rrrWord 0x0E#8 f) = .plog (rrrOf (rrrWord 0x0E#8 f)) := by unfold decodeWord; rw [rrrWord_opcode]; rfl
  rw [h, rrrWord_fields]⟩
theorem Encoded.pget (f : RRR) : Encoded.Statement (.pget f) := fun _ => ⟨rrrWord 0x0F#8 f, rfl, by
  have h : decodeWord (rrrWord 0x0F#8 f) = .pget (rrrOf (rrrWord 0x0F#8 f)) := by unfold decodeWord; rw [rrrWord_opcode]; rfl
  rw [h, rrrWord_fields]⟩
theorem Encoded.pput (f : RRR) : Encoded.Statement (.pput f) := fun _ => ⟨rrrWord 0x10#8 f, rfl, by
  have h : decodeWord (rrrWord 0x10#8 f) = .pput (rrrOf (rrrWord 0x10#8 f)) := by unfold decodeWord; rw [rrrWord_opcode]; rfl
  rw [h, rrrWord_fields]⟩
theorem Encoded.smov (f : RRR) : Encoded.Statement (.smov f) := fun _ => ⟨rrrWord 0x11#8 f, rfl, by
  have h : decodeWord (rrrWord 0x11#8 f) = .smov (rrrOf (rrrWord 0x11#8 f)) := by unfold decodeWord; rw [rrrWord_opcode]; rfl
  rw [h, rrrWord_fields]⟩
theorem Encoded.sadd (f : RRR) : Encoded.Statement (.sadd f) := fun _ => ⟨rrrWord 0x12#8 f, rfl, by
  have h : decodeWord (rrrWord 0x12#8 f) = .sadd (rrrOf (rrrWord 0x12#8 f)) := by unfold decodeWord; rw [rrrWord_opcode]; rfl
  rw [h, rrrWord_fields]⟩
theorem Encoded.ssub (f : RRR) : Encoded.Statement (.ssub f) := fun _ => ⟨rrrWord 0x13#8 f, rfl, by
  have h : decodeWord (rrrWord 0x13#8 f) = .ssub (rrrOf (rrrWord 0x13#8 f)) := by unfold decodeWord; rw [rrrWord_opcode]; rfl
  rw [h, rrrWord_fields]⟩
theorem Encoded.smul (f : RRR) : Encoded.Statement (.smul f) := fun _ => ⟨rrrWord 0x14#8 f, rfl, by
  have h : decodeWord (rrrWord 0x14#8 f) = .smul (rrrOf (rrrWord 0x14#8 f)) := by unfold decodeWord; rw [rrrWord_opcode]; rfl
  rw [h, rrrWord_fields]⟩
theorem Encoded.smulh (f : RRR) : Encoded.Statement (.smulh f) := fun _ => ⟨rrrWord 0x15#8 f, rfl, by
  have h : decodeWord (rrrWord 0x15#8 f) = .smulh (rrrOf (rrrWord 0x15#8 f)) := by unfold decodeWord; rw [rrrWord_opcode]; rfl
  rw [h, rrrWord_fields]⟩
theorem Encoded.sand (f : RRR) : Encoded.Statement (.sand f) := fun _ => ⟨rrrWord 0x16#8 f, rfl, by
  have h : decodeWord (rrrWord 0x16#8 f) = .sand (rrrOf (rrrWord 0x16#8 f)) := by unfold decodeWord; rw [rrrWord_opcode]; rfl
  rw [h, rrrWord_fields]⟩
theorem Encoded.sor (f : RRR) : Encoded.Statement (.sor f) := fun _ => ⟨rrrWord 0x17#8 f, rfl, by
  have h : decodeWord (rrrWord 0x17#8 f) = .sor (rrrOf (rrrWord 0x17#8 f)) := by unfold decodeWord; rw [rrrWord_opcode]; rfl
  rw [h, rrrWord_fields]⟩
theorem Encoded.sxor (f : RRR) : Encoded.Statement (.sxor f) := fun _ => ⟨rrrWord 0x18#8 f, rfl, by
  have h : decodeWord (rrrWord 0x18#8 f) = .sxor (rrrOf (rrrWord 0x18#8 f)) := by unfold decodeWord; rw [rrrWord_opcode]; rfl
  rw [h, rrrWord_fields]⟩
theorem Encoded.sshl (f : RRR) : Encoded.Statement (.sshl f) := fun _ => ⟨rrrWord 0x19#8 f, rfl, by
  have h : decodeWord (rrrWord 0x19#8 f) = .sshl (rrrOf (rrrWord 0x19#8 f)) := by unfold decodeWord; rw [rrrWord_opcode]; rfl
  rw [h, rrrWord_fields]⟩
theorem Encoded.sshr (f : RRR) : Encoded.Statement (.sshr f) := fun _ => ⟨rrrWord 0x1A#8 f, rfl, by
  have h : decodeWord (rrrWord 0x1A#8 f) = .sshr (rrrOf (rrrWord 0x1A#8 f)) := by unfold decodeWord; rw [rrrWord_opcode]; rfl
  rw [h, rrrWord_fields]⟩
theorem Encoded.ssra (f : RRR) : Encoded.Statement (.ssra f) := fun _ => ⟨rrrWord 0x1B#8 f, rfl, by
  have h : decodeWord (rrrWord 0x1B#8 f) = .ssra (rrrOf (rrrWord 0x1B#8 f)) := by unfold decodeWord; rw [rrrWord_opcode]; rfl
  rw [h, rrrWord_fields]⟩
theorem Encoded.smin (f : RRR) : Encoded.Statement (.smin f) := fun _ => ⟨rrrWord 0x1C#8 f, rfl, by
  have h : decodeWord (rrrWord 0x1C#8 f) = .smin (rrrOf (rrrWord 0x1C#8 f)) := by unfold decodeWord; rw [rrrWord_opcode]; rfl
  rw [h, rrrWord_fields]⟩
theorem Encoded.smax (f : RRR) : Encoded.Statement (.smax f) := fun _ => ⟨rrrWord 0x1D#8 f, rfl, by
  have h : decodeWord (rrrWord 0x1D#8 f) = .smax (rrrOf (rrrWord 0x1D#8 f)) := by unfold decodeWord; rw [rrrWord_opcode]; rfl
  rw [h, rrrWord_fields]⟩
theorem Encoded.scmp (f : RRR) : Encoded.Statement (.scmp f) := fun _ => ⟨rrrWord 0x1E#8 f, rfl, by
  have h : decodeWord (rrrWord 0x1E#8 f) = .scmp (rrrOf (rrrWord 0x1E#8 f)) := by unfold decodeWord; rw [rrrWord_opcode]; rfl
  rw [h, rrrWord_fields]⟩
theorem Encoded.ssel (f : RRR) : Encoded.Statement (.ssel f) := fun _ => ⟨rrrWord 0x1F#8 f, rfl, by
  have h : decodeWord (rrrWord 0x1F#8 f) = .ssel (rrrOf (rrrWord 0x1F#8 f)) := by unfold decodeWord; rw [rrrWord_opcode]; rfl
  rw [h, rrrWord_fields]⟩
theorem Encoded.sclz (f : RRR) : Encoded.Statement (.sclz f) := fun _ => ⟨rrrWord 0x20#8 f, rfl, by
  have h : decodeWord (rrrWord 0x20#8 f) = .sclz (rrrOf (rrrWord 0x20#8 f)) := by unfold decodeWord; rw [rrrWord_opcode]; rfl
  rw [h, rrrWord_fields]⟩
theorem Encoded.spopc (f : RRR) : Encoded.Statement (.spopc f) := fun _ => ⟨rrrWord 0x21#8 f, rfl, by
  have h : decodeWord (rrrWord 0x21#8 f) = .spopc (rrrOf (rrrWord 0x21#8 f)) := by unfold decodeWord; rw [rrrWord_opcode]; rfl
  rw [h, rrrWord_fields]⟩
theorem Encoded.smovRi (f : RI) : Encoded.Statement (.smovRi f) := fun _ => ⟨riWord 0x22#8 f, rfl, by
  have h : decodeWord (riWord 0x22#8 f) = .smovRi (riOf (riWord 0x22#8 f)) := by unfold decodeWord; rw [riWord_opcode]; rfl
  rw [h, riWord_fields]⟩
theorem Encoded.saddRi (f : RI) : Encoded.Statement (.saddRi f) := fun _ => ⟨riWord 0x23#8 f, rfl, by
  have h : decodeWord (riWord 0x23#8 f) = .saddRi (riOf (riWord 0x23#8 f)) := by unfold decodeWord; rw [riWord_opcode]; rfl
  rw [h, riWord_fields]⟩
theorem Encoded.smulRi (f : RI) : Encoded.Statement (.smulRi f) := fun _ => ⟨riWord 0x24#8 f, rfl, by
  have h : decodeWord (riWord 0x24#8 f) = .smulRi (riOf (riWord 0x24#8 f)) := by unfold decodeWord; rw [riWord_opcode]; rfl
  rw [h, riWord_fields]⟩
theorem Encoded.sandRi (f : RI) : Encoded.Statement (.sandRi f) := fun _ => ⟨riWord 0x25#8 f, rfl, by
  have h : decodeWord (riWord 0x25#8 f) = .sandRi (riOf (riWord 0x25#8 f)) := by unfold decodeWord; rw [riWord_opcode]; rfl
  rw [h, riWord_fields]⟩
theorem Encoded.sorRi (f : RI) : Encoded.Statement (.sorRi f) := fun _ => ⟨riWord 0x26#8 f, rfl, by
  have h : decodeWord (riWord 0x26#8 f) = .sorRi (riOf (riWord 0x26#8 f)) := by unfold decodeWord; rw [riWord_opcode]; rfl
  rw [h, riWord_fields]⟩
theorem Encoded.sxorRi (f : RI) : Encoded.Statement (.sxorRi f) := fun _ => ⟨riWord 0x27#8 f, rfl, by
  have h : decodeWord (riWord 0x27#8 f) = .sxorRi (riOf (riWord 0x27#8 f)) := by unfold decodeWord; rw [riWord_opcode]; rfl
  rw [h, riWord_fields]⟩
theorem Encoded.sshlRi (f : RI) : Encoded.Statement (.sshlRi f) := fun _ => ⟨riWord 0x28#8 f, rfl, by
  have h : decodeWord (riWord 0x28#8 f) = .sshlRi (riOf (riWord 0x28#8 f)) := by unfold decodeWord; rw [riWord_opcode]; rfl
  rw [h, riWord_fields]⟩
theorem Encoded.sshrRi (f : RI) : Encoded.Statement (.sshrRi f) := fun _ => ⟨riWord 0x29#8 f, rfl, by
  have h : decodeWord (riWord 0x29#8 f) = .sshrRi (riOf (riWord 0x29#8 f)) := by unfold decodeWord; rw [riWord_opcode]; rfl
  rw [h, riWord_fields]⟩
theorem Encoded.ssraRi (f : RI) : Encoded.Statement (.ssraRi f) := fun _ => ⟨riWord 0x2A#8 f, rfl, by
  have h : decodeWord (riWord 0x2A#8 f) = .ssraRi (riOf (riWord 0x2A#8 f)) := by unfold decodeWord; rw [riWord_opcode]; rfl
  rw [h, riWord_fields]⟩
theorem Encoded.scmpRi (f : RI) : Encoded.Statement (.scmpRi f) := fun _ => ⟨riWord 0x2B#8 f, rfl, by
  have h : decodeWord (riWord 0x2B#8 f) = .scmpRi (riOf (riWord 0x2B#8 f)) := by unfold decodeWord; rw [riWord_opcode]; rfl
  rw [h, riWord_fields]⟩
theorem Encoded.sminRi (f : RI) : Encoded.Statement (.sminRi f) := fun _ => ⟨riWord 0x2C#8 f, rfl, by
  have h : decodeWord (riWord 0x2C#8 f) = .sminRi (riOf (riWord 0x2C#8 f)) := by unfold decodeWord; rw [riWord_opcode]; rfl
  rw [h, riWord_fields]⟩
theorem Encoded.smaxRi (f : RI) : Encoded.Statement (.smaxRi f) := fun _ => ⟨riWord 0x2D#8 f, rfl, by
  have h : decodeWord (riWord 0x2D#8 f) = .smaxRi (riOf (riWord 0x2D#8 f)) := by unfold decodeWord; rw [riWord_opcode]; rfl
  rw [h, riWord_fields]⟩
theorem Encoded.vmov (f : RRR) : Encoded.Statement (.vmov f) := fun _ => ⟨rrrWord 0x30#8 f, rfl, by
  have h : decodeWord (rrrWord 0x30#8 f) = .vmov (rrrOf (rrrWord 0x30#8 f)) := by unfold decodeWord; rw [rrrWord_opcode]; rfl
  rw [h, rrrWord_fields]⟩
theorem Encoded.vmovRi (f : RI) : Encoded.Statement (.vmovRi f) := fun _ => ⟨riWord 0x31#8 f, rfl, by
  have h : decodeWord (riWord 0x31#8 f) = .vmovRi (riOf (riWord 0x31#8 f)) := by unfold decodeWord; rw [riWord_opcode]; rfl
  rw [h, riWord_fields]⟩
theorem Encoded.vadd (f : RRR) : Encoded.Statement (.vadd f) := fun _ => ⟨rrrWord 0x32#8 f, rfl, by
  have h : decodeWord (rrrWord 0x32#8 f) = .vadd (rrrOf (rrrWord 0x32#8 f)) := by unfold decodeWord; rw [rrrWord_opcode]; rfl
  rw [h, rrrWord_fields]⟩
theorem Encoded.vaddRi (f : RI) : Encoded.Statement (.vaddRi f) := fun _ => ⟨riWord 0x33#8 f, rfl, by
  have h : decodeWord (riWord 0x33#8 f) = .vaddRi (riOf (riWord 0x33#8 f)) := by unfold decodeWord; rw [riWord_opcode]; rfl
  rw [h, riWord_fields]⟩
theorem Encoded.vsub (f : RRR) : Encoded.Statement (.vsub f) := fun _ => ⟨rrrWord 0x34#8 f, rfl, by
  have h : decodeWord (rrrWord 0x34#8 f) = .vsub (rrrOf (rrrWord 0x34#8 f)) := by unfold decodeWord; rw [rrrWord_opcode]; rfl
  rw [h, rrrWord_fields]⟩
theorem Encoded.vsubRi (f : RI) : Encoded.Statement (.vsubRi f) := fun _ => ⟨riWord 0x35#8 f, rfl, by
  have h : decodeWord (riWord 0x35#8 f) = .vsubRi (riOf (riWord 0x35#8 f)) := by unfold decodeWord; rw [riWord_opcode]; rfl
  rw [h, riWord_fields]⟩
theorem Encoded.vadds (f : RRR) : Encoded.Statement (.vadds f) := fun _ => ⟨rrrWord 0x36#8 f, rfl, by
  have h : decodeWord (rrrWord 0x36#8 f) = .vadds (rrrOf (rrrWord 0x36#8 f)) := by unfold decodeWord; rw [rrrWord_opcode]; rfl
  rw [h, rrrWord_fields]⟩
theorem Encoded.vaddsRi (f : RI) : Encoded.Statement (.vaddsRi f) := fun _ => ⟨riWord 0x7A#8 f, rfl, by
  have h : decodeWord (riWord 0x7A#8 f) = .vaddsRi (riOf (riWord 0x7A#8 f)) := by unfold decodeWord; rw [riWord_opcode]; rfl
  rw [h, riWord_fields]⟩
theorem Encoded.vsubs (f : RRR) : Encoded.Statement (.vsubs f) := fun _ => ⟨rrrWord 0x37#8 f, rfl, by
  have h : decodeWord (rrrWord 0x37#8 f) = .vsubs (rrrOf (rrrWord 0x37#8 f)) := by unfold decodeWord; rw [rrrWord_opcode]; rfl
  rw [h, rrrWord_fields]⟩
theorem Encoded.vmul (f : RRR) : Encoded.Statement (.vmul f) := fun _ => ⟨rrrWord 0x38#8 f, rfl, by
  have h : decodeWord (rrrWord 0x38#8 f) = .vmul (rrrOf (rrrWord 0x38#8 f)) := by unfold decodeWord; rw [rrrWord_opcode]; rfl
  rw [h, rrrWord_fields]⟩
theorem Encoded.vmulRi (f : RI) : Encoded.Statement (.vmulRi f) := fun _ => ⟨riWord 0x39#8 f, rfl, by
  have h : decodeWord (riWord 0x39#8 f) = .vmulRi (riOf (riWord 0x39#8 f)) := by unfold decodeWord; rw [riWord_opcode]; rfl
  rw [h, riWord_fields]⟩
theorem Encoded.vmulh (f : RRR) : Encoded.Statement (.vmulh f) := fun _ => ⟨rrrWord 0x3A#8 f, rfl, by
  have h : decodeWord (rrrWord 0x3A#8 f) = .vmulh (rrrOf (rrrWord 0x3A#8 f)) := by unfold decodeWord; rw [rrrWord_opcode]; rfl
  rw [h, rrrWord_fields]⟩
theorem Encoded.vmulw (f : RRR) : Encoded.Statement (.vmulw f) := fun _ => ⟨rrrWord 0x6E#8 f, rfl, by
  have h : decodeWord (rrrWord 0x6E#8 f) = .vmulw (rrrOf (rrrWord 0x6E#8 f)) := by unfold decodeWord; rw [rrrWord_opcode]; rfl
  rw [h, rrrWord_fields]⟩
theorem Encoded.vmad (f : RRR) : Encoded.Statement (.vmad f) := fun _ => ⟨rrrWord 0x3B#8 f, rfl, by
  have h : decodeWord (rrrWord 0x3B#8 f) = .vmad (rrrOf (rrrWord 0x3B#8 f)) := by unfold decodeWord; rw [rrrWord_opcode]; rfl
  rw [h, rrrWord_fields]⟩
theorem Encoded.vmadh (f : RRR) : Encoded.Statement (.vmadh f) := fun _ => ⟨rrrWord 0x79#8 f, rfl, by
  have h : decodeWord (rrrWord 0x79#8 f) = .vmadh (rrrOf (rrrWord 0x79#8 f)) := by unfold decodeWord; rw [rrrWord_opcode]; rfl
  rw [h, rrrWord_fields]⟩
theorem Encoded.vfma (f : RRR) : Encoded.Statement (.vfma f) := fun _ => ⟨rrrWord 0x3C#8 f, rfl, by
  have h : decodeWord (rrrWord 0x3C#8 f) = .vfma (rrrOf (rrrWord 0x3C#8 f)) := by unfold decodeWord; rw [rrrWord_opcode]; rfl
  rw [h, rrrWord_fields]⟩
theorem Encoded.vfms (f : RRR) : Encoded.Statement (.vfms f) := fun _ => ⟨rrrWord 0x3D#8 f, rfl, by
  have h : decodeWord (rrrWord 0x3D#8 f) = .vfms (rrrOf (rrrWord 0x3D#8 f)) := by unfold decodeWord; rw [rrrWord_opcode]; rfl
  rw [h, rrrWord_fields]⟩
theorem Encoded.vfnma (f : RRR) : Encoded.Statement (.vfnma f) := fun _ => ⟨rrrWord 0x3E#8 f, rfl, by
  have h : decodeWord (rrrWord 0x3E#8 f) = .vfnma (rrrOf (rrrWord 0x3E#8 f)) := by unfold decodeWord; rw [rrrWord_opcode]; rfl
  rw [h, rrrWord_fields]⟩
theorem Encoded.vabs (f : RRR) : Encoded.Statement (.vabs f) := fun _ => ⟨rrrWord 0x3F#8 f, rfl, by
  have h : decodeWord (rrrWord 0x3F#8 f) = .vabs (rrrOf (rrrWord 0x3F#8 f)) := by unfold decodeWord; rw [rrrWord_opcode]; rfl
  rw [h, rrrWord_fields]⟩
theorem Encoded.vneg (f : RRR) : Encoded.Statement (.vneg f) := fun _ => ⟨rrrWord 0x40#8 f, rfl, by
  have h : decodeWord (rrrWord 0x40#8 f) = .vneg (rrrOf (rrrWord 0x40#8 f)) := by unfold decodeWord; rw [rrrWord_opcode]; rfl
  rw [h, rrrWord_fields]⟩
theorem Encoded.vmin (f : RRR) : Encoded.Statement (.vmin f) := fun _ => ⟨rrrWord 0x41#8 f, rfl, by
  have h : decodeWord (rrrWord 0x41#8 f) = .vmin (rrrOf (rrrWord 0x41#8 f)) := by unfold decodeWord; rw [rrrWord_opcode]; rfl
  rw [h, rrrWord_fields]⟩
theorem Encoded.vminRi (f : RI) : Encoded.Statement (.vminRi f) := fun _ => ⟨riWord 0x6F#8 f, rfl, by
  have h : decodeWord (riWord 0x6F#8 f) = .vminRi (riOf (riWord 0x6F#8 f)) := by unfold decodeWord; rw [riWord_opcode]; rfl
  rw [h, riWord_fields]⟩
theorem Encoded.vmax (f : RRR) : Encoded.Statement (.vmax f) := fun _ => ⟨rrrWord 0x42#8 f, rfl, by
  have h : decodeWord (rrrWord 0x42#8 f) = .vmax (rrrOf (rrrWord 0x42#8 f)) := by unfold decodeWord; rw [rrrWord_opcode]; rfl
  rw [h, rrrWord_fields]⟩
theorem Encoded.vmaxRi (f : RI) : Encoded.Statement (.vmaxRi f) := fun _ => ⟨riWord 0x70#8 f, rfl, by
  have h : decodeWord (riWord 0x70#8 f) = .vmaxRi (riOf (riWord 0x70#8 f)) := by unfold decodeWord; rw [riWord_opcode]; rfl
  rw [h, riWord_fields]⟩
theorem Encoded.vclamp (f : RRR) : Encoded.Statement (.vclamp f) := fun _ => ⟨rrrWord 0x43#8 f, rfl, by
  have h : decodeWord (rrrWord 0x43#8 f) = .vclamp (rrrOf (rrrWord 0x43#8 f)) := by unfold decodeWord; rw [rrrWord_opcode]; rfl
  rw [h, rrrWord_fields]⟩
theorem Encoded.vsgn (f : RRR) : Encoded.Statement (.vsgn f) := fun _ => ⟨rrrWord 0x44#8 f, rfl, by
  have h : decodeWord (rrrWord 0x44#8 f) = .vsgn (rrrOf (rrrWord 0x44#8 f)) := by unfold decodeWord; rw [rrrWord_opcode]; rfl
  rw [h, rrrWord_fields]⟩
theorem Encoded.vabsd (f : RRR) : Encoded.Statement (.vabsd f) := fun _ => ⟨rrrWord 0x72#8 f, rfl, by
  have h : decodeWord (rrrWord 0x72#8 f) = .vabsd (rrrOf (rrrWord 0x72#8 f)) := by unfold decodeWord; rw [rrrWord_opcode]; rfl
  rw [h, rrrWord_fields]⟩
theorem Encoded.vavg (f : RRR) : Encoded.Statement (.vavg f) := fun _ => ⟨rrrWord 0x75#8 f, rfl, by
  have h : decodeWord (rrrWord 0x75#8 f) = .vavg (rrrOf (rrrWord 0x75#8 f)) := by unfold decodeWord; rw [rrrWord_opcode]; rfl
  rw [h, rrrWord_fields]⟩
theorem Encoded.vaddc (f : RRR) : Encoded.Statement (.vaddc f) := fun _ => ⟨rrrWord 0x6C#8 f, rfl, by
  have h : decodeWord (rrrWord 0x6C#8 f) = .vaddc (rrrOf (rrrWord 0x6C#8 f)) := by unfold decodeWord; rw [rrrWord_opcode]; rfl
  rw [h, rrrWord_fields]⟩
theorem Encoded.vsubb (f : RRR) : Encoded.Statement (.vsubb f) := fun _ => ⟨rrrWord 0x6D#8 f, rfl, by
  have h : decodeWord (rrrWord 0x6D#8 f) = .vsubb (rrrOf (rrrWord 0x6D#8 f)) := by unfold decodeWord; rw [rrrWord_opcode]; rfl
  rw [h, rrrWord_fields]⟩
theorem Encoded.vand (f : RRR) : Encoded.Statement (.vand f) := fun _ => ⟨rrrWord 0x45#8 f, rfl, by
  have h : decodeWord (rrrWord 0x45#8 f) = .vand (rrrOf (rrrWord 0x45#8 f)) := by unfold decodeWord; rw [rrrWord_opcode]; rfl
  rw [h, rrrWord_fields]⟩
theorem Encoded.vandRi (f : RI) : Encoded.Statement (.vandRi f) := fun _ => ⟨riWord 0x46#8 f, rfl, by
  have h : decodeWord (riWord 0x46#8 f) = .vandRi (riOf (riWord 0x46#8 f)) := by unfold decodeWord; rw [riWord_opcode]; rfl
  rw [h, riWord_fields]⟩
theorem Encoded.vor (f : RRR) : Encoded.Statement (.vor f) := fun _ => ⟨rrrWord 0x47#8 f, rfl, by
  have h : decodeWord (rrrWord 0x47#8 f) = .vor (rrrOf (rrrWord 0x47#8 f)) := by unfold decodeWord; rw [rrrWord_opcode]; rfl
  rw [h, rrrWord_fields]⟩
theorem Encoded.vorRi (f : RI) : Encoded.Statement (.vorRi f) := fun _ => ⟨riWord 0x48#8 f, rfl, by
  have h : decodeWord (riWord 0x48#8 f) = .vorRi (riOf (riWord 0x48#8 f)) := by unfold decodeWord; rw [riWord_opcode]; rfl
  rw [h, riWord_fields]⟩
theorem Encoded.vxor (f : RRR) : Encoded.Statement (.vxor f) := fun _ => ⟨rrrWord 0x49#8 f, rfl, by
  have h : decodeWord (rrrWord 0x49#8 f) = .vxor (rrrOf (rrrWord 0x49#8 f)) := by unfold decodeWord; rw [rrrWord_opcode]; rfl
  rw [h, rrrWord_fields]⟩
theorem Encoded.vxorRi (f : RI) : Encoded.Statement (.vxorRi f) := fun _ => ⟨riWord 0x4A#8 f, rfl, by
  have h : decodeWord (riWord 0x4A#8 f) = .vxorRi (riOf (riWord 0x4A#8 f)) := by unfold decodeWord; rw [riWord_opcode]; rfl
  rw [h, riWord_fields]⟩
theorem Encoded.vnot (f : RRR) : Encoded.Statement (.vnot f) := fun _ => ⟨rrrWord 0x4B#8 f, rfl, by
  have h : decodeWord (rrrWord 0x4B#8 f) = .vnot (rrrOf (rrrWord 0x4B#8 f)) := by unfold decodeWord; rw [rrrWord_opcode]; rfl
  rw [h, rrrWord_fields]⟩
theorem Encoded.vbool (f : RRR) : Encoded.Statement (.vbool f) := fun _ => ⟨rrrWord 0x4C#8 f, rfl, by
  have h : decodeWord (rrrWord 0x4C#8 f) = .vbool (rrrOf (rrrWord 0x4C#8 f)) := by unfold decodeWord; rw [rrrWord_opcode]; rfl
  rw [h, rrrWord_fields]⟩
theorem Encoded.vshl (f : RRR) : Encoded.Statement (.vshl f) := fun _ => ⟨rrrWord 0x4D#8 f, rfl, by
  have h : decodeWord (rrrWord 0x4D#8 f) = .vshl (rrrOf (rrrWord 0x4D#8 f)) := by unfold decodeWord; rw [rrrWord_opcode]; rfl
  rw [h, rrrWord_fields]⟩
theorem Encoded.vshlRi (f : RI) : Encoded.Statement (.vshlRi f) := fun _ => ⟨riWord 0x4E#8 f, rfl, by
  have h : decodeWord (riWord 0x4E#8 f) = .vshlRi (riOf (riWord 0x4E#8 f)) := by unfold decodeWord; rw [riWord_opcode]; rfl
  rw [h, riWord_fields]⟩
theorem Encoded.vshr (f : RRR) : Encoded.Statement (.vshr f) := fun _ => ⟨rrrWord 0x4F#8 f, rfl, by
  have h : decodeWord (rrrWord 0x4F#8 f) = .vshr (rrrOf (rrrWord 0x4F#8 f)) := by unfold decodeWord; rw [rrrWord_opcode]; rfl
  rw [h, rrrWord_fields]⟩
theorem Encoded.vshrRi (f : RI) : Encoded.Statement (.vshrRi f) := fun _ => ⟨riWord 0x50#8 f, rfl, by
  have h : decodeWord (riWord 0x50#8 f) = .vshrRi (riOf (riWord 0x50#8 f)) := by unfold decodeWord; rw [riWord_opcode]; rfl
  rw [h, riWord_fields]⟩
theorem Encoded.vsra (f : RRR) : Encoded.Statement (.vsra f) := fun _ => ⟨rrrWord 0x51#8 f, rfl, by
  have h : decodeWord (rrrWord 0x51#8 f) = .vsra (rrrOf (rrrWord 0x51#8 f)) := by unfold decodeWord; rw [rrrWord_opcode]; rfl
  rw [h, rrrWord_fields]⟩
theorem Encoded.vsraRi (f : RI) : Encoded.Statement (.vsraRi f) := fun _ => ⟨riWord 0x52#8 f, rfl, by
  have h : decodeWord (riWord 0x52#8 f) = .vsraRi (riOf (riWord 0x52#8 f)) := by unfold decodeWord; rw [riWord_opcode]; rfl
  rw [h, riWord_fields]⟩
theorem Encoded.vrol (f : RRR) : Encoded.Statement (.vrol f) := fun _ => ⟨rrrWord 0x53#8 f, rfl, by
  have h : decodeWord (rrrWord 0x53#8 f) = .vrol (rrrOf (rrrWord 0x53#8 f)) := by unfold decodeWord; rw [rrrWord_opcode]; rfl
  rw [h, rrrWord_fields]⟩
theorem Encoded.vrolRi (f : RI) : Encoded.Statement (.vrolRi f) := fun _ => ⟨riWord 0x54#8 f, rfl, by
  have h : decodeWord (riWord 0x54#8 f) = .vrolRi (riOf (riWord 0x54#8 f)) := by unfold decodeWord; rw [riWord_opcode]; rfl
  rw [h, riWord_fields]⟩
theorem Encoded.vclz (f : RRR) : Encoded.Statement (.vclz f) := fun _ => ⟨rrrWord 0x55#8 f, rfl, by
  have h : decodeWord (rrrWord 0x55#8 f) = .vclz (rrrOf (rrrWord 0x55#8 f)) := by unfold decodeWord; rw [rrrWord_opcode]; rfl
  rw [h, rrrWord_fields]⟩
theorem Encoded.vctz (f : RRR) : Encoded.Statement (.vctz f) := fun _ => ⟨rrrWord 0x77#8 f, rfl, by
  have h : decodeWord (rrrWord 0x77#8 f) = .vctz (rrrOf (rrrWord 0x77#8 f)) := by unfold decodeWord; rw [rrrWord_opcode]; rfl
  rw [h, rrrWord_fields]⟩
theorem Encoded.popc (f : RRR) : Encoded.Statement (.popc f) := fun _ => ⟨rrrWord 0x56#8 f, rfl, by
  have h : decodeWord (rrrWord 0x56#8 f) = .popc (rrrOf (rrrWord 0x56#8 f)) := by unfold decodeWord; rw [rrrWord_opcode]; rfl
  rw [h, rrrWord_fields]⟩
theorem Encoded.vbrev (f : RRR) : Encoded.Statement (.vbrev f) := fun _ => ⟨rrrWord 0x57#8 f, rfl, by
  have h : decodeWord (rrrWord 0x57#8 f) = .vbrev (rrrOf (rrrWord 0x57#8 f)) := by unfold decodeWord; rw [rrrWord_opcode]; rfl
  rw [h, rrrWord_fields]⟩
theorem Encoded.vbswap (f : RRR) : Encoded.Statement (.vbswap f) := fun _ => ⟨rrrWord 0x78#8 f, rfl, by
  have h : decodeWord (rrrWord 0x78#8 f) = .vbswap (rrrOf (rrrWord 0x78#8 f)) := by unfold decodeWord; rw [rrrWord_opcode]; rfl
  rw [h, rrrWord_fields]⟩
theorem Encoded.vbfe (f : RRR) : Encoded.Statement (.vbfe f) := fun _ => ⟨rrrWord 0x58#8 f, rfl, by
  have h : decodeWord (rrrWord 0x58#8 f) = .vbfe (rrrOf (rrrWord 0x58#8 f)) := by unfold decodeWord; rw [rrrWord_opcode]; rfl
  rw [h, rrrWord_fields]⟩
theorem Encoded.vbfi (f : RRR) : Encoded.Statement (.vbfi f) := fun _ => ⟨rrrWord 0x59#8 f, rfl, by
  have h : decodeWord (rrrWord 0x59#8 f) = .vbfi (rrrOf (rrrWord 0x59#8 f)) := by unfold decodeWord; rw [rrrWord_opcode]; rfl
  rw [h, rrrWord_fields]⟩
theorem Encoded.vcmp (f : RRR) : Encoded.Statement (.vcmp f) := fun _ => ⟨rrrWord 0x5A#8 f, rfl, by
  have h : decodeWord (rrrWord 0x5A#8 f) = .vcmp (rrrOf (rrrWord 0x5A#8 f)) := by unfold decodeWord; rw [rrrWord_opcode]; rfl
  rw [h, rrrWord_fields]⟩
theorem Encoded.vcmpRi (f : RI) : Encoded.Statement (.vcmpRi f) := fun _ => ⟨riWord 0x5B#8 f, rfl, by
  have h : decodeWord (riWord 0x5B#8 f) = .vcmpRi (riOf (riWord 0x5B#8 f)) := by unfold decodeWord; rw [riWord_opcode]; rfl
  rw [h, riWord_fields]⟩
theorem Encoded.vsel (f : RRR) : Encoded.Statement (.vsel f) := fun _ => ⟨rrrWord 0x5C#8 f, rfl, by
  have h : decodeWord (rrrWord 0x5C#8 f) = .vsel (rrrOf (rrrWord 0x5C#8 f)) := by unfold decodeWord; rw [rrrWord_opcode]; rfl
  rw [h, rrrWord_fields]⟩
theorem Encoded.vselRi (f : RI) : Encoded.Statement (.vselRi f) := fun _ => ⟨riWord 0x7B#8 f, rfl, by
  have h : decodeWord (riWord 0x7B#8 f) = .vselRi (riOf (riWord 0x7B#8 f)) := by unfold decodeWord; rw [riWord_opcode]; rfl
  rw [h, riWord_fields]⟩
theorem Encoded.vclass (f : RRR) : Encoded.Statement (.vclass f) := fun _ => ⟨rrrWord 0x5D#8 f, rfl, by
  have h : decodeWord (rrrWord 0x5D#8 f) = .vclass (rrrOf (rrrWord 0x5D#8 f)) := by unfold decodeWord; rw [rrrWord_opcode]; rfl
  rw [h, rrrWord_fields]⟩
theorem Encoded.vmatch (f : RRR) : Encoded.Statement (.vmatch f) := fun _ => ⟨rrrWord 0x71#8 f, rfl, by
  have h : decodeWord (rrrWord 0x71#8 f) = .vmatch (rrrOf (rrrWord 0x71#8 f)) := by unfold decodeWord; rw [rrrWord_opcode]; rfl
  rw [h, rrrWord_fields]⟩
theorem Encoded.vpack (f : RRR) : Encoded.Statement (.vpack f) := fun _ => ⟨rrrWord 0x73#8 f, rfl, by
  have h : decodeWord (rrrWord 0x73#8 f) = .vpack (rrrOf (rrrWord 0x73#8 f)) := by unfold decodeWord; rw [rrrWord_opcode]; rfl
  rw [h, rrrWord_fields]⟩
theorem Encoded.vunpk (f : RRR) : Encoded.Statement (.vunpk f) := fun _ => ⟨rrrWord 0x74#8 f, rfl, by
  have h : decodeWord (rrrWord 0x74#8 f) = .vunpk (rrrOf (rrrWord 0x74#8 f)) := by unfold decodeWord; rw [rrrWord_opcode]; rfl
  rw [h, rrrWord_fields]⟩
theorem Encoded.vswz (f : RRR) : Encoded.Statement (.vswz f) := fun _ => ⟨rrrWord 0x76#8 f, rfl, by
  have h : decodeWord (rrrWord 0x76#8 f) = .vswz (rrrOf (rrrWord 0x76#8 f)) := by unfold decodeWord; rw [rrrWord_opcode]; rfl
  rw [h, rrrWord_fields]⟩
theorem Encoded.vshuf (f : RRR) : Encoded.Statement (.vshuf f) := fun _ => ⟨rrrWord 0x65#8 f, rfl, by
  have h : decodeWord (rrrWord 0x65#8 f) = .vshuf (rrrOf (rrrWord 0x65#8 f)) := by unfold decodeWord; rw [rrrWord_opcode]; rfl
  rw [h, rrrWord_fields]⟩
theorem Encoded.vdot8 (f : RRR) : Encoded.Statement (.vdot8 f) := fun _ => ⟨rrrWord 0x5E#8 f, rfl, by
  have h : decodeWord (rrrWord 0x5E#8 f) = .vdot8 (rrrOf (rrrWord 0x5E#8 f)) := by unfold decodeWord; rw [rrrWord_opcode]; rfl
  rw [h, rrrWord_fields]⟩
theorem Encoded.vdot4 (f : RRR) : Encoded.Statement (.vdot4 f) := fun _ => ⟨rrrWord 0x5F#8 f, rfl, by
  have h : decodeWord (rrrWord 0x5F#8 f) = .vdot4 (rrrOf (rrrWord 0x5F#8 f)) := by unfold decodeWord; rw [rrrWord_opcode]; rfl
  rw [h, rrrWord_fields]⟩
theorem Encoded.vdot2 (f : RRR) : Encoded.Statement (.vdot2 f) := fun _ => ⟨rrrWord 0x60#8 f, rfl, by
  have h : decodeWord (rrrWord 0x60#8 f) = .vdot2 (rrrOf (rrrWord 0x60#8 f)) := by unfold decodeWord; rw [rrrWord_opcode]; rfl
  rw [h, rrrWord_fields]⟩
theorem Encoded.vscale (f : RRR) : Encoded.Statement (.vscale f) := fun _ => ⟨rrrWord 0x61#8 f, rfl, by
  have h : decodeWord (rrrWord 0x61#8 f) = .vscale (rrrOf (rrrWord 0x61#8 f)) := by unfold decodeWord; rw [rrrWord_opcode]; rfl
  rw [h, rrrWord_fields]⟩
theorem Encoded.xchg (f : RRR) : Encoded.Statement (.xchg f) := fun _ => ⟨rrrWord 0x62#8 f, rfl, by
  have h : decodeWord (rrrWord 0x62#8 f) = .xchg (rrrOf (rrrWord 0x62#8 f)) := by unfold decodeWord; rw [rrrWord_opcode]; rfl
  rw [h, rrrWord_fields]⟩
theorem Encoded.vget (f : RRR) : Encoded.Statement (.vget f) := fun _ => ⟨rrrWord 0x63#8 f, rfl, by
  have h : decodeWord (rrrWord 0x63#8 f) = .vget (rrrOf (rrrWord 0x63#8 f)) := by unfold decodeWord; rw [rrrWord_opcode]; rfl
  rw [h, rrrWord_fields]⟩
theorem Encoded.vput (f : RRR) : Encoded.Statement (.vput f) := fun _ => ⟨rrrWord 0x64#8 f, rfl, by
  have h : decodeWord (rrrWord 0x64#8 f) = .vput (rrrOf (rrrWord 0x64#8 f)) := by unfold decodeWord; rw [rrrWord_opcode]; rfl
  rw [h, rrrWord_fields]⟩
theorem Encoded.ballot (f : RRR) : Encoded.Statement (.ballot f) := fun _ => ⟨rrrWord 0x66#8 f, rfl, by
  have h : decodeWord (rrrWord 0x66#8 f) = .ballot (rrrOf (rrrWord 0x66#8 f)) := by unfold decodeWord; rw [rrrWord_opcode]; rfl
  rw [h, rrrWord_fields]⟩
theorem Encoded.vprefix (f : RRR) : Encoded.Statement (.vprefix f) := fun _ => ⟨rrrWord 0x67#8 f, rfl, by
  have h : decodeWord (rrrWord 0x67#8 f) = .vprefix (rrrOf (rrrWord 0x67#8 f)) := by unfold decodeWord; rw [rrrWord_opcode]; rfl
  rw [h, rrrWord_fields]⟩
theorem Encoded.vred (f : RRR) : Encoded.Statement (.vred f) := fun _ => ⟨rrrWord 0x68#8 f, rfl, by
  have h : decodeWord (rrrWord 0x68#8 f) = .vred (rrrOf (rrrWord 0x68#8 f)) := by unfold decodeWord; rw [rrrWord_opcode]; rfl
  rw [h, rrrWord_fields]⟩
theorem Encoded.rdff (f : RRR) : Encoded.Statement (.rdff f) := fun _ => ⟨rrrWord 0x69#8 f, rfl, by
  have h : decodeWord (rrrWord 0x69#8 f) = .rdff (rrrOf (rrrWord 0x69#8 f)) := by unfold decodeWord; rw [rrrWord_opcode]; rfl
  rw [h, rrrWord_fields]⟩
theorem Encoded.wrff (f : RRR) : Encoded.Statement (.wrff f) := fun _ => ⟨rrrWord 0x6A#8 f, rfl, by
  have h : decodeWord (rrrWord 0x6A#8 f) = .wrff (rrrOf (rrrWord 0x6A#8 f)) := by unfold decodeWord; rw [rrrWord_opcode]; rfl
  rw [h, rrrWord_fields]⟩
theorem Encoded.clrff (f : RRR) : Encoded.Statement (.clrff f) := fun _ => ⟨rrrWord 0x6B#8 f, rfl, by
  have h : decodeWord (rrrWord 0x6B#8 f) = .clrff (rrrOf (rrrWord 0x6B#8 f)) := by unfold decodeWord; rw [rrrWord_opcode]; rfl
  rw [h, rrrWord_fields]⟩
theorem Encoded.rcp (f : RRR) : Encoded.Statement (.rcp f) := fun _ => ⟨rrrWord 0x80#8 f, rfl, by
  have h : decodeWord (rrrWord 0x80#8 f) = .rcp (rrrOf (rrrWord 0x80#8 f)) := by unfold decodeWord; rw [rrrWord_opcode]; rfl
  rw [h, rrrWord_fields]⟩
theorem Encoded.rsq (f : RRR) : Encoded.Statement (.rsq f) := fun _ => ⟨rrrWord 0x81#8 f, rfl, by
  have h : decodeWord (rrrWord 0x81#8 f) = .rsq (rrrOf (rrrWord 0x81#8 f)) := by unfold decodeWord; rw [rrrWord_opcode]; rfl
  rw [h, rrrWord_fields]⟩
theorem Encoded.sqrt (f : RRR) : Encoded.Statement (.sqrt f) := fun _ => ⟨rrrWord 0x82#8 f, rfl, by
  have h : decodeWord (rrrWord 0x82#8 f) = .sqrt (rrrOf (rrrWord 0x82#8 f)) := by unfold decodeWord; rw [rrrWord_opcode]; rfl
  rw [h, rrrWord_fields]⟩
theorem Encoded.div (f : RRR) : Encoded.Statement (.div f) := fun _ => ⟨rrrWord 0x83#8 f, rfl, by
  have h : decodeWord (rrrWord 0x83#8 f) = .div (rrrOf (rrrWord 0x83#8 f)) := by unfold decodeWord; rw [rrrWord_opcode]; rfl
  rw [h, rrrWord_fields]⟩
theorem Encoded.exp2 (f : RRR) : Encoded.Statement (.exp2 f) := fun _ => ⟨rrrWord 0x84#8 f, rfl, by
  have h : decodeWord (rrrWord 0x84#8 f) = .exp2 (rrrOf (rrrWord 0x84#8 f)) := by unfold decodeWord; rw [rrrWord_opcode]; rfl
  rw [h, rrrWord_fields]⟩
theorem Encoded.log2 (f : RRR) : Encoded.Statement (.log2 f) := fun _ => ⟨rrrWord 0x85#8 f, rfl, by
  have h : decodeWord (rrrWord 0x85#8 f) = .log2 (rrrOf (rrrWord 0x85#8 f)) := by unfold decodeWord; rw [rrrWord_opcode]; rfl
  rw [h, rrrWord_fields]⟩
theorem Encoded.sin (f : RRR) : Encoded.Statement (.sin f) := fun _ => ⟨rrrWord 0x86#8 f, rfl, by
  have h : decodeWord (rrrWord 0x86#8 f) = .sin (rrrOf (rrrWord 0x86#8 f)) := by unfold decodeWord; rw [rrrWord_opcode]; rfl
  rw [h, rrrWord_fields]⟩
theorem Encoded.cos (f : RRR) : Encoded.Statement (.cos f) := fun _ => ⟨rrrWord 0x87#8 f, rfl, by
  have h : decodeWord (rrrWord 0x87#8 f) = .cos (rrrOf (rrrWord 0x87#8 f)) := by unfold decodeWord; rw [rrrWord_opcode]; rfl
  rw [h, rrrWord_fields]⟩
theorem Encoded.expe (f : RRR) : Encoded.Statement (.expe f) := fun _ => ⟨rrrWord 0x95#8 f, rfl, by
  have h : decodeWord (rrrWord 0x95#8 f) = .expe (rrrOf (rrrWord 0x95#8 f)) := by unfold decodeWord; rw [rrrWord_opcode]; rfl
  rw [h, rrrWord_fields]⟩
theorem Encoded.loge (f : RRR) : Encoded.Statement (.loge f) := fun _ => ⟨rrrWord 0x96#8 f, rfl, by
  have h : decodeWord (rrrWord 0x96#8 f) = .loge (rrrOf (rrrWord 0x96#8 f)) := by unfold decodeWord; rw [rrrWord_opcode]; rfl
  rw [h, rrrWord_fields]⟩
theorem Encoded.tanh (f : RRR) : Encoded.Statement (.tanh f) := fun _ => ⟨rrrWord 0x97#8 f, rfl, by
  have h : decodeWord (rrrWord 0x97#8 f) = .tanh (rrrOf (rrrWord 0x97#8 f)) := by unfold decodeWord; rw [rrrWord_opcode]; rfl
  rw [h, rrrWord_fields]⟩
theorem Encoded.atan (f : RRR) : Encoded.Statement (.atan f) := fun _ => ⟨rrrWord 0x98#8 f, rfl, by
  have h : decodeWord (rrrWord 0x98#8 f) = .atan (rrrOf (rrrWord 0x98#8 f)) := by unfold decodeWord; rw [rrrWord_opcode]; rfl
  rw [h, rrrWord_fields]⟩
theorem Encoded.cvt (f : RRR) : Encoded.Statement (.cvt f) := fun _ => ⟨rrrWord 0x88#8 f, rfl, by
  have h : decodeWord (rrrWord 0x88#8 f) = .cvt (rrrOf (rrrWord 0x88#8 f)) := by unfold decodeWord; rw [rrrWord_opcode]; rfl
  rw [h, rrrWord_fields]⟩
theorem Encoded.cvtpk (f : RRR) : Encoded.Statement (.cvtpk f) := fun _ => ⟨rrrWord 0x89#8 f, rfl, by
  have h : decodeWord (rrrWord 0x89#8 f) = .cvtpk (rrrOf (rrrWord 0x89#8 f)) := by unfold decodeWord; rw [rrrWord_opcode]; rfl
  rw [h, rrrWord_fields]⟩
theorem Encoded.cvtpk2 (f : RRR) : Encoded.Statement (.cvtpk2 f) := fun _ => ⟨rrrWord 0x8A#8 f, rfl, by
  have h : decodeWord (rrrWord 0x8A#8 f) = .cvtpk2 (rrrOf (rrrWord 0x8A#8 f)) := by unfold decodeWord; rw [rrrWord_opcode]; rfl
  rw [h, rrrWord_fields]⟩
theorem Encoded.cvtunp (f : RRR) : Encoded.Statement (.cvtunp f) := fun _ => ⟨rrrWord 0x8B#8 f, rfl, by
  have h : decodeWord (rrrWord 0x8B#8 f) = .cvtunp (rrrOf (rrrWord 0x8B#8 f)) := by unfold decodeWord; rw [rrrWord_opcode]; rfl
  rw [h, rrrWord_fields]⟩
theorem Encoded.cvtmx (f : RRR) : Encoded.Statement (.cvtmx f) := fun _ => ⟨rrrWord 0x8C#8 f, rfl, by
  have h : decodeWord (rrrWord 0x8C#8 f) = .cvtmx (rrrOf (rrrWord 0x8C#8 f)) := by unfold decodeWord; rw [rrrWord_opcode]; rfl
  rw [h, rrrWord_fields]⟩
theorem Encoded.cvtmxd (f : RRR) : Encoded.Statement (.cvtmxd f) := fun _ => ⟨rrrWord 0x8D#8 f, rfl, by
  have h : decodeWord (rrrWord 0x8D#8 f) = .cvtmxd (rrrOf (rrrWord 0x8D#8 f)) := by unfold decodeWord; rw [rrrWord_opcode]; rfl
  rw [h, rrrWord_fields]⟩
theorem Encoded.fxcvt (f : RRR) : Encoded.Statement (.fxcvt f) := fun _ => ⟨rrrWord 0x8E#8 f, rfl, by
  have h : decodeWord (rrrWord 0x8E#8 f) = .fxcvt (rrrOf (rrrWord 0x8E#8 f)) := by unfold decodeWord; rw [rrrWord_opcode]; rfl
  rw [h, rrrWord_fields]⟩
theorem Encoded.e8get (f : RRR) : Encoded.Statement (.e8get f) := fun _ => ⟨rrrWord 0x8F#8 f, rfl, by
  have h : decodeWord (rrrWord 0x8F#8 f) = .e8get (rrrOf (rrrWord 0x8F#8 f)) := by unfold decodeWord; rw [rrrWord_opcode]; rfl
  rw [h, rrrWord_fields]⟩
theorem Encoded.mxamax (f : RRR) : Encoded.Statement (.mxamax f) := fun _ => ⟨rrrWord 0x99#8 f, rfl, by
  have h : decodeWord (rrrWord 0x99#8 f) = .mxamax (rrrOf (rrrWord 0x99#8 f)) := by unfold decodeWord; rw [rrrWord_opcode]; rfl
  rw [h, rrrWord_fields]⟩
theorem Encoded.vrnd (f : RRR) : Encoded.Statement (.vrnd f) := fun _ => ⟨rrrWord 0x90#8 f, rfl, by
  have h : decodeWord (rrrWord 0x90#8 f) = .vrnd (rrrOf (rrrWord 0x90#8 f)) := by unfold decodeWord; rw [rrrWord_opcode]; rfl
  rw [h, rrrWord_fields]⟩
theorem Encoded.scalb (f : RRR) : Encoded.Statement (.scalb f) := fun _ => ⟨rrrWord 0x91#8 f, rfl, by
  have h : decodeWord (rrrWord 0x91#8 f) = .scalb (rrrOf (rrrWord 0x91#8 f)) := by unfold decodeWord; rw [rrrWord_opcode]; rfl
  rw [h, rrrWord_fields]⟩
theorem Encoded.getexp (f : RRR) : Encoded.Statement (.getexp f) := fun _ => ⟨rrrWord 0x92#8 f, rfl, by
  have h : decodeWord (rrrWord 0x92#8 f) = .getexp (rrrOf (rrrWord 0x92#8 f)) := by unfold decodeWord; rw [rrrWord_opcode]; rfl
  rw [h, rrrWord_fields]⟩
theorem Encoded.getmant (f : RRR) : Encoded.Statement (.getmant f) := fun _ => ⟨rrrWord 0x93#8 f, rfl, by
  have h : decodeWord (rrrWord 0x93#8 f) = .getmant (rrrOf (rrrWord 0x93#8 f)) := by unfold decodeWord; rw [rrrWord_opcode]; rfl
  rw [h, rrrWord_fields]⟩
theorem Encoded.setseed (f : RRR) : Encoded.Statement (.setseed f) := fun _ => ⟨rrrWord 0x94#8 f, rfl, by
  have h : decodeWord (rrrWord 0x94#8 f) = .setseed (rrrOf (rrrWord 0x94#8 f)) := by unfold decodeWord; rw [rrrWord_opcode]; rfl
  rw [h, rrrWord_fields]⟩
theorem Encoded.ld (f : MemF) : Encoded.Statement (.ld f) := fun _ => ⟨memWord 0xA0#8 f, rfl, by
  have h : decodeWord (memWord 0xA0#8 f) = .ld (memOf (memWord 0xA0#8 f)) := by unfold decodeWord; rw [memWord_opcode]; rfl
  rw [h, memWord_fields]⟩
theorem Encoded.st (f : MemF) : Encoded.Statement (.st f) := fun _ => ⟨memWord 0xA1#8 f, rfl, by
  have h : decodeWord (memWord 0xA1#8 f) = .st (memOf (memWord 0xA1#8 f)) := by unfold decodeWord; rw [memWord_opcode]; rfl
  rw [h, memWord_fields]⟩
theorem Encoded.ldu (f : MemF) : Encoded.Statement (.ldu f) := fun _ => ⟨memWord 0xA2#8 f, rfl, by
  have h : decodeWord (memWord 0xA2#8 f) = .ldu (memOf (memWord 0xA2#8 f)) := by unfold decodeWord; rw [memWord_opcode]; rfl
  rw [h, memWord_fields]⟩
theorem Encoded.stu (f : MemF) : Encoded.Statement (.stu f) := fun _ => ⟨memWord 0xA3#8 f, rfl, by
  have h : decodeWord (memWord 0xA3#8 f) = .stu (memOf (memWord 0xA3#8 f)) := by unfold decodeWord; rw [memWord_opcode]; rfl
  rw [h, memWord_fields]⟩
theorem Encoded.ldc (f : MemF) : Encoded.Statement (.ldc f) := fun _ => ⟨memWord 0xA4#8 f, rfl, by
  have h : decodeWord (memWord 0xA4#8 f) = .ldc (memOf (memWord 0xA4#8 f)) := by unfold decodeWord; rw [memWord_opcode]; rfl
  rw [h, memWord_fields]⟩
theorem Encoded.ldf (f : MemF) : Encoded.Statement (.ldf f) := fun _ => ⟨memWord 0xA5#8 f, rfl, by
  have h : decodeWord (memWord 0xA5#8 f) = .ldf (memOf (memWord 0xA5#8 f)) := by unfold decodeWord; rw [memWord_opcode]; rfl
  rw [h, memWord_fields]⟩
theorem Encoded.stf (f : MemF) : Encoded.Statement (.stf f) := fun _ => ⟨memWord 0xA6#8 f, rfl, by
  have h : decodeWord (memWord 0xA6#8 f) = .stf (memOf (memWord 0xA6#8 f)) := by unfold decodeWord; rw [memWord_opcode]; rfl
  rw [h, memWord_fields]⟩
theorem Encoded.prfl (f : MemF) : Encoded.Statement (.prfl f) := fun _ => ⟨memWord 0xA7#8 f, rfl, by
  have h : decodeWord (memWord 0xA7#8 f) = .prfl (memOf (memWord 0xA7#8 f)) := by unfold decodeWord; rw [memWord_opcode]; rfl
  rw [h, memWord_fields]⟩
theorem Encoded.invl (f : MemF) : Encoded.Statement (.invl f) := fun _ => ⟨memWord 0xA8#8 f, rfl, by
  have h : decodeWord (memWord 0xA8#8 f) = .invl (memOf (memWord 0xA8#8 f)) := by unfold decodeWord; rw [memWord_opcode]; rfl
  rw [h, memWord_fields]⟩
theorem Encoded.wbl (f : MemF) : Encoded.Statement (.wbl f) := fun _ => ⟨memWord 0xA9#8 f, rfl, by
  have h : decodeWord (memWord 0xA9#8 f) = .wbl (memOf (memWord 0xA9#8 f)) := by unfold decodeWord; rw [memWord_opcode]; rfl
  rw [h, memWord_fields]⟩
theorem Encoded.fence (f : RRR) : Encoded.Statement (.fence f) := fun _ => ⟨rrrWord 0xAA#8 f, rfl, by
  have h : decodeWord (rrrWord 0xAA#8 f) = .fence (rrrOf (rrrWord 0xAA#8 f)) := by unfold decodeWord; rw [rrrWord_opcode]; rfl
  rw [h, rrrWord_fields]⟩
theorem Encoded.waitl (f : MemF) : Encoded.Statement (.waitl f) := fun _ => ⟨memWord 0xAB#8 f, rfl, by
  have h : decodeWord (memWord 0xAB#8 f) = .waitl (memOf (memWord 0xAB#8 f)) := by unfold decodeWord; rw [memWord_opcode]; rfl
  rw [h, memWord_fields]⟩
theorem Encoded.ldnf (f : MemF) : Encoded.Statement (.ldnf f) := fun _ => ⟨memWord 0xAC#8 f, rfl, by
  have h : decodeWord (memWord 0xAC#8 f) = .ldnf (memOf (memWord 0xAC#8 f)) := by unfold decodeWord; rw [memWord_opcode]; rfl
  rw [h, memWord_fields]⟩
theorem Encoded.probe (f : MemF) : Encoded.Statement (.probe f) := fun _ => ⟨memWord 0xAD#8 f, rfl, by
  have h : decodeWord (memWord 0xAD#8 f) = .probe (memOf (memWord 0xAD#8 f)) := by unfold decodeWord; rw [memWord_opcode]; rfl
  rw [h, memWord_fields]⟩
theorem Encoded.lea (f : MemF) : Encoded.Statement (.lea f) := fun _ => ⟨memWord 0xAE#8 f, rfl, by
  have h : decodeWord (memWord 0xAE#8 f) = .lea (memOf (memWord 0xAE#8 f)) := by unfold decodeWord; rw [memWord_opcode]; rfl
  rw [h, memWord_fields]⟩
theorem Encoded.ldt (f : MemF) : Encoded.Statement (.ldt f) := fun _ => ⟨memWord 0xAF#8 f, rfl, by
  have h : decodeWord (memWord 0xAF#8 f) = .ldt (memOf (memWord 0xAF#8 f)) := by unfold decodeWord; rw [memWord_opcode]; rfl
  rw [h, memWord_fields]⟩
theorem Encoded.stt (f : MemF) : Encoded.Statement (.stt f) := fun _ => ⟨memWord 0xB0#8 f, rfl, by
  have h : decodeWord (memWord 0xB0#8 f) = .stt (memOf (memWord 0xB0#8 f)) := by unfold decodeWord; rw [memWord_opcode]; rfl
  rw [h, memWord_fields]⟩
theorem Encoded.genrd (f : RRR) : Encoded.Statement (.genrd f) := fun _ => ⟨rrrWord 0xB1#8 f, rfl, by
  have h : decodeWord (rrrWord 0xB1#8 f) = .genrd (rrrOf (rrrWord 0xB1#8 f)) := by unfold decodeWord; rw [rrrWord_opcode]; rfl
  rw [h, rrrWord_fields]⟩
theorem Encoded.zerol (f : MemF) : Encoded.Statement (.zerol f) := fun _ => ⟨memWord 0xB2#8 f, rfl, by
  have h : decodeWord (memWord 0xB2#8 f) = .zerol (memOf (memWord 0xB2#8 f)) := by unfold decodeWord; rw [memWord_opcode]; rfl
  rw [h, memWord_fields]⟩
theorem Encoded.lds (f : MemF) : Encoded.Statement (.lds f) := fun _ => ⟨memWord 0xB8#8 f, rfl, by
  have h : decodeWord (memWord 0xB8#8 f) = .lds (memOf (memWord 0xB8#8 f)) := by unfold decodeWord; rw [memWord_opcode]; rfl
  rw [h, memWord_fields]⟩
theorem Encoded.sts (f : MemF) : Encoded.Statement (.sts f) := fun _ => ⟨memWord 0xB9#8 f, rfl, by
  have h : decodeWord (memWord 0xB9#8 f) = .sts (memOf (memWord 0xB9#8 f)) := by unfold decodeWord; rw [memWord_opcode]; rfl
  rw [h, memWord_fields]⟩
theorem Encoded.atoms (f : RRR) : Encoded.Statement (.atoms f) := fun _ => ⟨rrrWord 0xBA#8 f, rfl, by
  have h : decodeWord (rrrWord 0xBA#8 f) = .atoms (rrrOf (rrrWord 0xBA#8 f)) := by unfold decodeWord; rw [rrrWord_opcode]; rfl
  rw [h, rrrWord_fields]⟩
theorem Encoded.cass (f : RRR) : Encoded.Statement (.cass f) := fun _ => ⟨rrrWord 0xBB#8 f, rfl, by
  have h : decodeWord (rrrWord 0xBB#8 f) = .cass (rrrOf (rrrWord 0xBB#8 f)) := by unfold decodeWord; rw [rrrWord_opcode]; rfl
  rw [h, rrrWord_fields]⟩
theorem Encoded.fefill (f : MemF) : Encoded.Statement (.fefill f) := fun _ => ⟨memWord 0xBC#8 f, rfl, by
  have h : decodeWord (memWord 0xBC#8 f) = .fefill (memOf (memWord 0xBC#8 f)) := by unfold decodeWord; rw [memWord_opcode]; rfl
  rw [h, memWord_fields]⟩
theorem Encoded.fetake (f : MemF) : Encoded.Statement (.fetake f) := fun _ => ⟨memWord 0xBD#8 f, rfl, by
  have h : decodeWord (memWord 0xBD#8 f) = .fetake (memOf (memWord 0xBD#8 f)) := by unfold decodeWord; rw [memWord_opcode]; rfl
  rw [h, memWord_fields]⟩
theorem Encoded.feread (f : MemF) : Encoded.Statement (.feread f) := fun _ => ⟨memWord 0xBE#8 f, rfl, by
  have h : decodeWord (memWord 0xBE#8 f) = .feread (memOf (memWord 0xBE#8 f)) := by unfold decodeWord; rw [memWord_opcode]; rfl
  rw [h, memWord_fields]⟩
theorem Encoded.fereset (f : MemF) : Encoded.Statement (.fereset f) := fun _ => ⟨memWord 0xBF#8 f, rfl, by
  have h : decodeWord (memWord 0xBF#8 f) = .fereset (memOf (memWord 0xBF#8 f)) := by unfold decodeWord; rw [memWord_opcode]; rfl
  rw [h, memWord_fields]⟩
theorem Encoded.bara (f : MemF) : Encoded.Statement (.bara f) := fun _ => ⟨memWord 0xC0#8 f, rfl, by
  have h : decodeWord (memWord 0xC0#8 f) = .bara (memOf (memWord 0xC0#8 f)) := by unfold decodeWord; rw [memWord_opcode]; rfl
  rw [h, memWord_fields]⟩
theorem Encoded.barw (f : MemF) : Encoded.Statement (.barw f) := fun _ => ⟨memWord 0xC1#8 f, rfl, by
  have h : decodeWord (memWord 0xC1#8 f) = .barw (memOf (memWord 0xC1#8 f)) := by unfold decodeWord; rw [memWord_opcode]; rfl
  rw [h, memWord_fields]⟩
theorem Encoded.barx (f : MemF) : Encoded.Statement (.barx f) := fun _ => ⟨memWord 0xC2#8 f, rfl, by
  have h : decodeWord (memWord 0xC2#8 f) = .barx (memOf (memWord 0xC2#8 f)) := by unfold decodeWord; rw [memWord_opcode]; rfl
  rw [h, memWord_fields]⟩
theorem Encoded.nbsync (f : RRR) : Encoded.Statement (.nbsync f) := fun _ => ⟨rrrWord 0xC3#8 f, rfl, by
  have h : decodeWord (rrrWord 0xC3#8 f) = .nbsync (rrrOf (rrrWord 0xC3#8 f)) := by unfold decodeWord; rw [rrrWord_opcode]; rfl
  rw [h, rrrWord_fields]⟩
theorem Encoded.nbarr (f : RRR) : Encoded.Statement (.nbarr f) := fun _ => ⟨rrrWord 0xC4#8 f, rfl, by
  have h : decodeWord (rrrWord 0xC4#8 f) = .nbarr (rrrOf (rrrWord 0xC4#8 f)) := by unfold decodeWord; rw [rrrWord_opcode]; rfl
  rw [h, rrrWord_fields]⟩
theorem Encoded.bsave (f : RRR) : Encoded.Statement (.bsave f) := fun _ => ⟨rrrWord 0xC5#8 f, rfl, by
  have h : decodeWord (rrrWord 0xC5#8 f) = .bsave (rrrOf (rrrWord 0xC5#8 f)) := by unfold decodeWord; rw [rrrWord_opcode]; rfl
  rw [h, rrrWord_fields]⟩
theorem Encoded.brestore (f : RRR) : Encoded.Statement (.brestore f) := fun _ => ⟨rrrWord 0xC6#8 f, rfl, by
  have h : decodeWord (rrrWord 0xC6#8 f) = .brestore (rrrOf (rrrWord 0xC6#8 f)) := by unfold decodeWord; rw [rrrWord_opcode]; rfl
  rw [h, rrrWord_fields]⟩
theorem Encoded.atom (f : RRR) : Encoded.Statement (.atom f) := fun _ => ⟨rrrWord 0xC8#8 f, rfl, by
  have h : decodeWord (rrrWord 0xC8#8 f) = .atom (rrrOf (rrrWord 0xC8#8 f)) := by unfold decodeWord; rw [rrrWord_opcode]; rfl
  rw [h, rrrWord_fields]⟩
theorem Encoded.red (f : RRR) : Encoded.Statement (.red f) := fun _ => ⟨rrrWord 0xC9#8 f, rfl, by
  have h : decodeWord (rrrWord 0xC9#8 f) = .red (rrrOf (rrrWord 0xC9#8 f)) := by unfold decodeWord; rw [rrrWord_opcode]; rfl
  rw [h, rrrWord_fields]⟩
theorem Encoded.cas (f : RRR) : Encoded.Statement (.cas f) := fun _ => ⟨rrrWord 0xCA#8 f, rfl, by
  have h : decodeWord (rrrWord 0xCA#8 f) = .cas (rrrOf (rrrWord 0xCA#8 f)) := by unfold decodeWord; rw [rrrWord_opcode]; rfl
  rw [h, rrrWord_fields]⟩
theorem Encoded.cas128 (f : RRR) : Encoded.Statement (.cas128 f) := fun _ => ⟨rrrWord 0xCB#8 f, rfl, by
  have h : decodeWord (rrrWord 0xCB#8 f) = .cas128 (rrrOf (rrrWord 0xCB#8 f)) := by unfold decodeWord; rw [rrrWord_opcode]; rfl
  rw [h, rrrWord_fields]⟩
theorem Encoded.atomu (f : RRR) : Encoded.Statement (.atomu f) := fun _ => ⟨rrrWord 0xCC#8 f, rfl, by
  have h : decodeWord (rrrWord 0xCC#8 f) = .atomu (rrrOf (rrrWord 0xCC#8 f)) := by unfold decodeWord; rw [rrrWord_opcode]; rfl
  rw [h, rrrWord_fields]⟩
theorem Encoded.redu (f : RRR) : Encoded.Statement (.redu f) := fun _ => ⟨rrrWord 0xCD#8 f, rfl, by
  have h : decodeWord (rrrWord 0xCD#8 f) = .redu (rrrOf (rrrWord 0xCD#8 f)) := by unfold decodeWord; rw [rrrWord_opcode]; rfl
  rw [h, rrrWord_fields]⟩
theorem Encoded.casu (f : RRR) : Encoded.Statement (.casu f) := fun _ => ⟨rrrWord 0xCE#8 f, rfl, by
  have h : decodeWord (rrrWord 0xCE#8 f) = .casu (rrrOf (rrrWord 0xCE#8 f)) := by unfold decodeWord; rw [rrrWord_opcode]; rfl
  rw [h, rrrWord_fields]⟩
theorem Encoded.reda (f : RRR) : Encoded.Statement (.reda f) := fun _ => ⟨rrrWord 0xCF#8 f, rfl, by
  have h : decodeWord (rrrWord 0xCF#8 f) = .reda (rrrOf (rrrWord 0xCF#8 f)) := by unfold decodeWord; rw [rrrWord_opcode]; rfl
  rw [h, rrrWord_fields]⟩
theorem Encoded.dcopy (f : ENG) : Encoded.Statement (.dcopy f) := fun _ => ⟨engWord 0xD4#8 f, rfl, by
  have h : decodeWord (engWord 0xD4#8 f) = .dcopy (engOf (engWord 0xD4#8 f)) := by unfold decodeWord; rw [engWord_opcode]; rfl
  rw [h, engWord_fields]⟩
theorem Encoded.dcopym (f : ENG) : Encoded.Statement (.dcopym f) := fun _ => ⟨engWord 0xD5#8 f, rfl, by
  have h : decodeWord (engWord 0xD5#8 f) = .dcopym (engOf (engWord 0xD5#8 f)) := by unfold decodeWord; rw [engWord_opcode]; rfl
  rw [h, engWord_fields]⟩
theorem Encoded.gather (f : ENG) : Encoded.Statement (.gather f) := fun _ => ⟨engWord 0xD6#8 f, rfl, by
  have h : decodeWord (engWord 0xD6#8 f) = .gather (engOf (engWord 0xD6#8 f)) := by unfold decodeWord; rw [engWord_opcode]; rfl
  rw [h, engWord_fields]⟩
theorem Encoded.scatter (f : ENG) : Encoded.Statement (.scatter f) := fun _ => ⟨engWord 0xD7#8 f, rfl, by
  have h : decodeWord (engWord 0xD7#8 f) = .scatter (engOf (engWord 0xD7#8 f)) := by unfold decodeWord; rw [engWord_opcode]; rfl
  rw [h, engWord_fields]⟩
theorem Encoded.gcompact (f : ENG) : Encoded.Statement (.gcompact f) := fun _ => ⟨engWord 0xD8#8 f, rfl, by
  have h : decodeWord (engWord 0xD8#8 f) = .gcompact (engOf (engWord 0xD8#8 f)) := by unfold decodeWord; rw [engWord_opcode]; rfl
  rw [h, engWord_fields]⟩
theorem Encoded.gstatus (f : RRR) : Encoded.Statement (.gstatus f) := fun _ => ⟨rrrWord 0xD9#8 f, rfl, by
  have h : decodeWord (rrrWord 0xD9#8 f) = .gstatus (rrrOf (rrrWord 0xD9#8 f)) := by unfold decodeWord; rw [rrrWord_opcode]; rfl
  rw [h, rrrWord_fields]⟩
theorem Encoded.greplay (f : ENG) : Encoded.Statement (.greplay f) := fun _ => ⟨engWord 0xDA#8 f, rfl, by
  have h : decodeWord (engWord 0xDA#8 f) = .greplay (engOf (engWord 0xDA#8 f)) := by unfold decodeWord; rw [engWord_opcode]; rfl
  rw [h, engWord_fields]⟩
theorem Encoded.gselect (f : ENG) : Encoded.Statement (.gselect f) := fun _ => ⟨engWord 0xDB#8 f, rfl, by
  have h : decodeWord (engWord 0xDB#8 f) = .gselect (engOf (engWord 0xDB#8 f)) := by unfold decodeWord; rw [engWord_opcode]; rfl
  rw [h, engWord_fields]⟩
theorem Encoded.loomMm (f : ENG) : Encoded.Statement (.loomMm f) := fun _ => ⟨engWord 0xDC#8 f, rfl, by
  have h : decodeWord (engWord 0xDC#8 f) = .loomMm (engOf (engWord 0xDC#8 f)) := by unfold decodeWord; rw [engWord_opcode]; rfl
  rw [h, engWord_fields]⟩
theorem Encoded.loomMx (f : ENG) : Encoded.Statement (.loomMx f) := fun _ => ⟨engWord 0xDD#8 f, rfl, by
  have h : decodeWord (engWord 0xDD#8 f) = .loomMx (engOf (engWord 0xDD#8 f)) := by unfold decodeWord; rw [engWord_opcode]; rfl
  rw [h, engWord_fields]⟩
theorem Encoded.loomSplit (f : ENG) : Encoded.Statement (.loomSplit f) := fun _ => ⟨engWord 0xDE#8 f, rfl, by
  have h : decodeWord (engWord 0xDE#8 f) = .loomSplit (engOf (engWord 0xDE#8 f)) := by unfold decodeWord; rw [engWord_opcode]; rfl
  rw [h, engWord_fields]⟩
theorem Encoded.loomSpl (f : ENG) : Encoded.Statement (.loomSpl f) := fun _ => ⟨engWord 0xDF#8 f, rfl, by
  have h : decodeWord (engWord 0xDF#8 f) = .loomSpl (engOf (engWord 0xDF#8 f)) := by unfold decodeWord; rw [engWord_opcode]; rfl
  rw [h, engWord_fields]⟩
theorem Encoded.loomFin (f : ENG) : Encoded.Statement (.loomFin f) := fun _ => ⟨engWord 0xE0#8 f, rfl, by
  have h : decodeWord (engWord 0xE0#8 f) = .loomFin (engOf (engWord 0xE0#8 f)) := by unfold decodeWord; rw [engWord_opcode]; rfl
  rw [h, engWord_fields]⟩
theorem Encoded.loomWait (f : RRR) : Encoded.Statement (.loomWait f) := fun _ => ⟨rrrWord 0xE1#8 f, rfl, by
  have h : decodeWord (rrrWord 0xE1#8 f) = .loomWait (rrrOf (rrrWord 0xE1#8 f)) := by unfold decodeWord; rw [rrrWord_opcode]; rfl
  rw [h, rrrWord_fields]⟩
theorem Encoded.ofence (f : RRR) : Encoded.Statement (.ofence f) := fun _ => ⟨rrrWord 0xE2#8 f, rfl, by
  have h : decodeWord (rrrWord 0xE2#8 f) = .ofence (rrrOf (rrrWord 0xE2#8 f)) := by unfold decodeWord; rw [rrrWord_opcode]; rfl
  rw [h, rrrWord_fields]⟩
theorem Encoded.accAlloc (f : RRR) : Encoded.Statement (.accAlloc f) := fun _ => ⟨rrrWord 0xE3#8 f, rfl, by
  have h : decodeWord (rrrWord 0xE3#8 f) = .accAlloc (rrrOf (rrrWord 0xE3#8 f)) := by unfold decodeWord; rw [rrrWord_opcode]; rfl
  rw [h, rrrWord_fields]⟩
theorem Encoded.accFree (f : RRR) : Encoded.Statement (.accFree f) := fun _ => ⟨rrrWord 0xE4#8 f, rfl, by
  have h : decodeWord (rrrWord 0xE4#8 f) = .accFree (rrrOf (rrrWord 0xE4#8 f)) := by unfold decodeWord; rw [rrrWord_opcode]; rfl
  rw [h, rrrWord_fields]⟩
theorem Encoded.accRd (f : RRR) : Encoded.Statement (.accRd f) := fun _ => ⟨rrrWord 0xE5#8 f, rfl, by
  have h : decodeWord (rrrWord 0xE5#8 f) = .accRd (rrrOf (rrrWord 0xE5#8 f)) := by unfold decodeWord; rw [rrrWord_opcode]; rfl
  rw [h, rrrWord_fields]⟩
theorem Encoded.accWr (f : RRR) : Encoded.Statement (.accWr f) := fun _ => ⟨rrrWord 0xE6#8 f, rfl, by
  have h : decodeWord (rrrWord 0xE6#8 f) = .accWr (rrrOf (rrrWord 0xE6#8 f)) := by unfold decodeWord; rw [rrrWord_opcode]; rfl
  rw [h, rrrWord_fields]⟩
theorem Encoded.accClr (f : RRR) : Encoded.Statement (.accClr f) := fun _ => ⟨rrrWord 0xE7#8 f, rfl, by
  have h : decodeWord (rrrWord 0xE7#8 f) = .accClr (rrrOf (rrrWord 0xE7#8 f)) := by unfold decodeWord; rw [rrrWord_opcode]; rfl
  rw [h, rrrWord_fields]⟩
theorem Encoded.gangSet (f : RRR) : Encoded.Statement (.gangSet f) := fun _ => ⟨rrrWord 0xE8#8 f, rfl, by
  have h : decodeWord (rrrWord 0xE8#8 f) = .gangSet (rrrOf (rrrWord 0xE8#8 f)) := by unfold decodeWord; rw [rrrWord_opcode]; rfl
  rw [h, rrrWord_fields]⟩
theorem Encoded.netColl (f : ENG) : Encoded.Statement (.netColl f) := fun _ => ⟨engWord 0xE9#8 f, rfl, by
  have h : decodeWord (engWord 0xE9#8 f) = .netColl (engOf (engWord 0xE9#8 f)) := by unfold decodeWord; rw [engWord_opcode]; rfl
  rw [h, engWord_fields]⟩
theorem Encoded.netSend (f : ENG) : Encoded.Statement (.netSend f) := fun _ => ⟨engWord 0xEA#8 f, rfl, by
  have h : decodeWord (engWord 0xEA#8 f) = .netSend (engOf (engWord 0xEA#8 f)) := by unfold decodeWord; rw [engWord_opcode]; rfl
  rw [h, engWord_fields]⟩
theorem Encoded.ringPop (f : RRR) : Encoded.Statement (.ringPop f) := fun _ => ⟨rrrWord 0xEB#8 f, rfl, by
  have h : decodeWord (rrrWord 0xEB#8 f) = .ringPop (rrrOf (rrrWord 0xEB#8 f)) := by unfold decodeWord; rw [rrrWord_opcode]; rfl
  rw [h, rrrWord_fields]⟩
theorem Encoded.prefT (f : ENG) : Encoded.Statement (.prefT f) := fun _ => ⟨engWord 0xEC#8 f, rfl, by
  have h : decodeWord (engWord 0xEC#8 f) = .prefT (engOf (engWord 0xEC#8 f)) := by unfold decodeWord; rw [engWord_opcode]; rfl
  rw [h, engWord_fields]⟩
theorem Encoded.launchD (f : ENG) : Encoded.Statement (.launchD f) := fun _ => ⟨engWord 0xED#8 f, rfl, by
  have h : decodeWord (engWord 0xED#8 f) = .launchD (engOf (engWord 0xED#8 f)) := by unfold decodeWord; rw [engWord_opcode]; rfl
  rw [h, engWord_fields]⟩
theorem Encoded.srd (f : SYS) : Encoded.Statement (.srd f) := fun _ => ⟨sysWord 0xF0#8 f, rfl, by
  have h : decodeWord (sysWord 0xF0#8 f) = .srd (sysOf (sysWord 0xF0#8 f)) := by unfold decodeWord; rw [sysWord_opcode]; rfl
  rw [h, sysWord_fields]⟩
theorem Encoded.swr (f : SYS) : Encoded.Statement (.swr f) := fun _ => ⟨sysWord 0xF1#8 f, rfl, by
  have h : decodeWord (sysWord 0xF1#8 f) = .swr (sysOf (sysWord 0xF1#8 f)) := by unfold decodeWord; rw [sysWord_opcode]; rfl
  rw [h, sysWord_fields]⟩
theorem Encoded.bkpt (f : SYS) : Encoded.Statement (.bkpt f) := fun _ => ⟨sysWord 0xF2#8 f, rfl, by
  have h : decodeWord (sysWord 0xF2#8 f) = .bkpt (sysOf (sysWord 0xF2#8 f)) := by unfold decodeWord; rw [sysWord_opcode]; rfl
  rw [h, sysWord_fields]⟩
theorem Encoded.trace (f : SYS) : Encoded.Statement (.trace f) := fun _ => ⟨sysWord 0xF3#8 f, rfl, by
  have h : decodeWord (sysWord 0xF3#8 f) = .trace (sysOf (sysWord 0xF3#8 f)) := by unfold decodeWord; rw [sysWord_opcode]; rfl
  rw [h, sysWord_fields]⟩
theorem Encoded.tracev (f : SYS) : Encoded.Statement (.tracev f) := fun _ => ⟨sysWord 0xF4#8 f, rfl, by
  have h : decodeWord (sysWord 0xF4#8 f) = .tracev (sysOf (sysWord 0xF4#8 f)) := by unfold decodeWord; rw [sysWord_opcode]; rfl
  rw [h, sysWord_fields]⟩
theorem Encoded.pmark (f : SYS) : Encoded.Statement (.pmark f) := fun _ => ⟨sysWord 0xF5#8 f, rfl, by
  have h : decodeWord (sysWord 0xF5#8 f) = .pmark (sysOf (sysWord 0xF5#8 f)) := by unfold decodeWord; rw [sysWord_opcode]; rfl
  rw [h, sysWord_fields]⟩
theorem Encoded.cntrd (f : SYS) : Encoded.Statement (.cntrd f) := fun _ => ⟨sysWord 0xF6#8 f, rfl, by
  have h : decodeWord (sysWord 0xF6#8 f) = .cntrd (sysOf (sysWord 0xF6#8 f)) := by unfold decodeWord; rw [sysWord_opcode]; rfl
  rw [h, sysWord_fields]⟩
theorem Encoded.ckpt (f : SYS) : Encoded.Statement (.ckpt f) := fun _ => ⟨sysWord 0xF7#8 f, rfl, by
  have h : decodeWord (sysWord 0xF7#8 f) = .ckpt (sysOf (sysWord 0xF7#8 f)) := by unfold decodeWord; rw [sysWord_opcode]; rfl
  rw [h, sysWord_fields]⟩
theorem Encoded.vstat (f : SYS) : Encoded.Statement (.vstat f) := fun _ => ⟨sysWord 0xF8#8 f, rfl, by
  have h : decodeWord (sysWord 0xF8#8 f) = .vstat (sysOf (sysWord 0xF8#8 f)) := by unfold decodeWord; rw [sysWord_opcode]; rfl
  rw [h, sysWord_fields]⟩
theorem Encoded.loftLd (f : MemF) : Encoded.Statement (.loftLd f) := fun _ => ⟨memWord 0xF9#8 f, rfl, by
  have h : decodeWord (memWord 0xF9#8 f) = .loftLd (memOf (memWord 0xF9#8 f)) := by unfold decodeWord; rw [memWord_opcode]; rfl
  rw [h, memWord_fields]⟩
theorem Encoded.loftWaitr (f : SYS) : Encoded.Statement (.loftWaitr f) := fun _ => ⟨sysWord 0xFA#8 f, rfl, by
  have h : decodeWord (sysWord 0xFA#8 f) = .loftWaitr (sysOf (sysWord 0xFA#8 f)) := by unfold decodeWord; rw [sysWord_opcode]; rfl
  rw [h, sysWord_fields]⟩
theorem Encoded.capq (f : SYS) : Encoded.Statement (.capq f) := fun _ => ⟨sysWord 0xFB#8 f, rfl, by
  have h : decodeWord (sysWord 0xFB#8 f) = .capq (sysOf (sysWord 0xFB#8 f)) := by unfold decodeWord; rw [sysWord_opcode]; rfl
  rw [h, sysWord_fields]⟩
theorem Encoded.pgqInv (f : SYS) : Encoded.Statement (.pgqInv f) := fun hf => ⟨sysWord 0xFC#8 f, rfl, by
  have h : decodeWord (sysWord 0xFC#8 f) = pgqOf (sysWord 0xFC#8 f) := by unfold decodeWord; rw [sysWord_opcode]; rfl
  rw [h, pgqOf, sysWord_fields, pgqWord_op]
  have h4 : pgqOp f < 4 := BitVec.isLt _
  simp only [Instr.wf, decide_eq_true_eq] at hf
  split <;> first | rfl | omega⟩
theorem Encoded.pgqInvall (f : SYS) : Encoded.Statement (.pgqInvall f) := fun hf => ⟨sysWord 0xFC#8 f, rfl, by
  have h : decodeWord (sysWord 0xFC#8 f) = pgqOf (sysWord 0xFC#8 f) := by unfold decodeWord; rw [sysWord_opcode]; rfl
  have h1 : pgqOp f = 1 := by simpa [Instr.wf] using hf
  rw [h, pgqOf, sysWord_fields, pgqWord_op, h1]; rfl⟩
theorem Encoded.pgqEvict (f : SYS) : Encoded.Statement (.pgqEvict f) := fun hf => ⟨sysWord 0xFC#8 f, rfl, by
  have h : decodeWord (sysWord 0xFC#8 f) = pgqOf (sysWord 0xFC#8 f) := by unfold decodeWord; rw [sysWord_opcode]; rfl
  have h1 : pgqOp f = 2 := by simpa [Instr.wf] using hf
  rw [h, pgqOf, sysWord_fields, pgqWord_op, h1]; rfl⟩
theorem Encoded.isync (f : SYS) : Encoded.Statement (.isync f) := fun _ => ⟨sysWord 0xFD#8 f, rfl, by
  have h : decodeWord (sysWord 0xFD#8 f) = .isync (sysOf (sysWord 0xFD#8 f)) := by unfold decodeWord; rw [sysWord_opcode]; rfl
  rw [h, sysWord_fields]⟩
theorem Encoded.drain (f : SYS) : Encoded.Statement (.drain f) := fun _ => ⟨sysWord 0xFE#8 f, rfl, by
  have h : decodeWord (sysWord 0xFE#8 f) = .drain (sysOf (sysWord 0xFE#8 f)) := by unfold decodeWord; rw [sysWord_opcode]; rfl
  rw [h, sysWord_fields]⟩
theorem Encoded.gtwait (f : SYS) : Encoded.Statement (.gtwait f) := fun _ => ⟨sysWord 0xFF#8 f, rfl, by
  have h : decodeWord (sysWord 0xFF#8 f) = .gtwait (sysOf (sysWord 0xFF#8 f)) := by unfold decodeWord; rw [sysWord_opcode]; rfl
  rw [h, sysWord_fields]⟩
theorem Encoded.reservedOpcode (w : DWord) : Encoded.Statement (.reservedOpcode w) := fun hf => ⟨w, rfl, by
  have h : (opcodeOf w).toNat ∈ reservedOpcodes := by simpa [Instr.wf, opcodeOf] using hf
  simp only [reservedOpcodes, List.mem_cons, List.not_mem_nil, or_false] at h
  unfold decodeWord
  rcases h with h | h | h | h | h | h | h | h | h | h | h | h | h | h | h | h | h | h | h | h | h | h | h | h <;> rw [h] <;> rfl⟩
theorem Encoded.clerkPerform : Encoded.Statement .clerkPerform := fun h => nomatch h
theorem Encoded.drayChunkDone : Encoded.Statement .drayChunkDone := fun h => nomatch h
theorem Encoded.drayCopyComplete : Encoded.Statement .drayCopyComplete := fun h => nomatch h
theorem Encoded.gleanerAccept : Encoded.Statement .gleanerAccept := fun h => nomatch h
theorem Encoded.gleanerStrandSettle : Encoded.Statement .gleanerStrandSettle := fun h => nomatch h
theorem Encoded.gselectComplete : Encoded.Statement .gselectComplete := fun h => nomatch h
theorem Encoded.loomRendezvous : Encoded.Statement .loomRendezvous := fun h => nomatch h
theorem Encoded.loomKstepCommit : Encoded.Statement .loomKstepCommit := fun h => nomatch h
theorem Encoded.netCommandComplete : Encoded.Statement .netCommandComplete := fun h => nomatch h
theorem Encoded.netPeerTimeout : Encoded.Statement .netPeerTimeout := fun h => nomatch h
theorem Encoded.runnerGrainFetch : Encoded.Statement .runnerGrainFetch := fun h => nomatch h
theorem Encoded.launchDAccept : Encoded.Statement .launchDAccept := fun h => nomatch h
theorem Encoded.clauseStart : Encoded.Statement .clauseStart := fun h => nomatch h
theorem Encoded.farFaultTrap : Encoded.Statement .farFaultTrap := fun h => nomatch h
theorem Encoded.pauseExpire : Encoded.Statement .pauseExpire := fun h => nomatch h
theorem Encoded.gtwaitWake : Encoded.Statement .gtwaitWake := fun h => nomatch h
theorem Encoded.waitlTimeout : Encoded.Statement .waitlTimeout := fun h => nomatch h
theorem Encoded.watchUnavailable : Encoded.Statement .watchUnavailable := fun h => nomatch h
theorem Encoded.versionWayFree : Encoded.Statement .versionWayFree := fun h => nomatch h
theorem Encoded.gangPlace : Encoded.Statement .gangPlace := fun h => nomatch h
theorem Encoded.preemptRequest : Encoded.Statement .preemptRequest := fun h => nomatch h
theorem Encoded.priorityWaitExpire : Encoded.Statement .priorityWaitExpire := fun h => nomatch h
theorem Encoded.starvationGuard : Encoded.Statement .starvationGuard := fun h => nomatch h
theorem Encoded.priorityAging : Encoded.Statement .priorityAging := fun h => nomatch h
theorem Encoded.preemptAck : Encoded.Statement .preemptAck := fun h => nomatch h
theorem Encoded.preemptWithdraw : Encoded.Statement .preemptWithdraw := fun h => nomatch h
theorem Encoded.gangRestore : Encoded.Statement .gangRestore := fun h => nomatch h
theorem Encoded.packetStart : Encoded.Statement .packetStart := fun h => nomatch h
theorem Encoded.nopPacket : Encoded.Statement .nopPacket := fun h => nomatch h
theorem Encoded.launchPacket : Encoded.Statement .launchPacket := fun h => nomatch h
theorem Encoded.copyPacket : Encoded.Statement .copyPacket := fun h => nomatch h
theorem Encoded.waitsigPacket : Encoded.Statement .waitsigPacket := fun h => nomatch h
theorem Encoded.waitsigPoll : Encoded.Statement .waitsigPoll := fun h => nomatch h
theorem Encoded.waitsigTimeout : Encoded.Statement .waitsigTimeout := fun h => nomatch h
theorem Encoded.signalPacket : Encoded.Statement .signalPacket := fun h => nomatch h
theorem Encoded.loftwritePacket : Encoded.Statement .loftwritePacket := fun h => nomatch h
theorem Encoded.fencePacket : Encoded.Statement .fencePacket := fun h => nomatch h
theorem Encoded.responsePoll : Encoded.Statement .responsePoll := fun h => nomatch h
theorem Encoded.wridxWrite : Encoded.Statement .wridxWrite := fun h => nomatch h
theorem Encoded.doorbellWrite : Encoded.Statement .doorbellWrite := fun h => nomatch h
theorem Encoded.queueEnable : Encoded.Statement .queueEnable := fun h => nomatch h
theorem Encoded.queueDisable : Encoded.Statement .queueDisable := fun h => nomatch h
theorem Encoded.queueSuspend : Encoded.Statement .queueSuspend := fun h => nomatch h
theorem Encoded.queueUnsuspend : Encoded.Statement .queueUnsuspend := fun h => nomatch h
theorem Encoded.prioWrite : Encoded.Statement .prioWrite := fun h => nomatch h
theorem Encoded.exrdWrite : Encoded.Statement .exrdWrite := fun h => nomatch h
theorem Encoded.tenancyCreate : Encoded.Statement .tenancyCreate := fun h => nomatch h
theorem Encoded.tenancyCreateDone : Encoded.Statement .tenancyCreateDone := fun h => nomatch h
theorem Encoded.tenancyDestroy : Encoded.Statement .tenancyDestroy := fun h => nomatch h
theorem Encoded.tenancyDestroyDone : Encoded.Statement .tenancyDestroyDone := fun h => nomatch h
theorem Encoded.tkeyWrite : Encoded.Statement .tkeyWrite := fun h => nomatch h
theorem Encoded.registerWrite : Encoded.Statement .registerWrite := fun h => nomatch h
theorem Encoded.quotaWrite : Encoded.Statement .quotaWrite := fun h => nomatch h
theorem Encoded.invreqGo : Encoded.Statement .invreqGo := fun h => nomatch h
theorem Encoded.grainFillComplete : Encoded.Statement .grainFillComplete := fun h => nomatch h
theorem Encoded.faultResponsePoll : Encoded.Statement .faultResponsePoll := fun h => nomatch h
theorem Encoded.frtmoExpire : Encoded.Statement .frtmoExpire := fun h => nomatch h
theorem Encoded.leaseAcquire : Encoded.Statement .leaseAcquire := fun h => nomatch h
theorem Encoded.leaseRenew : Encoded.Statement .leaseRenew := fun h => nomatch h
theorem Encoded.leaseRelease : Encoded.Statement .leaseRelease := fun h => nomatch h
theorem Encoded.frresp : Encoded.Statement .frresp := fun h => nomatch h
theorem Encoded.leaserd : Encoded.Statement .leaserd := fun h => nomatch h
theorem Encoded.releaseWritebackDone : Encoded.Statement .releaseWritebackDone := fun h => nomatch h
theorem Encoded.grant : Encoded.Statement .grant := fun h => nomatch h
theorem Encoded.refuse : Encoded.Statement .refuse := fun h => nomatch h
theorem Encoded.revoke : Encoded.Statement .revoke := fun h => nomatch h
theorem Encoded.nodedown : Encoded.Statement .nodedown := fun h => nomatch h
theorem Encoded.replica : Encoded.Statement .replica := fun h => nomatch h
theorem Encoded.renewLeadReached : Encoded.Statement .renewLeadReached := fun h => nomatch h
theorem Encoded.renewResend : Encoded.Statement .renewResend := fun h => nomatch h
theorem Encoded.expiryGuardReached : Encoded.Statement .expiryGuardReached := fun h => nomatch h
theorem Encoded.renewtmoExpire : Encoded.Statement .renewtmoExpire := fun h => nomatch h
theorem Encoded.deadlineReached : Encoded.Statement .deadlineReached := fun h => nomatch h
theorem Encoded.bisnp : Encoded.Statement .bisnp := fun h => nomatch h
theorem Encoded.exhausted : Encoded.Statement .exhausted := fun h => nomatch h
theorem Encoded.frameMigrationDone : Encoded.Statement .frameMigrationDone := fun h => nomatch h
theorem Encoded.runnerCounterHalve : Encoded.Statement .runnerCounterHalve := fun h => nomatch h
theorem Encoded.tinkerRequest : Encoded.Statement .tinkerRequest := fun h => nomatch h
theorem Encoded.scrubStep : Encoded.Statement .scrubStep := fun h => nomatch h
theorem Encoded.repairWindowOpen : Encoded.Statement .repairWindowOpen := fun h => nomatch h
theorem Encoded.repairWindowClose : Encoded.Statement .repairWindowClose := fun h => nomatch h
theorem Encoded.loftpartWrite : Encoded.Statement .loftpartWrite := fun h => nomatch h
theorem Encoded.loftWindowStart : Encoded.Statement .loftWindowStart := fun h => nomatch h
theorem Encoded.loftWindowEnd : Encoded.Statement .loftWindowEnd := fun h => nomatch h
theorem Encoded.keyWrapWrite : Encoded.Statement .keyWrapWrite := fun h => nomatch h
theorem Encoded.keySlotConfigWrite : Encoded.Statement .keySlotConfigWrite := fun h => nomatch h
theorem Encoded.commEnable : Encoded.Statement .commEnable := fun h => nomatch h
theorem Encoded.commDisable : Encoded.Statement .commDisable := fun h => nomatch h
theorem Encoded.ringEnable : Encoded.Statement .ringEnable := fun h => nomatch h
theorem Encoded.ringDisable : Encoded.Statement .ringDisable := fun h => nomatch h
theorem Encoded.frameReceive : Encoded.Statement .frameReceive := fun h => nomatch h
theorem Encoded.dbgctlStateWrite : Encoded.Statement .dbgctlStateWrite := fun h => nomatch h
theorem Encoded.syncTick : Encoded.Statement .syncTick := fun h => nomatch h
theorem Encoded.sampleTick : Encoded.Statement .sampleTick := fun h => nomatch h
theorem Encoded.replayPassEnd : Encoded.Statement .replayPassEnd := fun h => nomatch h
theorem Encoded.ptmExchange : Encoded.Statement .ptmExchange := fun h => nomatch h
theorem Encoded.powerOn : Encoded.Statement .powerOn := fun h => nomatch h
theorem Encoded.bringupStageEnd : Encoded.Statement .bringupStageEnd := fun h => nomatch h
theorem Encoded.linkLoss : Encoded.Statement .linkLoss := fun h => nomatch h
theorem Encoded.clockStep : Encoded.Statement .clockStep := fun h => nomatch h
theorem Encoded.thermalTrip : Encoded.Statement .thermalTrip := fun h => nomatch h
theorem Encoded.d3hotEntry : Encoded.Statement .d3hotEntry := fun h => nomatch h
theorem Encoded.d0Return : Encoded.Statement .d0Return := fun h => nomatch h
theorem Encoded.attctlGo : Encoded.Statement .attctlGo := fun h => nomatch h
theorem Encoded.attestComplete : Encoded.Statement .attestComplete := fun h => nomatch h
theorem Encoded.longLatencyComplete : Encoded.Statement .longLatencyComplete := fun h => nomatch h
theorem Encoded.loomSplitFinComplete : Encoded.Statement .loomSplitFinComplete := fun h => nomatch h
theorem Encoded.loftwriteComplete : Encoded.Statement .loftwriteComplete := fun h => nomatch h
theorem Encoded.frrdWrite : Encoded.Statement .frrdWrite := fun h => nomatch h
theorem Encoded.rrdWrite : Encoded.Statement .rrdWrite := fun h => nomatch h
theorem Encoded.deviceReset : Encoded.Statement .deviceReset := fun h => nomatch h
theorem Encoded.powerLoss : Encoded.Statement .powerLoss := fun h => nomatch h

end Sys2Proof.Laws
end

