-- ==== Sys2Proof/Tests/Slice0.lean ====
section
/-!
SUPPORT. Tests. Words that the spec writes out decode to the instructions that it names; ill-formed terms are refused; small states meet the
hypotheses of the statements of Certificates/Slice0/Obligations.lean, `witness_<statement>`, every clause of them; and results of single
steps, expected from the spec's examples or by hand.
-/

open Sys2Proof

namespace Sys2Proof.Machine.Tests

set_option Elab.async false

/-! ### Small states -/

/-- An instruction is the next to issue, in weave 0, alone on its shop, right after reset. -/
def atReset (i : Instr) : State :=
  match encode i with
  | some w => { State.reset.withFetchWord 64 w.toNat with issuer := some (0, 0) }
  | none => State.reset

/-- Instructions by their fields; every field not named is the one that assemblers write for an unused one. -/
def r (d a b c : BitVec 9) (m : BitVec 16) : RRR := { dst := d, sa := a, sb := b, sc := c, pn := 0, pred := 7, mod := m }
def br (d : BitVec 9) : BR := { dst := d, sa := 511, off := 2, pn := 0, pred := 7, rsv := 0 }
def ri (d a : BitVec 9) : RI := { dst := d, sa := a, imm := 3, pn := 0, pred := 7, itype := 0 }
def mem (d b : BitVec 9) (n : BitVec 3) : MemF :=
  { ds := d, base := b, off := 0, scope := 0, ann := 0, cop := 0, size := n, pn := 0, pred := 7, mx := 0 }
def sys (d a : BitVec 9) (sr imm : BitVec 16) : SYS :=
  { dst := d, sa := a, sreg := sr, rsv := 0, pn := 0, pred := 7, imm := imm }
def eng (ds : BitVec 9) (dl : BitVec 4) : ENG :=
  { dst := 511, desc := ds, dlen := dl, cmask := 0, scope := 0, rsv := 0, pn := 0, pred := 7, coff := 0 }

/-- The meaning of an instruction is `issueRow` with a form, under which it is issued (predicate p7) in the state that `prep` makes of the
one right after reset, and P holds of its context before the issue, and of the state and the context in which its own effect takes place. -/
def IssuedWith (prep : State → State) (i : Instr) (P : Ctx → State → Ctx → Bool) : Prop :=
  ∃ form body, (∀ s, exec i s = issueRow s 0 7 form body) ∧ (issued (prep (atReset i)) 0 7 form).any (fun p => P p.1 p.2.1 p.2.2) = true

/-- The same for a first issue, with strands that qualify, acting once. -/
def IssuesIn (prep : State → State) (i : Instr) (P : State → Ctx → Bool) : Prop :=
  IssuedWith prep i (fun c s2 c2 => c.held.isNone && c2.held.isNone && c2.once && decide (c2.q ≠ 0) && P s2 c2)

/-- An instruction is issued right after reset. -/
def Issues (i : Instr) : Prop := IssuesIn id i (fun _ _ => true)

/-! ### Words (the examples of the spec's opcode sections) -/

theorem test_decode_bench :
    decodeWord 0x00FF_FFFF_FFF7_0000 = .nop { dst := 511, sa := 511, sb := 511, sc := 511, pn := 0, pred := 7, mod := 0 } ∧
    decodeWord 0x10FF_E0BF_FFF7_0001 = .pput { dst := 511, sa := 386, sb := 511, sc := 511, pn := 0, pred := 7, mod := 1 } ∧
    decodeWord 0x07FF_FFC0_0000_021C = .jmark { dst := 511, sa := 511, off := 8, pn := 0, pred := 7, rsv := 0 } ∧
    decodeWord 0x0D02_FFFF_FFF7_0000 = .actm { dst := 5, sa := 511, sb := 511, sc := 511, pn := 0, pred := 7, mod := 0 } ∧
    decodeWord 0x08FF_FFFF_FFF7_0000 = .join { dst := 511, sa := 511, sb := 511, sc := 511, pn := 0, pred := 7, mod := 0 } ∧
    decodeWord 0x01FF_FFFF_FFF7_0000 = .endSplit { dst := 511, sa := 511, sb := 511, sc := 511, pn := 0, pred := 7, mod := 0 } := by decide

theorem test_decode_memory :
    decodeWord 0xA005_6100_0100_0270 =
      .ld { ds := 10, base := 388, off := 0x40, scope := 0, ann := 0, cop := 0, size := 2, pn := 0, pred := 7, mx := 0 } ∧
    decodeWord 0xA4C5_6300_0001_2270 =
      .ldc { ds := 394, base := 396, off := 0, scope := 2, ann := 1, cop := 0, size := 2, pn := 0, pred := 7, mx := 0 } ∧
    decodeWord 0xAAFF_FFFF_FFF7_3800 = .fence { dst := 511, sa := 511, sb := 511, sc := 511, pn := 0, pred := 7, mod := 0x3800 } ∧
    decodeWord 0xC1C3_E0C0_0400_0470 =
      .barw { ds := 391, base := 387, off := 0x100, scope := 0, ann := 0, cop := 0, size := 4, pn := 0, pred := 7, mx := 0 } ∧
    decodeWord 0xF90A_6200_1000_0470 =
      .loftLd { ds := 20, base := 392, off := 0x400, scope := 0, ann := 0, cop := 0, size := 4, pn := 0, pred := 7, mx := 0 } ∧
    decodeWord 0xC805_6101_7FF7_0080 = .atom { dst := 10, sa := 388, sb := 11, sc := 511, pn := 0, pred := 7, mod := 0x0080 } ∧
    decodeWord 0xC9FF_E331_DFF7_5080 = .red { dst := 511, sa := 396, sb := 398, sc := 511, pn := 0, pred := 7, mod := 0x5080 } := by decide

theorem test_decode_arithmetic :
    decodeWord 0x610C_0503_3FF7_0400 = .vscale { dst := 24, sa := 20, sb := 25, sc := 511, pn := 0, pred := 7, mod := 0x0400 } ∧
    decodeWord 0x8111_887F_FFF7_0400 = .rsq { dst := 35, sa := 33, sb := 511, sc := 511, pn := 0, pred := 7, mod := 0x0400 } := by decide

theorem test_decode_engines :
    decodeWord 0xD4FF_E43C_8007_0000 =
      .dcopy { dst := 511, desc := 400, dlen := 15, cmask := 2, scope := 0, rsv := 0, pn := 0, pred := 7, coff := 0 } ∧
    decodeWord 0xD5FF_E43C_9007_0000 =
      .dcopym { dst := 511, desc := 400, dlen := 15, cmask := 2, scope := 2, rsv := 0, pn := 0, pred := 7, coff := 0 } ∧
    decodeWord 0xD602_020C_0007_0000 =
      .gather { dst := 4, desc := 8, dlen := 3, cmask := 0, scope := 0, rsv := 0, pn := 0, pred := 7, coff := 0 } ∧
    decodeWord 0xD903_7FFF_FFF7_0000 = .gstatus { dst := 6, sa := 511, sb := 511, sc := 511, pn := 0, pred := 7, mod := 0 } ∧
    decodeWord 0xDAFF_E508_0007_0000 =
      .greplay { dst := 511, desc := 404, dlen := 2, cmask := 0, scope := 0, rsv := 0, pn := 0, pred := 7, coff := 0 } ∧
    decodeWord 0xDBFF_E21D_0003_0000 =
      .gselect { dst := 511, desc := 392, dlen := 7, cmask := 4, scope := 0, rsv := 0, pn := 0, pred := 3, coff := 0 } ∧
    decodeWord 0xDCFF_E20C_4007_0000 =
      .loomMm { dst := 511, desc := 392, dlen := 3, cmask := 1, scope := 0, rsv := 0, pn := 0, pred := 7, coff := 0 } ∧
    decodeWord 0xDDFF_E214_0007_0000 =
      .loomMx { dst := 511, desc := 392, dlen := 5, cmask := 0, scope := 0, rsv := 0, pn := 0, pred := 7, coff := 0 } ∧
    decodeWord 0xDEFF_E414_0007_0000 =
      .loomSplit { dst := 511, desc := 400, dlen := 5, cmask := 0, scope := 0, rsv := 0, pn := 0, pred := 7, coff := 0 } ∧
    decodeWord 0xDFFF_E60C_4007_0000 =
      .loomSpl { dst := 511, desc := 408, dlen := 3, cmask := 1, scope := 0, rsv := 0, pn := 0, pred := 7, coff := 0 } ∧
    decodeWord 0xE0FF_E70C_0007_0000 =
      .loomFin { dst := 511, desc := 412, dlen := 3, cmask := 0, scope := 0, rsv := 0, pn := 0, pred := 7, coff := 0 } ∧
    decodeWord 0xE1C3_7FFF_FFF7_0000 = .loomWait { dst := 390, sa := 511, sb := 511, sc := 511, pn := 0, pred := 7, mod := 0 } ∧
    decodeWord 0xE2FF_FFFF_FFF7_0000 = .ofence { dst := 511, sa := 511, sb := 511, sc := 511, pn := 0, pred := 7, mod := 0 } ∧
    decodeWord 0xE3C6_7FFF_FFF7_0001 = .accAlloc { dst := 396, sa := 511, sb := 511, sc := 511, pn := 0, pred := 7, mod := 1 } ∧
    decodeWord 0xE50A_7FFF_FFF7_0000 = .accRd { dst := 20, sa := 511, sb := 511, sc := 511, pn := 0, pred := 7, mod := 0 } ∧
    decodeWord 0xE8FF_E13F_FFF7_0000 = .gangSet { dst := 511, sa := 388, sb := 511, sc := 511, pn := 0, pred := 7, mod := 0 } ∧
    decodeWord 0xE9FF_E41C_5007_0000 =
      .netColl { dst := 511, desc := 400, dlen := 7, cmask := 1, scope := 2, rsv := 0, pn := 0, pred := 7, coff := 0 } ∧
    decodeWord 0xEBC4_60BF_FFF7_0000 = .ringPop { dst := 392, sa := 386, sb := 511, sc := 511, pn := 0, pred := 7, mod := 0 } ∧
    decodeWord 0xECFF_E51C_8007_0000 =
      .prefT { dst := 511, desc := 404, dlen := 7, cmask := 2, scope := 0, rsv := 0, pn := 0, pred := 7, coff := 0 } := by decide

theorem test_decode_system :
    decodeWord 0xF2FF_FFC0_0007_0005 = .bkpt { dst := 511, sa := 511, sreg := 0, rsv := 0, pn := 0, pred := 7, imm := 5 } ∧
    decodeWord 0xF3FF_FFC0_0007_1234 = .trace { dst := 511, sa := 511, sreg := 0, rsv := 0, pn := 0, pred := 7, imm := 0x1234 } ∧
    decodeWord 0xF4FF_E180_0007_0000 = .tracev { dst := 511, sa := 390, sreg := 0, rsv := 0, pn := 0, pred := 7, imm := 0 } ∧
    decodeWord 0xF5FF_FFC0_0007_0007 = .pmark { dst := 511, sa := 511, sreg := 0, rsv := 0, pn := 0, pred := 7, imm := 7 } ∧
    decodeWord 0xF6C5_7FC0_0007_0002 = .cntrd { dst := 394, sa := 511, sreg := 0, rsv := 0, pn := 0, pred := 7, imm := 2 } ∧
    decodeWord 0xF7FF_FFC0_0007_0000 = .ckpt { dst := 511, sa := 511, sreg := 0, rsv := 0, pn := 0, pred := 7, imm := 0 } ∧
    decodeWord 0xF8C3_7FC0_0007_0000 = .vstat { dst := 390, sa := 511, sreg := 0, rsv := 0, pn := 0, pred := 7, imm := 0 } := by decide

/-! ### Every instruction issues right after reset with some fields: the premise of its completion -/

theorem witness_issued_bench :
    Issues (.nop (r 511 511 511 511 0)) ∧ Issues (.endSplit (r 511 511 511 511 0)) ∧ Issues (.bra (br 511)) ∧ Issues (.brv (br 511)) ∧
    Issues (.brx (r 511 388 511 511 0)) ∧ Issues (.call (br 388)) ∧ Issues (.ret (r 511 388 511 511 0)) ∧ Issues (.jmark (br 511)) ∧
    Issues (.join (r 511 511 511 511 0)) ∧ Issues (.pause (ri 511 511)) ∧ Issues (.waitf (ri 511 511)) ∧ Issues (.trap (ri 511 511)) ∧
    Issues (.dead (r 511 4 511 511 0)) ∧ Issues (.actm (r 388 511 511 511 0)) ∧ Issues (.plog (r 511 511 511 511 0)) ∧
    Issues (.pget (r 4 511 511 511 0)) ∧ Issues (.pput (r 511 4 511 511 0)) := by
  repeat' apply And.intro
  all_goals
    apply Exists.intro
    apply Exists.intro
    apply And.intro
    · intro s
      dsimp only [exec, execNop, execEndSplit, execBra, execBrv, execBrx, execCall, execRet, execJmark, execJoin, execPause, execWaitf, execTrap,
        execDead, execActm, execPlog, execPget, execPput, indirect]
      rfl
    · decide +kernel

theorem witness_issued_scalar :
    Issues (.smov (r 386 388 511 511 0)) ∧ Issues (.sadd (r 386 388 390 511 0)) ∧ Issues (.ssub (r 386 388 390 511 0)) ∧
    Issues (.smul (r 386 388 390 511 0)) ∧ Issues (.smulh (r 386 388 390 511 0)) ∧ Issues (.sand (r 386 388 390 511 0)) ∧
    Issues (.sor (r 386 388 390 511 0)) ∧ Issues (.sxor (r 386 388 390 511 0)) ∧ Issues (.sshl (r 386 388 390 511 0)) ∧
    Issues (.sshr (r 386 388 390 511 0)) ∧ Issues (.ssra (r 386 388 390 511 0)) ∧ Issues (.smin (r 386 388 390 511 0)) ∧
    Issues (.smax (r 386 388 390 511 0)) ∧ Issues (.scmp (r 386 388 390 511 0)) ∧ Issues (.ssel (r 386 388 390 392 0)) ∧
    Issues (.sclz (r 386 388 511 511 0)) ∧ Issues (.spopc (r 386 388 511 511 0)) ∧ Issues (.smovRi (ri 386 511)) ∧
    Issues (.saddRi (ri 386 388)) ∧ Issues (.smulRi (ri 386 388)) ∧ Issues (.sandRi (ri 386 388)) ∧ Issues (.sorRi (ri 386 388)) ∧
    Issues (.sxorRi (ri 386 388)) ∧ Issues (.sshlRi (ri 386 388)) ∧ Issues (.sshrRi (ri 386 388)) ∧ Issues (.ssraRi (ri 386 388)) ∧
    Issues (.scmpRi (ri 386 388)) ∧ Issues (.sminRi (ri 386 388)) ∧ Issues (.smaxRi (ri 386 388)) := by
  repeat' apply And.intro
  all_goals
    apply Exists.intro
    apply Exists.intro
    apply And.intro
    · intro s
      dsimp only [exec, execSmov, execSadd, execSsub, execSmul, execSmulh, execSand, execSor, execSxor, execSshl, execSshr, execSsra, execSmin,
        execSmax, execScmp, execSsel, execSclz, execSpopc, execSmovRi, execSaddRi, execSmulRi, execSandRi, execSorRi, execSxorRi,
        execSshlRi, execSshrRi, execSsraRi, execScmpRi, execSminRi, execSmaxRi, scaRRR, scaRI]
      rfl
    · decide +kernel

theorem witness_issued_spindle :
    Issues (.vmov (r 4 6 511 511 0)) ∧ Issues (.vadd (r 4 6 8 511 0)) ∧ Issues (.vsub (r 4 6 8 511 0)) ∧
    Issues (.vadds (r 4 6 8 511 0)) ∧ Issues (.vsubs (r 4 6 8 511 0)) ∧ Issues (.vmul (r 4 6 8 511 0)) ∧
    Issues (.vmulh (r 4 6 8 511 0)) ∧ Issues (.vmulw (r 4 6 8 511 0)) ∧ Issues (.vmad (r 4 6 8 10 0)) ∧ Issues (.vmadh (r 4 6 8 10 0)) ∧
    Issues (.vfma (r 4 6 8 10 1024)) ∧ Issues (.vfms (r 4 6 8 10 1024)) ∧ Issues (.vfnma (r 4 6 8 10 1024)) ∧
    Issues (.vabs (r 4 6 511 511 0)) ∧ Issues (.vneg (r 4 6 511 511 0)) ∧ Issues (.vmin (r 4 6 8 511 0)) ∧
    Issues (.vmax (r 4 6 8 511 0)) ∧ Issues (.vclamp (r 4 6 8 10 0)) ∧ Issues (.vsgn (r 4 6 8 511 0)) ∧ Issues (.vabsd (r 4 6 8 511 0)) ∧
    Issues (.vavg (r 4 6 8 511 0)) ∧ Issues (.vaddc (r 4 6 8 10 256)) ∧ Issues (.vsubb (r 4 6 8 10 256)) ∧
    Issues (.vand (r 4 6 8 511 0)) ∧ Issues (.vor (r 4 6 8 511 0)) ∧ Issues (.vxor (r 4 6 8 511 0)) ∧ Issues (.vnot (r 4 6 511 511 0)) ∧
    Issues (.vbool (r 4 6 8 10 0)) ∧ Issues (.vshl (r 4 6 8 511 0)) ∧ Issues (.vshr (r 4 6 8 511 0)) ∧ Issues (.vsra (r 4 6 8 511 0)) ∧
    Issues (.vrol (r 4 6 8 511 0)) ∧ Issues (.vclz (r 4 6 511 511 0)) ∧ Issues (.vctz (r 4 6 511 511 0)) ∧
    Issues (.popc (r 4 6 511 511 0)) ∧ Issues (.vbrev (r 4 6 511 511 0)) ∧ Issues (.vbswap (r 4 6 511 511 0)) ∧
    Issues (.vbfe (r 4 6 8 511 0)) ∧ Issues (.vbfi (r 4 6 8 10 0)) ∧ Issues (.vsel (r 4 6 8 10 0)) ∧ Issues (.vmovRi (ri 4 511)) ∧
    Issues (.vaddRi (ri 4 6)) ∧ Issues (.vsubRi (ri 4 6)) ∧ Issues (.vaddsRi (ri 4 6)) ∧ Issues (.vmulRi (ri 4 6)) ∧
    Issues (.vminRi (ri 4 6)) ∧ Issues (.vmaxRi (ri 4 6)) ∧ Issues (.vandRi (ri 4 6)) ∧ Issues (.vorRi (ri 4 6)) ∧
    Issues (.vxorRi (ri 4 6)) ∧ Issues (.vshlRi (ri 4 6)) ∧ Issues (.vshrRi (ri 4 6)) ∧ Issues (.vsraRi (ri 4 6)) ∧
    Issues (.vrolRi (ri 4 6)) ∧ Issues (.vselRi (ri 4 6)) ∧ Issues (.vcmp (r 511 6 8 511 0)) ∧ Issues (.vcmpRi (ri 0 6)) ∧
    Issues (.vclass (r 4 6 511 511 1024)) ∧ Issues (.vmatch (r 4 6 511 511 0)) ∧ Issues (.vpack (r 4 6 8 511 3328)) ∧
    Issues (.vunpk (r 4 6 511 511 3328)) ∧ Issues (.vswz (r 4 6 511 511 256)) ∧ Issues (.vshuf (r 4 6 8 10 256)) ∧
    Issues (.vdot8 (r 4 6 8 10 3264)) ∧ Issues (.vdot4 (r 4 6 8 10 2176)) ∧ Issues (.vdot2 (r 4 6 8 10 1632)) ∧
    Issues (.vscale (r 4 6 8 10 1024)) ∧ Issues (.xchg (r 4 6 511 511 0)) ∧ Issues (.vget (r 4 6 8 511 0)) ∧
    Issues (.vput (r 4 6 8 511 0)) ∧ Issues (.ballot (r 4 6 511 511 0)) ∧ Issues (.vprefix (r 4 6 511 511 0)) ∧
    Issues (.vred (r 4 6 511 511 0)) ∧ Issues (.rdff (r 4 511 511 511 0)) ∧ Issues (.wrff (r 511 388 511 511 0)) ∧
    Issues (.clrff (r 511 511 511 511 0)) := by
  repeat' apply And.intro
  all_goals
    apply Exists.intro
    apply Exists.intro
    apply And.intro
    · intro s
      dsimp only [exec, execVmov, execVadd, execVsub, execVadds, execVsubs, execVmul, execVmulh, execVmulw, execVmad, execVmadh, execVfma,
        execVfms, execVfnma, execVabs, execVneg, execVmin, execVmax, execVclamp, execVsgn, execVabsd, execVavg, execVaddc, execVsubb,
        execVand, execVor, execVxor, execVnot, execVbool, execVshl, execVshr, execVsra, execVrol, execVclz, execVctz, execPopc,
        execVbrev, execVbswap, execVbfe, execVbfi, execVsel, execVmovRi, execVaddRi, execVsubRi, execVaddsRi, execVmulRi, execVminRi,
        execVmaxRi, execVandRi, execVorRi, execVxorRi, execVshlRi, execVshrRi, execVsraRi, execVrolRi, execVselRi, execVcmp, execVcmpRi,
        execVclass, execVmatch, execVpack, execVunpk, execVswz, execVshuf, execVdot8, execVdot4, execVdot2, execVscale, execXchg,
        execVget, execVput, execBallot, execVprefix, execVred, execRdff, execWrff, execClrff, vecRRR, vecRI, dotRow]
      rfl
    · decide +kernel

theorem witness_issued_assay :
    Issues (.rcp (r 4 6 511 511 1024)) ∧ Issues (.rsq (r 4 6 511 511 1024)) ∧ Issues (.exp2 (r 4 6 511 511 1024)) ∧
    Issues (.log2 (r 4 6 511 511 1024)) ∧ Issues (.sin (r 4 6 511 511 1024)) ∧ Issues (.cos (r 4 6 511 511 1024)) ∧
    Issues (.expe (r 4 6 511 511 1024)) ∧ Issues (.loge (r 4 6 511 511 1024)) ∧ Issues (.tanh (r 4 6 511 511 1024)) ∧
    Issues (.atan (r 4 6 511 511 1024)) ∧ Issues (.sqrt (r 4 6 511 511 1024)) ∧ Issues (.div (r 4 6 8 511 1024)) ∧
    Issues (.cvt (r 4 6 511 511 1024)) ∧ Issues (.cvtpk (r 4 6 8 10 1600)) ∧ Issues (.cvtpk2 (r 4 6 8 511 2144)) ∧
    Issues (.cvtunp (r 4 6 511 511 1120)) ∧ Issues (.cvtmxd (r 4 6 8 511 1152)) ∧ Issues (.cvtmx (r 4 6 511 511 2112)) ∧
    Issues (.mxamax (r 4 6 511 511 1024)) ∧ Issues (.e8get (r 4 6 511 511 2048)) ∧ Issues (.fxcvt (r 4 6 8 511 1024)) ∧
    Issues (.vrnd (r 4 6 511 511 1024)) ∧ Issues (.scalb (r 4 6 8 511 1024)) ∧ Issues (.getexp (r 4 6 511 511 1024)) ∧
    Issues (.getmant (r 4 6 511 511 1024)) ∧ Issues (.setseed (r 511 388 511 511 0)) := by
  repeat' apply And.intro
  all_goals
    apply Exists.intro
    apply Exists.intro
    apply And.intro
    · intro s
      dsimp only [exec, execRcp, execRsq, execExp2, execLog2, execSin, execCos, execExpe, execLoge, execTanh, execAtan, execSqrt, execDiv, execCvt,
        execCvtpk, execCvtpk2, execCvtunp, execCvtmxd, execCvtmx, execMxamax, execE8get, execFxcvt, execVrnd, execScalb, execGetexp,
        execGetmant, execSetseed, fnRow, vecRRR]
      rfl
    · decide +kernel

theorem witness_issued_porter :
    Issues (.ld (mem 4 388 2)) ∧ Issues (.ldu (mem 4 388 2)) ∧ Issues (.ldc (mem 4 388 2)) ∧ Issues (.st (mem 4 388 2)) ∧
    Issues (.stu (mem 4 388 2)) ∧ Issues (.zerol (mem 511 388 0)) ∧ Issues (.ldnf (mem 4 388 2)) ∧ Issues (.ldf (mem 4 388 2)) ∧
    Issues (.stf (mem 4 388 2)) ∧ Issues (.ldt (mem 4 388 2)) ∧ Issues (.stt (mem 4 388 2)) ∧ Issues (.prfl (mem 511 388 0)) ∧
    Issues (.invl (mem 511 388 0)) ∧ Issues (.wbl (mem 511 388 0)) ∧ Issues (.lea (mem 4 388 3)) ∧ Issues (.probe (mem 4 388 2)) ∧
    Issues (.fence (r 511 511 511 511 2048)) ∧ Issues (.genrd (r 386 511 511 511 0)) ∧ Issues (.waitl (mem 386 388 0)) := by
  repeat' apply And.intro
  all_goals
    apply Exists.intro
    apply Exists.intro
    apply And.intro
    · intro s
      dsimp only [exec, execLd, execLdu, execLdc, execSt, execStu, execZerol, execLdnf, execLdf, execStf, execLdt, execStt, execPrfl, execInvl,
        execWbl, execLea, execProbe, execFence, execGenrd, execWaitl, loadRow, storeRow]
      rfl
    · decide +kernel

theorem witness_issued_stockroom :
    Issues (.lds (mem 4 388 2)) ∧ Issues (.sts (mem 4 388 2)) ∧ Issues (.atoms (r 4 6 8 511 0)) ∧ Issues (.cass (r 4 6 8 10 0)) ∧
    Issues (.fefill (mem 4 388 2)) ∧ Issues (.fetake (mem 4 388 2)) ∧ Issues (.feread (mem 4 388 2)) ∧
    Issues (.fereset (mem 511 388 2)) ∧ Issues (.bara (mem 4 388 4)) ∧ Issues (.barx (mem 4 388 4)) ∧ Issues (.barw (mem 4 388 4)) ∧
    Issues (.nbsync (r 511 511 511 511 0)) ∧ Issues (.nbarr (r 511 511 511 511 0)) ∧ Issues (.bsave (r 511 388 511 511 0)) ∧
    Issues (.brestore (r 511 388 511 511 0)) := by
  repeat' apply And.intro
  all_goals
    apply Exists.intro
    apply Exists.intro
    apply And.intro
    · intro s
      dsimp only [exec, execLds, execSts, execAtoms, execCass, execFefill, execFetake, execFeread, execFereset, execBara, execBarx, execBarw,
        execNbsync, execNbarr, execBsave, execBrestore, spadAtomic, feRow, barRow, imageRow]
      rfl
    · decide +kernel

theorem witness_issued_clerk :
    Issues (.atom (r 4 6 8 511 0)) ∧ Issues (.red (r 511 6 8 511 0)) ∧ Issues (.cas (r 4 6 8 10 0)) ∧ Issues (.cas128 (r 4 6 8 12 0)) ∧
    Issues (.atomu (r 4 6 8 511 0)) ∧ Issues (.redu (r 511 6 8 511 0)) ∧ Issues (.casu (r 4 6 8 10 0)) ∧ Issues (.reda (r 511 6 8 511 0)) := by
  repeat' apply And.intro
  all_goals
    apply Exists.intro
    apply Exists.intro
    apply And.intro
    · intro s
      dsimp only [exec, execAtom, execRed, execCas, execCas128, execAtomu, execRedu, execCasu, execReda, atomRow]
      rfl
    · decide +kernel

theorem witness_issued_dray :
    Issues (.dcopy (eng 400 15)) ∧ Issues (.dcopym (eng 400 15)) := by
  repeat' apply And.intro
  all_goals
    apply Exists.intro
    apply Exists.intro
    apply And.intro
    · intro s
      dsimp only [exec, execDcopy, execDcopym, drayPush]
      rfl
    · decide +kernel

theorem witness_issued_gleaner :
    Issues (.gather (eng 8 3)) ∧ Issues (.scatter (eng 8 4)) ∧ Issues (.gcompact (eng 8 4)) ∧ Issues (.greplay (eng 400 2)) ∧
    Issues (.gstatus (r 4 511 511 511 0)) ∧ Issues (.gselect (eng 400 7)) := by
  repeat' apply And.intro
  all_goals
    apply Exists.intro
    apply Exists.intro
    apply And.intro
    · intro s
      dsimp only [exec, execGather, execScatter, execGcompact, execGreplay, execGstatus, execGselect, gatherPush]
      rfl
    · decide +kernel

theorem witness_issued_loom :
    Issues (.gangSet (r 511 388 511 511 0)) ∧ Issues (.loomMm (eng 400 3)) ∧ Issues (.loomMx (eng 400 5)) ∧
    Issues (.loomSplit (eng 400 5)) ∧ Issues (.loomSpl (eng 400 3)) ∧ Issues (.loomFin (eng 400 3)) ∧
    Issues (.loomWait (r 388 511 511 511 0)) ∧ Issues (.ofence (r 511 511 511 511 0)) ∧ Issues (.accAlloc (r 388 511 511 511 0)) ∧
    Issues (.accFree (r 511 388 511 511 0)) ∧ Issues (.accRd (r 4 388 389 511 0)) ∧ Issues (.accWr (r 511 388 389 4 0)) ∧
    Issues (.accClr (r 511 388 511 511 0)) := by
  repeat' apply And.intro
  all_goals
    apply Exists.intro
    apply Exists.intro
    apply And.intro
    · intro s
      dsimp only [exec, execGangSet, execLoomMm, execLoomMx, execLoomSplit, execLoomSpl, execLoomFin, execLoomWait, execOfence, execAccAlloc,
        execAccFree, execAccRd, execAccWr, execAccClr, loomPush]
      rfl
    · decide +kernel

theorem witness_issued_courier :
    Issues (.netColl (eng 400 7)) ∧ Issues (.netSend (eng 400 7)) ∧ Issues (.ringPop (r 388 390 511 511 0)) := by
  repeat' apply And.intro
  all_goals
    apply Exists.intro
    apply Exists.intro
    apply And.intro
    · intro s
      dsimp only [exec, execNetColl, execNetSend, execRingPop]
      rfl
    · decide +kernel

theorem witness_issued_system :
    Issues (.srd (sys 388 511 16 0)) ∧ Issues (.swr (sys 511 388 48 0)) ∧ Issues (.isync (sys 511 511 0 0)) ∧
    Issues (.drain (sys 511 511 0 0)) ∧ Issues (.gtwait (sys 511 388 0 0)) ∧ Issues (.bkpt (sys 511 511 0 0)) ∧
    Issues (.trace (sys 511 511 0 0)) ∧ Issues (.tracev (sys 511 388 0 0)) ∧ Issues (.pmark (sys 511 511 0 0)) ∧
    Issues (.cntrd (sys 388 511 0 0)) ∧ Issues (.ckpt (sys 511 511 0 0)) ∧ Issues (.vstat (sys 388 511 0 0)) ∧
    Issues (.loftLd (mem 4 388 2)) ∧ Issues (.loftWaitr (sys 511 511 0 0)) ∧ Issues (.capq (sys 388 511 0 0)) ∧
    Issues (.pgqInv (sys 511 388 0 0)) ∧ Issues (.pgqInvall (sys 511 511 0 16384)) ∧ Issues (.pgqEvict (sys 511 388 0 32768)) ∧
    Issues (.prefT (eng 400 7)) ∧ Issues (.launchD (eng 400 15)) := by
  repeat' apply And.intro
  all_goals
    apply Exists.intro
    apply Exists.intro
    apply And.intro
    · intro s
      dsimp only [exec, execSrd, execSwr, execIsync, execDrain, execGtwait, execBkpt, execTrace, execTracev, execPmark, execCntrd, execCkpt,
        execVstat, execLoftLd, execLoftWaitr, execCapq, execPgqInv, execPgqInvall, execPgqEvict, execPrefT, execLaunchD]
      rfl
    · decide +kernel

/-! ### States that meet the premises of the statements on traps, checks and the bench -/

/-- A weave whose next instruction is NOP. -/
def lone : State := atReset (.nop (r 511 511 511 511 0))

/-- The same with every trap class under HANDLER. -/
def handling : State := modWeave lone 0 (fun wv => { wv with hdr := { wv.hdr with trapDisp := 0x55555555 } })

/-- The same with a sibling split in handler mode. -/
def sibling : State :=
  modWeave handling 0 (fun wv => { wv with splits := put wv.splits 1 { pc := 0x2000, mask := 0, handler := true } })

theorem witness_StepRunsDecoded :
    (State.reset.withFetchWord 64 0x00FFFFFFFFF70000).agenda = [.issue 0 0] ∧
      wordAt { tick (State.reset.withFetchWord 64 0x00FFFFFFFFF70000) with agenda := [] } 0 0 = some 0x00FFFFFFFFF70000 := by
  decide +kernel

theorem witness_StepRunsEvent :
    encode .powerOn = none ∧ encode (.nop (r 511 511 511 511 0)) ≠ none ∧ State.reset.agenda = [] ∧
      (∀ a : Option Act, (∃ x, a = some x) ∨ a = none) := by
  refine ⟨rfl, by decide, rfl, fun a => ?_⟩
  cases a <;> simp

theorem witness_TrapEntersHandler :
    Inv handling = true ∧ (weaveOf handling 0).any (fun wv =>
      (look wv.splits 0).any (fun sp => !sp.handler) && decide (dispOf wv.hdr 0 = 1) &&
        !(wv.splits.any (fun y => decide (y.1 ≠ 0) && y.2.handler))) = true := by decide +kernel

theorem witness_TrapHalts :
    (weaveOf lone 0).any (fun wv => (look wv.splits 0).isSome && decide (dispOf wv.hdr 0 = 0)) = true ∧
      (weaveOf sibling 0).any (fun wv => (look wv.splits 1).any (fun sp => sp.handler)) = true := by decide +kernel

theorem witness_TrapOfSiblingParks :
    (weaveOf sibling 0).any (fun wv => (look wv.splits 0).any (fun sp => !sp.handler) && decide (dispOf wv.hdr 0 = 1) &&
      wv.splits.any (fun y => decide (y.1 ≠ 0) && y.2.handler)) = true := by decide +kernel

/-- A form for each check, in their order, that fails it and no earlier one; the second-to-last names a queue whose field gives the
cause, and the last fails none (R126, R127). -/
def failing : List Form :=
  [{ ops := [dstIn 1 388] }, { ops := [], modOk := false }, { ops := [src 5 2] }, { ops := [src 9] },
   { ops := [{ reg := 464, cls := 8, eng := true }] }, { ops := [], memOk := false }, { ops := [], engOk := false },
   { ops := [src 448] }, { ops := [srcIn 2 449 1 7] }, { ops := [], priv := true }, { ops := [src 4 2] }]

theorem witness_ChecksInOrder :
    (ctxOf (modWeave lone 0 (fun wv => { wv with hdr := { wv.hdr with vregs := 8 }, ids := { wv.ids with priv := false } })) 0 7).map
        (fun c => failing.map (fun f => (formTrap c f).map (fun t => (t.cls, t.cause)))) =
      some [some (0, 2), some (0, 3), some (0, 4), some (0, 5), some (0, 6), some (0, 7), some (0, 8), some (0, 9), some (0, 7),
        some (4, 4), none] := by decide +kernel

theorem witness_TrapInstructions :
    (ctxOf (atReset (.reservedOpcode 0x2E00000000000000)) 0 7).any (fun c => !c.fenced) = true := by decide +kernel

theorem witness_BenchPlain : (weaveOf lone 0).isSome = true ∧ (6 : Nat) < 7 ∧ (1 : Nat) ≠ 0 := by decide +kernel

theorem witness_IntegerOperations : 0 < 32 ∧ 0 < 64 := by decide

/-- Both ends of the fields that R245 allows, and the greatest operands of the widths. -/
theorem witness_VectorIntegerValues :
    (0 < 32 ∧ 0 < 32 ∧ 0 + 32 ≤ 32) ∧ (31 < 32 ∧ 0 < 1 ∧ 31 + 1 ≤ 32) ∧ (2 ^ 32 - 1 < 2 ^ typeBits 0) ∧ (2 ^ 64 - 1 < 2 ^ typeBits 3) := by
  decide

theorem witness_FloatSpecialValues :
    isNaN (fdec fmt32 (0x7FC00000#32).toNat) = true ∧ isSNaN (fdec fmt32 (0xFF800001#32).toNat) = true ∧
      isNaN (fdec fmt32 (0x7F800000#32).toNat) = false := by decide +kernel

theorem witness_ReductionTree :
    (∀ a b : Nat, a + b = b + a) ∧ (∀ a b c : Nat, a + b + c = a + (b + c)) ∧
      ((List.range 31).map some ++ [none]).length = 32 := by
  exact ⟨Nat.add_comm, Nat.add_assoc, by decide⟩

/-- A weave whose FFLAGS enable NX, under each disposition of class 7. -/
def enabled (disp : BitVec 32) : State :=
  modWeave lone 0 (fun wv => { wv with fflags := 0x0100, hdr := { wv.hdr with trapDisp := disp } })

theorem witness_FlagsAccrue :
    (ctxOf lone 0 7).any (fun c => decide (orFlags c.q (fun _ => 0) = 0)) = true ∧
    (ctxOf lone 0 7).any (fun c => decide (orFlags c.q (fun _ => flagNX) ≠ 0 ∧
      orFlags c.q (fun _ => flagNX) &&& (c.wv.fflags.extractLsb' 8 5).toNat = 0)) = true ∧
    (ctxOf (enabled 0x8000) 0 7).any (fun c => decide (orFlags c.q (fun _ => flagNX) ≠ 0 ∧ dispOf c.wv.hdr 7 = 2)) = true ∧
    (ctxOf (enabled 0) 0 7).any (fun c => decide (orFlags c.q (fun _ => 31) ≠ 0 ∧ dispOf c.wv.hdr 7 ≠ 2 ∧
      orFlags c.q (fun _ => 31) &&& (c.wv.fflags.extractLsb' 8 5).toNat ≠ 0)) = true := by decide +kernel

theorem witness_RegisterResult :
    (issued (atReset (.vadd (r 4 6 8 511 0))) 0 7 (vecForm (r 4 6 8 511 0) { nsrc := 2, types := [0] } true)).any (fun p =>
      (weaveOf p.2.1 p.1.w).isSome && (lowestStrand p.2.2.q).isSome && p.2.2.q.getLsbD 31) = true ∧
    (4 : BitVec 9).toNat < 448 ∧ 464 ≤ (511 : BitVec 9).toNat := by decide +kernel

/-! ### The premises of loads, stores and atomics -/

/-- A map of the first 64 GiB for tenancy 0, its one leaf entry with the low bits given, over a lease slot that is held: the root table at
0x10000, the next at 0x20000. The weave has one TOB bank and its trap block far from there, and its Loft partition is the first unit; the page at 0 is resident. -/
def mapped (bits : BitVec 16) (s : State) : State :=
  let reeve : Reeve := { rootTable := 0x10, en := true, leases := [(0, { id := 1, size := 2 ^ 40, rights := 3, state := 1 })] }
  { s with
    tenancies := [(0, { state := 1, reeve := reeve, depot := { lsize := 1, dways := 1 } })]
    far := [(0x10000, 0x01), (0x10002, 0x02), (0x20000, bits.setWidth 8)] ++
      (if bits.extractLsb' 8 8 = 0 then [] else [(0x20001, bits.extractLsb' 8 8)])
    grains := [(0, { tenancy := 0, slot := 0, frame := 0 })]
    baskets := s.baskets.map (fun p => (p.1, { p.2 with ctxVA := 0x0100000000000000 }))
    weaves := s.weaves.map (fun p => (p.1, { p.2 with hdr := { p.2.hdr with tobBanks := 1 } })) }

/-- Read, write and execute, no format. -/
def plainMap : State → State := mapped 0x001F

/-- The same with the format of 16-bit elements. -/
def halfMap : State → State := mapped 0x091F

/-- s4 and s5 hold the first address of the Loft's window. -/
def atLoft (s : State) : State :=
  { plainMap s with weaves := (plainMap s).weaves.map (fun p =>
      (p.1, { p.2 with sreg := [(4, 0x80000000), (5, 0x01FFFFFF)] })) }

/-- A check with no finding. -/
def ok (x : Chk) : Bool := x.trap.isNone && x.empty.isNone && x.lost.isNone && !x.busy

/-- What `ok` tests is what the statements ask. -/
theorem ok_clean (x : Chk) : ok x = true ↔ x.clean := by
  simp [ok, Chk.clean, and_assoc]

/-- No walk of the split awaits a reply, and every qualifying strand's check has no finding. -/
def allOk (s : State) (c : Ctx) (chk : Nat → Chk) : Bool :=
  (walkRecs s c.wv.ids.tenancy c.w c.slot).isEmpty && (strandsOf c.q).all (fun k => ok (chk k))

/-- The same of one check. -/
def oneOk (s : State) (c : Ctx) (x : Chk) : Bool := (walkRecs s c.wv.ids.tenancy c.w c.slot).isEmpty && ok x

theorem witness_LoadsStart :
    IssuesIn plainMap (.ld (mem 4 388 2)) (fun s c => allOk s c (checkData s c (mem 4 388 2) .read 4 true)) ∧
    IssuesIn plainMap (.ldu (mem 4 388 2)) (fun s c => allOk s c (checkData s c (mem 4 388 2) .read 4 false)) ∧
    IssuesIn plainMap (.ldc (mem 388 388 2)) (fun s c => oneOk s c (checkData s c (mem 388 388 2) .read 4 true c.low)) ∧
    IssuesIn plainMap (.ldnf (mem 4 388 2)) (fun s c => (strandsOf c.q).all (fun k =>
      !(checkData s c (mem 4 388 2) .read 4 true k).busy)) ∧
    IssuesIn halfMap (.ldf (mem 4 388 2)) (fun s c => allOk s c (checkFmt s c (mem 4 388 2) .read)) ∧
    IssuesIn plainMap (.ldt (mem 4 388 2)) (fun s c => allOk s c (checkTob s c (mem 4 388 2) .read)) ∧
    IssuesIn plainMap (.lds (mem 4 388 2)) (fun s c => (strandsOf c.q).all (fun k =>
      let o := offOf s c (mem 4 388 2) k
      decide (o % 4 = 0 ∧ o + 4 ≤ c.wv.hdr.spad))) ∧
    IssuesIn atLoft (.loftLd (mem 4 388 2)) (fun s c => (strandsOf c.q).all (fun k =>
      let p := (tenOf s c.wv.ids.tenancy).depot
      let a := eaOf s c (mem 4 388 2) k
      (walkRecs s c.wv.ids.tenancy c.w c.slot).isEmpty && decide (loftWin + 65536 * p.lbase ≤ a ∧ a + 4 ≤ loftWin + 65536 * p.lbase + 65536 * p.lsize ∧ a % 4 = 0))) := by
  repeat' apply And.intro
  all_goals
    apply Exists.intro
    apply Exists.intro
    apply And.intro
    · intro s
      dsimp only [exec, execLd, execLdu, execLdc, execLdnf, execLdf, execLdt, execLds, execLoftLd, loadRow]
      rfl
    · decide +kernel

theorem witness_StoresStart :
    IssuesIn plainMap (.st (mem 4 388 2)) (fun s c => allOk s c (checkData s c (mem 4 388 2) .write 4 true)) ∧
    IssuesIn plainMap (.stu (mem 4 388 2)) (fun s c => allOk s c (checkData s c (mem 4 388 2) .write 4 false)) ∧
    IssuesIn plainMap (.zerol (mem 511 388 0)) (fun s c => allOk s c (checkData s c (mem 511 388 0) .write 128 true)) ∧
    IssuesIn halfMap (.stf (mem 4 388 2)) (fun s c => allOk s c (checkFmt s c (mem 4 388 2) .write) &&
      !(fmtBreach (mem 4 388 2) (fmtVals s c (mem 4 388 2) ((strandsOf c.q).map (checkFmt s c (mem 4 388 2) .write))))) ∧
    IssuesIn plainMap (.stt (mem 4 388 2)) (fun s c => allOk s c (checkTob s c (mem 4 388 2) .write)) ∧
    IssuesIn plainMap (.sts (mem 4 388 2)) (fun s c => (strandsOf c.q).all (fun k =>
      let o := offOf s c (mem 4 388 2) k
      decide (o % 4 = 0 ∧ o + 4 ≤ c.wv.hdr.spad))) := by
  repeat' apply And.intro
  all_goals
    apply Exists.intro
    apply Exists.intro
    apply And.intro
    · intro s
      dsimp only [exec, execSt, execStu, execZerol, execStf, execStt, execSts, storeRow]
      rfl
    · decide +kernel

/-- The split of weave 0 holds the instruction that it was about to issue, in the wait given. -/
def holding (wait : Wait) (s : State) : State :=
  modSplit s 0 0 (fun sp => { sp with
    run := none
    held := sp.run.map (fun x => { word := x.words.headD 0, idx := 0, pc := x.pc, hdr := x.hdr, srcs := [], q := 0xFFFFFFFF, wait := wait,
                                   stall := .ready }) })

theorem witness_PorterOthersComplete :
    IssuesIn plainMap (.probe (mem 4 388 2)) (fun s c => (strandsOf c.q).all (fun k => decide (eaOf s c (mem 4 388 2) k < 2 ^ 57) &&
      match translate s c.wv.ids.tenancy (eaOf s c (mem 4 388 2) k) (60000 + k) with | .busy _ => false | _ => true)) ∧
    IssuesIn plainMap (.wbl (mem 511 388 0)) (fun s c => allOk s c (checkData s c (mem 511 388 0) .write 1 false)) ∧
    IssuesIn plainMap (.waitl (mem 386 388 0)) (fun s c =>
      match watchStart s c (eaOf s c (mem 386 388 0) c.low) with | .line l _ => !(noFreeWatch s l) | _ => false) ∧
    IssuesIn (fun s => modWeave (plainMap s) 0 (fun wv => { wv with sreg := [(5, 0x02000000)] })) (.waitl (mem 386 388 0)) (fun s c =>
      match watchStart s c (eaOf s c (mem 386 388 0) c.low) with | .wake _ code => decide (code = 1) | _ => false) ∧
    IssuesIn (fun s => setLease (plainMap s) 0 0 { leaseOf (plainMap s) 0 0 with state := 6 }) (.waitl (mem 386 388 0)) (fun s c =>
      match watchStart s c (eaOf s c (mem 386 388 0) c.low) with | .walk _ => true | _ => false) ∧
    IssuedWith (holding (.monitor 5 0 (some 2))) (.waitl (mem 386 388 0)) (fun _ _ c2 =>
      c2.held.any (fun h => !h.restored && decide (h.wait = .monitor 5 0 (some 2)))) := by
  repeat' apply And.intro
  all_goals
    apply Exists.intro
    apply Exists.intro
    apply And.intro
    · intro s
      dsimp only [exec, execProbe, execWbl, execWaitl]
      rfl
    · decide +kernel

/-- Every qualifying strand's words of the scratchpad lie in it, aligned. -/
def spadOk (al n : Nat) (f : MemF) (s : State) (c : Ctx) : Bool :=
  (strandsOf c.q).all (fun k => decide (offOf s c f k % al = 0 ∧ offOf s c f k + n ≤ c.wv.hdr.spad)) && (basketOf s c.wv).isSome

/-- Right after reset no word of the scratchpad is FULL; here the first is. -/
def fullWord (s : State) : State := modBasket s 0 (fun B => { B with full := [0] })

theorem witness_StockroomCompletes :
    IssuesIn id (.atoms (r 4 6 8 511 0)) (fun s c => (strandsOf c.q).all (fun k => decide (srcN s c 6 k 1 % 4 = 0 ∧
      srcN s c 6 k 1 + 4 ≤ c.wv.hdr.spad))) ∧
    IssuesIn id (.cass (r 4 6 8 10 0)) (fun s c => (strandsOf c.q).all (fun k => decide (srcN s c 6 k 1 % 4 = 0 ∧
      srcN s c 6 k 1 + 4 ≤ c.wv.hdr.spad))) ∧
    IssuesIn id (.fefill (mem 4 388 2)) (fun s c => spadOk 4 4 (mem 4 388 2) s c &&
      (basketOf s c.wv).any (fun B => feReady B c.word [0])) ∧
    IssuesIn fullWord (.fetake (mem 4 388 2)) (fun s c => spadOk 4 4 (mem 4 388 2) s c &&
      (basketOf s c.wv).any (fun B => feReady B c.word [0])) ∧
    IssuesIn fullWord (.feread (mem 4 388 2)) (fun s c => spadOk 4 4 (mem 4 388 2) s c &&
      (basketOf s c.wv).any (fun B => feReady B c.word [0])) ∧
    IssuesIn id (.fereset (mem 511 388 2)) (spadOk 4 4 (mem 511 388 2)) ∧
    IssuesIn id (.bara (mem 4 388 4)) (fun s c => spadOk 16 16 (mem 4 388 4) s c &&
      (basketOf s c.wv).any (fun B => !(barHeld (barAt B 0) { a := 1, c := 0, l := 0, dr := 0 })) || (shopOf s c.wv.shop).pending.length < 64) ∧
    IssuesIn id (.barx (mem 4 388 4)) (fun s c => spadOk 16 16 (mem 4 388 4) s c && decide ((shopOf s c.wv.shop).pending.length < 64)) ∧
    IssuesIn id (.barw (mem 4 388 4)) (spadOk 16 16 (mem 4 388 4)) ∧
    IssuesIn id (.nbsync (r 511 511 511 511 0)) (fun s c => issueMay s c (.namedArrive 0 0) 2) ∧
    IssuedWith (holding (.phase true)) (.nbsync (r 511 511 511 511 0)) (fun _ _ c2 => c2.held.any (fun h => decide (h.wait = .phase true))) ∧
    IssuesIn id (.bsave (r 511 388 511 511 0)) (fun s c =>
      decide (srcN s c 388 c.low 1 % 64 = 0 ∧ srcN s c 388 c.low 1 + 512 ≤ c.wv.hdr.spad)) ∧
    IssuesIn id (.brestore (r 511 388 511 511 0)) (fun s c =>
      decide (srcN s c 388 c.low 1 % 64 = 0 ∧ srcN s c 388 c.low 1 + 512 ≤ c.wv.hdr.spad)) := by
  repeat' apply And.intro
  all_goals
    apply Exists.intro
    apply Exists.intro
    apply And.intro
    · intro s
      dsimp only [exec, execAtoms, execCass, execFefill, execFetake, execFeread, execFereset, execBara, execBarx, execBarw, execNbsync,
        execBsave, execBrestore, spadAtomic, feRow, barRow, imageRow]
      rfl
    · decide +kernel

theorem witness_AtomicsStart :
    IssuesIn plainMap (.atom (r 4 388 8 511 0)) (fun s c => allOk s c (checkAtom s c (r 4 388 8 511 0) 4) && decide (c.wv.returns < 16)) ∧
    IssuesIn plainMap (.red (r 511 388 8 511 0)) (fun s c => allOk s c (checkAtom s c (r 511 388 8 511 0) 4)) ∧
    IssuesIn plainMap (.cas (r 4 388 8 10 0)) (fun s c => allOk s c (checkAtom s c (r 4 388 8 10 0) 4)) ∧
    IssuesIn plainMap (.cas128 (r 4 388 8 12 0)) (fun s c => allOk s c (checkAtom s c (r 4 388 8 12 0) 16)) ∧
    IssuesIn plainMap (.atomu (r 4 388 8 511 0)) (fun s c => oneOk s c (checkAtom s c (r 4 388 8 511 0) 4 c.low)) ∧
    IssuesIn plainMap (.redu (r 511 388 8 511 0)) (fun s c => oneOk s c (checkAtom s c (r 511 388 8 511 0) 4 c.low)) ∧
    IssuesIn plainMap (.casu (r 4 388 8 10 0)) (fun s c => oneOk s c (checkAtom s c (r 4 388 8 10 0) 4 c.low)) ∧
    IssuesIn plainMap (.reda (r 511 388 8 511 0)) (fun s c => allOk s c (checkAtom s c (r 511 388 8 511 0) 4)) := by
  repeat' apply And.intro
  all_goals
    apply Exists.intro
    apply Exists.intro
    apply And.intro
    · intro s
      dsimp only [exec, execAtom, execRed, execCas, execCas128, execAtomu, execRedu, execCasu, execReda, atomRow]
      rfl
    · decide +kernel

/-- An address that is no multiple of the SIZE. -/
theorem witness_MisalignedAccessTraps :
    IssuesIn (fun s => modWeave s 0 (fun wv => { wv with sreg := [(4, 2)] })) (.ld (mem 4 388 2)) (fun s c =>
      decide ((strandsOf c.q).filter (fun k => decide (eaOf s c (mem 4 388 2) k % 4 ≠ 0)) ≠ [])) ∧
    IssuesIn (fun s => modWeave s 0 (fun wv => { wv with sreg := [(4, 3)] })) (.st (mem 4 388 2)) (fun s c =>
      decide ((strandsOf c.q).filter (fun k => decide (eaOf s c (mem 4 388 2) k % 4 ≠ 0)) ≠ [])) := by
  repeat' apply And.intro
  all_goals
    apply Exists.intro
    apply Exists.intro
    apply And.intro
    · intro s
      dsimp only [exec, execLd, execSt, loadRow, storeRow]
      rfl
    · decide +kernel

/-- Seventeen entries, the one at the bottom in the spill arena, of which a JOIN pops the first, or all. -/
theorem witness_JoinsAndEnd_refill :
    let e (n : Nat) : JoinItem := .entry (BitVec.ofNat 64 n) 1 0 false
    let st := (List.range 17).map e
    st.length = 17 ∧ itemsUsed st (st.drop 1) ≤ st.length - 1 ∧ st.length - 1 < itemsUsed st [] := by decide +kernel

/-! ### The premises of engine commands and of the engines' direct instructions -/

/-- The descriptor of an engine command: its words that are not zero, from s16 on. The weave is its own Loom gang, with eight TOB banks. -/
def withDesc (ws : Cells 32) (s : State) : State :=
  modWeave s 0 (fun wv => { wv with sreg := ws.map (fun p => (16 + p.1, p.2)), gang := BitVec.ofNat 64 (2 ^ 43 + 32),
                                    hdr := { wv.hdr with tobBanks := 8 } })

/-- The descriptor words of a scalar descriptor. -/
def descOf (n : Nat) (s : State) (c : Ctx) : List Word := (List.range n).map (fun j => srcWord s c (400 + j) c.low)

/-- What the Loom's push asks of its descriptor, and room in the view. -/
def loomReady (dlen : Nat) (s : State) (c : Ctx) : Bool :=
  let opc := (c.word.extractLsb' 56 8).toNat
  let d := descOf (dlen + 1) s c
  decide (gangN c.wv.gang ≠ 0) && loomFieldsOk opc d &&
    (loomRegs opc d (gangQuarters c.wv.gang c.wv.ids.wid)).all (fun r => decide (r.1 + r.2 ≤ c.wv.hdr.vregs)) &&
    (tobBeyond (c.wv.hdr.tobBanks * 16384) (loomTob opc d)).isNone && pushRoom s c.wv 4

/-- The weave's registers are renamed, none of them written yet, or r0 spilled. -/
def renamedW (spilled : List Nat) (s : State) : State :=
  modWeave (withDesc [(0, 102)] s) 0 (fun wv => { wv with hdr := { wv.hdr with renamed := true }, spilled := spilled })

/-- The registers that the command of LOOM.MM names. -/
def loomNames (s : State) (c : Ctx) : List Nat :=
  (loomRegs 0xDC (descOf 4 s c) (gangQuarters c.wv.gang c.wv.ids.wid)).flatMap (fun r => (List.range r.2).map (fun i => r.1 + i))

theorem witness_EngineCommandsPush_renamed :
    IssuesIn (renamedW []) (.loomMm (eng 400 3)) (fun s c => match renameRegs s c (loomNames s c) [] with | .go _ => true | _ => false) ∧
    IssuesIn (renamedW [0]) (.loomMm (eng 400 3)) (fun s c => match renameRegs s c (loomNames s c) [] with | .refill _ => true | _ => false) ∧
    IssuesIn (fun s => modWeave s 0 (fun wv => { wv with ids := { wv.ids with versioned := true } })) (.launchD (eng 400 15)) (fun s c =>
      versioned s c.wv && match pushCommit s c with | .inl _ => true | _ => false) := by
  repeat' apply And.intro
  all_goals
    apply Exists.intro
    apply Exists.intro
    apply And.intro
    · intro s
      dsimp only [exec, execLoomMm, execLaunchD]
      rfl
    · decide +kernel

theorem witness_EngineCommandsPush :
    IssuesIn (withDesc [(8, 1), (9, 1), (10, 1)]) (.dcopy (eng 400 15)) (fun s c =>
      drayDescOk (descOf 16 s c) false 0 c.wv.ids.gsize && (drayBeyond (descOf 16 s c) c.wv.hdr 0).isNone && pushRoom s c.wv 0) ∧
    IssuesIn (withDesc [(4, 0x4000), (7, 1), (8, 1), (9, 1), (10, 1)]) (.dcopym (eng 400 15)) (fun s c =>
      drayDescOk (descOf 16 s c) true 0 c.wv.ids.gsize && (drayBeyond (descOf 16 s c) c.wv.hdr 0).isNone && pushRoom s c.wv 0) ∧
    IssuesIn id (.gather (eng 8 3)) (fun s c => (gatherTrap c (eng 8 3) { kind := 0, dlen := [3] } (descWord s c (eng 8 3) c.low 2)
      (descWord s c (eng 8 3) c.low 3).toNat).isNone && pushRoom s c.wv 2) ∧
    IssuesIn id (.scatter (eng 8 4)) (fun s c => (gatherTrap c (eng 8 4) { kind := 1, dlen := [4, 5, 7] }
      (descWord s c (eng 8 4) c.low 2) (descWord s c (eng 8 4) c.low 3).toNat).isNone) ∧
    IssuesIn id (.gcompact (eng 8 4)) (fun s c => (gatherTrap c (eng 8 4) { kind := 2, dlen := [4, 5, 7] }
      (descWord s c (eng 8 4) c.low 2) (descWord s c (eng 8 4) c.low 3).toNat).isNone) ∧
    IssuesIn id (.greplay (eng 400 2)) (fun s c => decide (dWord (descOf 3 s c) 0 / 8 % 2 ^ 13 = 0) &&
      cwordOk (dWord (descOf 3 s c) 2) 0 false && decide (cwordBytes 0 false = 0)) ∧
    IssuesIn (withDesc [(4, 1), (5, 1)]) (.gselect (eng 400 7)) (fun s c =>
      selOk (descOf 8 s c) 0 && (selBeyond (descOf 8 s c) c.wv.hdr.spad 0).isNone) ∧
    IssuesIn (withDesc [(0, 102)]) (.loomMm (eng 400 3)) (loomReady 3) ∧
    IssuesIn (withDesc [(0, 136)]) (.loomMx (eng 400 5)) (loomReady 5) ∧
    IssuesIn (withDesc [(0, 256)]) (.loomSplit (eng 400 5)) (loomReady 5) ∧
    IssuesIn (withDesc [(0, 256)]) (.loomSpl (eng 400 3)) (loomReady 3) ∧
    IssuesIn (withDesc [(0, 256), (3, 0x80000)]) (.loomFin (eng 400 3)) (loomReady 3) ∧
    IssuesIn (withDesc [(2, 1), (3, 1), (4, 1)]) (.prefT (eng 400 7)) (fun s c => prefOk (descOf 8 s c) && pushRoom s c.wv 8) ∧
    IssuesIn id (.launchD (eng 400 15)) (fun s c => pushRoom s c.wv 11 && !(versioned s c.wv)) ∧
    IssuesIn (withDesc [(5, 1)]) (.netColl (eng 400 7)) (fun s c =>
      netOk 0xE9 (descOf 8 s c) 0 && decide (cwordBytes 0 false = 0) && pushRoom s c.wv 6 && !(versioned s c.wv)) ∧
    IssuesIn (withDesc [(3, 1)]) (.netSend (eng 400 7)) (fun s c => netOk 0xEA (descOf 8 s c) 0 && pushRoom s c.wv 6) := by
  repeat' apply And.intro
  all_goals
    apply Exists.intro
    apply Exists.intro
    apply And.intro
    · intro s
      dsimp only [exec, execDcopy, execDcopym, execGather, execScatter, execGcompact, execGreplay, execGselect, execLoomMm, execLoomMx,
        execLoomSplit, execLoomSpl, execLoomFin, execPrefT, execLaunchD, execNetColl, execNetSend, drayPush, gatherPush]
      rfl
    · decide +kernel

/-- The basket holds banks 0 and 1, unlisted ones are free. -/
def twoBanks (s : State) : State :=
  modBasket (modShop s 0 (fun h => { h with accUsed := [0, 1] })) 0 (fun B => { B with accMap := [(0, 0), (1, 1)] })

theorem witness_DirectEngineInstructions :
    IssuesIn (fun s => modWeave s 0 (fun wv => { wv with sreg := [(4, 0x40418820), (5, 0x1634)], ids := { wv.ids with nweaves := 5 } }))
      (.gangSet (r 511 388 511 511 0))
      (fun s c => gangOk (opd64 s c 388 0) c.wv.ids.wid c.wv.ids.nweaves) ∧
    IssuesIn id (.loomWait (r 388 511 511 511 0)) (fun s c =>
      (c.wv.loomCmds.filter (fun x => decide (x.op < heldLimit s c))).all (fun x => x.result.isSome)) ∧
    IssuesIn id (.ofence (r 511 511 511 511 0)) (fun s c => s.ops.all (fun p => decide (p.2.w ≠ c.w))) ∧
    IssuesIn (fun s => { s with tenancies := [(0, { tcfg := 0x100000000 })] }) (.accAlloc (r 388 511 511 511 0)) (fun s c => (basketOf s c.wv).any (fun B =>
      (look B.accMap 0).isNone && decide (1 ≤ (accFree (shopOf s B.shop)).length ∧
        poolUsed s c.wv.ids.tenancy + 32768 ≤ poolSize s c.wv.ids.tenancy))) ∧
    IssuesIn (fun s => modBasket s 0 (fun B => { B with accMap := (List.range 64).map (fun n => (n, n)) })) (.accAlloc (r 388 511 511 511 0))
      (fun s c => (basketOf s c.wv).any (fun B => (List.range 64).all (fun n => (look B.accMap n).isSome))) ∧
    IssuesIn twoBanks (.accRd (r 4 388 389 511 0)) (fun s c => (basketOf s c.wv).any (fun B => (look B.accMap 0).isSome)) ∧
    IssuesIn twoBanks (.accWr (r 511 388 389 4 0)) (fun s c => (basketOf s c.wv).any (fun B => (look B.accMap 0).isSome)) ∧
    IssuesIn twoBanks (.accClr (r 511 388 511 511 0)) (fun s c => (basketOf s c.wv).any (fun B => (look B.accMap 0).isSome)) := by
  repeat' apply And.intro
  all_goals
    apply Exists.intro
    apply Exists.intro
    apply And.intro
    · intro s
      dsimp only [exec, execGangSet, execLoomWait, execOfence, execAccAlloc, execAccRd, execAccWr, execAccClr]
      rfl
    · decide +kernel

theorem witness_SystemInstructions :
    IssuesIn id (.drain (sys 511 511 0 0)) (fun s c =>
      s.ops.all (fun p => decide (heldLimit s c ≤ p.1 ∨ p.2.w ≠ c.w))) ∧
    IssuesIn id (.gtwait (sys 388 390 0 0)) (fun s c => decide (srcN s c 390 c.low 2 ≤ s.time)) ∧
    IssuesIn (fun s => modWeave s 0 (fun wv => { wv with sreg := [(7, 1)] })) (.gtwait (sys 388 390 0 0)) (fun s c =>
      decide (s.time < srcN s c 390 c.low 2)) := by
  repeat' apply And.intro
  all_goals
    apply Exists.intro
    apply Exists.intro
    apply And.intro
    · intro s
      dsimp only [exec, execDrain, execGtwait]
      rfl
    · decide +kernel

/-! ### The premises of the events: engines and wakes -/

/-- The operation in flight of an engine command, or another, of weave 0, with issue number 0. -/
def flying (kind : OpKind) (s : State) : State :=
  { s with ops := [(0, { w := 0, slot := 0, mask := 0xFFFFFFFF, q := 0xFFFFFFFF, flags := [], kind := kind })], nextOp := 1 }

/-- The completion of that command: no flag, no counts, no queue. -/
def plainEvents : Events := { op := 0, w := 0, cmask := 0, scope := 0, cword := 0 }

/-- A request of that operation, waiting in its shop, or sent to its home Clerk. -/
def atClerk (sent : Nat) (s : State) : State :=
  { s with requests := [(0, { op := 0, w := 0, lot := 0, tenancy := 0, home := 0, form := .perStrand, kind := .op 0, type := 0, size := 4,
                              dst := .none, lanes := [{ strand := 0, va := 0, pas := [0, 1, 2, 3], slots := [0, 0, 0, 0], b := 1 }],
                              sent := sent })] }

/-- The Loom operation of the weave alone: MM, SPLIT or FIN. -/
def looming (opc : Nat) (s : State) : State :=
  { s with loom := [(0, { basket := 0, opc := opc, desc := [], gang := BitVec.ofNat 64 (2 ^ 42), parts := [], started := some 0, steps := 1 })] }

/-- The weave has pushed one entry, with an opcode, to queue n. -/
def pushedTo (n opc : Nat) (s : State) : State :=
  modWeave s 0 (fun wv => { wv with queues := [(n, [{ words := [0, 0, 0], opc := opc }])] })

/-- A copy of four bytes to memory, or to the scratchpad of basket 0, by the Steward or by the weave. -/
def copying (w : Option Nat) (ctl : Word) (next : Nat) (s : State) : State :=
  { s with copies := [(0, { w := w, shop := 0, tenancy := 0, desc := [0, 0, 256, 0, ctl] ++ List.replicate 11 0, events := plainEvents,
                            total := 4, dests := [0], start := next, next := next })] }

theorem witness_EngineEvents_clerk :
    (let s := atClerk 1 (flying (.clerk []) lone)
     (look s.requests 0).any (fun r => decide (r.sent ≠ 0) && !(acceptedFirst s r) && (look s.ops r.op).any (fun o =>
       (weaveOf s o.w).isSome))) = true ∧
    (let s := { atClerk 0 (flying (.clerk []) lone) with ev := { lone.ev with ok := false } }
     (look s.requests 0).any (fun r => decide (r.sent = 0 ∧ r.lanes.length = 1) && !s.ev.ok && (look s.ops r.op).any (fun o =>
       (weaveOf s o.w).any (fun wv => mayPerform s r.op o && !(homesChange s wv.ids.tenancy) && !(versioned s wv))))) = true ∧
    (let s := atClerk 1 lone
     (look s.requests 0).any (fun r => (look s.ops r.op).isNone)) = true := by decide +kernel

theorem witness_EngineEvents_dray :
    (let s := copying none 0 0 (plainMap lone)
     (look s.copies 0).any (fun c => copyMay s 0 c && !c.ended && decide (dDSP c.desc = 0 ∧ c.next < chunkEnd s c) &&
       (look (visitChunk (chunkEnd (copyStart s 0 c) c - c.next) (copyStart s 0 c) 0).copies 0).isSome &&
       match unitAt s c c.next with
       | .ok u => (match readElems s c c.next u [] c.after with
         | (bs, _, .ok _) => (match unitFlights s c c.next bs with | .ok _ => true | _ => false)
         | _ => false)
       | _ => false)) = true ∧
    (let s := copying (some 0) 0x4000 0 (flying .engine (plainMap lone))
     (look s.copies 0).any (fun c => copyMay s 0 c && decide (dDSP c.desc = 1)) && (look s.baskets 0).isSome) = true ∧
    (let s := copying (some 0) 0x8000 0 (flying .engine (plainMap lone))
     (look s.copies 0).any (fun c => decide (dDSP c.desc = 2)) && (look lone.copies 0).isNone) = true ∧
    (let s := copying none 0 4 lone
     (look s.copies 0).any (fun c => c.allDone && decide (c.w = none))) = true ∧
    (let s := copying (some 0) 0 4 (flying .engine lone)
     (look s.copies 0).any (fun c => c.allDone && decide (c.w = some 0) && copyHere s c &&
       (weaveOf s 0).any (fun wv => resultRoom s 0 wv 1 c.events.cmask && !(versioned s wv)))) = true := by decide +kernel

/-- A selection of one key of four bytes at 0 into the entries at 256 of the scratchpad, its work done or not. -/
def selecting (out : Option SelOut) : State :=
  { flying .engine (plainMap lone) with
    selects := [(0, { w := 0, shop := 0, desc := [0, 0, 256, 0, 2, 1, 6, 0], events := plainEvents, out := out })] }

theorem witness_EngineEvents_gleaner :
    (let s := pushedTo 2 0xDB lone
     (weaveOf s 0).any (fun wv => (viewEntries wv 2).any (fun e => decide (e.opc = 0xDB)) && engineOn s wv &&
       decide (gleanerCount s wv.shop < 64))) = true ∧
    (let s := pushedTo 2 0xD6 lone
     (weaveOf s 0).any (fun wv => (viewEntries wv 2).any (fun e => decide (e.opc ≠ 0xDB ∧ (gslot wv (entrySlot e)).state ≠ 1)) &&
       engineOn s wv)) = true ∧
    (let s := modWeave (flying .engine lone) 0 (fun wv => { wv with gslots := [(0, { state := 1, code := [(0, 2)] })] })
     (weaveOf s 0).any (fun wv => decide ((gslot wv 0).state = 1 ∧ codeOf (gslot wv 0) 0 = 2) && engineOn s wv &&
       (look s.ops (gslot wv 0).op).any (engineMay s (gslot wv 0).op))) = true ∧
    (let s := selecting none
     (look s.selects 0).any (fun x => x.out.isNone && (weaveOf s 0).any (fun wv => engineOn s wv && resultRoom s 0 wv 3 x.events.cmask &&
       (look s.ops 0).any (engineMay s 0) &&
       match selKeys s x wv with
       | .ok keys => keys.all (fun k => k.1.all (fun pa => !(poisoned s 0 pa)))
       | _ => false))) = true ∧
    (let s := selecting (some { entries := [[0, 0, 0, 0]], kth := 0, ties := 0, view := [] })
     (look s.selects 0).any (fun x => decide (selCtl x.desc 1 1 = 1) && (weaveOf s 0).any (fun wv =>
       resultRoom s 0 wv 3 x.events.cmask && (basketOf s wv).any (fun B => B.resident)) &&
       x.out.any (fun o => o.entries[0]?.isSome && o.entries[1]?.isNone && decide (o.next = 0)))) = true := by decide +kernel

theorem witness_EngineEvents_loom :
    (let s := modBasket (modWeave lone 0 (fun wv => { wv with heads := [{ words := [], opc := 0xDC, gang := BitVec.ofNat 64 (2 ^ 42) }] })) 0
       (fun B => { B with loomReady := [0] })
     (look s.baskets 0).any (fun B => headReady s B 0) && (weaveOf s 0).any (engineOn s)) = true ∧
    (let s := looming 0xDC lone
     (look (loomStart s 0).loom 0).any (fun x => loomOn s x && !(loomCollected s x) && decide (x.status = 0 ∧ x.step < x.steps) &&
       x.started.isSome && !(splint x.opc) && loomTurn (loomStart s 0) 0 x)) = true ∧
    (let s := looming 0xDE lone
     (look (loomStart s 0).loom 0).any (fun x => loomOn s x && !(loomCollected s x) && decide (x.status = 0 ∧ x.step < x.steps) &&
       x.started.isSome && splint x.opc && decide (x.opc ≠ 0xDF) && loomTurn (loomStart s 0) 0 x)) = true := by decide +kernel

theorem witness_EngineEvents_courier_runner :
    (oldestHead (pushedTo 6 0xE9 lone) 0 6).any (fun p => decide (p.2.opc ≠ 0)) = true ∧
    (oldestHead (pushedTo 8 0xEC lone) 0 8).any (fun p => decide (p.2.opc ≠ 0)) = true ∧
    (let s := { lone with
       time := 10 ^ 8
       net := [(0, { w := 0, die := 0, opc := 0xE9, desc := [], comm := 0, tenancy := 0, number := 0, events := plainEvents,
                     ids := { lot := 0, lotid := 1, tenancy := 0, gid := 0, gx := 0, gy := 0, gz := 0, bid := 0, gsize := 1, wid := 0,
                              stage := 0, nweaves := 1, basket := 0, gang := 0, priv := true, versioned := false }, shop := 0 })] }
     (look s.net 0).any (fun x => decide (x.since + 10 ^ 8 ≤ s.time))) = true ∧
    (let s := { lone with prefetch := [(0, { w := 0, die := 0, desc := [], events := plainEvents, grains := [5] })] }
     (look s.prefetch 0).any (fun p => decide (p.grains = [5]) && (weaveOf s p.w).isSome && prefFirst s 0 p)) = true := by decide +kernel

/-- A split of weave 0 that is to start the clause of one NOP in the page at 0, which the map lets it execute. -/
def starting : State :=
  let s := plainMap lone
  { modSplit s 0 0 (fun sp => { sp with pc := 0, run := none }) with
    far := [(1, 0xF0), (2, 0x0F), (10, 0xF7), (11, 0xFF), (12, 0xFF), (13, 0xFF), (14, 0xFF)] ++ s.far }

/-- Its sibling in slot 1, which became ready earlier, or which runs. -/
def besides (running : Bool) : State :=
  modWeave (modSplit starting 0 0 (fun sp => { sp with readyAt := 5 })) 0 (fun wv => { wv with
    splits := wv.splits ++ [(1, { pc := 0, mask := 0, run := if running then ((weaveOf lone 0).bind (fun x => look x.splits 0)).bind (fun x => x.run)
                                                               else none })] })

/-- Split 0 of weave 0 may start, what its fetch gives, and what its bench would start. -/
def wakes (s : State) (f : Fetch → Bool) (g : Option (Nat × List (Nat × Nat)) → Bool) : Bool :=
  (weaveOf s 0).any (fun wv => (look wv.splits 0).any (fun sp => mayStartClause s 0 wv sp && f (fetchClause s 0 0 wv sp))) && g (benchGives s 0 0)

theorem witness_WakeEvents_start :
    wakes (setLease starting 0 0 { leaseOf starting 0 0 with state := 6 }) (fun f => match f with | .wait _ _ => true | _ => false)
      (fun _ => true) = true ∧
    wakes starting (fun f => match f with | .ok _ (_ :: _) => true | _ => false) (fun x => match x with
      | some (0, (0, _) :: []) => true
      | _ => false) = true ∧
    wakes (besides false) (fun f => match f with | .ok _ (_ :: _) => true | _ => false) (fun x => match x with
      | some (0, (1, _) :: (0, _) :: []) => true
      | _ => false) = true ∧
    wakes (besides true) (fun f => match f with | .ok _ (_ :: _) => true | _ => false) (fun x => x.isNone) = true ∧
    wakes (modSplit starting 0 0 (fun sp => { sp with pc := 0x0180000000000000 })) (fun f => match f with | .trap _ _ _ => true | _ => false)
      (fun x => x.isSome) = true ∧
    visitLeft starting ((look starting.benches 0).getD {}) = none := by
  refine ⟨?_, ?_, ?_, ?_, ?_, ?_⟩ <;> decide +kernel

theorem witness_WakeEvents :
    (let s := flying .fence lone
     (look s.ops 0).any (fun o => (weaveOf s o.w).isSome && decide (o.kind ≠ .engine) && !(tobOp o))) = true ∧
    (let s := modWeave (flying (.store 2 [{ strand := 0, va := 0, pas := [0, 1, 2, 3], slots := [0, 0, 0, 0], data := [1, 2, 3, 4] }]) lone)
       0 (fun wv => { wv with ids := { wv.ids with versioned := true } })
     (look s.ops 0).any (fun o => (weaveOf s o.w).any (fun wv =>
       versioned s wv && o.kind.access.2 && !(doneOnce o) && mayPerform s 0 o))) = true ∧
    (let f : FarTrap := { kind := 2, lanes := 1, pc := 0x1000, idx := 0, word := 0, va := 0, seq := 0, slot := 0 }
     let s := modWeave starting 0 (fun wv => { wv with farTraps := [f] })
     (weaveOf s 0).any (fun wv => decide (holderOf wv 1 = some 0) && (look wv.splits 0).any splitReady)) = true ∧
    (let f : FarTrap := { kind := 2, lanes := 0, pc := 0x1000, idx := 0, word := 0, va := 0, seq := 0, slot := 0 }
     let s := modWeave starting 0 (fun wv => { wv with farTraps := [f] })
     (weaveOf s 0).any (fun wv => decide (holderOf wv 0 = none))) = true ∧
    (heldOf (holding (.pause 0) lone) 0 0).any (fun h => decide (h.wait = .pause 0)) = true ∧
    (heldOf (holding (.gtime 0) lone) 0 0).any (fun h => decide (h.wait = .gtime 0)) = true ∧
    (heldOf (holding (.monitor 5 0 none) lone) 0 0).any (fun h => decide (h.wait = .monitor 5 0 none)) = true ∧
    (heldOf (holding (.noWatch 0) lone) 0 0).any (fun h => decide (h.wait = .noWatch 0)) = true := by
  refine ⟨?_, ?_, ?_, ?_, ?_, ?_, ?_, ?_⟩ <;> decide +kernel

/-! ### The premises of the events: placement and queues -/

/-- A small role header, and a lot of one gang of one basket that waits for a shop. -/
def smallHdr : Hdr := { loneHdr with vregs := 8, spad := 0 }
def waitingLot : Lot :=
  { lotid := 2, tenancy := 0, queue := 0, pindex := 0, tag := 0, versioned := false, x := 1, y := 1, z := 1, gsize := 1, hdrs := [smallHdr],
    args := 0 }

/-- Tenancy 0 with 16 MiB of context pool, four frames and the shop quota given. -/
def pooled (shops : BitVec 64) (s : State) : State :=
  { s with tenancies := edit (put s.tenancies 0 (tenOf s 0)) 0 (fun T => { T with
      tcfg := shops <<< 56 ||| 0x1000000000, reeve := { T.reeve with quota := 4 } }) }

/-- The lone weave on a shop that it fills, its gang of priority 0, and a waiting lot of priority 5. -/
def crowded : State :=
  let s := pooled 1 lone
  { modBasket s 0 (fun B => { B with regs := 8192 }) with lots := put s.lots 1 { waitingLot with prio := some 5 }, time := 20000 }

/-- The lone gang being collected, for the priority of another; of its units one has not acknowledged. -/
def collectingGang : State :=
  { lone with gangs := edit lone.gangs 0 (fun g => { g with collecting := true, causes := [.priority], awaited := [.gleaner 0] }) }

/-- The lone gang, its context saved. -/
def savedGang : State :=
  let s := pooled 1 lone
  { modBasket s 0 (fun B => { B with resident := false }) with
    gangs := edit s.gangs 0 (fun g => { g with resident := false })
    lots := edit s.lots 0 (fun l => { l with hdrs := [smallHdr] }) }

/-- The place given to a basket: shop 0, bench 0. -/
def shop0 : List Placement := [{ shop := 0, benches := [0], ctxVA := 0x100000 }]

theorem witness_PlacementEvents :
    (let s := { pooled 1 State.reset with lots := [(1, waitingLot)] }
     ((cands s).find? (fun c => decide (c.lot = 1 ∧ c.gid = 0) && c.saved.isNone)).any (fun c =>
       placesOk s c waitingLot shop0 && turnOf s c)) = true ∧
    (let s := { State.reset with lots := [(1, waitingLot)], time := 10 ^ 6 }
     (look s.lots 1).any (fun l => decide (l.nextGid = 0 ∧ l.state < 2 ∧ l.aged < (s.time - l.waiting) / 10 ^ 6))) = true ∧
    priorityCase crowded 1 0 = some [0] ∧
    (let s := modWeave { lone with gangs := put lone.gangs 1 { lot := 0, gid := 1, prio := 0, baskets := [], resident := false } } 0
       (fun wv => { wv with guard := 65536 })
     starving s 0 0 = true ∧ guardVictim s 0 0 = some 0 ∧ guardOwes s = [] ∧ guardNext s 0 = some 1) ∧
    (let s := { lone with d3hot := true }
     (look s.gangs 0).any (fun x => causeHolds s 0 x .d3hot)) = true ∧
    (look collectingGang.gangs 0).any (fun x => x.collecting && x.awaited.contains (.gleaner 0) &&
      (badRecord collectingGang 0 (.gleaner 0)).isNone && unitStopped collectingGang 0 (.gleaner 0)) = true ∧
    (look collectingGang.gangs 0).any (fun x => x.causes.contains .priority && decide (x.causes.filter (fun c => decide (c ≠ .priority)) = []))
      = true ∧
    (let s := { lone with gangs := edit lone.gangs 0 (fun g => { g with collecting := true, causes := [.suspend, .d3hot] }) }
     (look s.gangs 0).any (fun x => x.causes.contains .suspend && decide (x.causes.filter (fun c => decide (c ≠ .suspend)) ≠ []))) = true ∧
    ((cands savedGang).find? (fun c => decide (c.saved = some 0))).any (fun c => (look savedGang.lots 0).any (fun l =>
      placesOk savedGang c l shop0 && turnOf savedGang c)) = true := by
  refine ⟨?_, ?_, ?_, ?_, ?_, ?_, ?_, ?_, ?_⟩ <;> decide +kernel

/-- Queue 0, enabled, with a packet of the kind and the bytes from 8 on; `begun`: it has started. -/
def queued (kind : Nat) (rest : List Byte) (begun : Bool) (s : State) : State :=
  { s with queues := [(0, { log2size := 6, exlog2 := 4, enable := true, wridx := 1, rdidx := 1, packets := [(0, {
      kind := kind, flags := 0, tag := 0, begun := begun, deadline := 1, body := [BitVec.ofNat 8 kind, 0, 0, 0, 0, 0, 0, 0] ++ rest ++
        List.replicate (56 - rest.length) 0 })] })] }

/-- Bytes 8 on of a LAUNCH of one gang of one basket, whose role header is at 0x100. -/
def launchBytes : List Byte :=
  [0, 1, 0, 0, 0, 0, 0, 0] ++ List.replicate 24 0 ++ [1, 0, 0, 0, 1, 0, 0, 0, 1, 0, 0, 0, 1]

/-- That header lies in the page at 0. -/
def withHdr (s : State) : State :=
  { s with far := (((List.range 64).zip ([0x42, 0x4A, 0x48, 0x4B, 1, 0, 64, 0, 8, 0, 0, 0, 0, 0, 1, 1, 0, 0, 0, 0, 0, 0, 1] ++
      List.replicate 17 0 ++ [1] ++ List.replicate 23 0)).filter (fun p => decide (p.2 ≠ 0))).map (fun p => (0x100 + p.1, p.2)) ++ s.far }

theorem witness_QueueEvents :
    (let s := { State.reset with queues := [(0, { log2size := 6, enable := true, wridx := 1 })] }
     let Q := queueOf (reapPackets s 0) 0
     queueOpen Q && !s.d3hot && decide (Q.rdidx.toNat < Q.wridx.toNat) && decide (Q.packets = []) &&
       decide (Q.wridx.toNat - Q.rdidx.toNat ≤ 2 ^ Q.log2size)) = true ∧
    (mayStart (reapPackets (queued 0 [] false State.reset) 0) 0 0 0).isSome = true ∧
    (let s := queued 1 launchBytes false (withHdr (pooled 1 (plainMap State.reset)))
     (mayStart (reapPackets s 0) 0 0 1).any (fun p => !(loftwriteOpen s 0) &&
       match checkLaunch (reapPackets s 0) 0 p.body false with
       | .ok hs => canFit s 0 hs 1 false && decide (hs.length = 1)
       | _ => false)) = true ∧
    ((mayStart (reapPackets (queued 2 [] false State.reset) 0) 0 0 2).isSome &&
      (let s1 := reapPackets (queued 2 [] false State.reset) 0
       shopAllowed s1 (queueOf s1 0).tenancy false 191 && decide (drayCount s1 191 < 128))) = true ∧
    (mayStart (reapPackets (queued 3 [] false State.reset) 0) 0 0 3).isSome = true ∧
    (let s := { queued 3 [] true State.reset with time := 1 }
     (waitsNow (queueOf s 0) 0).any (fun p => decide (p.deadline ≠ 0 ∧ p.deadline ≤ s.time))) = true ∧
    (mayStart (reapPackets (queued 4 [] false State.reset) 0) 0 0 4).isSome = true ∧
    ((mayStart (reapPackets (queued 5 [] false State.reset) 0) 0 0 5).isSome &&
      !(lotsOpen (queued 5 [] false State.reset) 0)) = true ∧
    (let s := queued 5 ([0, 1, 0, 0, 0, 0, 0, 0] ++ List.replicate 8 0 ++ [64]) true (plainMap State.reset)
     (look (queueOf s 0).packets 0).any (fun p => p.begun && decide (p.kind = 5 ∧ (queueOf s 0).stalled = []) && !s.inWindow &&
       match loftUnits s 0 (fieldAt p.body 8 8) (fieldAt p.body 0x18 8) p.parked (tenancyView s 0) with
       | .inr (us, _) => decide (us = [List.replicate 64 0].map some)
       | _ => false)) = true ∧
    (mayStart (reapPackets (queued 6 [] false State.reset) 0) 0 0 6).isSome = true ∧
    (let s := { State.reset with stage := 15, queues := [(0, { log2size := 6, exlog2 := 4 })] }
     !(queueOf s 0).enable && queueOk (queueOf s 0) && decide (s.stage.extractLsb' 0 4 = 15)) = true ∧
    (let e : Entry := { words := [1, 0, 0x100, 0, 0, 0, 0, 0, 0, 0, 1, 1, 1, 1, 0, 0], opc := 0xED }
     let s := modWeave (flying .engine (withHdr (pooled 1 (plainMap lone)))) 0 (fun wv => { wv with queues := [(11, [e])] })
     (weaveOf s 0).any (fun wv => (look s.lots wv.ids.lot).any (fun par => (look s.ops e.op).any (fun o =>
       engineOn s wv && engineMay s e.op o && decide (par.depth < 15) &&
         (let pkt := (e.words.take 16).flatMap (fun x => bytesOf 4 x.toNat)
          decide (fieldAt pkt 0 1 = 1) && (malformedAt (dropHead s 0 11) 0 false pkt).isNone &&
          match checkLaunch (dropHead s 0 11) 0 pkt wv.ids.priv with
          | .ok hs => canFit s 0 hs 1 (replayRoot s 1 wv.ids.lot).isSome
          | _ => false))))) = true := by
  refine ⟨?_, ?_, ?_, ?_, ?_, ?_, ?_, ?_, ?_, ?_, ?_, ?_⟩ <;> decide +kernel

/-! ### The premises of the events: tenancies, leases, memory units, the device -/

/-- Lease slot 3 of tenancy 0. -/
def leased (l : Lease) (s : State) : State := setLease s 0 3 l

/-- A message of the pool manager about it. -/
def msg (kind : Nat) : Amiop :=
  { kind := BitVec.ofNat 8 kind, version := 1, tenancy := 0, status := 0, slot := 3, node := 0, leaseid := 7, base := 0x10000, size := 0x10000,
    duration := 0, grace := 0, replica := 0, rights := 3, seq := 0 }

/-- A command to q9 whose first words are given. -/
def toLease (ws : List Word) (s : State) : State :=
  modWeave s 0 (fun wv => { wv with queues := [(9, [{ words := ws ++ List.replicate (32 - ws.length) 0 }])] })

/-- A fault record that awaits a reply, at record 0 of a ring in the page at 0, whose reply bytes say FAIL. -/
def faulted : State :=
  let s := setReeve (plainMap State.reset) 0 (fun r => { r with
    frlog2 := 4, frtmo := 1, faults := [{ seq := 5, slot := 3, posted := 0, index := 0 }] })
  { s with far := [(0x3C, 2)] ++ s.far, time := 1000 }

theorem witness_TenancyEvents :
    createCauses State.reset 15 = [5] ∧ createCauses (pooled 1 State.reset) 0 = [] ∧
    ((tenOf (modTen State.reset 3 (fun T => { T with state := 2, busyWith := 1 })) 3).state = 2 ∧
      arcadesHeld (modTen State.reset 3 (fun T => { T with state := 2, busyWith := 1 })) 3 = false) ∧
    destroyCauses (modTen State.reset 15 (fun T => { T with state := 1 })) 15 = [] ∧ destroyCauses State.reset 0 = [7] ∧
    (tenOf (modTen State.reset 3 (fun T => { T with state := 2, busyWith := 2 })) 3).reeve.leases = [] ∧
    (tenOf State.reset 15).state = 0 ∧
    (0x58 % 8 = 0 ∧ 0x58 < 0x60) ∧ 0x100000 + 64 * 16383 + 56 < 0x200000 ∧ 0x200000 + 64 * 15 + 56 < 0x300000 ∧
      0x300000 + 0x8000 * 15 + 0x7FF8 < 0x400000 ∧ 0x400000 + 0x10000 * 11 + 0xFFF8 < 0x500000 ∧ 0x500000 + 64 * 255 + 56 < 0x520000 ∧
      0x520000 + 0x400 * 15 + 64 * 15 + 56 < 0x580000 ∧ 0x580000 + 0x100 * 15 + 0xF8 < 0x600000 ∧
    (List.range 16).foldl (fun a u => if u = 0 then a else a + (tenOf State.reset u).reeve.quota) 0 + 100 ≤
      framesAll - State.reset.retiredFrames.length - State.reset.pinned ∧
    (keyOf State.reset 1023).wrap.length + 1 < 5 ∧
    5 ≤ (keyOf { State.reset with keys := [(1023, { wrap := [0, 0, 0, 0] })] } 1023).wrap.length + 1 := by decide +kernel

/-- Tenancy 3 takes arcade 5 for its own, or gives it back: the home sets are to change. -/
def sealing (busy : Nat) (s : State) : State :=
  { modTen s 3 (fun T => { T with state := 2, busyWith := busy, tcfg := 1, tarc := 0x20 }) with
    homes := if busy = 2 then (List.range 16).map (fun u => (u, if u = 3 then [5] else (List.range 48).filter (fun a => decide (a ≠ 5))))
             else s.homes }

theorem witness_TenancyEvents_homes :
    (let s := rehome (sealing 1 State.reset) (sealing 1 State.reset)
     arcadesHeld (sealing 1 State.reset) 3 = false ∧ rehomed s s = true) ∧
    (let s := rehome (sealing 1 (atClerk 1 lone)) (sealing 1 (atClerk 1 lone))
     arcadesHeld (sealing 1 (atClerk 1 lone)) 3 = false ∧ rehomed s s = false) ∧
    (let s := sealing 2 State.reset
     let f := modTen s 3 (fun T => { T with state := 0 })
     rehomed (rehome s f) f = true) ∧
    (let s := sealing 2 (atClerk 1 lone)
     let f := modTen s 3 (fun T => { T with state := 0 })
     rehomed (rehome s f) f = false) := by decide +kernel

/-- The load in flight of weave 0 at the page at 0x50000 waits for its grain. -/
def waitingFill : State :=
  let l : Lane := { strand := 0, va := 0x50000, pas := [0x50000, 0x50001, 0x50002, 0x50003], slots := [0, 0, 0, 0] }
  let s := flying (.load 2 false (.vec 4) false [l]) (pooled 1 (plainMap lone))
  { s with ops := edit s.ops 0 (fun o => { o with parkMask := 1 }) }

theorem witness_TenancyEvents_fill :
    fillWanted State.reset 0 0 5 = false ∧ fillWanted (fitQuota waitingFill.grains.length waitingFill 0) 0 0 5 = true ∧
      (fillGrain (fitQuota waitingFill.grains.length waitingFill 0) 0 0 5).isSome = true := by decide +kernel

theorem witness_LeaseEvents_commands :
    ([[1, 3], [2, 3], [3, 3], [5, 3]].map (fun ws =>
      (let s := toLease ws (leased { state := if ws = [1, 3] then 0 else 1 } lone)
       (weaveOf s 0).any (fun wv => (viewEntries wv 9).any (fun e => !(q9Bad s 0 (e.words.map (fun x => x.toNat)))) &&
         (leaseOf s 0 3).cmd.isNone && (basketOf s wv).any (fun B => B.resident)))) = [true, true, true, true]) ∧
    (let s := toLease [4, 5, 2] (setReeve lone 0 (fun r => { r with faults := [{ seq := 5, slot := 3, posted := 0, index := 0 }] }))
     (weaveOf s 0).any (fun wv => (viewEntries wv 9).any (fun e => !(q9Bad s 0 (e.words.map (fun x => x.toNat)))) &&
       (awaiting s 0 5).isSome)) = true := by decide +kernel

theorem witness_LeaseEvents_replies :
    ((awaiting faulted 0 5).any (fun f => decide (agentRead faulted 0 (faultVA faulted 0 f.index + 0x3C) 4 = some [2, 0, 0, 0])) = true) ∧
    ((awaiting faulted 0 5).any (fun f => decide ((tenOf faulted 0).reeve.frtmo ≠ 0 ∧
      f.posted + 1000 * (tenOf faulted 0).reeve.frtmo ≤ faulted.time)) = true) := by decide +kernel

theorem witness_LeaseEvents_messages :
    (amiopOk (msg 0x81) 0x81 && grantOk (msgLease State.reset (msg 0x81)) (msg 0x81)) = true ∧
    (amiopOk { msg 0x82 with leaseid := 0 } 0x82 &&
      outstanding (msgLease (leased { cmd := some (1, 0, 0) } State.reset) (msg 0x82)) 1) = true ∧
    (let l := msgLease (leased { id := 7, state := 2 } State.reset) (msg 0x82)
     amiopOk (msg 0x82) 0x82 && decide ((msg 0x82).leaseid = l.id ∧ l.state = 2)) = true ∧
    (let l := msgLease (leased { id := 7, state := 3 } State.reset) (msg 0x83)
     amiopOk (msg 0x83) 0x83 && decide ((msg 0x83).leaseid = l.id ∧ l.state = 3)) = true ∧
    (let l := msgLease (leased { id := 7, state := 6 } State.reset) (msg 0x83)
     amiopOk (msg 0x83) 0x83 && decide ((msg 0x83).leaseid = l.id ∧ l.state = 6)) = true ∧
    (let l := msgLease (leased { id := 7, state := 1 } State.reset) (msg 0x85)
     amiopOk (msg 0x85) 0x85 && decide ((msg 0x85).leaseid = l.id ∧ l.state ≠ 0)) = true ∧
    ((msg 0x84).kind.toNat = 0x84 ∧ (msg 0x84).version = 1) := by decide +kernel

theorem witness_LeaseEvents_times :
    (let s := leased { state := 1, expiry := 10 ^ 6 } State.reset
     (leaseOf s 0 3).state = 1 ∧ 4000 < 1000 * (tenOf s 0).reeve.renewLead ∧
       (leaseOf s 0 3).expiry ≤ s.time + 1000 * (tenOf s 0).reeve.renewLead) ∧
    (let s := { leased { state := 2 } State.reset with time := 100000 }
     (leaseOf s 0 3).state = 2 ∧ (leaseOf s 0 3).sent + 100000 ≤ s.time ∧ (leaseOf s 0 3).expiry ≤ s.time + 4000) ∧
    (let s := setReeve (leased { state := 1, expiry := 4000 } State.reset) 0 (fun r => { r with renewLead := 4 })
     (leaseOf s 0 3).state = 1 ∧ 1000 * (tenOf s 0).reeve.renewLead ≤ 4000 ∧ (leaseOf s 0 3).expiry ≤ s.time + 4000) ∧
    (let s := { leased { state := 3 } State.reset with time := 5000000 }
     (leaseOf s 0 3).state = 3 ∧ (leaseOf s 0 3).since + 1000 * (tenOf s 0).reeve.renewTmo ≤ s.time) ∧
    (let s := leased { state := 4 } State.reset
     (leaseOf s 0 3).state = 4 ∧ (leaseOf s 0 3).deadline ≤ s.time) ∧
    (let s := { leased { state := 6, deadline := 1 } State.reset with time := 1 }
     (leaseOf s 0 3).state = 6 ∧ (leaseOf s 0 3).deadline ≤ s.time ∧ (leaseOf s 0 3).deadline ≠ 0) := by decide +kernel

/-- Grain 0, held under slot 3 of tenancy 0, is dirty. -/
def dirtied (l : Lease) : State :=
  leased l { State.reset with grains := [(0, { tenancy := 0, slot := 3, frame := 7 })], dirty := [(0, 1)] }

theorem witness_LeaseEvents_grains :
    ([({ state := 6 } : Lease), { state := 6, deadline := 9 }, { state := 4, deadline := 9 }].all (fun l =>
      decide (leaseDirty (dirtied l) 0 3 = [0]) && mayFlush (dirtied l) 0)) = true ∧
    snoopWaits (plainMap lone) 0 = false ∧ snoopWaits (flying (.load 2 false (.vec 4) false
      [{ strand := 0, va := 0, pas := [0, 1, 2, 3], slots := [0, 0, 0, 0] }]) (plainMap lone)) 0 = true ∧
    (look State.reset.halvings 11 = none ∧ State.reset.cycles < 2 ^ 20 * (0 + 1)) := by decide +kernel

/-- A grain in frame 7, and its frame under a request. -/
def framed (moving : Bool) : State := { State.reset with grains := [(0, { tenancy := 0, slot := 0, frame := 7, moving := moving })] }
def request (errors : Nat) : TinkerReq := { frame := 7, sector := 2047, write := false, errors := errors, tsv := none, command := false }

theorem witness_MemoryUnitEvents :
    mayServe (framed false) (request 0) = true ∧ mayServe State.reset (request 4) = true ∧
    frameGrain (markUncorrectable State.reset 7 2047) 7 = none ∧
    (frameGrain (markUncorrectable (framed false) 7 2047) 7).isSome = true ∧
    (let s := { State.reset with tinkers := [(11, { queued := [(1, 0, 0, 0)] })] }
     (tinkerOf s 11).window = none ∧ nextRepair (tinkerOf s 11) = [(1, 0, 0, 0)] ∧ (takeSpare (tinkerOf s 11) (1, 0, 0, 0)).isSome = true) ∧
    (let s := { State.reset with tinkers := [(11, { queued := [(1, 0, 0, 0)], closed := 1 })] }
     (tinkerOf s 11).closed ≠ 0 ∧ nextRepair (tinkerOf s 11) = [(1, 0, 0, 0)]) ∧
    takeSpare { rowsUsed := [(bankKey 0 0, 8)] } (1, 0, 0, 0) = none ∧
    (0 + 1 < windowsOf 2 ∧ windowsOf 2 ≤ 31 + 1 ∧ windowsOf 1 ≤ 0 + 1) ∧
    (let s := { State.reset with tinkers := [(0, { failing := [5] })] }
     (tinkerOf s (5 / 2 ^ 20)).failing.contains 5 = true ∧ s.retiredFrames.contains 5 = false) ∧
    loftPartBad State.reset 15 32767 2 = true ∧ loftPartBad State.reset 15 32767 1 = false ∧
    (State.reset.inWindow = false ∧ State.reset.loftNext = State.reset.loftPeriod ∧ State.reset.time % State.reset.loftPeriod < 260) ∧
    260 ≤ ({ State.reset with time := 260, inWindow := true } : State).time % 3900 := by decide +kernel

/-- Whatever frame is tried first, one of two is free. -/
theorem witness_MemoryUnitEvents_move : (∀ f, frameRepairing (framed true) f = false) ∧
    (freeFrame (framed true) (homeDie (keyGrain 0))).isSome = true := by
  refine ⟨fun f => rfl, ?_⟩
  have h : homeDie (keyGrain 0) = 0 := by decide
  have e : ((List.map (fun p => p.2.frame) (framed true).grains ++ (framed true).retiredFrames).filter
      (fun f => decide (dieFrames * 0 ≤ f ∧ f < dieFrames * 0 + dieFrames))) = [7] := by decide
  unfold freeFrame
  rw [h]
  simp only [e]
  generalize choose (framed true) (8000 + 0) dieFrames = k
  rw [if_neg (by decide)]
  simp only [List.find?_isSome, List.mem_map, List.mem_range, List.length_singleton]
  by_cases hk : k % dieFrames = 7
  · refine ⟨_, ⟨1, by omega, rfl⟩, ?_⟩
    simp [dieFrames] at *
    omega
  · exact ⟨_, ⟨0, by omega, rfl⟩, by simpa [dieFrames] using hk⟩

theorem witness_DeviceEvents_scrivener :
    (shopOf { State.reset with cycles := 65536 } 191).syncAt < 65536 / 2 ^ 16 ∧
    (let s := { setScriv lone 0 (fun c => { c with state := 1 }) with cycles := 256 }
     turned s (rotation s 0 0) ((look (shopOf s 0).sampled 0).getD []) = [0] ∧ sampleLog s (rotation s 0 0) 0 = 8 ∧
       (weaveOf s 0).any (fun wv => decide ((tenOf s wv.ids.tenancy).scriv.state = 1)) = true) ∧
    (let l : Lot := { waitingLot with npass := 2, retired := 1 }
     passOver { State.reset with lots := [(1, l)] } 1 l = true) ∧
    ((look (tenOf State.reset 15).comms 15).getD {}).enable = false ∧ (ringOf State.reset 255).enable = false ∧
    (ringOf { State.reset with rings := [(255, { enable := true })] } 255).enable = true := by decide +kernel

/-- A ring of 65,536 bytes in the page at 0, and a frame for it at port 0. -/
def withRing (on : Bool) : State :=
  { setReeve (plainMap State.reset) 0 (fun r => { r with quota := 4 }) with grains := [], netup := 1, rings := [(0, { log2size := 16, log2slot := 8, place := true, enable := on })] }
def frameTo (n : Nat) (bad enc auth : Bool) : Frame :=
  { port := 0, residx := 0, malformed := bad, encrypted := enc, said := 0, authentic := auth, payload := List.replicate n 1 }

theorem witness_DeviceEvents_rings :
    ringOk (writeRing (withRing false) 0 8 0x4108) 0 = false ∧
    (let s := withRing false
     ringOk s 0 = true ∧ (pinGrains s 0 (ringGrains s (ringOf s 0))).isSome = true) ∧
    (let s := { State.reset with rings := [(0, { log2size := 16, log2slot := 8, place := true })] }
     ringOk s 0 = true ∧ ringFits1 s 0 = true ∧ (pinGrains s 0 (ringGrains s (ringOf s 0))).isSome = true) ∧
    (withRing true).netup.getLsbD 0 = true ∧
    ((withRing true).rings.find? (fun p => decide (p.1 / 64 = 0) && p.2.enable && decide (p.2.residx = (frameTo 8 false false false).residx))).any
      (fun p => decide (p.1 = 0) && decide ((frameTo 241 false false false).payload.length > 2 ^ p.2.log2slot - 16) && !p.2.reqsec &&
        decide (p.2.accepted.toNat - (ringOf (withRing true) 0).consTaken < ringSlots p.2)) = true ∧
    ((withRing true).keys = [] ∧ (frameTo 8 false true true).encrypted = true) ∧
    (let s := { withRing true with keys := [(0, { valid := true })] }
     ((List.range 256).find? (fun k => match look s.keys (256 * 0 + k) with
       | some x => x.valid && decide (x.said = 0 ∧ x.tenancy = 0)
       | none => false)) = some 0) := by decide +kernel

theorem witness_DeviceEvents_package :
    stageNow { State.reset with powered := true, fwok := true } = some 0 ∧
    stageNow { State.reset with powered := true, fwok := true, stage := 0x07 } = some 3 ∧
    stageNow { State.reset with powered := true, fwok := true, stage := 0x0F } = some 4 ∧
    stageNow { State.reset with powered := true, fwok := true, stage := 0x1F } = some 5 ∧
    (capOf State.reset < 3201 ∧ ¬ capOf State.reset < 3200) ∧ (100 ≤ (100 : BitVec 8).toNat ∧ ¬ 100 ≤ (99 : BitVec 8).toNat) ∧
    110 ≤ (110 : BitVec 8).toNat ∧ State.reset.attGo = false := by decide +kernel

/-! ### The premises of the statements on memory -/

/-- A store and a load of four bytes at 0 in flight. -/
def storing : State :=
  flying (.store 2 [{ strand := 0, va := 0, pas := [0, 1, 2, 3], slots := [0, 0, 0, 0], data := [1, 2, 3, 4] }]) (plainMap lone)
def loading : State :=
  flying (.load 2 false (.vec 4) false [{ strand := 0, va := 0, pas := [0, 1, 2, 3], slots := [0, 0, 0, 0] }]) (plainMap lone)

theorem witness_MemoryWrite : Memory.wf (plainMap State.reset) = true ∧ (∀ pa ∈ [loftBase - 1, 0], pa < loftBase) ∧
    [loftBase - 1, 0].Nodup ∧ ([1, 2] : List Byte).length = [loftBase - 1, 0].length := by decide +kernel

/-- The operation of a state at hand may be performed, and its one strand's access goes and is not left for later. -/
def lands (s : State) (P : Weave → Bool) : Bool :=
  (look s.ops 0).any (fun o => (weaveOf s o.w).any (fun wv => mayPerform s 0 o && P wv && !(s.ev.ok) &&
    decide (laneFare s wv.ids.tenancy 0 o 0 [0, 1, 2, 3] [0, 0, 0, 0] = .go) && !((staying s).getLsbD 0) && !(parkedBefore s 0 o [0, 1, 2, 3])))

/-- No more than performing it is asked for. -/
def notDone (s : State) : State := { s with ev := { s.ev with ok := false } }

theorem witness_StoreLands :
    Memory.wf (notDone storing) = true ∧ lands (notDone storing) (fun wv => !(versioned (notDone storing) wv)) = true ∧
      [0, 1, 2, 3].Nodup := by decide +kernel

theorem witness_LoadReads :
    lands (notDone loading) (fun wv => decide (versionOf (notDone loading) wv = [])) = true ∧
    ∀ pa ∈ [0, 1, 2, 3], look loading.lines (lineOf pa) = none ∧ poisoned loading 0 pa = false := by decide +kernel

/-- The invariant holds at reset, and the step of a state that is about to issue answers a next state. -/
theorem witness_InvKept :
    Inv (State.reset.withFetchWord 64 0x00FFFFFFFFF70000) = true ∧
      (match step (State.reset.withFetchWord 64 0x00FFFFFFFFF70000) with | .next _ => true | _ => false) = true := by decide +kernel

/-! ### Ill-formed terms, reserved words -/

/-- A constructor that disagrees with its bits, or an event, is no instruction word, and has no encoding (R124, R125, R325). -/
theorem smoke_wf :
    Instr.wf (.pgqInv (sys 511 388 0 0x4000)) = false ∧ Instr.wf (.pgqInv (sys 511 388 0 0x8000)) = false ∧
    Instr.wf (.pgqInvall (sys 511 511 0 0)) = false ∧ Instr.wf (.pgqEvict (sys 511 388 0 0x4000)) = false ∧
    Instr.wf (.reservedOpcode 0x2D00000000000000) = false ∧ Instr.wf .powerOn = false ∧ Instr.wf .clerkPerform = false ∧
    encode .powerOn = none ∧ Instr.wf (.pgqInv (sys 511 388 0 0xC000)) = true ∧
    Instr.wf (.reservedOpcode 0x2E00000000000000) = true := by decide

/-- The 24 reserved opcodes decode to the reserved instruction (R124). -/
theorem test_decode_reserved :
    reservedOpcodes.all (fun n => decide (decodeWord (BitVec.ofNat 64 (n * 2 ^ 56)) = .reservedOpcode (BitVec.ofNat 64 (n * 2 ^ 56)))) =
      true := by decide +kernel

/-! ### Results, each from the spec's own example or by hand; one step each -/

/-- The state after an instruction that issues with vector registers and scalar registers as given; reset where it does not complete. -/
def after (i : Instr) (v s : Cells 32) : State :=
  match exec i (modWeave (atReset i) 0 (fun wv => { wv with vreg := v, sreg := s })) with
  | .next t => t
  | _ => State.reset

/-- A word of weave 0, and its FFLAGS. -/
def wordOf (s : State) (key : Nat) : Option Word := (weaveOf s 0).map (fun wv => getWord wv key)
def flagsOf (s : State) : Option Word := (weaveOf s 0).map (fun wv => wv.fflags)

/-- The example of spec/11_spindle.md R249, R250, and its variants: 3.375, then 0.421875; a NaN element, with no flag; scale bytes 0xFF
and 0xFE, without and with SAT. -/
theorem test_vdot4_vscale :
    (let s := after (decodeWord 0x5F0A0542C1770880) [(672, 0x7EB04038), (704, 0x01482844), (736, 0x3F800000)] []
     wordOf s 640 = some 0x40580000 ∧ flagsOf s = some 0) ∧
    (let s := after (decodeWord 0x5F0A0542C1770880) [(672, 0x7FB04038), (704, 0x01482844), (736, 0x3F800000)] []
     wordOf s 640 = some 0x7FC00000 ∧ flagsOf s = some 0) ∧
    (let s := after (decodeWord 0x610C05033FF70400) [(640, 0x40580000), (800, 0x7C)] []
     wordOf s 768 = some 0x3ED80000 ∧ flagsOf s = some 0) ∧
    wordOf (after (decodeWord 0x610C05033FF70400) [(640, 0x40580000), (800, 0xFF)] []) 768 = some 0x7FC00000 ∧
    (let s := after (decodeWord 0x610C05033FF70400) [(640, 0x40580000), (800, 0xFE)] []
     wordOf s 768 = some 0x7F800000 ∧ flagsOf s = some (BitVec.ofNat 32 (flagOF + flagNX))) ∧
    wordOf (after (decodeWord 0x610C05033FF71400) [(640, 0x40580000), (800, 0xFE)] []) 768 = some 0x7F7FFFFF := by decide +kernel

/-- The example of spec/12_assay.md: CVTPK of 500.0 and 0.3 to elements 2 and 3, with SAT, without, and toward zero. -/
theorem test_cvtpk :
    ([0x890502C180D71841, 0x890502C180D70841, 0x890502C180D72841].map (fun w =>
      (let s := after (decodeWord (BitVec.ofNat 64 w)) [(352, 0x43FA0000), (384, 0x3E99999A)] []
       (wordOf s 320, flagsOf s)))) =
    [(some 0x2A7E0000, some (BitVec.ofNat 32 (flagOF + flagNX))), (some 0x2A7F0000, some (BitVec.ofNat 32 (flagOF + flagNX))),
     (some 0x297E0000, some (BitVec.ofNat 32 (flagOF + flagNX)))] := by decide +kernel

/-- VADD wraps, strand by strand, and may write its own source; strand 1 has other operands. -/
theorem test_vadd :
    (let s := after (.vadd (r 6 6 8 511 0)) [(192, 0xFFFFFFFF), (193, 5), (256, 2), (257, 7)] []
     wordOf s 192 = some 1 ∧ wordOf s 193 = some 12 ∧ wordOf s 194 = some 0 ∧ wordOf s 256 = some 2) := by decide +kernel

/-- A 64-bit sum carries from the lower register into the higher one (R75). -/
theorem test_vadd_pairs :
    (let s := after (.vadd (r 4 6 8 511 0x0200)) [(192, 0xFFFFFFFF), (224, 1), (256, 1), (288, 2)] []
     wordOf s 128 = some 0 ∧ wordOf s 160 = some 4) := by decide +kernel

/-- Scalar arithmetic: a product's high half, signed; an arithmetic shift by the amount modulo 32; z is written nowhere. -/
theorem test_scalar :
    wordOf (after (.smulh (r 386 388 390 511 0)) [] [(4, 0xFFFFFFFF), (6, 2)]) 20002 = some 0xFFFFFFFF ∧
    wordOf (after (.ssra (r 386 388 390 511 0)) [] [(4, 0x80000000), (6, 33)]) 20002 = some 0xC0000000 ∧
    (weaveOf (after (.sadd (r 511 388 390 511 0)) [] [(4, 1), (6, 2)]) 0).map (fun wv => wv.sreg) = some [(4, 1), (6, 2)] := by
  decide +kernel

/-- BRA: the split goes to H + 8 × OFF32, the header being at 0x1000 (R115, R176). -/
theorem test_bra :
    (weaveOf (after (.bra (br 511)) [] []) 0).bind (fun wv => (look wv.splits 0).map (fun sp => (sp.pc, sp.run))) =
      some (0x1010, none) := by decide +kernel

/-- A reserved opcode under HANDLER: the record at the trap block says class 0, cause 1, all 32 lanes and the PC, and the split is in
handler mode at the entry (R184 to R186). -/
theorem test_trap :
    (match exec (.reservedOpcode 0x2E00000000000000)
        (modWeave (atReset (.reservedOpcode 0x2E00000000000000)) 0 (fun wv => { wv with hdr := { wv.hdr with trapDisp := 1, handler := 3 } })) with
     | .next t => decide ((List.range 16).map (fun i => readByte t (trapPA 0 i)) =
         [0, 1, 0, 0, 0xFF, 0xFF, 0xFF, 0xFF, 0, 0x10, 0, 0, 0, 0, 0, 0]) &&
         ((weaveOf t 0).bind (fun wv => look wv.splits 0)).any (fun sp => sp.handler && decide (sp.pc = 88))
     | _ => false) = true := by decide +kernel

/-- A store in flight lands, little-endian where its bytes say, and touches no other byte. -/
theorem test_store :
    (match exec .longLatencyComplete storing with
     | .next t => (List.range 6).map (readByte t)
     | _ => []) = [1, 2, 3, 4, 0, 0] := by decide +kernel

/-- PPUT.MASK writes the bits of a scalar register to a predicate (R181). -/
theorem test_pput :
    (weaveOf (after (decodeWord 0x10FFE0BFFFF70001) [] [(2, 0x80000001)]) 0).map (fun wv => (predMask wv 1, predMask wv 0)) =
      some (0x80000001, 0) := by decide +kernel

/-- What reset leaves: no weave, and FFFFH in GTERR (R434). -/
theorem test_reset : State.reset.weaves = [] ∧ State.reset.gterr = 0xFFFF ∧ Inv State.reset = true := by decide

/-- The header of role 0 of the kernel that ends spec/06. -/
def idle2 : Hdr :=
  { addr := 0x10000, vregs := 16, sregs := 8, tregs := 0, renamed := false, role := 0, nroles := 1, weaves := 4, spad := 8192, tobBanks := 0,
    accBanks := 0, gang := 1, flags := 0, trapDisp := trapDispOf [(7, 2)], handler := 0, liveOff := 0x20000, liveCount := 1, vquota := 0 }

/-- Its bytes are those that spec/06 lists. -/
theorem test_header_bytes : hdrBytes idle2 =
    [0x42, 0x4A, 0x48, 0x4B, 1, 0, 0x40, 0, 0x10, 0, 8, 0, 0, 0, 1, 4] ++ [0, 0x20, 0, 0, 0, 0, 1, 0, 0, 0x80, 0, 0, 0, 0, 0, 0] ++
      [0, 0, 2, 0, 0, 0, 0, 0, 1, 0, 0, 0, 0, 0, 0, 0] ++ List.replicate 16 0 := by decide +kernel

theorem witness_HeaderRoundTrip : idle2.vregs < 2 ^ 16 ∧ idle2.sregs < 2 ^ 8 ∧ idle2.tregs < 2 ^ 8 ∧ idle2.role < 2 ^ 8 ∧
    idle2.nroles < 2 ^ 8 ∧ idle2.weaves < 2 ^ 8 ∧ idle2.spad < 2 ^ 32 ∧ idle2.tobBanks < 2 ^ 8 ∧ idle2.accBanks < 2 ^ 8 ∧
    idle2.gang < 2 ^ 8 ∧ idle2.flags < 2 ^ 8 ∧ idle2.liveCount < 2 ^ 16 ∧ idle2.vquota < 2 ^ 16 := by decide

/-- The clause headers that spec/05 and spec/06 write out: an entry clause with END, and a spindle clause that waits for f0. -/
theorem test_clause_headers :
    asmHeader .entry {} [0x01FFFFFFFFF70000] = 0x00000FF400000000 ∧
      asmHeader .plain { wait := [0] } [0x320201811FF70400, 0x39028140000000DC] = 0x11001FF000000000 := by decide +kernel

/-- 0x1E is an integer; 1.5 is F32; 1 + 2 * 3 is 7 (R129, R130, R132). -/
theorem test_literals : readNumber ['0', 'x', '1', 'E'] = some (.int 30) ∧
    (readNumber ['1', '.', '5']).map (fun x => (immediate none x).toOption) = some (some (2, 0x3FC00000)) ∧
    (parseExpr [.num 1, .op '+', .num 2, .op '*', .num 3]).map (fun e => (e.eval [] (.abs 0)).toOption) = some (some (.abs 7)) := by
  decide +kernel

end Sys2Proof.Machine.Tests
end

section
/-!
The flags that an instruction's strands raise (spec/04_number_formats.md R92, R93): what `raiseFlags` answers in each of its three cases,
and the statement that speaks of it.
-/

namespace Sys2Proof.Machine

open Sys2Proof

/-! ### The three answers of raiseFlags -/

section RaiseFlags

variable {s : State} {c : Ctx} {fl : Nat → Nat}

theorem raiseFlags_of_no_flags (hnone : orFlags c.q fl = 0) : raiseFlags s c fl = .done s :=
  if_pos hnone

/-- Flags raised with class 7 ignored, or with none of them enabled, are only ORed into FFLAGS. -/
theorem raiseFlags_of_no_trap (hsome : orFlags c.q fl ≠ 0)
    (hquiet : dispOf c.wv.hdr 7 = 2 ∨ orFlags c.q fl &&& (c.wv.fflags.extractLsb' 8 5).toNat = 0) :
    raiseFlags s c fl =
      .done (modWeave s c.w (fun wv => { wv with fflags := wv.fflags ||| BitVec.ofNat 32 (orFlags c.q fl) })) := by
  have hnoTrap : ¬ (dispOf c.wv.hdr 7 ≠ 2 ∧ orFlags c.q fl &&& (c.wv.fflags.extractLsb' 8 5).toNat ≠ 0) :=
    fun ⟨hdisp, hen⟩ => hquiet.elim hdisp hen
  exact (if_neg hsome).trans (if_neg hnoTrap)

/-- An enabled flag that class 7 does not ignore is ORed into FFLAGS like any other, and then traps. -/
theorem raiseFlags_of_trap (hdisp : dispOf c.wv.hdr 7 ≠ 2)
    (hen : orFlags c.q fl &&& (c.wv.fflags.extractLsb' 8 5).toNat ≠ 0) :
    raiseFlags s c fl =
      .doneTrap (modWeave s c.w (fun wv => { wv with fflags := wv.fflags ||| BitVec.ofNat 32 (orFlags c.q fl) }))
        { cls := 7, cause := 0, info := orFlags c.q fl
          lanes := maskOf ((strandsOf c.q).filter (fun k => decide (fl k &&& (c.wv.fflags.extractLsb' 8 5).toNat ≠ 0))) } := by
  have hsome : orFlags c.q fl ≠ 0 := fun hnone => hen (by rw [hnone, Nat.zero_and])
  exact (if_neg hsome).trans (if_pos ⟨hdisp, hen⟩)

end RaiseFlags

/-- A trap that follows a completed instruction is raised in the state that the instruction left, its writes and its FFLAGS update
included. -/
theorem finish_doneTrap (s0 s : State) (c : Ctx) (regs dests : List (Nat × Nat)) (waits : Bool) (t : Trap) :
    finish s0 c regs dests waits (.doneTrap s t) = raise s c t := rfl

/-- Settles O34: one case of `raiseFlags` for each clause. That the trap's INFO holds every raised flag, enabled or not, is the choice of
log 26. -/
theorem flagsAccrue : Obligations.FlagsAccrue := by
  unfold Obligations.FlagsAccrue
  intro s c fl
  exact ⟨raiseFlags_of_no_flags, raiseFlags_of_no_trap, fun _ => raiseFlags_of_trap,
    fun s0 regs dests waits s2 t => finish_doneTrap s0 s2 c regs dests waits t⟩

end Sys2Proof.Machine
end

section
/-!
The bench's plain instructions (spec/08_bench.md R175, R181): what a write of a predicate reaches and what it leaves as it was, what each
of the instructions does, and the statement that speaks of them.
-/

namespace Sys2Proof.Machine

open Sys2Proof

/-! ### Changing one weave -/

theorem weaveOf_modWeave {s : State} {w : Nat} {wv : Weave} (f : Weave → Weave) (h : weaveOf s w = some wv) :
    weaveOf (modWeave s w f) w = some (f wv) := by
  unfold weaveOf at h ⊢
  rw [modWeave_writes, look_edit, h, Option.map_some]

theorem weaveOf_modWeave_ne (s : State) (f : Weave → Weave) {w v : Nat} (h : v ≠ w) : weaveOf (modWeave s w f) v = weaveOf s v := by
  unfold weaveOf
  rw [modWeave_writes, look_edit_ne _ _ h]

theorem sameMemory_modWeave (s : State) (w : Nat) (f : Weave → Weave) : sameMemory s (modWeave s w f) := by
  intro pa
  unfold modWeave
  split <;> rfl

/-! ### Writing a predicate -/

/-- The bits of `new` in the strands of `q`, those of `old` in the others. -/
theorem getLsbD_mask_select (q old new : Mask) {k : Nat} (hk : k < 32) :
    ((old &&& ~~~q) ||| (new &&& q)).getLsbD k = if q.getLsbD k then new.getLsbD k else old.getLsbD k := by
  simp only [BitVec.getLsbD_or, BitVec.getLsbD_and, BitVec.getLsbD_not, hk, decide_true, Bool.true_and]
  cases q.getLsbD k <;> simp

theorem predMask_setCell (wv : Weave) {d : Nat} (m : Mask) (hd : d ≠ 7) :
    predMask { wv with pred := setCell wv.pred d m } d = m := by
  simp [predMask, hd]

theorem predMask_setCell_ne (wv : Weave) {d e : Nat} (m : Mask) (he : e ≠ d) :
    predMask { wv with pred := setCell wv.pred d m } e = predMask wv e := by
  simp [predMask, he]

/-- The qualifying strands' bits of the predicate are written; every other strand's bit, predicate and weave, and memory, stay (R181). -/
theorem writePredicate_frame {s : State} {c : Ctx} {d : Nat} (x : Mask) {wv : Weave} (hwv : weaveOf s c.w = some wv) (hd : d < 7) :
    ∃ wv', weaveOf (writePredicate s c d x) c.w = some wv' ∧
      (∀ k < 32, (predMask wv' d).getLsbD k = if c.q.getLsbD k then x.getLsbD k else (predMask wv d).getLsbD k) ∧
      (∀ e, e ≠ d → predMask wv' e = predMask wv e) ∧
      (∀ w, w ≠ c.w → weaveOf (writePredicate s c d x) w = weaveOf s w) ∧ sameMemory s (writePredicate s c d x) := by
  refine ⟨_, weaveOf_modWeave _ hwv, fun k hk => ?_, fun e he => predMask_setCell_ne wv _ he,
    fun w hw => weaveOf_modWeave_ne s _ hw, sameMemory_modWeave s c.w _⟩
  rw [predMask_setCell wv _ (Nat.ne_of_lt hd), getLsbD_mask_select _ _ _ hk]

/-! ### The instructions -/

theorem nop_does (f : RRR) : Does (.nop f) f.pn f.pred (bareForm f false) (fun s _ => .done s) :=
  does_of_row fun _ => rfl

theorem actm_writes (f : RRR) :
    Writes (.actm f) f.pn f.pred { ops := [dstIn 3 f.dst, unused f.sa, unused f.sb, unused f.sc], modOk := modZero16 f.mod } f.dst 1
      (fun _ c _ => c.sp.mask.toNat) :=
  does_of_row fun _ => rfl

theorem pget_writes (f : RRR) :
    Writes (.pget f) f.pn f.pred
      { ops := [dstIn 3 f.dst, unused f.sa, unused f.sb, unused f.sc], modOk := decide (f.mod.extractLsb' 3 13 = 0) } f.dst 1
      (fun _ c k =>
        let p := predMask c.wv (f.mod.extractLsb' 0 3).toNat
        if f.dst.toNat < 384 then (p.getLsbD k).toNat else p.toNat) := by
  refine does_of_row_eq (fun _ => rfl) fun s c s2 c2 _ =>
    congrArg (fun v => Effect.done (writeDst s2 c2 f.dst.toNat 1 v)) (funext fun k => ?_)
  dsimp only
  cases (predMask c2.wv (f.mod.extractLsb' 0 3).toNat).getLsbD k <;> rfl

/-- One case for each of MOV, AND, OR and XOR. -/
theorem plog_does (f : RRR) :
    Does (.plog f) f.pn f.pred
      { ops := rrrNone f, modOk := decide (f.mod.extractLsb' 8 8 = 0 ∧ (f.mod.extractLsb' 0 3).toNat ≠ 7) } (fun s c =>
        let a := predMask c.wv (f.mod.extractLsb' 3 3).toNat
        let d := predMask c.wv (f.mod.extractLsb' 0 3).toNat
        let op := (f.mod.extractLsb' 6 2).toNat
        .done (writePredicate s c (f.mod.extractLsb' 0 3).toNat
          (if op = 0 then a else if op = 1 then d &&& a else if op = 2 then d ||| a else d ^^^ a))) := by
  refine does_of_row_eq (fun _ => rfl) fun s c s2 c2 _ =>
    congrArg (fun x => Effect.done (writePredicate s2 c2 (f.mod.extractLsb' 0 3).toNat x)) ?_
  generalize (f.mod.extractLsb' 6 2).toNat = op
  match op with
  | 0 => rfl
  | 1 => rfl
  | 2 => rfl
  | n + 3 => rfl

/-- One case for each of MASK, NZ, NEG and ZERO. -/
theorem pput_does (f : RRR) :
    Does (.pput f) f.pn f.pred
      { ops := [unused f.dst, srcIn 19 f.sa, unused f.sb, unused f.sc],
        modOk := decide (f.mod.extractLsb' 5 11 = 0 ∧ (f.mod.extractLsb' 0 3).toNat ≠ 7) } (fun s c =>
        let op := (f.mod.extractLsb' 3 2).toNat
        let a (k : Nat) := srcWord s c f.sa.toNat k
        .done (writePredicate s c (f.mod.extractLsb' 0 3).toNat (maskOf (allStrands.filter (fun k =>
          if op = 0 then (a k).getLsbD k else if op = 1 then a k != 0 else if op = 2 then (a k).msb else a k == 0))))) := by
  refine does_of_row_eq (fun _ => rfl) fun s c s2 c2 _ =>
    congrArg (fun bit => Effect.done (writePredicate s2 c2 (f.mod.extractLsb' 0 3).toNat (maskOf (allStrands.filter bit))))
      (funext fun k => ?_)
  dsimp only
  generalize (f.mod.extractLsb' 3 2).toNat = op, srcWord s2 c2 f.sa.toNat k = a
  match op with
  | 0 => rfl
  | 1 => exact Bool.eq_iff_iff.mpr (by simp)
  | 2 => exact (BitVec.msb_eq_getLsbD_last a).symm
  | n + 3 => rfl

/-- Settles O16: each instruction's effect, and the frame of the predicate writes that PLOG and PPUT make. -/
theorem benchPlain : Obligations.BenchPlain := by
  unfold Obligations.BenchPlain
  exact ⟨nop_does, actm_writes, pget_writes, plog_does, pput_does, fun _ _ _ x _ hwv hd => writePredicate_frame x hwv hd⟩

end Sys2Proof.Machine
end

section
/-!
The Spindle's cross-strand instructions (spec/11_spindle.md R251 to R255): a strand takes its partner's value where the partner is in the
split and its own elsewhere, and the statement that speaks of the instructions.
-/

namespace Sys2Proof.Machine

open Sys2Proof

/-- To read a partner's operand when the partner is in the split, else one's own, is to choose between the two values (R252, R253). -/
theorem srcN_partner (s : State) (c : Ctx) (r n p j : Nat) :
    srcN s c r (if c.sp.mask.getLsbD p then p else j) n =
      if c.sp.mask.getLsbD p then srcN s c r p n else srcN s c r j n :=
  apply_ite (fun k => srcN s c r k n) _ p j

/-- One case for each mode of R252: XOR, UP, DOWN and ROT; a mode above 3 raises cause 3 and never issues. -/
theorem xchg_writes (f : RRR) :
    let n := wordsOf (modTYPE f.mod)
    let x := modOPX f.mod
    Writes (.xchg f) f.pn f.pred (crossForm f 1 (decide (x / 32 ≤ 3))) f.dst n (fun s c j =>
      let k := x % 32
      let p := if x / 32 = 0 then j ^^^ k else if x / 32 = 1 then (if k ≤ j then j - k else j)
        else if x / 32 = 2 then (if j + k ≤ 31 then j + k else j) else (j + k) % 32
      if c.sp.mask.getLsbD p then srcN s c f.sa.toNat p n else srcN s c f.sa.toNat j n) := by
  intro n x
  refine does_of_row_eq (fun _ => rfl) fun s c s2 c2 _ =>
    congrArg (fun v => Effect.done (writeDst s2 c2 f.dst.toNat n v)) (funext fun j => ?_)
  refine (srcN_partner s2 c2 f.sa.toNat n _ j).trans ?_
  dsimp only [x]
  generalize modOPX f.mod / 32 = mode
  match mode with
  | 0 => rfl
  | 1 => rfl
  | 2 => rfl
  | m + 3 => rfl

theorem vget_writes (f : RRR) :
    let n := wordsOf (modTYPE f.mod)
    Writes (.vget f) f.pn f.pred (crossForm f 2 (decide (modOPX f.mod = 0))) f.dst n (fun s c j =>
      let p := srcN s c f.sb.toNat j 1 % 32
      if c.sp.mask.getLsbD p then srcN s c f.sa.toNat p n else srcN s c f.sa.toNat j n) :=
  does_of_row_eq (fun _ => rfl) fun _ _ s2 c2 _ =>
    congrArg (fun v => Effect.done (writeDst s2 c2 f.dst.toNat _ v)) (funext fun j => srcN_partner s2 c2 f.sa.toNat _ _ j)

/-- Settles O31: XCHG and VGET by the choice between a partner's value and the strand's own; VPUT, BALLOT, VPREFIX and VRED as the rules
give their effects. VRED's clause also rests on the tree of R94 and, where a lone signalling NaN passes it unquieted, on the choice of
log 72. -/
theorem crossStrandCompletes : Obligations.CrossStrandCompletes := by
  unfold Obligations.CrossStrandCompletes
  intro f
  refine ⟨xchg_writes f, vget_writes f, ?vput, ?ballot, ?vprefix, ?vred⟩
  case vput => exact does_of_row fun _ => rfl
  case ballot => exact does_of_row fun _ => rfl
  case vprefix => exact does_of_row fun _ => rfl
  case vred => exact does_of_row fun _ => rfl

end Sys2Proof.Machine
end

section
/-!
Words and instructions (spec/05_encoding.md R109 to R117, R124, R125): encoding and decoding are each other's inverse. The fields of a
format lie side by side and fill the word, so a word is made of the fields that the decoder cuts out of it.
-/

namespace Sys2Proof.Laws
open Sys2Proof

set_option maxRecDepth 8000

/-- A bit of a field that is cut out of a word and placed where it was. -/
theorem place_extract_bit (w : DWord) (k n i : Nat) :
    (place (w.extractLsb' k n) k).getLsbD i = (decide (k ≤ i) && decide (i < k + n) && w.getLsbD i) := by
  rw [place_bit, BitVec.getLsbD_extractLsb']
  by_cases h : k ≤ i
  · rw [Nat.add_sub_cancel' h]
    by_cases h2 : i < 64
    · simp [h, h2, Nat.sub_lt_iff_lt_add' h]
    · simp [h2, BitVec.getLsbD_of_ge w i (Nat.not_lt.mp h2)]
  · simp [h]

/-- Two fields that lie side by side, each at its place, are one field at its place. -/
theorem place_join (w : DWord) {k j m n : Nat} (h : k = j + m) :
    place (w.extractLsb' k n) k ||| place (w.extractLsb' j m) j = place (w.extractLsb' j (m + n)) j := by
  subst h
  apply BitVec.eq_of_getLsbD_eq
  intro i _
  rw [BitVec.getLsbD_or]
  simp only [place_extract_bit]
  cases w.getLsbD i
  · simp
  · rw [Bool.eq_iff_iff]; simp; omega

theorem place_whole (w : DWord) : place (w.extractLsb' 0 64) 0 = w := by
  apply BitVec.eq_of_getLsbD_eq
  intro i hi
  rw [place_extract_bit]; simp [hi]

section Decoded

variable {w : DWord} {n : Nat}

/-- The opcode that the decoder read, as a word's encoder writes it. -/
theorem opcodeOf_eq (h : (opcodeOf w).toNat = n) : BitVec.ofNat 8 n = opcodeOf w := by
  rw [← h, BitVec.ofNat_toNat, BitVec.setWidth_eq]

theorem rrrWord_of (h : (opcodeOf w).toNat = n) : rrrWord (BitVec.ofNat 8 n) (rrrOf w) = w := by
  rw [opcodeOf_eq h]
  simp only [rrrWord, rrrOf, opcodeOf, place_join, Nat.reduceAdd, place_whole]

theorem riWord_of (h : (opcodeOf w).toNat = n) : riWord (BitVec.ofNat 8 n) (riOf w) = w := by
  rw [opcodeOf_eq h]
  simp only [riWord, riOf, opcodeOf, place_join, Nat.reduceAdd, place_whole]

theorem memWord_of (h : (opcodeOf w).toNat = n) : memWord (BitVec.ofNat 8 n) (memOf w) = w := by
  rw [opcodeOf_eq h]
  simp only [memWord, memOf, opcodeOf, place_join, Nat.reduceAdd, place_whole]

theorem brWord_of (h : (opcodeOf w).toNat = n) : brWord (BitVec.ofNat 8 n) (brOf w) = w := by
  rw [opcodeOf_eq h]
  simp only [brWord, brOf, opcodeOf, place_join, Nat.reduceAdd, place_whole]

theorem engWord_of (h : (opcodeOf w).toNat = n) : engWord (BitVec.ofNat 8 n) (engOf w) = w := by
  rw [opcodeOf_eq h]
  simp only [engWord, engOf, opcodeOf, place_join, Nat.reduceAdd, place_whole]

theorem sysWord_of (h : (opcodeOf w).toNat = n) : sysWord (BitVec.ofNat 8 n) (sysOf w) = w := by
  rw [opcodeOf_eq h]
  simp only [sysWord, sysOf, opcodeOf, place_join, Nat.reduceAdd, place_whole]

/-- PGQ's three constructors have one opcode (R325). -/
theorem encode_pgqOf (h : (opcodeOf w).toNat = 0xFC) : encode (pgqOf w) = some w := by
  unfold pgqOf
  split <;> simp only [encode, sysWord_of h]

end Decoded

/-- The opcodes of format RRR (R124, R125). -/
def rrrOpcodes : List Nat :=
  [0x00, 0x01, 0x04, 0x06, 0x08, 0x0C, 0x0D, 0x0E, 0x0F, 0x10, 0x11, 0x12, 0x13, 0x14, 0x15, 0x16, 0x17, 0x18, 0x19, 0x1A, 0x1B, 0x1C,
   0x1D, 0x1E, 0x1F, 0x20, 0x21, 0x30, 0x32, 0x34, 0x36, 0x37, 0x38, 0x3A, 0x3B, 0x3C, 0x3D, 0x3E, 0x3F, 0x40, 0x41, 0x42, 0x43, 0x44,
   0x45, 0x47, 0x49, 0x4B, 0x4C, 0x4D, 0x4F, 0x51, 0x53, 0x55, 0x56, 0x57, 0x58, 0x59, 0x5A, 0x5C, 0x5D, 0x5E, 0x5F, 0x60, 0x61, 0x62,
   0x63, 0x64, 0x65, 0x66, 0x67, 0x68, 0x69, 0x6A, 0x6B, 0x6C, 0x6D, 0x6E, 0x71, 0x72, 0x73, 0x74, 0x75, 0x76, 0x77, 0x78, 0x79, 0x80,
   0x81, 0x82, 0x83, 0x84, 0x85, 0x86, 0x87, 0x88, 0x89, 0x8A, 0x8B, 0x8C, 0x8D, 0x8E, 0x8F, 0x90, 0x91, 0x92, 0x93, 0x94, 0x95, 0x96,
   0x97, 0x98, 0x99, 0xAA, 0xB1, 0xBA, 0xBB, 0xC3, 0xC4, 0xC5, 0xC6, 0xC8, 0xC9, 0xCA, 0xCB, 0xCC, 0xCD, 0xCE, 0xCF, 0xD9, 0xE1, 0xE2,
   0xE3, 0xE4, 0xE5, 0xE6, 0xE7, 0xE8, 0xEB]

/-- The opcodes of format RI (R124, R125). -/
def riOpcodes : List Nat :=
  [0x09, 0x0A, 0x0B, 0x22, 0x23, 0x24, 0x25, 0x26, 0x27, 0x28, 0x29, 0x2A, 0x2B, 0x2C, 0x2D, 0x31, 0x33, 0x35, 0x39, 0x46, 0x48, 0x4A,
   0x4E, 0x50, 0x52, 0x54, 0x5B, 0x6F, 0x70, 0x7A, 0x7B]

/-- The opcodes of format MEM (R124, R125). -/
def memOpcodes : List Nat :=
  [0xA0, 0xA1, 0xA2, 0xA3, 0xA4, 0xA5, 0xA6, 0xA7, 0xA8, 0xA9, 0xAB, 0xAC, 0xAD, 0xAE, 0xAF, 0xB0, 0xB2, 0xB8, 0xB9, 0xBC, 0xBD, 0xBE,
   0xBF, 0xC0, 0xC1, 0xC2, 0xF9]

/-- The opcodes of format BR (R124, R125). -/
def brOpcodes : List Nat :=
  [0x02, 0x03, 0x05, 0x07]

/-- The opcodes of format ENG (R124, R125). -/
def engOpcodes : List Nat :=
  [0xD4, 0xD5, 0xD6, 0xD7, 0xD8, 0xDA, 0xDB, 0xDC, 0xDD, 0xDE, 0xDF, 0xE0, 0xE9, 0xEA, 0xEC, 0xED]

/-- The opcodes of format SYS (R124, R125); PGQ, 0xFC, stands apart. -/
def sysOpcodes : List Nat :=
  [0xF0, 0xF1, 0xF2, 0xF3, 0xF4, 0xF5, 0xF6, 0xF7, 0xF8, 0xFA, 0xFB, 0xFD, 0xFE, 0xFF]

theorem encode_decodeWord_rrr {w : DWord} (hn : (opcodeOf w).toNat ∈ rrrOpcodes) : encode (decodeWord w) = some w := by
  unfold decodeWord
  generalize h : (opcodeOf w).toNat = n at hn ⊢
  unfold rrrOpcodes at hn
  repeat' (rcases hn with _ | ⟨_, hn⟩)
  all_goals exact congrArg some (rrrWord_of h)

theorem encode_decodeWord_ri {w : DWord} (hn : (opcodeOf w).toNat ∈ riOpcodes) : encode (decodeWord w) = some w := by
  unfold decodeWord
  generalize h : (opcodeOf w).toNat = n at hn ⊢
  unfold riOpcodes at hn
  repeat' (rcases hn with _ | ⟨_, hn⟩)
  all_goals exact congrArg some (riWord_of h)

theorem encode_decodeWord_mem {w : DWord} (hn : (opcodeOf w).toNat ∈ memOpcodes) : encode (decodeWord w) = some w := by
  unfold decodeWord
  generalize h : (opcodeOf w).toNat = n at hn ⊢
  unfold memOpcodes at hn
  repeat' (rcases hn with _ | ⟨_, hn⟩)
  all_goals exact congrArg some (memWord_of h)

theorem encode_decodeWord_br {w : DWord} (hn : (opcodeOf w).toNat ∈ brOpcodes) : encode (decodeWord w) = some w := by
  unfold decodeWord
  generalize h : (opcodeOf w).toNat = n at hn ⊢
  unfold brOpcodes at hn
  repeat' (rcases hn with _ | ⟨_, hn⟩)
  all_goals exact congrArg some (brWord_of h)

theorem encode_decodeWord_eng {w : DWord} (hn : (opcodeOf w).toNat ∈ engOpcodes) : encode (decodeWord w) = some w := by
  unfold decodeWord
  generalize h : (opcodeOf w).toNat = n at hn ⊢
  unfold engOpcodes at hn
  repeat' (rcases hn with _ | ⟨_, hn⟩)
  all_goals exact congrArg some (engWord_of h)

theorem encode_decodeWord_sys {w : DWord} (hn : (opcodeOf w).toNat ∈ sysOpcodes) : encode (decodeWord w) = some w := by
  unfold decodeWord
  generalize h : (opcodeOf w).toNat = n at hn ⊢
  unfold sysOpcodes at hn
  repeat' (rcases hn with _ | ⟨_, hn⟩)
  all_goals exact congrArg some (sysWord_of h)

theorem encode_decodeWord_reserved {w : DWord} (hn : (opcodeOf w).toNat ∈ reservedOpcodes) : encode (decodeWord w) = some w := by
  unfold decodeWord
  generalize h : (opcodeOf w).toNat = n at hn ⊢
  unfold reservedOpcodes at hn
  repeat' (rcases hn with _ | ⟨_, hn⟩)
  all_goals rfl

theorem encode_decodeWord_pgq {w : DWord} (h : (opcodeOf w).toNat = 0xFC) : encode (decodeWord w) = some w := by
  unfold decodeWord
  rw [h]
  exact encode_pgqOf h

/-- Every opcode is PGQ's, reserved, or of one of the formats. -/
theorem opcode_cases : ∀ n < 256, n = 0xFC ∨ n ∈ reservedOpcodes ∨ n ∈ rrrOpcodes ∨ n ∈ riOpcodes ∨ n ∈ memOpcodes ∨ n ∈ brOpcodes ∨
    n ∈ engOpcodes ∨ n ∈ sysOpcodes := by
  decide

/-- Settles O1: the law of each instruction's own encoding; a row that is an event is not well formed. -/
theorem encodeThenDecode : Obligations.EncodeThenDecode := by
  unfold Obligations.EncodeThenDecode
  intro i
  cases i with
  | nop f => exact Encoded.nop f
  | endSplit f => exact Encoded.endSplit f
  | bra f => exact Encoded.bra f
  | brv f => exact Encoded.brv f
  | brx f => exact Encoded.brx f
  | call f => exact Encoded.call f
  | ret f => exact Encoded.ret f
  | jmark f => exact Encoded.jmark f
  | join f => exact Encoded.join f
  | pause f => exact Encoded.pause f
  | waitf f => exact Encoded.waitf f
  | trap f => exact Encoded.trap f
  | dead f => exact Encoded.dead f
  | actm f => exact Encoded.actm f
  | plog f => exact Encoded.plog f
  | pget f => exact Encoded.pget f
  | pput f => exact Encoded.pput f
  | smov f => exact Encoded.smov f
  | sadd f => exact Encoded.sadd f
  | ssub f => exact Encoded.ssub f
  | smul f => exact Encoded.smul f
  | smulh f => exact Encoded.smulh f
  | sand f => exact Encoded.sand f
  | sor f => exact Encoded.sor f
  | sxor f => exact Encoded.sxor f
  | sshl f => exact Encoded.sshl f
  | sshr f => exact Encoded.sshr f
  | ssra f => exact Encoded.ssra f
  | smin f => exact Encoded.smin f
  | smax f => exact Encoded.smax f
  | scmp f => exact Encoded.scmp f
  | ssel f => exact Encoded.ssel f
  | sclz f => exact Encoded.sclz f
  | spopc f => exact Encoded.spopc f
  | smovRi f => exact Encoded.smovRi f
  | saddRi f => exact Encoded.saddRi f
  | smulRi f => exact Encoded.smulRi f
  | sandRi f => exact Encoded.sandRi f
  | sorRi f => exact Encoded.sorRi f
  | sxorRi f => exact Encoded.sxorRi f
  | sshlRi f => exact Encoded.sshlRi f
  | sshrRi f => exact Encoded.sshrRi f
  | ssraRi f => exact Encoded.ssraRi f
  | scmpRi f => exact Encoded.scmpRi f
  | sminRi f => exact Encoded.sminRi f
  | smaxRi f => exact Encoded.smaxRi f
  | vmov f => exact Encoded.vmov f
  | vmovRi f => exact Encoded.vmovRi f
  | vadd f => exact Encoded.vadd f
  | vaddRi f => exact Encoded.vaddRi f
  | vsub f => exact Encoded.vsub f
  | vsubRi f => exact Encoded.vsubRi f
  | vadds f => exact Encoded.vadds f
  | vaddsRi f => exact Encoded.vaddsRi f
  | vsubs f => exact Encoded.vsubs f
  | vmul f => exact Encoded.vmul f
  | vmulRi f => exact Encoded.vmulRi f
  | vmulh f => exact Encoded.vmulh f
  | vmulw f => exact Encoded.vmulw f
  | vmad f => exact Encoded.vmad f
  | vmadh f => exact Encoded.vmadh f
  | vfma f => exact Encoded.vfma f
  | vfms f => exact Encoded.vfms f
  | vfnma f => exact Encoded.vfnma f
  | vabs f => exact Encoded.vabs f
  | vneg f => exact Encoded.vneg f
  | vmin f => exact Encoded.vmin f
  | vminRi f => exact Encoded.vminRi f
  | vmax f => exact Encoded.vmax f
  | vmaxRi f => exact Encoded.vmaxRi f
  | vclamp f => exact Encoded.vclamp f
  | vsgn f => exact Encoded.vsgn f
  | vabsd f => exact Encoded.vabsd f
  | vavg f => exact Encoded.vavg f
  | vaddc f => exact Encoded.vaddc f
  | vsubb f => exact Encoded.vsubb f
  | vand f => exact Encoded.vand f
  | vandRi f => exact Encoded.vandRi f
  | vor f => exact Encoded.vor f
  | vorRi f => exact Encoded.vorRi f
  | vxor f => exact Encoded.vxor f
  | vxorRi f => exact Encoded.vxorRi f
  | vnot f => exact Encoded.vnot f
  | vbool f => exact Encoded.vbool f
  | vshl f => exact Encoded.vshl f
  | vshlRi f => exact Encoded.vshlRi f
  | vshr f => exact Encoded.vshr f
  | vshrRi f => exact Encoded.vshrRi f
  | vsra f => exact Encoded.vsra f
  | vsraRi f => exact Encoded.vsraRi f
  | vrol f => exact Encoded.vrol f
  | vrolRi f => exact Encoded.vrolRi f
  | vclz f => exact Encoded.vclz f
  | vctz f => exact Encoded.vctz f
  | popc f => exact Encoded.popc f
  | vbrev f => exact Encoded.vbrev f
  | vbswap f => exact Encoded.vbswap f
  | vbfe f => exact Encoded.vbfe f
  | vbfi f => exact Encoded.vbfi f
  | vcmp f => exact Encoded.vcmp f
  | vcmpRi f => exact Encoded.vcmpRi f
  | vsel f => exact Encoded.vsel f
  | vselRi f => exact Encoded.vselRi f
  | vclass f => exact Encoded.vclass f
  | vmatch f => exact Encoded.vmatch f
  | vpack f => exact Encoded.vpack f
  | vunpk f => exact Encoded.vunpk f
  | vswz f => exact Encoded.vswz f
  | vshuf f => exact Encoded.vshuf f
  | vdot8 f => exact Encoded.vdot8 f
  | vdot4 f => exact Encoded.vdot4 f
  | vdot2 f => exact Encoded.vdot2 f
  | vscale f => exact Encoded.vscale f
  | xchg f => exact Encoded.xchg f
  | vget f => exact Encoded.vget f
  | vput f => exact Encoded.vput f
  | ballot f => exact Encoded.ballot f
  | vprefix f => exact Encoded.vprefix f
  | vred f => exact Encoded.vred f
  | rdff f => exact Encoded.rdff f
  | wrff f => exact Encoded.wrff f
  | clrff f => exact Encoded.clrff f
  | rcp f => exact Encoded.rcp f
  | rsq f => exact Encoded.rsq f
  | sqrt f => exact Encoded.sqrt f
  | div f => exact Encoded.div f
  | exp2 f => exact Encoded.exp2 f
  | log2 f => exact Encoded.log2 f
  | sin f => exact Encoded.sin f
  | cos f => exact Encoded.cos f
  | expe f => exact Encoded.expe f
  | loge f => exact Encoded.loge f
  | tanh f => exact Encoded.tanh f
  | atan f => exact Encoded.atan f
  | cvt f => exact Encoded.cvt f
  | cvtpk f => exact Encoded.cvtpk f
  | cvtpk2 f => exact Encoded.cvtpk2 f
  | cvtunp f => exact Encoded.cvtunp f
  | cvtmx f => exact Encoded.cvtmx f
  | cvtmxd f => exact Encoded.cvtmxd f
  | fxcvt f => exact Encoded.fxcvt f
  | e8get f => exact Encoded.e8get f
  | mxamax f => exact Encoded.mxamax f
  | vrnd f => exact Encoded.vrnd f
  | scalb f => exact Encoded.scalb f
  | getexp f => exact Encoded.getexp f
  | getmant f => exact Encoded.getmant f
  | setseed f => exact Encoded.setseed f
  | ld f => exact Encoded.ld f
  | st f => exact Encoded.st f
  | ldu f => exact Encoded.ldu f
  | stu f => exact Encoded.stu f
  | ldc f => exact Encoded.ldc f
  | ldf f => exact Encoded.ldf f
  | stf f => exact Encoded.stf f
  | prfl f => exact Encoded.prfl f
  | invl f => exact Encoded.invl f
  | wbl f => exact Encoded.wbl f
  | fence f => exact Encoded.fence f
  | waitl f => exact Encoded.waitl f
  | ldnf f => exact Encoded.ldnf f
  | probe f => exact Encoded.probe f
  | lea f => exact Encoded.lea f
  | ldt f => exact Encoded.ldt f
  | stt f => exact Encoded.stt f
  | genrd f => exact Encoded.genrd f
  | zerol f => exact Encoded.zerol f
  | lds f => exact Encoded.lds f
  | sts f => exact Encoded.sts f
  | atoms f => exact Encoded.atoms f
  | cass f => exact Encoded.cass f
  | fefill f => exact Encoded.fefill f
  | fetake f => exact Encoded.fetake f
  | feread f => exact Encoded.feread f
  | fereset f => exact Encoded.fereset f
  | bara f => exact Encoded.bara f
  | barw f => exact Encoded.barw f
  | barx f => exact Encoded.barx f
  | nbsync f => exact Encoded.nbsync f
  | nbarr f => exact Encoded.nbarr f
  | bsave f => exact Encoded.bsave f
  | brestore f => exact Encoded.brestore f
  | atom f => exact Encoded.atom f
  | red f => exact Encoded.red f
  | cas f => exact Encoded.cas f
  | cas128 f => exact Encoded.cas128 f
  | atomu f => exact Encoded.atomu f
  | redu f => exact Encoded.redu f
  | casu f => exact Encoded.casu f
  | reda f => exact Encoded.reda f
  | dcopy f => exact Encoded.dcopy f
  | dcopym f => exact Encoded.dcopym f
  | gather f => exact Encoded.gather f
  | scatter f => exact Encoded.scatter f
  | gcompact f => exact Encoded.gcompact f
  | gstatus f => exact Encoded.gstatus f
  | greplay f => exact Encoded.greplay f
  | gselect f => exact Encoded.gselect f
  | loomMm f => exact Encoded.loomMm f
  | loomMx f => exact Encoded.loomMx f
  | loomSplit f => exact Encoded.loomSplit f
  | loomSpl f => exact Encoded.loomSpl f
  | loomFin f => exact Encoded.loomFin f
  | loomWait f => exact Encoded.loomWait f
  | ofence f => exact Encoded.ofence f
  | accAlloc f => exact Encoded.accAlloc f
  | accFree f => exact Encoded.accFree f
  | accRd f => exact Encoded.accRd f
  | accWr f => exact Encoded.accWr f
  | accClr f => exact Encoded.accClr f
  | gangSet f => exact Encoded.gangSet f
  | netColl f => exact Encoded.netColl f
  | netSend f => exact Encoded.netSend f
  | ringPop f => exact Encoded.ringPop f
  | prefT f => exact Encoded.prefT f
  | launchD f => exact Encoded.launchD f
  | srd f => exact Encoded.srd f
  | swr f => exact Encoded.swr f
  | bkpt f => exact Encoded.bkpt f
  | trace f => exact Encoded.trace f
  | tracev f => exact Encoded.tracev f
  | pmark f => exact Encoded.pmark f
  | cntrd f => exact Encoded.cntrd f
  | ckpt f => exact Encoded.ckpt f
  | vstat f => exact Encoded.vstat f
  | loftLd f => exact Encoded.loftLd f
  | loftWaitr f => exact Encoded.loftWaitr f
  | capq f => exact Encoded.capq f
  | pgqInv f => exact Encoded.pgqInv f
  | pgqInvall f => exact Encoded.pgqInvall f
  | pgqEvict f => exact Encoded.pgqEvict f
  | isync f => exact Encoded.isync f
  | drain f => exact Encoded.drain f
  | gtwait f => exact Encoded.gtwait f
  | reservedOpcode w => exact Encoded.reservedOpcode w
  | _ => exact nofun

/-- Settles O2: the decoder cuts a word into fields that lie side by side, format by format. -/
theorem decodeThenEncode : Obligations.DecodeThenEncode := by
  unfold Obligations.DecodeThenEncode
  intro w
  rcases opcode_cases (opcodeOf w).toNat (opcodeOf w).isLt with h | h | h | h | h | h | h | h
  · exact encode_decodeWord_pgq h
  · exact encode_decodeWord_reserved h
  · exact encode_decodeWord_rrr h
  · exact encode_decodeWord_ri h
  · exact encode_decodeWord_mem h
  · exact encode_decodeWord_br h
  · exact encode_decodeWord_eng h
  · exact encode_decodeWord_sys h

end Sys2Proof.Laws
end

section
/-!
The invariant of the device (spec/01_engines.md R23, spec/16_depot_loft.md R345, spec/25_package.md R456): every instruction and every
event keeps it, and so does every step. Each meaning is made of shared operations, each of which has its own law in Laws/Invariant; what
is left here is to go through a meaning's branches.
-/

namespace Sys2Proof.Machine

open Sys2Proof

/-! ### The Spindle -/

section Spindle

variable {s : State} (h : Inv s = true)

include h

theorem inv_execVcmp (f : RRR) : outInv (execVcmp f s) = true := by
  unfold execVcmp
  exact inv_issueRow _ _ _ _ _ (fun s c h => by simp [h]) h

theorem inv_execVcmpRi (f : RI) : outInv (execVcmpRi f s) = true := by
  unfold execVcmpRi
  exact inv_issueRow _ _ _ _ _ (fun s c h => by simp [h]) h

theorem inv_execVmatch (f : RRR) : outInv (execVmatch f s) = true := by
  unfold execVmatch
  exact inv_issueRow _ _ _ _ _ (fun s c h => by simp [h]) h

theorem inv_execVscale (f : RRR) : outInv (execVscale f s) = true := by
  unfold execVscale
  exact inv_issueRow _ _ _ _ _ (fun s c h => by simp [h]) h

theorem inv_execXchg (f : RRR) : outInv (execXchg f s) = true := by
  unfold execXchg
  exact inv_issueRow _ _ _ _ _ (fun s c h => by simp [h]) h

theorem inv_execVget (f : RRR) : outInv (execVget f s) = true := by
  unfold execVget
  exact inv_issueRow _ _ _ _ _ (fun s c h => by simp [h]) h

theorem inv_execVput (f : RRR) : outInv (execVput f s) = true := by
  unfold execVput
  exact inv_issueRow _ _ _ _ _ (fun s c h => by simp [h]) h

theorem inv_execBallot (f : RRR) : outInv (execBallot f s) = true := by
  unfold execBallot
  exact inv_issueRow _ _ _ _ _ (fun s c h => by simp [h]) h

theorem inv_execVprefix (f : RRR) : outInv (execVprefix f s) = true := by
  unfold execVprefix
  exact inv_issueRow _ _ _ _ _ (fun s c h => by simp [h]) h

theorem inv_execVred (f : RRR) : outInv (execVred f s) = true := by
  unfold execVred
  refine inv_issueRow _ _ _ _ _ (fun s c h => ?_) h
  (repeat' split) <;> simp [h]

theorem inv_execRdff (f : RRR) : outInv (execRdff f s) = true := by
  unfold execRdff
  exact inv_issueRow _ _ _ _ _ (fun s c h => by simp [h]) h

theorem inv_execWrff (f : RRR) : outInv (execWrff f s) = true := by
  unfold execWrff
  exact inv_issueRow _ _ _ _ _ (fun s c h => by simp [h]) h

theorem inv_execClrff (f : RRR) : outInv (execClrff f s) = true := by
  unfold execClrff
  exact inv_issueRow _ _ _ _ _ (fun s c h => by simp [h]) h

end Spindle

/-! ### The Assay -/

section Assay

variable {s : State} (h : Inv s = true)

include h

theorem inv_execCvt (f : RRR) : outInv (execCvt f s) = true := by
  unfold execCvt
  exact inv_issueRow _ _ _ _ _ (fun s c h => by simp [h]) h

theorem inv_execCvtpk (f : RRR) : outInv (execCvtpk f s) = true := by
  unfold execCvtpk
  exact inv_issueRow _ _ _ _ _ (fun s c h => by simp [h]) h

theorem inv_execCvtpk2 (f : RRR) : outInv (execCvtpk2 f s) = true := by
  unfold execCvtpk2
  exact inv_issueRow _ _ _ _ _ (fun s c h => by simp [h]) h

theorem inv_execCvtunp (f : RRR) : outInv (execCvtunp f s) = true := by
  unfold execCvtunp
  exact inv_issueRow _ _ _ _ _ (fun s c h => by simp [h]) h

theorem inv_execCvtmx (f : RRR) : outInv (execCvtmx f s) = true := by
  unfold execCvtmx
  exact inv_issueRow _ _ _ _ _ (fun s c h => by simp [h]) h

theorem inv_execCvtmxd (f : RRR) : outInv (execCvtmxd f s) = true := by
  unfold execCvtmxd
  exact inv_issueRow _ _ _ _ _ (fun s c h => by simp [h]) h

theorem inv_execFxcvt (f : RRR) : outInv (execFxcvt f s) = true := by
  unfold execFxcvt
  exact inv_issueRow _ _ _ _ _ (fun s c h => by simp [h]) h

theorem inv_execE8get (f : RRR) : outInv (execE8get f s) = true := by
  unfold execE8get
  exact inv_issueRow _ _ _ _ _ (fun s c h => by simp [h]) h

theorem inv_execMxamax (f : RRR) : outInv (execMxamax f s) = true := by
  unfold execMxamax
  exact inv_issueRow _ _ _ _ _ (fun s c h => by simp [h]) h

theorem inv_execScalb (f : RRR) : outInv (execScalb f s) = true := by
  unfold execScalb
  exact inv_issueRow _ _ _ _ _ (fun s c h => by simp [h]) h

theorem inv_execSetseed (f : RRR) : outInv (execSetseed f s) = true := by
  unfold execSetseed
  exact inv_issueRow _ _ _ _ _ (fun s c h => by simp [h]) h

end Assay

/-! ### The bench (spec/08_bench.md) -/

section Bench

variable {s : State} (h : Inv s = true)

include h

theorem inv_execNop (f : RRR) : outInv (execNop f s) = true := by
  unfold execNop
  exact inv_issueRow _ _ _ _ _ (fun s c h => h) h

theorem inv_execEndSplit (f : RRR) : outInv (execEndSplit f s) = true := by
  unfold execEndSplit
  refine inv_issueRow _ _ _ _ _ (fun s c h => ?_) h
  (repeat' split) <;> simp +contextual (maxDischargeDepth := 99) [h]

theorem inv_execBra (f : BR) : outInv (execBra f s) = true := by
  unfold execBra
  exact inv_issueRow _ _ _ _ _ (fun s c h => by simp [h]) h

theorem inv_execBrv (f : BR) : outInv (execBrv f s) = true := by
  unfold execBrv
  exact inv_issueRow _ _ _ _ _ (fun s c h => by simp [h]) h

theorem inv_execCall (f : BR) : outInv (execCall f s) = true := by
  unfold execCall
  exact inv_issueRow _ _ _ _ _ (fun s c h => by simp [h]) h

theorem inv_execJmark (f : BR) : outInv (execJmark f s) = true := by
  unfold execJmark
  exact inv_issueRow _ _ _ _ _ (fun s c h => by simp [h]) h

theorem inv_execJoin (f : RRR) : outInv (execJoin f s) = true := by
  unfold execJoin
  refine inv_issueRow _ _ _ _ _ (fun s c h => ?_) h
  (repeat' split) <;> simp +contextual (maxDischargeDepth := 99) [h]

theorem inv_execPause (f : RI) : outInv (execPause f s) = true := by
  unfold execPause
  refine inv_issueRow _ _ _ _ _ (fun s c h => ?_) h
  (repeat' split) <;> simp [h]

theorem inv_execWaitf (f : RI) : outInv (execWaitf f s) = true := by
  unfold execWaitf
  exact inv_issueRow _ _ _ _ _ (fun s c h => by simp [h]) h

theorem inv_execTrap (f : RI) : outInv (execTrap f s) = true := by
  unfold execTrap
  exact inv_issueRow _ _ _ _ _ (fun s c h => by simp [h]) h

theorem inv_execDead (f : RRR) : outInv (execDead f s) = true := by
  unfold execDead
  exact inv_issueRow _ _ _ _ _ (fun s c h => by simp [h]) h

theorem inv_execActm (f : RRR) : outInv (execActm f s) = true := by
  unfold execActm
  exact inv_issueRow _ _ _ _ _ (fun s c h => by simp [h]) h

theorem inv_execPlog (f : RRR) : outInv (execPlog f s) = true := by
  unfold execPlog
  exact inv_issueRow _ _ _ _ _ (fun s c h => by simp [h]) h

theorem inv_execPget (f : RRR) : outInv (execPget f s) = true := by
  unfold execPget
  exact inv_issueRow _ _ _ _ _ (fun s c h => by simp [h]) h

theorem inv_execPput (f : RRR) : outInv (execPput f s) = true := by
  unfold execPput
  exact inv_issueRow _ _ _ _ _ (fun s c h => by simp [h]) h

end Bench

/-! ### The Porter -/

section Porter

variable {s : State} (h : Inv s = true)

include h

theorem inv_execLdc (f : MemF) : outInv (execLdc f s) = true := by
  unfold execLdc
  refine inv_issueRow _ _ _ _ _ (fun s c h => ?_) h
  (repeat' split) <;> simp +contextual (maxDischargeDepth := 99) [h]

theorem inv_execLdf (f : MemF) : outInv (execLdf f s) = true := by
  unfold execLdf
  refine inv_issueRow _ _ _ _ _ (fun s c h => ?_) h
  (repeat' split) <;> simp +contextual (maxDischargeDepth := 99) [h]

theorem inv_execStf (f : MemF) : outInv (execStf f s) = true := by
  unfold execStf
  refine inv_issueRow _ _ _ _ _ (fun s c h => ?_) h
  (repeat' split) <;> simp +contextual (maxDischargeDepth := 99) [h]

theorem inv_execPrfl (f : MemF) : outInv (execPrfl f s) = true := by
  unfold execPrfl
  exact inv_issueRow _ _ _ _ _ (fun s c h => h) h

theorem inv_execInvl (f : MemF) : outInv (execInvl f s) = true := by
  unfold execInvl
  exact inv_issueRow _ _ _ _ _ (fun s c h => by simp [h]) h

theorem inv_execWbl (f : MemF) : outInv (execWbl f s) = true := by
  unfold execWbl
  refine inv_issueRow _ _ _ _ _ (fun s c h => ?_) h
  (repeat' split) <;> simp +contextual (maxDischargeDepth := 99) [h]

theorem inv_execFence (f : RRR) : outInv (execFence f s) = true := by
  unfold execFence
  exact inv_issueRow _ _ _ _ _ (fun s c h => by simp [h]) h

/-- What the start of a WAITL leaves has the invariant. -/
def Watch.inv : Watch → Bool
  | .walk s | .wake s _ => Inv s
  | .line _ _ => true

theorem inv_watchStart (c : Ctx) (ea : Nat) : (watchStart s c ea).inv = true := by
  have hr := inv_resolve s c .read [checkStrand s c.wv.ids.tenancy .read c.low ea 1] h
  unfold watchStart
  dsimp only
  split <;> rename_i e <;> rw [e] at hr
  · exact hr
  · exact hr
  · split
    · exact h
    · rfl

theorem inv_execWaitl (f : MemF) : outInv (execWaitl f s) = true := by
  unfold execWaitl
  refine inv_issueRow _ _ _ _ _ (fun s c h => ?_) h
  dsimp only
  split
  · (repeat' split) <;> simp [h]
  · split
    · have hw := inv_watchStart h c (eaOf s c f c.low)
      split <;> rename_i e <;> rw [e] at hw
      · exact hw
      · exact inv_writeDst _ _ _ _ _ hw
      · simp [h]
    · exact h

theorem inv_execLdnf (f : MemF) : outInv (execLdnf f s) = true := by
  unfold execLdnf
  exact inv_issueRow _ _ _ _ _ (fun s c h => by simp [h]) h

theorem inv_execProbe (f : MemF) : outInv (execProbe f s) = true := by
  unfold execProbe
  exact inv_issueRow _ _ _ _ _ (fun s c h => by simp [h]) h

theorem inv_execLea (f : MemF) : outInv (execLea f s) = true := by
  unfold execLea
  exact inv_issueRow _ _ _ _ _ (fun s c h => by simp [h]) h

theorem inv_execLdt (f : MemF) : outInv (execLdt f s) = true := by
  unfold execLdt
  refine inv_issueRow _ _ _ _ _ (fun s c h => ?_) h
  (repeat' split) <;> simp +contextual (maxDischargeDepth := 99) [h]

theorem inv_execStt (f : MemF) : outInv (execStt f s) = true := by
  unfold execStt
  refine inv_issueRow _ _ _ _ _ (fun s c h => ?_) h
  (repeat' split) <;> simp +contextual (maxDischargeDepth := 99) [h]

theorem inv_execGenrd (f : RRR) : outInv (execGenrd f s) = true := by
  unfold execGenrd
  exact inv_issueRow _ _ _ _ _ (fun s c h => by simp [h]) h

theorem inv_execZerol (f : MemF) : outInv (execZerol f s) = true := by
  unfold execZerol
  refine inv_issueRow _ _ _ _ _ (fun s c h => ?_) h
  (repeat' split) <;> simp +contextual (maxDischargeDepth := 99) [h]

end Porter

/-! ### The Stockroom -/

section Stockroom

variable {s : State} (h : Inv s = true)

include h

theorem inv_execLds (f : MemF) : outInv (execLds f s) = true := by
  unfold execLds
  refine inv_issueRow _ _ _ _ _ (fun s c h => ?_) h
  (repeat' split) <;> simp [h]

theorem inv_execSts (f : MemF) : outInv (execSts f s) = true := by
  unfold execSts
  refine inv_issueRow _ _ _ _ _ (fun s c h => ?_) h
  (repeat' split) <;> simp [h]

theorem inv_execFefill (f : MemF) : outInv (execFefill f s) = true :=
  inv_feRow _ _ _ _ _ _ (fun _ _ _ _ h => by simp +contextual (maxDischargeDepth := 99) [h]) h

theorem inv_execFetake (f : MemF) : outInv (execFetake f s) = true :=
  inv_feRow _ _ _ _ _ _ (fun _ _ _ _ h => inv_modWeave _ _ _ (inv_modBasket _ _ _ (inv_feTake _ _ _ _ _ h))) h

theorem inv_execFeread (f : MemF) : outInv (execFeread f s) = true :=
  inv_feRow _ _ _ _ _ _ (fun _ _ _ _ h => inv_feTake _ _ _ _ _ h) h

theorem inv_execFereset (f : MemF) : outInv (execFereset f s) = true := by
  unfold execFereset
  refine inv_issueRow _ _ _ _ _ (fun s c h => ?_) h
  (repeat' split) <;> simp [h]

theorem inv_execBarw (f : MemF) : outInv (execBarw f s) = true := by
  unfold execBarw
  refine inv_issueRow _ _ _ _ _ (fun s c h => ?_) h
  dsimp only
  (repeat' split) <;> simp +contextual (maxDischargeDepth := 99) [h]

theorem inv_execNbsync (f : RRR) : outInv (execNbsync f s) = true := by
  unfold execNbsync
  refine inv_issueRow _ _ _ _ _ (fun s c h => ?_) h
  (repeat' split) <;> simp +contextual (maxDischargeDepth := 99) [h]

theorem inv_execNbarr (f : RRR) : outInv (execNbarr f s) = true := by
  unfold execNbarr
  exact inv_issueRow _ _ _ _ _ (fun s c h => by simp [h]) h

end Stockroom

/-! ### The Clerks -/

section Clerk

variable {s : State} (h : Inv s = true)

include h

theorem inv_execClerkPerform : outInv (execClerkPerform s) = true := by
  unfold execClerkPerform
  dsimp only; (repeat' split) <;> simp [h]

end Clerk

/-! ### The Dray -/

section Dray

variable {s : State} (h : Inv s = true)

include h

theorem inv_execDrayChunkDone : outInv (execDrayChunkDone s) = true := by
  unfold execDrayChunkDone
  dsimp only; (repeat' split) <;> simp +contextual (maxDischargeDepth := 99) [h]

theorem inv_execDrayCopyComplete : outInv (execDrayCopyComplete s) = true := by
  have hc (c : Copy) := inv_copyCommit s s.ev.a c h
  unfold execDrayCopyComplete
  dsimp only
  split
  · exact h
  · split
    · exact h
    · split
      · exact inv_drayAccept _ _ _ (inv_finishPacket _ _ _ h)
      · split
        · exact h
        · split
          · split
            · exact inv_of_wait ‹_› (hc _)
            · have h1 := inv_of_ok ‹_› (hc _)
              split
              · exact h1
              · exact inv_drayAccept _ _ _ (inv_finishCommand _ _ _ _ _ (inv_modWeave _ _ _ (inv_copyLand _ _ _ h1)))
          · exact h

end Dray

/-! ### The Gleaner -/

section Gleaner

variable {s : State} (h : Inv s = true)

include h

theorem inv_execGstatus (f : RRR) : outInv (execGstatus f s) = true := by
  unfold execGstatus
  exact inv_issueRow _ _ _ _ _ (fun s c h => by simp [h]) h

theorem inv_execGreplay (f : ENG) : outInv (execGreplay f s) = true := by
  unfold execGreplay
  refine inv_issueRow _ _ _ _ _ (fun s c h => ?_) h
  dsimp only
  (repeat' split) <;> simp [h]

theorem inv_execGselect (f : ENG) : outInv (execGselect f s) = true := by
  unfold execGselect
  refine inv_issueRow _ _ _ _ _ (fun s c h => ?_) h
  dsimp only
  (repeat' split) <;> simp [h]

theorem inv_execGleanerAccept : outInv (execGleanerAccept s) = true := by
  unfold execGleanerAccept
  dsimp only; (repeat' split) <;> simp +contextual (maxDischargeDepth := 99) [h]

theorem inv_execGleanerStrandSettle : outInv (execGleanerStrandSettle s) = true := by
  unfold execGleanerStrandSettle
  dsimp only; (repeat' split) <;> simp +contextual (maxDischargeDepth := 99) [h]

theorem inv_execGselectComplete : outInv (execGselectComplete s) = true := by
  unfold execGselectComplete
  dsimp only; (repeat' split) <;> simp [h]

end Gleaner

/-! ### The Courier -/

section Courier

variable {s : State} (h : Inv s = true)

include h

theorem inv_execNetColl (f : ENG) : outInv (execNetColl f s) = true := by
  unfold execNetColl
  exact inv_issueRow _ _ _ _ _ (fun s c h => by simp [h]) h

theorem inv_execNetSend (f : ENG) : outInv (execNetSend f s) = true := by
  unfold execNetSend
  exact inv_issueRow _ _ _ _ _ (fun s c h => by simp [h]) h

theorem inv_execRingPop (f : RRR) : outInv (execRingPop f s) = true := by
  unfold execRingPop
  refine inv_issueRow _ _ _ _ _ (fun s c h => ?_) h
  split
  · split
    · exact h
    · have h1 := inv_of_some_fst ‹_› (inv_ringPop s _ _ _ _ h)
      simp [h1]
  · exact h

theorem inv_execNetCommandComplete : outInv (execNetCommandComplete s) = true := by
  unfold execNetCommandComplete
  (repeat' split) <;> simp [h]

theorem inv_execNetPeerTimeout : outInv (execNetPeerTimeout s) = true := by
  unfold execNetPeerTimeout
  (repeat' split) <;> simp [h]

theorem inv_execFrameReceive : outInv (execFrameReceive s) = true := by
  unfold execFrameReceive
  dsimp only; (repeat' split) <;> simp +contextual (maxDischargeDepth := 99) [h]

end Courier

/-! ### The Loom -/

section Loom

variable {s : State} (h : Inv s = true)

include h

theorem inv_execLoomMm (f : ENG) : outInv (execLoomMm f s) = true := by
  unfold execLoomMm
  exact inv_issueRow _ _ _ _ _ (fun s c h => by simp [h]) h

theorem inv_execLoomMx (f : ENG) : outInv (execLoomMx f s) = true := by
  unfold execLoomMx
  exact inv_issueRow _ _ _ _ _ (fun s c h => by simp [h]) h

theorem inv_execLoomSplit (f : ENG) : outInv (execLoomSplit f s) = true := by
  unfold execLoomSplit
  exact inv_issueRow _ _ _ _ _ (fun s c h => by simp [h]) h

theorem inv_execLoomSpl (f : ENG) : outInv (execLoomSpl f s) = true := by
  unfold execLoomSpl
  exact inv_issueRow _ _ _ _ _ (fun s c h => by simp [h]) h

theorem inv_execLoomFin (f : ENG) : outInv (execLoomFin f s) = true := by
  unfold execLoomFin
  exact inv_issueRow _ _ _ _ _ (fun s c h => by simp [h]) h

theorem inv_execLoomWait (f : RRR) : outInv (execLoomWait f s) = true := by
  unfold execLoomWait
  exact inv_issueRow _ _ _ _ _ (fun s c h => by simp (maxDischargeDepth := 99) [h]) h

theorem inv_execOfence (f : RRR) : outInv (execOfence f s) = true := by
  unfold execOfence
  exact inv_issueRow _ _ _ _ _ (fun s c h => by simp [h]) h

theorem inv_execAccAlloc (f : RRR) : outInv (execAccAlloc f s) = true := by
  unfold execAccAlloc
  refine inv_issueRow _ _ _ _ _ (fun s c h => ?_) h
  (repeat' split) <;> simp +contextual (maxDischargeDepth := 99) [h]

theorem inv_execAccFree (f : RRR) : outInv (execAccFree f s) = true := by
  unfold execAccFree
  exact inv_issueRow _ _ _ _ _ (fun s c h => by simp [h]) h

theorem inv_execAccRd (f : RRR) : outInv (execAccRd f s) = true := by
  unfold execAccRd
  refine inv_issueRow _ _ _ _ _ (fun s c h => ?_) h
  split
  · exact h
  · split
    · rename_i e
      exact inv_accPlace s c f _ h _ e
    · simp [h]

theorem inv_execAccWr (f : RRR) : outInv (execAccWr f s) = true := by
  unfold execAccWr
  refine inv_issueRow _ _ _ _ _ (fun s c h => ?_) h
  split
  · exact h
  · split
    · rename_i e
      exact inv_accPlace s c f _ h _ e
    · simp [h]

theorem inv_execAccClr (f : RRR) : outInv (execAccClr f s) = true := by
  unfold execAccClr
  exact inv_issueRow _ _ _ _ _ (fun s c h => by simp [h]) h

theorem inv_execGangSet (f : RRR) : outInv (execGangSet f s) = true := by
  unfold execGangSet
  exact inv_issueRow _ _ _ _ _ (fun s c h => by simp [h]) h

theorem inv_execLoomRendezvous : outInv (execLoomRendezvous s) = true := by
  unfold execLoomRendezvous
  dsimp only; (repeat' split) <;> simp +contextual (maxDischargeDepth := 99) [h]

theorem inv_execLoomKstepCommit : outInv (execLoomKstepCommit s) = true := by
  unfold execLoomKstepCommit
  dsimp only; (repeat' split) <;> simp +contextual (maxDischargeDepth := 99) [h]

theorem inv_execLoomSplitFinComplete : outInv (execLoomSplitFinComplete s) = true := by
  unfold execLoomSplitFinComplete
  dsimp only; (repeat' split) <;> simp +contextual (maxDischargeDepth := 99) [h]

end Loom

/-! ### The system instructions -/

section System

variable {s : State} (h : Inv s = true)

include h

theorem inv_execPrefT (f : ENG) : outInv (execPrefT f s) = true := by
  unfold execPrefT
  refine inv_issueRow _ _ _ _ _ (fun s c h => ?_) h
  dsimp only
  (repeat' split) <;> simp [h]

theorem inv_execLaunchD (f : ENG) : outInv (execLaunchD f s) = true := by
  unfold execLaunchD
  refine inv_issueRow _ _ _ _ _ (fun s c h => inv_onFirst _ _ _ h ?_) h
  have hp := inv_pushCommit s c h
  dsimp only
  split
  · split
    · exact h
    · split <;> rename_i e <;> rw [e] at hp
      · exact hp
      · split
        · exact hp
        · exact inv_pushEng _ _ _ _ _ _ _ hp (fun _ h => h) (fun _ hx => by cases hx)
  · exact h

theorem inv_execSrd (f : SYS) : outInv (execSrd f s) = true := by
  unfold execSrd
  exact inv_issueRow _ _ _ _ _ (fun s c h => by simp [h]) h

theorem inv_execSwr (f : SYS) : outInv (execSwr f s) = true := by
  unfold execSwr
  exact inv_issueRow _ _ _ _ _ (fun s c h => by simp [h]) h

theorem inv_execBkpt (f : SYS) : outInv (execBkpt f s) = true := by
  unfold execBkpt
  exact inv_issueRow _ _ _ _ _ (fun s c h => by simp [h]) h

theorem inv_execTrace (f : SYS) : outInv (execTrace f s) = true := by
  unfold execTrace
  exact inv_issueRow _ _ _ _ _ (fun s c h => by simp [h]) h

theorem inv_execTracev (f : SYS) : outInv (execTracev f s) = true := by
  unfold execTracev
  exact inv_issueRow _ _ _ _ _ (fun s c h => by simp [h]) h

theorem inv_execPmark (f : SYS) : outInv (execPmark f s) = true := by
  unfold execPmark
  exact inv_issueRow _ _ _ _ _ (fun s c h => by simp [h]) h

theorem inv_execCntrd (f : SYS) : outInv (execCntrd f s) = true := by
  unfold execCntrd
  exact inv_issueRow _ _ _ _ _ (fun s c h => by simp [h]) h

theorem inv_execCkpt (f : SYS) : outInv (execCkpt f s) = true := by
  unfold execCkpt
  exact inv_issueRow _ _ _ _ _ (fun s c h => by simp [h]) h

theorem inv_execVstat (f : SYS) : outInv (execVstat f s) = true := by
  unfold execVstat
  exact inv_issueRow _ _ _ _ _ (fun s c h => by simp [h]) h

theorem inv_execLoftLd (f : MemF) : outInv (execLoftLd f s) = true := by
  unfold execLoftLd
  refine inv_issueRow _ _ _ _ _ (fun s c h => ?_) h
  (repeat' split) <;> simp +contextual (maxDischargeDepth := 99) [h]

theorem inv_execLoftWaitr (f : SYS) : outInv (execLoftWaitr f s) = true := by
  unfold execLoftWaitr
  exact inv_issueRow _ _ _ _ _ (fun s c h => by simp [h]) h

theorem inv_execCapq (f : SYS) : outInv (execCapq f s) = true := by
  unfold execCapq
  exact inv_issueRow _ _ _ _ _ (fun s c h => by simp [h]) h

theorem inv_execPgqInv (f : SYS) : outInv (execPgqInv f s) = true := by
  unfold execPgqInv
  exact inv_issueRow _ _ _ _ _ (fun s c h => by simp [h]) h

theorem inv_execPgqInvall (f : SYS) : outInv (execPgqInvall f s) = true := by
  unfold execPgqInvall
  exact inv_issueRow _ _ _ _ _ (fun s c h => by simp [h]) h

theorem inv_execPgqEvict (f : SYS) : outInv (execPgqEvict f s) = true := by
  unfold execPgqEvict
  exact inv_issueRow _ _ _ _ _ (fun s c h => by simp [h]) h

theorem inv_execIsync (f : SYS) : outInv (execIsync f s) = true := by
  unfold execIsync
  exact inv_issueRow _ _ _ _ _ (fun s c h => by simp [h]) h

theorem inv_execDrain (f : SYS) : outInv (execDrain f s) = true := by
  unfold execDrain
  exact inv_issueRow _ _ _ _ _ (fun s c h => by simp [h]) h

theorem inv_execGtwait (f : SYS) : outInv (execGtwait f s) = true := by
  unfold execGtwait
  refine inv_issueRow _ _ _ _ _ (fun s c h => ?_) h
  (repeat' split) <;> simp [h]

theorem inv_execReservedOpcode (w : DWord) : outInv (execReservedOpcode w s) = true := by
  unfold execReservedOpcode
  exact inv_issueRow _ _ _ _ _ (fun _ _ _ => rfl) h

end System

/-! ### Queues and packets -/

section Queues

variable {s : State} (h : Inv s = true)

include h

theorem inv_execLaunchDAccept : outInv (execLaunchDAccept s) = true := by
  unfold execLaunchDAccept
  dsimp only; (repeat' split) <;> simp +contextual (maxDischargeDepth := 99) [h]

theorem inv_execPacketStart : outInv (execPacketStart s) = true := by
  unfold execPacketStart
  simp [h]

theorem inv_execNopPacket : outInv (execNopPacket s) = true := by
  unfold execNopPacket
  dsimp only; (repeat' split) <;> simp +contextual (maxDischargeDepth := 99) [h]

theorem inv_execLaunchPacket : outInv (execLaunchPacket s) = true := by
  unfold execLaunchPacket
  dsimp only; (repeat' split) <;> simp +contextual (maxDischargeDepth := 99) [h]

theorem inv_execCopyPacket : outInv (execCopyPacket s) = true := by
  unfold execCopyPacket
  dsimp only; (repeat' split) <;> simp [h]

theorem inv_execWaitsigPacket : outInv (execWaitsigPacket s) = true := by
  unfold execWaitsigPacket
  dsimp only; (repeat' split) <;> simp +contextual (maxDischargeDepth := 99) [h]

theorem inv_execWaitsigPoll : outInv (execWaitsigPoll s) = true := by
  unfold execWaitsigPoll
  simp [h]

theorem inv_execWaitsigTimeout : outInv (execWaitsigTimeout s) = true := by
  unfold execWaitsigTimeout
  (repeat' split) <;> simp [h]

theorem inv_execSignalPacket : outInv (execSignalPacket s) = true := by
  unfold execSignalPacket
  dsimp only; (repeat' split) <;> simp +contextual (maxDischargeDepth := 99) [h]

theorem inv_execLoftwritePacket : outInv (execLoftwritePacket s) = true := by
  unfold execLoftwritePacket
  dsimp only; (repeat' split) <;> simp [h]

theorem inv_execFencePacket : outInv (execFencePacket s) = true := by
  unfold execFencePacket
  dsimp only; (repeat' split) <;> simp +contextual (maxDischargeDepth := 99) [h]

theorem inv_execResponsePoll : outInv (execResponsePoll s) = true := by
  unfold execResponsePoll
  simp +contextual (maxDischargeDepth := 99) [h]

theorem inv_execWridxWrite : outInv (execWridxWrite s) = true := by
  unfold execWridxWrite
  simp [h]

theorem inv_execDoorbellWrite : outInv (execDoorbellWrite s) = true := by
  unfold execDoorbellWrite
  simp [h]

theorem inv_execQueueEnable : outInv (execQueueEnable s) = true := by
  unfold execQueueEnable
  simp [h]

theorem inv_execQueueDisable : outInv (execQueueDisable s) = true := by
  unfold execQueueDisable
  exact h

theorem inv_execQueueSuspend : outInv (execQueueSuspend s) = true := by
  unfold execQueueSuspend
  exact h

theorem inv_execQueueUnsuspend : outInv (execQueueUnsuspend s) = true := by
  unfold execQueueUnsuspend
  exact h

theorem inv_execPrioWrite : outInv (execPrioWrite s) = true := by
  unfold execPrioWrite
  exact h

theorem inv_execExrdWrite : outInv (execExrdWrite s) = true := by
  unfold execExrdWrite
  simp [h]

theorem inv_execLoftwriteComplete : outInv (execLoftwriteComplete s) = true := by
  have hl : tabWf s.loft = true := by
    have hm := (inv_parts h).1
    simp only [Memory.wf, Bool.and_eq_true] at hm
    exact hm.2
  unfold execLoftwriteComplete
  dsimp only
  split
  · exact h
  · split
    · exact h
    · split
      · simp [h]
      · have h1 (put1 : Tab Byte → Option (List Byte) × Nat → Tab Byte) (hput : ∀ L x, tabWf L = true → tabWf (put1 L x) = true)
            (xs : List (Option (List Byte) × Nat)) : Inv { s with loft := xs.foldl put1 s.loft } = true :=
          inv_of_memory h (setLoft_wf (foldl_keeps (fun L => tabWf L = true) put1 hput xs _ hl) (inv_parts h).1) rfl rfl rfl rfl
        split
        · refine inv_completePacket _ _ _ (inv_modQueue _ _ _ (h1 _ (fun L x hL => ?_) _))
          (repeat' split) <;> simp [hL, tabWf_splice]
        · refine inv_failPacket _ _ _ _ _ _ _ (inv_modQueue _ _ _ (h1 _ (fun L x hL => ?_) _))
          (repeat' split) <;> simp [hL, tabWf_splice]

end Queues

/-! ### Placement -/

section Placement

variable {s : State} (h : Inv s = true)

include h

theorem inv_execGangPlace : outInv (execGangPlace s) = true := by
  unfold execGangPlace
  (repeat' split) <;> simp [h]

theorem inv_execPreemptRequest : outInv (execPreemptRequest s) = true := by
  unfold execPreemptRequest
  (repeat' split) <;> simp [h]

theorem inv_execPriorityWaitExpire : outInv (execPriorityWaitExpire s) = true := by
  unfold execPriorityWaitExpire
  (repeat' split) <;> simp +contextual (maxDischargeDepth := 99) [h]

theorem inv_execStarvationGuard : outInv (execStarvationGuard s) = true := by
  unfold execStarvationGuard
  (repeat' split) <;> simp [h]

theorem inv_execPriorityAging : outInv (execPriorityAging s) = true := by
  unfold execPriorityAging
  (repeat' split) <;> simp [h]

theorem inv_execPreemptAck : outInv (execPreemptAck s) = true := by
  unfold execPreemptAck
  dsimp only; (repeat' split) <;> simp +contextual (maxDischargeDepth := 99) [h]

theorem inv_execPreemptWithdraw : outInv (execPreemptWithdraw s) = true := by
  unfold execPreemptWithdraw
  (repeat' split) <;> simp +contextual (maxDischargeDepth := 99) [h]

theorem inv_execGangRestore : outInv (execGangRestore s) = true := by
  unfold execGangRestore
  dsimp only; (repeat' split) <;> simp +contextual (maxDischargeDepth := 99) [h]

end Placement

/-! ### Frames -/

section Frames

variable {s : State} (h : Inv s = true)

include h

theorem inv_execQuotaWrite : outInv (execQuotaWrite s) = true := by
  unfold execQuotaWrite
  simp [h]

theorem inv_execGrainFillComplete : outInv (execGrainFillComplete s) = true := by
  unfold execGrainFillComplete
  simp +contextual (maxDischargeDepth := 99) [h]

end Frames

/-! ### Tenancies -/

section Tenancies

variable {s : State} (h : Inv s = true)

include h

theorem inv_execTenancyCreate : outInv (execTenancyCreate s) = true := by
  unfold execTenancyCreate
  dsimp only; (repeat' split) <;> simp +contextual (maxDischargeDepth := 99) [h]

theorem inv_execTenancyCreateDone : outInv (execTenancyCreateDone s) = true := by
  unfold execTenancyCreateDone
  simp [h]

theorem inv_execTenancyDestroy : outInv (execTenancyDestroy s) = true := by
  unfold execTenancyDestroy
  dsimp only; (repeat' split) <;> simp +contextual (maxDischargeDepth := 99) [h]

theorem inv_execTenancyDestroyDone : outInv (execTenancyDestroyDone s) = true := by
  unfold execTenancyDestroyDone
  simp +contextual (maxDischargeDepth := 99) [h]

theorem inv_execTkeyWrite : outInv (execTkeyWrite s) = true := by
  unfold execTkeyWrite
  simp [h]

theorem inv_execRegisterWrite : outInv (execRegisterWrite s) = true := by
  unfold execRegisterWrite
  dsimp only
  simp [h]

end Tenancies

/-! ### Leases -/

section Reeve

variable {s : State} (h : Inv s = true)

include h

theorem inv_execRunnerGrainFetch : outInv (execRunnerGrainFetch s) = true := by
  unfold execRunnerGrainFetch
  dsimp only; (repeat' split) <;> simp [h]

theorem inv_execInvreqGo : outInv (execInvreqGo s) = true := by
  unfold execInvreqGo
  simp [h]

theorem inv_execFaultResponsePoll : outInv (execFaultResponsePoll s) = true := by
  unfold execFaultResponsePoll
  (repeat' split) <;> simp [h]

theorem inv_execFrtmoExpire : outInv (execFrtmoExpire s) = true := by
  unfold execFrtmoExpire
  (repeat' split) <;> simp [h]

theorem inv_execLeaseAcquire : outInv (execLeaseAcquire s) = true := by
  unfold execLeaseAcquire
  simp +contextual (maxDischargeDepth := 99) [h]

theorem inv_execLeaseRenew : outInv (execLeaseRenew s) = true := by
  unfold execLeaseRenew
  simp +contextual (maxDischargeDepth := 99) [h]

theorem inv_execLeaseRelease : outInv (execLeaseRelease s) = true := by
  unfold execLeaseRelease
  simp +contextual (maxDischargeDepth := 99) [h]

theorem inv_execFrresp : outInv (execFrresp s) = true := by
  refine inv_serveQ9 _ _ _ _ h (fun s t seq op tag ws h => ?_)
  split
  · exact h
  · exact inv_replyQ9 _ _ _ _ _ _ (inv_takeResponse _ _ _ _ (inv_getD _ _ (inv_agentWrite _ _ _ _ _ h) h))

theorem inv_execLeaserd : outInv (execLeaserd s) = true := by
  unfold execLeaserd
  simp +contextual (maxDischargeDepth := 99) [h]

theorem inv_execReleaseWritebackDone : outInv (execReleaseWritebackDone s) = true := by
  unfold execReleaseWritebackDone
  simp +contextual (maxDischargeDepth := 99) [h]

theorem inv_execGrant : outInv (execGrant s) = true := by
  unfold execGrant
  simp +contextual (maxDischargeDepth := 99) [h]

theorem inv_execRefuse : outInv (execRefuse s) = true := by
  unfold execRefuse
  simp [h]

theorem inv_execRevoke : outInv (execRevoke s) = true := by
  unfold execRevoke
  simp [h]

theorem inv_execNodedown : outInv (execNodedown s) = true := by
  unfold execNodedown
  simp +contextual (maxDischargeDepth := 99) [h]

theorem inv_execReplica : outInv (execReplica s) = true := by
  unfold execReplica
  simp [h]

theorem inv_execRenewLeadReached : outInv (execRenewLeadReached s) = true := by
  unfold execRenewLeadReached
  simp [h]

theorem inv_execRenewResend : outInv (execRenewResend s) = true := by
  unfold execRenewResend
  simp [h]

theorem inv_execExpiryGuardReached : outInv (execExpiryGuardReached s) = true := by
  unfold execExpiryGuardReached
  simp [h]

theorem inv_execRenewtmoExpire : outInv (execRenewtmoExpire s) = true := by
  unfold execRenewtmoExpire
  simp [h]

theorem inv_execDeadlineReached : outInv (execDeadlineReached s) = true := by
  unfold execDeadlineReached
  simp [h]

theorem inv_execBisnp : outInv (execBisnp s) = true := by
  unfold execBisnp
  simp +contextual (maxDischargeDepth := 99) [h]

theorem inv_execRunnerCounterHalve : outInv (execRunnerCounterHalve s) = true := by
  unfold execRunnerCounterHalve
  simp [h]

theorem inv_execFrrdWrite : outInv (execFrrdWrite s) = true := by
  unfold execFrrdWrite
  simp [h]

end Reeve

/-! ### The Tinkers and the Loft -/

section Tinker

variable {s : State} (h : Inv s = true)

include h

theorem inv_execExhausted : outInv (execExhausted s) = true := by
  unfold execExhausted
  simp +contextual (maxDischargeDepth := 99) [h]

theorem inv_execFrameMigrationDone : outInv (execFrameMigrationDone s) = true := by
  unfold execFrameMigrationDone
  (repeat' split) <;> simp [h]

theorem inv_execTinkerRequest : outInv (execTinkerRequest s) = true := by
  unfold execTinkerRequest
  simp [h]

theorem inv_execScrubStep : outInv (execScrubStep s) = true := by
  unfold execScrubStep
  dsimp only; (repeat' split) <;> simp [h]

theorem inv_execRepairWindowOpen : outInv (execRepairWindowOpen s) = true := by
  unfold execRepairWindowOpen
  dsimp only; (repeat' split) <;> simp [h]

theorem inv_execRepairWindowClose : outInv (execRepairWindowClose s) = true := by
  unfold execRepairWindowClose
  dsimp only; (repeat' split) <;> simp +contextual (maxDischargeDepth := 99) [h]

end Tinker

/-! ### The Scrivener -/

section Scrivener

variable {s : State} (h : Inv s = true)

include h

theorem inv_execDbgctlStateWrite : outInv (execDbgctlStateWrite s) = true := by
  unfold execDbgctlStateWrite
  split
  · exact h
  · exact inv_setScriv _ _ _ h

theorem inv_execSyncTick : outInv (execSyncTick s) = true := by
  unfold execSyncTick
  simp [h]

theorem inv_execSampleTick : outInv (execSampleTick s) = true := by
  unfold execSampleTick
  dsimp only; (repeat' split) <;> simp [h]

theorem inv_execReplayPassEnd : outInv (execReplayPassEnd s) = true := by
  unfold execReplayPassEnd
  dsimp only; (repeat' split) <;> simp +contextual (maxDischargeDepth := 99) [h]

theorem inv_execPtmExchange : outInv (execPtmExchange s) = true := by
  unfold execPtmExchange
  simp [h]

theorem inv_execRrdWrite : outInv (execRrdWrite s) = true := by
  unfold execRrdWrite
  simp +contextual (maxDischargeDepth := 99) [h]

end Scrivener

/-! ### The network -/

section Network

variable {s : State} (h : Inv s = true)

include h

theorem inv_execKeyWrapWrite : outInv (execKeyWrapWrite s) = true := by
  unfold execKeyWrapWrite
  simp [h]

theorem inv_execKeySlotConfigWrite : outInv (execKeySlotConfigWrite s) = true := by
  unfold execKeySlotConfigWrite
  simp [h]

theorem inv_execCommEnable : outInv (execCommEnable s) = true := by
  unfold execCommEnable
  simp [h]

theorem inv_execCommDisable : outInv (execCommDisable s) = true := by
  unfold execCommDisable
  simp [h]

theorem inv_execRingEnable : outInv (execRingEnable s) = true := by
  have h1 := inv_writeRing s s.ev.a 8 s.ev.v h
  unfold execRingEnable
  dsimp only
  split
  · exact h
  · split
    · exact inv_modRing _ _ _ h1
    · split
      · exact h
      · have h2 := inv_of_some ‹_› (inv_pinGrains _ _ _ h1)
        simp [h2]

theorem inv_execRingDisable : outInv (execRingDisable s) = true := by
  unfold execRingDisable
  dsimp only
  split
  · exact h
  · refine inv_foldl _ (fun s g h => ?_) _ _ (inv_modRing _ _ _ h)
    split
    · exact h
    · exact h

end Network

/-! ### The package -/

section Package

variable {s : State} (h : Inv s = true)

include h

theorem inv_execLoftpartWrite : outInv (execLoftpartWrite s) = true := by
  unfold execLoftpartWrite
  simp +contextual (maxDischargeDepth := 99) [h]

theorem inv_execLoftWindowStart : outInv (execLoftWindowStart s) = true := by
  obtain ⟨hm, hclk, hp, hn, hmax⟩ := inv_parts h
  have hnow : (if s.time % 3900 < 260 then s.loftNext else s.loftPeriod) = 3900 ∨
      (if s.time % 3900 < 260 then s.loftNext else s.loftPeriod) = 1950 := by
    split
    · exact hn
    · exact hp
  unfold execLoftWindowStart
  dsimp only
  generalize (if s.time % 3900 < 260 then s.loftNext else s.loftPeriod) = p at hnow ⊢
  rw [outInv_next]
  split
  · simp only [Inv, Bool.and_eq_true, decide_eq_true_eq]
    exact ⟨⟨⟨⟨hm, hclk⟩, hnow⟩, hn⟩, hmax⟩
  · exact h

theorem inv_execLoftWindowEnd : outInv (execLoftWindowEnd s) = true := by
  unfold execLoftWindowEnd
  simp [h]

theorem inv_execPowerOn : outInv (execPowerOn s) = true := by
  unfold execPowerOn
  simp [h]

theorem inv_execBringupStageEnd : outInv (execBringupStageEnd s) = true := by
  obtain ⟨hm, hclk, hp, hn, -⟩ := inv_parts h
  unfold execBringupStageEnd
  dsimp only
  split
  · exact h
  · split
    · split
      · split <;> exact h
      · exact h
    · split
      · simp only [outInv_next, Inv, Bool.and_eq_true, decide_eq_true_eq]
        refine ⟨⟨⟨⟨hm, hclk⟩, hp⟩, hn⟩, ?_⟩
        unfold maxLevelOf
        omega
      · exact h

theorem inv_execLinkLoss : outInv (execLinkLoss s) = true := by
  unfold execLinkLoss
  simp [h]

/-- A reading of the sensors sets the refresh period to come to one of its two values. -/
theorem inv_loftNext (utmax tmax : BitVec 8) (b : Prop) [Decidable b] :
    Inv { s with utmax := utmax, tmax := tmax, loftNext := if b then 1950 else 3900 } = true := by
  obtain ⟨hm, hclk, hp, -, hmax⟩ := inv_parts h
  simp only [Inv, Bool.and_eq_true, decide_eq_true_eq]
  refine ⟨⟨⟨⟨hm, hclk⟩, hp⟩, ?_⟩, hmax⟩
  split <;> simp

theorem inv_execClockStep : outInv (execClockStep s) = true := by
  obtain ⟨-, hclk, -, -, -⟩ := inv_parts h
  have h1 := inv_loftNext h s.ev.heat.utmax s.ev.heat.tmax (85 < s.ev.heat.utmax.toNat)
  unfold execClockStep
  dsimp only
  generalize { s with
    utmax := s.ev.heat.utmax, tmax := s.ev.heat.tmax, loftNext := if 85 < s.ev.heat.utmax.toNat then 1950 else 3900 } = s1 at h1 ⊢
  have hdown := inv_clockTo s1 (max 10 (s.clk - 1)) h1 (by omega) (by omega)
  have hup := inv_clockTo s1 (min 21 (s.clk + 1)) h1 (by omega) (by omega)
  have hsync (s2 : State) (h2 : Inv s2 = true) : Inv (if s2.clk = s.clk then s2 else (List.range 192).foldl syncShop s2) = true := by
    split
    · exact h2
    · exact inv_foldl _ (fun s x h => inv_syncShop _ _ h) _ _ h2
  refine hsync _ ?_
  split
  · exact hdown
  · split
    · exact hup
    · exact h1

theorem inv_execThermalTrip : outInv (execThermalTrip s) = true := by
  unfold execThermalTrip
  simp [h]

theorem inv_execD3hotEntry : outInv (execD3hotEntry s) = true := by
  unfold execD3hotEntry
  simp +contextual (maxDischargeDepth := 99) [h]

theorem inv_execD0Return : outInv (execD0Return s) = true := by
  unfold execD0Return
  exact h

theorem inv_execAttctlGo : outInv (execAttctlGo s) = true := by
  unfold execAttctlGo
  simp [h]

theorem inv_execAttestComplete : outInv (execAttestComplete s) = true := by
  unfold execAttestComplete
  simp [h]

theorem inv_execDeviceReset : outInv (execDeviceReset s) = true := by
  unfold execDeviceReset
  simp [h]

theorem inv_execPowerLoss : outInv (execPowerLoss s) = true := by
  unfold execPowerLoss
  simp [h]

end Package

/-! ### Clause starts -/

section Clause

variable {s : State} (h : Inv s = true)

include h

theorem inv_execClauseStart : outInv (execClauseStart s) = true := by
  unfold execClauseStart
  dsimp only; (repeat' split) <;> simp +contextual (maxDischargeDepth := 99) [h]

theorem inv_execFarFaultTrap : outInv (execFarFaultTrap s) = true := by
  unfold execFarFaultTrap
  dsimp only; (repeat' split) <;> simp [h]

theorem inv_execPauseExpire : outInv (execPauseExpire s) = true := by
  unfold execPauseExpire
  (repeat' split) <;> simp [h]

theorem inv_execGtwaitWake : outInv (execGtwaitWake s) = true := by
  unfold execGtwaitWake
  split
  · exact h
  · rename_i hd _
    have hg := inv_execGtwait (s := { s with issuer := some (s.ev.a, s.ev.b) }) h (sysOf hd.word)
    split
    · split
      · split
        · rename_i e
          rw [e] at hg
          exact hg
        · exact h
      · exact h
    · exact h

theorem inv_execWaitlTimeout : outInv (execWaitlTimeout s) = true := by
  unfold execWaitlTimeout
  (repeat' split) <;> simp [h]

theorem inv_execWatchUnavailable : outInv (execWatchUnavailable s) = true := by
  unfold execWatchUnavailable
  (repeat' split) <;> simp [h]

end Clause

/-! ### Completions -/

section Complete

variable {s : State} (h : Inv s = true)

include h

theorem inv_execVersionWayFree : outInv (execVersionWayFree s) = true := by
  unfold execVersionWayFree
  dsimp only; (repeat' split) <;> simp [h]

theorem inv_execLongLatencyComplete : outInv (execLongLatencyComplete s) = true := by
  unfold execLongLatencyComplete
  dsimp only; (repeat' split) <;> simp [h]

end Complete

/-! ### Every step -/

/-- Every instruction and event keeps the invariant; those of one shape by the law of their shape. -/
theorem inv_exec (i : Instr) {s : State} (h : Inv s = true) : outInv (exec i s) = true := by
  cases i with
  | brx f | ret f => unfold exec; exact inv_indirect _ _ h
  | smov f | sadd f | ssub f | smul f | smulh f | sand f | sor f | sxor f | sshl f | sshr f | ssra f | smin f | smax f | scmp f
  | ssel f | sclz f | spopc f => unfold exec; exact inv_scaRRR _ _ _ _ h
  | smovRi f | saddRi f | smulRi f | sandRi f | sorRi f | sxorRi f | sshlRi f | sshrRi f | ssraRi f | scmpRi f | sminRi f | smaxRi f
    => unfold exec; exact inv_scaRI _ _ _ _ h
  | vmov f | vadd f | vsub f | vadds f | vsubs f | vmul f | vmulh f | vmulw f | vmad f | vmadh f | vfma f | vfms f | vfnma f | vabs f
  | vneg f | vmin f | vmax f | vclamp f | vsgn f | vabsd f | vavg f | vaddc f | vsubb f | vand f | vor f | vxor f | vnot f | vbool f
  | vshl f | vshr f | vsra f | vrol f | vclz f | vctz f | popc f | vbrev f | vbswap f | vbfe f | vbfi f | vsel f | vclass f | vpack f
  | vunpk f | vswz f | vshuf f | sqrt f | div f | vrnd f | getexp f | getmant f => unfold exec; exact inv_vecRRR _ _ _ _ _ h
  | vmovRi f | vaddRi f | vsubRi f | vaddsRi f | vmulRi f | vminRi f | vmaxRi f | vandRi f | vorRi f | vxorRi f | vshlRi f | vshrRi f
  | vsraRi f | vrolRi f | vselRi f => unfold exec; exact inv_vecRI _ _ _ _ _ h
  | vdot8 f | vdot4 f | vdot2 f => unfold exec; exact inv_dotRow _ _ _ _ h
  | rcp f | rsq f | exp2 f | log2 f | sin f | cos f | expe f | loge f | tanh f | atan f => unfold exec; exact inv_fnRow _ _ _ _ h
  | ld f | ldu f => unfold exec; exact inv_loadRow _ _ _ _ h
  | st f | stu f => unfold exec; exact inv_storeRow _ _ _ _ h
  | atoms f | cass f => unfold exec; exact inv_spadAtomic _ _ _ _ _ h
  | bara f | barx f => unfold exec; exact inv_barRow _ _ _ _ _ _ h
  | bsave f | brestore f => unfold exec; exact inv_imageRow _ _ _ h
  | atom f | red f | cas f | cas128 f | atomu f | redu f | casu f | reda f => unfold exec; exact inv_atomRow _ _ _ h
  | dcopy f | dcopym f => unfold exec; exact inv_drayPush _ _ _ h
  | gather f | scatter f | gcompact f => unfold exec; exact inv_gatherPush _ _ _ h
  | nop f => exact inv_execNop h f
  | endSplit f => exact inv_execEndSplit h f
  | bra f => exact inv_execBra h f
  | brv f => exact inv_execBrv h f
  | call f => exact inv_execCall h f
  | jmark f => exact inv_execJmark h f
  | join f => exact inv_execJoin h f
  | pause f => exact inv_execPause h f
  | waitf f => exact inv_execWaitf h f
  | trap f => exact inv_execTrap h f
  | dead f => exact inv_execDead h f
  | actm f => exact inv_execActm h f
  | plog f => exact inv_execPlog h f
  | pget f => exact inv_execPget h f
  | pput f => exact inv_execPput h f
  | vcmp f => exact inv_execVcmp h f
  | vcmpRi f => exact inv_execVcmpRi h f
  | vmatch f => exact inv_execVmatch h f
  | vscale f => exact inv_execVscale h f
  | xchg f => exact inv_execXchg h f
  | vget f => exact inv_execVget h f
  | vput f => exact inv_execVput h f
  | ballot f => exact inv_execBallot h f
  | vprefix f => exact inv_execVprefix h f
  | vred f => exact inv_execVred h f
  | rdff f => exact inv_execRdff h f
  | wrff f => exact inv_execWrff h f
  | clrff f => exact inv_execClrff h f
  | cvt f => exact inv_execCvt h f
  | cvtpk f => exact inv_execCvtpk h f
  | cvtpk2 f => exact inv_execCvtpk2 h f
  | cvtunp f => exact inv_execCvtunp h f
  | cvtmx f => exact inv_execCvtmx h f
  | cvtmxd f => exact inv_execCvtmxd h f
  | fxcvt f => exact inv_execFxcvt h f
  | e8get f => exact inv_execE8get h f
  | mxamax f => exact inv_execMxamax h f
  | scalb f => exact inv_execScalb h f
  | setseed f => exact inv_execSetseed h f
  | ldc f => exact inv_execLdc h f
  | ldf f => exact inv_execLdf h f
  | stf f => exact inv_execStf h f
  | prfl f => exact inv_execPrfl h f
  | invl f => exact inv_execInvl h f
  | wbl f => exact inv_execWbl h f
  | fence f => exact inv_execFence h f
  | waitl f => exact inv_execWaitl h f
  | ldnf f => exact inv_execLdnf h f
  | probe f => exact inv_execProbe h f
  | lea f => exact inv_execLea h f
  | ldt f => exact inv_execLdt h f
  | stt f => exact inv_execStt h f
  | genrd f => exact inv_execGenrd h f
  | zerol f => exact inv_execZerol h f
  | lds f => exact inv_execLds h f
  | sts f => exact inv_execSts h f
  | fefill f => exact inv_execFefill h f
  | fetake f => exact inv_execFetake h f
  | feread f => exact inv_execFeread h f
  | fereset f => exact inv_execFereset h f
  | barw f => exact inv_execBarw h f
  | nbsync f => exact inv_execNbsync h f
  | nbarr f => exact inv_execNbarr h f
  | gstatus f => exact inv_execGstatus h f
  | greplay f => exact inv_execGreplay h f
  | gselect f => exact inv_execGselect h f
  | loomMm f => exact inv_execLoomMm h f
  | loomMx f => exact inv_execLoomMx h f
  | loomSplit f => exact inv_execLoomSplit h f
  | loomSpl f => exact inv_execLoomSpl h f
  | loomFin f => exact inv_execLoomFin h f
  | loomWait f => exact inv_execLoomWait h f
  | ofence f => exact inv_execOfence h f
  | accAlloc f => exact inv_execAccAlloc h f
  | accFree f => exact inv_execAccFree h f
  | accRd f => exact inv_execAccRd h f
  | accWr f => exact inv_execAccWr h f
  | accClr f => exact inv_execAccClr h f
  | gangSet f => exact inv_execGangSet h f
  | netColl f => exact inv_execNetColl h f
  | netSend f => exact inv_execNetSend h f
  | ringPop f => exact inv_execRingPop h f
  | prefT f => exact inv_execPrefT h f
  | launchD f => exact inv_execLaunchD h f
  | srd f => exact inv_execSrd h f
  | swr f => exact inv_execSwr h f
  | bkpt f => exact inv_execBkpt h f
  | trace f => exact inv_execTrace h f
  | tracev f => exact inv_execTracev h f
  | pmark f => exact inv_execPmark h f
  | cntrd f => exact inv_execCntrd h f
  | ckpt f => exact inv_execCkpt h f
  | vstat f => exact inv_execVstat h f
  | loftLd f => exact inv_execLoftLd h f
  | loftWaitr f => exact inv_execLoftWaitr h f
  | capq f => exact inv_execCapq h f
  | pgqInv f => exact inv_execPgqInv h f
  | pgqInvall f => exact inv_execPgqInvall h f
  | pgqEvict f => exact inv_execPgqEvict h f
  | isync f => exact inv_execIsync h f
  | drain f => exact inv_execDrain h f
  | gtwait f => exact inv_execGtwait h f
  | reservedOpcode w => exact inv_execReservedOpcode h w
  | clerkPerform => exact inv_execClerkPerform h
  | drayChunkDone => exact inv_execDrayChunkDone h
  | drayCopyComplete => exact inv_execDrayCopyComplete h
  | gleanerAccept => exact inv_execGleanerAccept h
  | gleanerStrandSettle => exact inv_execGleanerStrandSettle h
  | gselectComplete => exact inv_execGselectComplete h
  | loomRendezvous => exact inv_execLoomRendezvous h
  | loomKstepCommit => exact inv_execLoomKstepCommit h
  | netCommandComplete => exact inv_execNetCommandComplete h
  | netPeerTimeout => exact inv_execNetPeerTimeout h
  | runnerGrainFetch => exact inv_execRunnerGrainFetch h
  | launchDAccept => exact inv_execLaunchDAccept h
  | clauseStart => exact inv_execClauseStart h
  | farFaultTrap => exact inv_execFarFaultTrap h
  | pauseExpire => exact inv_execPauseExpire h
  | gtwaitWake => exact inv_execGtwaitWake h
  | waitlTimeout => exact inv_execWaitlTimeout h
  | watchUnavailable => exact inv_execWatchUnavailable h
  | versionWayFree => exact inv_execVersionWayFree h
  | gangPlace => exact inv_execGangPlace h
  | preemptRequest => exact inv_execPreemptRequest h
  | priorityWaitExpire => exact inv_execPriorityWaitExpire h
  | starvationGuard => exact inv_execStarvationGuard h
  | priorityAging => exact inv_execPriorityAging h
  | preemptAck => exact inv_execPreemptAck h
  | preemptWithdraw => exact inv_execPreemptWithdraw h
  | gangRestore => exact inv_execGangRestore h
  | packetStart => exact inv_execPacketStart h
  | nopPacket => exact inv_execNopPacket h
  | launchPacket => exact inv_execLaunchPacket h
  | copyPacket => exact inv_execCopyPacket h
  | waitsigPacket => exact inv_execWaitsigPacket h
  | waitsigPoll => exact inv_execWaitsigPoll h
  | waitsigTimeout => exact inv_execWaitsigTimeout h
  | signalPacket => exact inv_execSignalPacket h
  | loftwritePacket => exact inv_execLoftwritePacket h
  | fencePacket => exact inv_execFencePacket h
  | responsePoll => exact inv_execResponsePoll h
  | wridxWrite => exact inv_execWridxWrite h
  | doorbellWrite => exact inv_execDoorbellWrite h
  | queueEnable => exact inv_execQueueEnable h
  | queueDisable => exact inv_execQueueDisable h
  | queueSuspend => exact inv_execQueueSuspend h
  | queueUnsuspend => exact inv_execQueueUnsuspend h
  | prioWrite => exact inv_execPrioWrite h
  | exrdWrite => exact inv_execExrdWrite h
  | tenancyCreate => exact inv_execTenancyCreate h
  | tenancyCreateDone => exact inv_execTenancyCreateDone h
  | tenancyDestroy => exact inv_execTenancyDestroy h
  | tenancyDestroyDone => exact inv_execTenancyDestroyDone h
  | tkeyWrite => exact inv_execTkeyWrite h
  | registerWrite => exact inv_execRegisterWrite h
  | quotaWrite => exact inv_execQuotaWrite h
  | invreqGo => exact inv_execInvreqGo h
  | grainFillComplete => exact inv_execGrainFillComplete h
  | faultResponsePoll => exact inv_execFaultResponsePoll h
  | frtmoExpire => exact inv_execFrtmoExpire h
  | leaseAcquire => exact inv_execLeaseAcquire h
  | leaseRenew => exact inv_execLeaseRenew h
  | leaseRelease => exact inv_execLeaseRelease h
  | frresp => exact inv_execFrresp h
  | leaserd => exact inv_execLeaserd h
  | releaseWritebackDone => exact inv_execReleaseWritebackDone h
  | grant => exact inv_execGrant h
  | refuse => exact inv_execRefuse h
  | revoke => exact inv_execRevoke h
  | nodedown => exact inv_execNodedown h
  | replica => exact inv_execReplica h
  | renewLeadReached => exact inv_execRenewLeadReached h
  | renewResend => exact inv_execRenewResend h
  | expiryGuardReached => exact inv_execExpiryGuardReached h
  | renewtmoExpire => exact inv_execRenewtmoExpire h
  | deadlineReached => exact inv_execDeadlineReached h
  | bisnp => exact inv_execBisnp h
  | exhausted => exact inv_execExhausted h
  | frameMigrationDone => exact inv_execFrameMigrationDone h
  | runnerCounterHalve => exact inv_execRunnerCounterHalve h
  | tinkerRequest => exact inv_execTinkerRequest h
  | scrubStep => exact inv_execScrubStep h
  | repairWindowOpen => exact inv_execRepairWindowOpen h
  | repairWindowClose => exact inv_execRepairWindowClose h
  | loftpartWrite => exact inv_execLoftpartWrite h
  | loftWindowStart => exact inv_execLoftWindowStart h
  | loftWindowEnd => exact inv_execLoftWindowEnd h
  | keyWrapWrite => exact inv_execKeyWrapWrite h
  | keySlotConfigWrite => exact inv_execKeySlotConfigWrite h
  | commEnable => exact inv_execCommEnable h
  | commDisable => exact inv_execCommDisable h
  | ringEnable => exact inv_execRingEnable h
  | ringDisable => exact inv_execRingDisable h
  | frameReceive => exact inv_execFrameReceive h
  | dbgctlStateWrite => exact inv_execDbgctlStateWrite h
  | syncTick => exact inv_execSyncTick h
  | sampleTick => exact inv_execSampleTick h
  | replayPassEnd => exact inv_execReplayPassEnd h
  | ptmExchange => exact inv_execPtmExchange h
  | powerOn => exact inv_execPowerOn h
  | bringupStageEnd => exact inv_execBringupStageEnd h
  | linkLoss => exact inv_execLinkLoss h
  | clockStep => exact inv_execClockStep h
  | thermalTrip => exact inv_execThermalTrip h
  | d3hotEntry => exact inv_execD3hotEntry h
  | d0Return => exact inv_execD0Return h
  | attctlGo => exact inv_execAttctlGo h
  | attestComplete => exact inv_execAttestComplete h
  | longLatencyComplete => exact inv_execLongLatencyComplete h
  | loomSplitFinComplete => exact inv_execLoomSplitFinComplete h
  | loftwriteComplete => exact inv_execLoftwriteComplete h
  | frrdWrite => exact inv_execFrrdWrite h
  | rrdWrite => exact inv_execRrdWrite h
  | deviceReset => exact inv_execDeviceReset h
  | powerLoss => exact inv_execPowerLoss h

theorem inv_act (a : Act) {s : State} (h : Inv s = true) : outInv (act a s) = true := by
  cases a with
  | issue w slot =>
    simp only [act]
    split
    · exact inv_exec _ (s := { s with issuer := some (w, slot) }) h
    · exact h
  | event i args =>
    simp only [act]
    split
    · exact inv_exec i (s := { s with ev := args }) h
    · exact h
  | hostStore pa bs => exact inv_hostWrite _ _ _ h
  | hostLoad pa n => exact inv_hostRead _ _ _ h
  | evictLine shop line => exact inv_loseLines _ _ _ h
  | peerStore hops pa bs => exact inv_outerWrite _ _ _ _ h
  | finish op => exact inv_finishHeld _ _ h
  | retire w => exact inv_retireCheck _ _ h
  | upset u => exact inv_upsetAt _ _ h

/-- Time passes, then an act takes place or nothing does. -/
theorem inv_step {s : State} (h : Inv s = true) : outInv (step s) = true := by
  have ht := inv_tick s h
  unfold step
  dsimp only
  split
  · rename_i rest _
    exact inv_act _ (s := { tick s with agenda := rest }) ht
  · split
    · exact inv_act _ ht
    · exact ht

/-- Settles O9, by the law of a step. -/
theorem invKept : Obligations.InvKept := by
  unfold Obligations.InvKept
  intro s t h hstep
  have hs := inv_step h
  rwa [hstep] at hs

end Sys2Proof.Machine
end

section
/-!
Every instruction and event answers a next state, but for a word that no split issues (log entry 2): the frame in which words issue says
so once for all of them, and every branch of an event ends in a next state.
-/

namespace Sys2Proof.Machine

open Sys2Proof

/-- The outcome is a next state, or the fault of a word that no split issues. -/
def Answers (s : State) (o : Host.Outcome State Fault Refusal) : Prop :=
  (∃ t, o = .next t) ∨ (o = .fault .noIssuer ∧ ctxOf s 0 7 = none)

/-- Whether a split issues does not depend on the word's predicate. -/
theorem ctxOf_none {s : State} {pn qn : BitVec 1} {pred qred : BitVec 3} (h : ctxOf s pn pred = none) : ctxOf s qn qred = none := by
  unfold ctxOf at *
  revert h
  repeat' split
  all_goals simp

theorem answers_issueRow (s : State) (pn : BitVec 1) (pred : BitVec 3) (form : Form) (body : State → Ctx → Effect) :
    Answers s (issueRow s pn pred form body) := by
  unfold issueRow
  split
  · rename_i h
    exact .inr ⟨rfl, ctxOf_none h⟩
  · left
    dsimp only
    repeat' split
    all_goals exact ⟨_, rfl⟩

/-! ### The shapes that several words share -/

theorem answers_scaRRR (f : RRR) (h : ScaShape) (g : Bool → Nat → Nat → Nat → Nat → Nat) (s : State) : Answers s (scaRRR f h g s) := by
  unfold scaRRR; exact answers_issueRow _ _ _ _ _

theorem answers_scaRI (f : RI) (usesA : Bool) (g : Bool → Nat → Nat → Nat) (s : State) : Answers s (scaRI f usesA g s) := by
  unfold scaRI; exact answers_issueRow _ _ _ _ _

theorem answers_vecRRR (f : RRR) (h : VShape) (opxOk : Bool) (op : Nat → Nat → Nat → Nat → Nat → FRes) (s : State) :
    Answers s (vecRRR f h opxOk op s) := by
  unfold vecRRR; exact answers_issueRow _ _ _ _ _

theorem answers_vecRI (f : RI) (usesA floats : Bool) (op : Nat → Nat → Nat → FRes) (s : State) :
    Answers s (vecRI f usesA floats op s) := by
  unfold vecRI; exact answers_issueRow _ _ _ _ _

theorem answers_dotRow (f : RRR) (n : Nat) (pairs : Nat → Nat → Bool) (s : State) : Answers s (dotRow f n pairs s) := by
  unfold dotRow; exact answers_issueRow _ _ _ _ _

theorem answers_fnRow (g : Fn) (types : List Nat) (f : RRR) (s : State) : Answers s (fnRow g types f s) := by
  unfold fnRow; exact answers_vecRRR _ _ _ _ _

theorem answers_loadRow (f : MemF) (r : MemRow) (aligned : Bool) (s : State) : Answers s (loadRow f r aligned s) := by
  unfold loadRow; exact answers_issueRow _ _ _ _ _

theorem answers_storeRow (f : MemF) (r : MemRow) (aligned : Bool) (s : State) : Answers s (storeRow f r aligned s) := by
  unfold storeRow; exact answers_issueRow _ _ _ _ _

theorem answers_spadAtomic (f : RRR) (kind : AtomKind) (sc : Nat → Opnd) (ok : Bool) (s : State) :
    Answers s (spadAtomic f kind sc ok s) := by
  unfold spadAtomic; exact answers_issueRow _ _ _ _ _

theorem answers_feRow (f : MemF) (ds : Opnd) (kind : List Lane → OpKind) (ann : Nat) (act : State → Ctx → Basket → List Nat → State) (s : State) :
    Answers s (feRow f ds kind ann act s) := by
  unfold feRow; exact answers_issueRow _ _ _ _ _

theorem answers_barRow (f : MemF) (ds : Opnd) (mxOk : Bool) (req : State → Ctx → BarReq) (dest : Bool) (s : State) :
    Answers s (barRow f ds mxOk req dest s) := by
  unfold barRow; exact answers_issueRow _ _ _ _ _

theorem answers_imageRow (f : RRR) (kind : Nat → OpKind) (s : State) : Answers s (imageRow f kind s) := by
  unfold imageRow; exact answers_issueRow _ _ _ _ _

theorem answers_atomRow (f : RRR) (r : AtomRow) (s : State) : Answers s (atomRow f r s) := by
  unfold atomRow; exact answers_issueRow _ _ _ _ _

theorem answers_drayPush (f : ENG) (multi : Bool) (s : State) : Answers s (drayPush f multi s) := by
  unfold drayPush; exact answers_issueRow _ _ _ _ _

theorem answers_gatherPush (f : ENG) (r : GatherRow) (s : State) : Answers s (gatherPush f r s) := by
  unfold gatherPush; exact answers_issueRow _ _ _ _ _

theorem answers_indirect (f : RRR) (s : State) : Answers s (indirect f s) := by
  unfold indirect; exact answers_issueRow _ _ _ _ _

/-! ### The events that have several branches -/

/-- A choice between two next states is a next state. -/
theorem next_ite {c : Prop} [Decidable c] {a b : Host.Outcome State Fault Refusal} (ha : ∃ t, a = .next t) (hb : ∃ t, b = .next t) :
    ∃ t, (if c then a else b) = .next t := by
  split
  · exact ha
  · exact hb

section Events

variable (s : State)

theorem next_execClerkPerform : ∃ t, execClerkPerform s = .next t := by
  unfold execClerkPerform
  dsimp only
  (repeat' split) <;> exact ⟨_, rfl⟩

theorem next_execDrayChunkDone : ∃ t, execDrayChunkDone s = .next t := by
  unfold execDrayChunkDone
  dsimp only
  (repeat' split) <;> exact ⟨_, rfl⟩

theorem next_execDrayCopyComplete : ∃ t, execDrayCopyComplete s = .next t := by
  unfold execDrayCopyComplete
  dsimp only
  (repeat' split) <;> exact ⟨_, rfl⟩

theorem next_execGleanerAccept : ∃ t, execGleanerAccept s = .next t := by
  unfold execGleanerAccept
  dsimp only
  (repeat' split) <;> exact ⟨_, rfl⟩

theorem next_execGleanerStrandSettle : ∃ t, execGleanerStrandSettle s = .next t := by
  unfold execGleanerStrandSettle
  dsimp only
  (repeat' split) <;> exact ⟨_, rfl⟩

theorem next_execGselectComplete : ∃ t, execGselectComplete s = .next t := by
  unfold execGselectComplete
  dsimp only
  (repeat' split) <;> exact ⟨_, rfl⟩

theorem next_execLoomRendezvous : ∃ t, execLoomRendezvous s = .next t := by
  unfold execLoomRendezvous
  dsimp only
  (repeat' split) <;> exact ⟨_, rfl⟩

theorem next_execLoomKstepCommit : ∃ t, execLoomKstepCommit s = .next t := by
  unfold execLoomKstepCommit
  dsimp only
  (repeat' split) <;> exact ⟨_, rfl⟩

theorem next_execNetCommandComplete : ∃ t, execNetCommandComplete s = .next t := by
  unfold execNetCommandComplete
  (repeat' split) <;> exact ⟨_, rfl⟩

theorem next_execNetPeerTimeout : ∃ t, execNetPeerTimeout s = .next t := by
  unfold execNetPeerTimeout
  dsimp only
  (repeat' split) <;> exact ⟨_, rfl⟩

theorem next_execRunnerGrainFetch : ∃ t, execRunnerGrainFetch s = .next t := by
  unfold execRunnerGrainFetch
  dsimp only
  (repeat' split) <;> exact ⟨_, rfl⟩

theorem next_execLaunchDAccept : ∃ t, execLaunchDAccept s = .next t := by
  unfold execLaunchDAccept
  dsimp only
  (repeat' split) <;> exact ⟨_, rfl⟩

theorem next_execClauseStart : ∃ t, execClauseStart s = .next t := by
  unfold execClauseStart
  dsimp only
  (repeat' split) <;> exact ⟨_, rfl⟩

theorem next_execFarFaultTrap : ∃ t, execFarFaultTrap s = .next t := by
  unfold execFarFaultTrap
  dsimp only
  (repeat' split) <;> exact ⟨_, rfl⟩

theorem next_execPauseExpire : ∃ t, execPauseExpire s = .next t := by
  unfold execPauseExpire
  (repeat' split) <;> exact ⟨_, rfl⟩

theorem next_execGtwaitWake : ∃ t, execGtwaitWake s = .next t := by
  unfold execGtwaitWake
  (repeat' split) <;> exact ⟨_, rfl⟩

theorem next_execWaitlTimeout : ∃ t, execWaitlTimeout s = .next t := by
  unfold execWaitlTimeout
  (repeat' split) <;> exact ⟨_, rfl⟩

theorem next_execWatchUnavailable : ∃ t, execWatchUnavailable s = .next t := by
  unfold execWatchUnavailable
  (repeat' split) <;> exact ⟨_, rfl⟩

theorem next_execVersionWayFree : ∃ t, execVersionWayFree s = .next t := by
  unfold execVersionWayFree
  dsimp only
  (repeat' split) <;> exact ⟨_, rfl⟩

theorem next_execGangPlace : ∃ t, execGangPlace s = .next t := by
  unfold execGangPlace
  (repeat' split) <;> exact ⟨_, rfl⟩

theorem next_execPreemptRequest : ∃ t, execPreemptRequest s = .next t := by
  unfold execPreemptRequest
  (repeat' split) <;> exact ⟨_, rfl⟩

theorem next_execPriorityWaitExpire : ∃ t, execPriorityWaitExpire s = .next t := by
  unfold execPriorityWaitExpire
  (repeat' split) <;> exact ⟨_, rfl⟩

theorem next_execStarvationGuard : ∃ t, execStarvationGuard s = .next t := by
  unfold execStarvationGuard
  dsimp only
  (repeat' split) <;> exact ⟨_, rfl⟩

theorem next_execPriorityAging : ∃ t, execPriorityAging s = .next t := by
  unfold execPriorityAging
  dsimp only
  (repeat' split) <;> exact ⟨_, rfl⟩

theorem next_execPreemptAck : ∃ t, execPreemptAck s = .next t := by
  unfold execPreemptAck
  dsimp only
  (repeat' split) <;> exact ⟨_, rfl⟩

theorem next_execPreemptWithdraw : ∃ t, execPreemptWithdraw s = .next t := by
  unfold execPreemptWithdraw
  dsimp only
  (repeat' split) <;> exact ⟨_, rfl⟩

theorem next_execGangRestore : ∃ t, execGangRestore s = .next t := by
  unfold execGangRestore
  dsimp only
  (repeat' split) <;> exact ⟨_, rfl⟩

theorem next_execPacketStart : ∃ t, execPacketStart s = .next t := by
  unfold execPacketStart
  dsimp only
  (repeat' split) <;> exact ⟨_, rfl⟩

theorem next_execNopPacket : ∃ t, execNopPacket s = .next t := by
  unfold execNopPacket
  dsimp only
  (repeat' split) <;> exact ⟨_, rfl⟩

theorem next_execLaunchPacket : ∃ t, execLaunchPacket s = .next t := by
  unfold execLaunchPacket
  dsimp only
  (repeat' split) <;> exact ⟨_, rfl⟩

theorem next_execCopyPacket : ∃ t, execCopyPacket s = .next t := by
  unfold execCopyPacket
  dsimp only
  (repeat' split) <;> exact ⟨_, rfl⟩

theorem next_execWaitsigPacket : ∃ t, execWaitsigPacket s = .next t := by
  unfold execWaitsigPacket
  dsimp only
  (repeat' split) <;> exact ⟨_, rfl⟩

theorem next_execWaitsigTimeout : ∃ t, execWaitsigTimeout s = .next t := by
  unfold execWaitsigTimeout
  (repeat' split) <;> exact ⟨_, rfl⟩

theorem next_execSignalPacket : ∃ t, execSignalPacket s = .next t := by
  unfold execSignalPacket
  dsimp only
  (repeat' split) <;> exact ⟨_, rfl⟩

theorem next_execLoftwritePacket : ∃ t, execLoftwritePacket s = .next t := by
  unfold execLoftwritePacket
  dsimp only
  (repeat' split) <;> exact ⟨_, rfl⟩

theorem next_execFencePacket : ∃ t, execFencePacket s = .next t := by
  unfold execFencePacket
  dsimp only
  (repeat' split) <;> exact ⟨_, rfl⟩

theorem next_execResponsePoll : ∃ t, execResponsePoll s = .next t := by
  unfold execResponsePoll
  dsimp only
  exact ⟨_, rfl⟩

theorem next_execQueueEnable : ∃ t, execQueueEnable s = .next t := by
  unfold execQueueEnable
  dsimp only
  (repeat' split) <;> exact ⟨_, rfl⟩

theorem next_execQueueSuspend : ∃ t, execQueueSuspend s = .next t := by
  unfold execQueueSuspend
  dsimp only
  exact ⟨_, rfl⟩

theorem next_execExrdWrite : ∃ t, execExrdWrite s = .next t := by
  unfold execExrdWrite
  dsimp only
  exact ⟨_, rfl⟩

theorem next_execTenancyCreate : ∃ t, execTenancyCreate s = .next t := by
  unfold execTenancyCreate
  dsimp only
  (repeat' split) <;> exact ⟨_, rfl⟩

theorem next_execTenancyCreateDone : ∃ t, execTenancyCreateDone s = .next t := by
  unfold execTenancyCreateDone
  dsimp only
  (repeat' split) <;> exact ⟨_, rfl⟩

theorem next_execTenancyDestroy : ∃ t, execTenancyDestroy s = .next t := by
  unfold execTenancyDestroy
  dsimp only
  (repeat' split) <;> exact ⟨_, rfl⟩

theorem next_execTenancyDestroyDone : ∃ t, execTenancyDestroyDone s = .next t := by
  unfold execTenancyDestroyDone
  dsimp only
  (repeat' split) <;> exact ⟨_, rfl⟩

theorem next_execTkeyWrite : ∃ t, execTkeyWrite s = .next t := by
  unfold execTkeyWrite
  dsimp only
  (repeat' split) <;> exact ⟨_, rfl⟩

theorem next_execRegisterWrite : ∃ t, execRegisterWrite s = .next t := by
  unfold execRegisterWrite
  dsimp only
  repeat' refine next_ite ?_ ?_
  all_goals exact ⟨_, rfl⟩

theorem next_execQuotaWrite : ∃ t, execQuotaWrite s = .next t := by
  unfold execQuotaWrite
  dsimp only
  (repeat' split) <;> exact ⟨_, rfl⟩

theorem next_execInvreqGo : ∃ t, execInvreqGo s = .next t := by
  unfold execInvreqGo
  (repeat' split) <;> exact ⟨_, rfl⟩

theorem next_execGrainFillComplete : ∃ t, execGrainFillComplete s = .next t := by
  unfold execGrainFillComplete
  dsimp only
  (repeat' split) <;> exact ⟨_, rfl⟩

theorem next_execFaultResponsePoll : ∃ t, execFaultResponsePoll s = .next t := by
  unfold execFaultResponsePoll
  dsimp only
  (repeat' split) <;> exact ⟨_, rfl⟩

theorem next_execFrtmoExpire : ∃ t, execFrtmoExpire s = .next t := by
  unfold execFrtmoExpire
  dsimp only
  (repeat' split) <;> exact ⟨_, rfl⟩

theorem next_execReleaseWritebackDone : ∃ t, execReleaseWritebackDone s = .next t := by
  unfold execReleaseWritebackDone
  dsimp only
  (repeat' split) <;> exact ⟨_, rfl⟩

theorem next_execGrant : ∃ t, execGrant s = .next t := by
  unfold execGrant
  dsimp only
  (repeat' split) <;> exact ⟨_, rfl⟩

theorem next_execRefuse : ∃ t, execRefuse s = .next t := by
  unfold execRefuse
  dsimp only
  (repeat' split) <;> exact ⟨_, rfl⟩

theorem next_execRevoke : ∃ t, execRevoke s = .next t := by
  unfold execRevoke
  dsimp only
  (repeat' split) <;> exact ⟨_, rfl⟩

theorem next_execNodedown : ∃ t, execNodedown s = .next t := by
  unfold execNodedown
  dsimp only
  (repeat' split) <;> exact ⟨_, rfl⟩

theorem next_execReplica : ∃ t, execReplica s = .next t := by
  unfold execReplica
  dsimp only
  (repeat' split) <;> exact ⟨_, rfl⟩

theorem next_execRenewLeadReached : ∃ t, execRenewLeadReached s = .next t := by
  unfold execRenewLeadReached
  dsimp only
  (repeat' split) <;> exact ⟨_, rfl⟩

theorem next_execRenewResend : ∃ t, execRenewResend s = .next t := by
  unfold execRenewResend
  dsimp only
  (repeat' split) <;> exact ⟨_, rfl⟩

theorem next_execExpiryGuardReached : ∃ t, execExpiryGuardReached s = .next t := by
  unfold execExpiryGuardReached
  dsimp only
  (repeat' split) <;> exact ⟨_, rfl⟩

theorem next_execRenewtmoExpire : ∃ t, execRenewtmoExpire s = .next t := by
  unfold execRenewtmoExpire
  dsimp only
  (repeat' split) <;> exact ⟨_, rfl⟩

theorem next_execDeadlineReached : ∃ t, execDeadlineReached s = .next t := by
  unfold execDeadlineReached
  dsimp only
  (repeat' split) <;> exact ⟨_, rfl⟩

theorem next_execBisnp : ∃ t, execBisnp s = .next t := by
  unfold execBisnp
  dsimp only
  (repeat' split) <;> exact ⟨_, rfl⟩

theorem next_execExhausted : ∃ t, execExhausted s = .next t := by
  unfold execExhausted
  dsimp only
  (repeat' split) <;> exact ⟨_, rfl⟩

theorem next_execFrameMigrationDone : ∃ t, execFrameMigrationDone s = .next t := by
  unfold execFrameMigrationDone
  dsimp only
  (repeat' split) <;> exact ⟨_, rfl⟩

theorem next_execRunnerCounterHalve : ∃ t, execRunnerCounterHalve s = .next t := by
  unfold execRunnerCounterHalve
  dsimp only
  (repeat' split) <;> exact ⟨_, rfl⟩

theorem next_execTinkerRequest : ∃ t, execTinkerRequest s = .next t := by
  unfold execTinkerRequest
  dsimp only
  (repeat' split) <;> exact ⟨_, rfl⟩

theorem next_execScrubStep : ∃ t, execScrubStep s = .next t := by
  unfold execScrubStep
  dsimp only
  (repeat' split) <;> exact ⟨_, rfl⟩

theorem next_execRepairWindowOpen : ∃ t, execRepairWindowOpen s = .next t := by
  unfold execRepairWindowOpen
  dsimp only
  (repeat' split) <;> exact ⟨_, rfl⟩

theorem next_execRepairWindowClose : ∃ t, execRepairWindowClose s = .next t := by
  unfold execRepairWindowClose
  dsimp only
  (repeat' split) <;> exact ⟨_, rfl⟩

theorem next_execLoftpartWrite : ∃ t, execLoftpartWrite s = .next t := by
  unfold execLoftpartWrite
  dsimp only
  (repeat' split) <;> exact ⟨_, rfl⟩

theorem next_execLoftWindowStart : ∃ t, execLoftWindowStart s = .next t := by
  unfold execLoftWindowStart
  dsimp only
  (repeat' split) <;> exact ⟨_, rfl⟩

theorem next_execKeyWrapWrite : ∃ t, execKeyWrapWrite s = .next t := by
  unfold execKeyWrapWrite
  dsimp only
  (repeat' split) <;> exact ⟨_, rfl⟩

theorem next_execKeySlotConfigWrite : ∃ t, execKeySlotConfigWrite s = .next t := by
  unfold execKeySlotConfigWrite
  dsimp only
  (repeat' split) <;> exact ⟨_, rfl⟩

theorem next_execCommEnable : ∃ t, execCommEnable s = .next t := by
  unfold execCommEnable
  dsimp only
  (repeat' split) <;> exact ⟨_, rfl⟩

theorem next_execCommDisable : ∃ t, execCommDisable s = .next t := by
  unfold execCommDisable
  (repeat' split) <;> exact ⟨_, rfl⟩

theorem next_execRingEnable : ∃ t, execRingEnable s = .next t := by
  unfold execRingEnable
  dsimp only
  (repeat' split) <;> exact ⟨_, rfl⟩

theorem next_execRingDisable : ∃ t, execRingDisable s = .next t := by
  unfold execRingDisable
  dsimp only
  (repeat' split) <;> exact ⟨_, rfl⟩

theorem next_execFrameReceive : ∃ t, execFrameReceive s = .next t := by
  unfold execFrameReceive
  dsimp only
  (repeat' split) <;> exact ⟨_, rfl⟩

theorem next_execDbgctlStateWrite : ∃ t, execDbgctlStateWrite s = .next t := by
  unfold execDbgctlStateWrite
  dsimp only
  (repeat' split) <;> exact ⟨_, rfl⟩

theorem next_execSyncTick : ∃ t, execSyncTick s = .next t := by
  unfold execSyncTick
  dsimp only
  (repeat' split) <;> exact ⟨_, rfl⟩

theorem next_execSampleTick : ∃ t, execSampleTick s = .next t := by
  unfold execSampleTick
  dsimp only
  (repeat' split) <;> exact ⟨_, rfl⟩

theorem next_execReplayPassEnd : ∃ t, execReplayPassEnd s = .next t := by
  unfold execReplayPassEnd
  dsimp only
  (repeat' split) <;> exact ⟨_, rfl⟩

theorem next_execBringupStageEnd : ∃ t, execBringupStageEnd s = .next t := by
  unfold execBringupStageEnd
  dsimp only
  (repeat' split) <;> exact ⟨_, rfl⟩

theorem next_execClockStep : ∃ t, execClockStep s = .next t := by
  unfold execClockStep
  dsimp only
  (repeat' split) <;> exact ⟨_, rfl⟩

theorem next_execD3hotEntry : ∃ t, execD3hotEntry s = .next t := by
  unfold execD3hotEntry
  dsimp only
  exact ⟨_, rfl⟩

theorem next_execLongLatencyComplete : ∃ t, execLongLatencyComplete s = .next t := by
  unfold execLongLatencyComplete
  dsimp only
  (repeat' split) <;> exact ⟨_, rfl⟩

theorem next_execLoomSplitFinComplete : ∃ t, execLoomSplitFinComplete s = .next t := by
  unfold execLoomSplitFinComplete
  dsimp only
  (repeat' split) <;> exact ⟨_, rfl⟩

theorem next_execLoftwriteComplete : ∃ t, execLoftwriteComplete s = .next t := by
  unfold execLoftwriteComplete
  dsimp only
  (repeat' split) <;> exact ⟨_, rfl⟩

theorem next_execFrrdWrite : ∃ t, execFrrdWrite s = .next t := by
  unfold execFrrdWrite
  dsimp only
  exact ⟨_, rfl⟩

theorem next_execRrdWrite : ∃ t, execRrdWrite s = .next t := by
  unfold execRrdWrite
  dsimp only
  (repeat' split) <;> exact ⟨_, rfl⟩

end Events

/-! ### Every instruction and event -/

theorem answers_exec (i : Instr) (s : State) : Answers s (exec i s) := by
  cases i with
  | brx f | ret f => unfold exec; exact answers_indirect _ _
  | smov f | sadd f | ssub f | smul f | smulh f | sand f | sor f | sxor f | sshl f | sshr f | ssra f | smin f | smax f | scmp f
  | ssel f | sclz f | spopc f => unfold exec; exact answers_scaRRR _ _ _ _
  | smovRi f | saddRi f | smulRi f | sandRi f | sorRi f | sxorRi f | sshlRi f | sshrRi f | ssraRi f | scmpRi f | sminRi f | smaxRi f
    => unfold exec; exact answers_scaRI _ _ _ _
  | vmov f | vadd f | vsub f | vadds f | vsubs f | vmul f | vmulh f | vmulw f | vmad f | vmadh f | vfma f | vfms f | vfnma f | vabs f
  | vneg f | vmin f | vmax f | vclamp f | vsgn f | vabsd f | vavg f | vaddc f | vsubb f | vand f | vor f | vxor f | vnot f | vbool f
  | vshl f | vshr f | vsra f | vrol f | vclz f | vctz f | popc f | vbrev f | vbswap f | vbfe f | vbfi f | vsel f | vclass f | vpack f
  | vunpk f | vswz f | vshuf f | sqrt f | div f | vrnd f | getexp f | getmant f => unfold exec; exact answers_vecRRR _ _ _ _ _
  | vmovRi f | vaddRi f | vsubRi f | vaddsRi f | vmulRi f | vminRi f | vmaxRi f | vandRi f | vorRi f | vxorRi f | vshlRi f | vshrRi f
  | vsraRi f | vrolRi f | vselRi f => unfold exec; exact answers_vecRI _ _ _ _ _
  | vdot8 f | vdot4 f | vdot2 f => unfold exec; exact answers_dotRow _ _ _ _
  | rcp f | rsq f | exp2 f | log2 f | sin f | cos f | expe f | loge f | tanh f | atan f => unfold exec; exact answers_fnRow _ _ _ _
  | ld f | ldu f => unfold exec; exact answers_loadRow _ _ _ _
  | st f | stu f => unfold exec; exact answers_storeRow _ _ _ _
  | atoms f | cass f => unfold exec; exact answers_spadAtomic _ _ _ _ _
  | fefill f | fetake f | feread f => unfold exec; exact answers_feRow _ _ _ _ _ _
  | bara f | barx f => unfold exec; exact answers_barRow _ _ _ _ _ _
  | bsave f | brestore f => unfold exec; exact answers_imageRow _ _ _
  | atom f | red f | cas f | cas128 f | atomu f | redu f | casu f | reda f => unfold exec; exact answers_atomRow _ _ _
  | dcopy f | dcopym f => unfold exec; exact answers_drayPush _ _ _
  | gather f | scatter f | gcompact f => unfold exec; exact answers_gatherPush _ _ _
  | nop f => unfold exec execNop; exact answers_issueRow _ _ _ _ _
  | endSplit f => unfold exec execEndSplit; exact answers_issueRow _ _ _ _ _
  | bra f => unfold exec execBra; exact answers_issueRow _ _ _ _ _
  | brv f => unfold exec execBrv; exact answers_issueRow _ _ _ _ _
  | call f => unfold exec execCall; exact answers_issueRow _ _ _ _ _
  | jmark f => unfold exec execJmark; exact answers_issueRow _ _ _ _ _
  | join f => unfold exec execJoin; exact answers_issueRow _ _ _ _ _
  | pause f => unfold exec execPause; exact answers_issueRow _ _ _ _ _
  | waitf f => unfold exec execWaitf; exact answers_issueRow _ _ _ _ _
  | trap f => unfold exec execTrap; exact answers_issueRow _ _ _ _ _
  | dead f => unfold exec execDead; exact answers_issueRow _ _ _ _ _
  | actm f => unfold exec execActm; exact answers_issueRow _ _ _ _ _
  | plog f => unfold exec execPlog; exact answers_issueRow _ _ _ _ _
  | pget f => unfold exec execPget; exact answers_issueRow _ _ _ _ _
  | pput f => unfold exec execPput; exact answers_issueRow _ _ _ _ _
  | vcmp f => unfold exec execVcmp; exact answers_issueRow _ _ _ _ _
  | vcmpRi f => unfold exec execVcmpRi; exact answers_issueRow _ _ _ _ _
  | vmatch f => unfold exec execVmatch; exact answers_issueRow _ _ _ _ _
  | vscale f => unfold exec execVscale; exact answers_issueRow _ _ _ _ _
  | xchg f => unfold exec execXchg; exact answers_issueRow _ _ _ _ _
  | vget f => unfold exec execVget; exact answers_issueRow _ _ _ _ _
  | vput f => unfold exec execVput; exact answers_issueRow _ _ _ _ _
  | ballot f => unfold exec execBallot; exact answers_issueRow _ _ _ _ _
  | vprefix f => unfold exec execVprefix; exact answers_issueRow _ _ _ _ _
  | vred f => unfold exec execVred; exact answers_issueRow _ _ _ _ _
  | rdff f => unfold exec execRdff; exact answers_issueRow _ _ _ _ _
  | wrff f => unfold exec execWrff; exact answers_issueRow _ _ _ _ _
  | clrff f => unfold exec execClrff; exact answers_issueRow _ _ _ _ _
  | cvt f => unfold exec execCvt; exact answers_issueRow _ _ _ _ _
  | cvtpk f => unfold exec execCvtpk; exact answers_issueRow _ _ _ _ _
  | cvtpk2 f => unfold exec execCvtpk2; exact answers_issueRow _ _ _ _ _
  | cvtunp f => unfold exec execCvtunp; exact answers_issueRow _ _ _ _ _
  | cvtmx f => unfold exec execCvtmx; exact answers_issueRow _ _ _ _ _
  | cvtmxd f => unfold exec execCvtmxd; exact answers_issueRow _ _ _ _ _
  | fxcvt f => unfold exec execFxcvt; exact answers_issueRow _ _ _ _ _
  | e8get f => unfold exec execE8get; exact answers_issueRow _ _ _ _ _
  | mxamax f => unfold exec execMxamax; exact answers_issueRow _ _ _ _ _
  | scalb f => unfold exec execScalb; exact answers_issueRow _ _ _ _ _
  | setseed f => unfold exec execSetseed; exact answers_issueRow _ _ _ _ _
  | ldc f => unfold exec execLdc; exact answers_issueRow _ _ _ _ _
  | ldf f => unfold exec execLdf; exact answers_issueRow _ _ _ _ _
  | stf f => unfold exec execStf; exact answers_issueRow _ _ _ _ _
  | prfl f => unfold exec execPrfl; exact answers_issueRow _ _ _ _ _
  | invl f => unfold exec execInvl; exact answers_issueRow _ _ _ _ _
  | wbl f => unfold exec execWbl; exact answers_issueRow _ _ _ _ _
  | fence f => unfold exec execFence; exact answers_issueRow _ _ _ _ _
  | waitl f => unfold exec execWaitl; exact answers_issueRow _ _ _ _ _
  | ldnf f => unfold exec execLdnf; exact answers_issueRow _ _ _ _ _
  | probe f => unfold exec execProbe; exact answers_issueRow _ _ _ _ _
  | lea f => unfold exec execLea; exact answers_issueRow _ _ _ _ _
  | ldt f => unfold exec execLdt; exact answers_issueRow _ _ _ _ _
  | stt f => unfold exec execStt; exact answers_issueRow _ _ _ _ _
  | genrd f => unfold exec execGenrd; exact answers_issueRow _ _ _ _ _
  | zerol f => unfold exec execZerol; exact answers_issueRow _ _ _ _ _
  | lds f => unfold exec execLds; exact answers_issueRow _ _ _ _ _
  | sts f => unfold exec execSts; exact answers_issueRow _ _ _ _ _
  | fereset f => unfold exec execFereset; exact answers_issueRow _ _ _ _ _
  | barw f => unfold exec execBarw; exact answers_issueRow _ _ _ _ _
  | nbsync f => unfold exec execNbsync; exact answers_issueRow _ _ _ _ _
  | nbarr f => unfold exec execNbarr; exact answers_issueRow _ _ _ _ _
  | gstatus f => unfold exec execGstatus; exact answers_issueRow _ _ _ _ _
  | greplay f => unfold exec execGreplay; exact answers_issueRow _ _ _ _ _
  | gselect f => unfold exec execGselect; exact answers_issueRow _ _ _ _ _
  | loomMm f => unfold exec execLoomMm; exact answers_issueRow _ _ _ _ _
  | loomMx f => unfold exec execLoomMx; exact answers_issueRow _ _ _ _ _
  | loomSplit f => unfold exec execLoomSplit; exact answers_issueRow _ _ _ _ _
  | loomSpl f => unfold exec execLoomSpl; exact answers_issueRow _ _ _ _ _
  | loomFin f => unfold exec execLoomFin; exact answers_issueRow _ _ _ _ _
  | loomWait f => unfold exec execLoomWait; exact answers_issueRow _ _ _ _ _
  | ofence f => unfold exec execOfence; exact answers_issueRow _ _ _ _ _
  | accAlloc f => unfold exec execAccAlloc; exact answers_issueRow _ _ _ _ _
  | accFree f => unfold exec execAccFree; exact answers_issueRow _ _ _ _ _
  | accRd f => unfold exec execAccRd; exact answers_issueRow _ _ _ _ _
  | accWr f => unfold exec execAccWr; exact answers_issueRow _ _ _ _ _
  | accClr f => unfold exec execAccClr; exact answers_issueRow _ _ _ _ _
  | gangSet f => unfold exec execGangSet; exact answers_issueRow _ _ _ _ _
  | netColl f => unfold exec execNetColl; exact answers_issueRow _ _ _ _ _
  | netSend f => unfold exec execNetSend; exact answers_issueRow _ _ _ _ _
  | ringPop f => unfold exec execRingPop; exact answers_issueRow _ _ _ _ _
  | prefT f => unfold exec execPrefT; exact answers_issueRow _ _ _ _ _
  | launchD f => unfold exec execLaunchD; exact answers_issueRow _ _ _ _ _
  | srd f => unfold exec execSrd; exact answers_issueRow _ _ _ _ _
  | swr f => unfold exec execSwr; exact answers_issueRow _ _ _ _ _
  | bkpt f => unfold exec execBkpt; exact answers_issueRow _ _ _ _ _
  | trace f => unfold exec execTrace; exact answers_issueRow _ _ _ _ _
  | tracev f => unfold exec execTracev; exact answers_issueRow _ _ _ _ _
  | pmark f => unfold exec execPmark; exact answers_issueRow _ _ _ _ _
  | cntrd f => unfold exec execCntrd; exact answers_issueRow _ _ _ _ _
  | ckpt f => unfold exec execCkpt; exact answers_issueRow _ _ _ _ _
  | vstat f => unfold exec execVstat; exact answers_issueRow _ _ _ _ _
  | loftLd f => unfold exec execLoftLd; exact answers_issueRow _ _ _ _ _
  | loftWaitr f => unfold exec execLoftWaitr; exact answers_issueRow _ _ _ _ _
  | capq f => unfold exec execCapq; exact answers_issueRow _ _ _ _ _
  | pgqInv f => unfold exec execPgqInv; exact answers_issueRow _ _ _ _ _
  | pgqInvall f => unfold exec execPgqInvall; exact answers_issueRow _ _ _ _ _
  | pgqEvict f => unfold exec execPgqEvict; exact answers_issueRow _ _ _ _ _
  | isync f => unfold exec execIsync; exact answers_issueRow _ _ _ _ _
  | drain f => unfold exec execDrain; exact answers_issueRow _ _ _ _ _
  | gtwait f => unfold exec execGtwait; exact answers_issueRow _ _ _ _ _
  | reservedOpcode w => unfold exec execReservedOpcode; exact answers_issueRow _ _ _ _ _
  | waitsigPoll | wridxWrite | doorbellWrite | queueDisable | queueUnsuspend | prioWrite | leaseAcquire | leaseRenew | leaseRelease
  | frresp | leaserd | loftWindowEnd | ptmExchange | powerOn | linkLoss | thermalTrip | d0Return | attctlGo | attestComplete
  | deviceReset | powerLoss => exact .inl ⟨_, rfl⟩
  | clerkPerform => exact .inl (next_execClerkPerform s)
  | drayChunkDone => exact .inl (next_execDrayChunkDone s)
  | drayCopyComplete => exact .inl (next_execDrayCopyComplete s)
  | gleanerAccept => exact .inl (next_execGleanerAccept s)
  | gleanerStrandSettle => exact .inl (next_execGleanerStrandSettle s)
  | gselectComplete => exact .inl (next_execGselectComplete s)
  | loomRendezvous => exact .inl (next_execLoomRendezvous s)
  | loomKstepCommit => exact .inl (next_execLoomKstepCommit s)
  | netCommandComplete => exact .inl (next_execNetCommandComplete s)
  | netPeerTimeout => exact .inl (next_execNetPeerTimeout s)
  | runnerGrainFetch => exact .inl (next_execRunnerGrainFetch s)
  | launchDAccept => exact .inl (next_execLaunchDAccept s)
  | clauseStart => exact .inl (next_execClauseStart s)
  | farFaultTrap => exact .inl (next_execFarFaultTrap s)
  | pauseExpire => exact .inl (next_execPauseExpire s)
  | gtwaitWake => exact .inl (next_execGtwaitWake s)
  | waitlTimeout => exact .inl (next_execWaitlTimeout s)
  | watchUnavailable => exact .inl (next_execWatchUnavailable s)
  | versionWayFree => exact .inl (next_execVersionWayFree s)
  | gangPlace => exact .inl (next_execGangPlace s)
  | preemptRequest => exact .inl (next_execPreemptRequest s)
  | priorityWaitExpire => exact .inl (next_execPriorityWaitExpire s)
  | starvationGuard => exact .inl (next_execStarvationGuard s)
  | priorityAging => exact .inl (next_execPriorityAging s)
  | preemptAck => exact .inl (next_execPreemptAck s)
  | preemptWithdraw => exact .inl (next_execPreemptWithdraw s)
  | gangRestore => exact .inl (next_execGangRestore s)
  | packetStart => exact .inl (next_execPacketStart s)
  | nopPacket => exact .inl (next_execNopPacket s)
  | launchPacket => exact .inl (next_execLaunchPacket s)
  | copyPacket => exact .inl (next_execCopyPacket s)
  | waitsigPacket => exact .inl (next_execWaitsigPacket s)
  | waitsigTimeout => exact .inl (next_execWaitsigTimeout s)
  | signalPacket => exact .inl (next_execSignalPacket s)
  | loftwritePacket => exact .inl (next_execLoftwritePacket s)
  | fencePacket => exact .inl (next_execFencePacket s)
  | responsePoll => exact .inl (next_execResponsePoll s)
  | queueEnable => exact .inl (next_execQueueEnable s)
  | queueSuspend => exact .inl (next_execQueueSuspend s)
  | exrdWrite => exact .inl (next_execExrdWrite s)
  | tenancyCreate => exact .inl (next_execTenancyCreate s)
  | tenancyCreateDone => exact .inl (next_execTenancyCreateDone s)
  | tenancyDestroy => exact .inl (next_execTenancyDestroy s)
  | tenancyDestroyDone => exact .inl (next_execTenancyDestroyDone s)
  | tkeyWrite => exact .inl (next_execTkeyWrite s)
  | registerWrite => exact .inl (next_execRegisterWrite s)
  | quotaWrite => exact .inl (next_execQuotaWrite s)
  | invreqGo => exact .inl (next_execInvreqGo s)
  | grainFillComplete => exact .inl (next_execGrainFillComplete s)
  | faultResponsePoll => exact .inl (next_execFaultResponsePoll s)
  | frtmoExpire => exact .inl (next_execFrtmoExpire s)
  | releaseWritebackDone => exact .inl (next_execReleaseWritebackDone s)
  | grant => exact .inl (next_execGrant s)
  | refuse => exact .inl (next_execRefuse s)
  | revoke => exact .inl (next_execRevoke s)
  | nodedown => exact .inl (next_execNodedown s)
  | replica => exact .inl (next_execReplica s)
  | renewLeadReached => exact .inl (next_execRenewLeadReached s)
  | renewResend => exact .inl (next_execRenewResend s)
  | expiryGuardReached => exact .inl (next_execExpiryGuardReached s)
  | renewtmoExpire => exact .inl (next_execRenewtmoExpire s)
  | deadlineReached => exact .inl (next_execDeadlineReached s)
  | bisnp => exact .inl (next_execBisnp s)
  | exhausted => exact .inl (next_execExhausted s)
  | frameMigrationDone => exact .inl (next_execFrameMigrationDone s)
  | runnerCounterHalve => exact .inl (next_execRunnerCounterHalve s)
  | tinkerRequest => exact .inl (next_execTinkerRequest s)
  | scrubStep => exact .inl (next_execScrubStep s)
  | repairWindowOpen => exact .inl (next_execRepairWindowOpen s)
  | repairWindowClose => exact .inl (next_execRepairWindowClose s)
  | loftpartWrite => exact .inl (next_execLoftpartWrite s)
  | loftWindowStart => exact .inl (next_execLoftWindowStart s)
  | keyWrapWrite => exact .inl (next_execKeyWrapWrite s)
  | keySlotConfigWrite => exact .inl (next_execKeySlotConfigWrite s)
  | commEnable => exact .inl (next_execCommEnable s)
  | commDisable => exact .inl (next_execCommDisable s)
  | ringEnable => exact .inl (next_execRingEnable s)
  | ringDisable => exact .inl (next_execRingDisable s)
  | frameReceive => exact .inl (next_execFrameReceive s)
  | dbgctlStateWrite => exact .inl (next_execDbgctlStateWrite s)
  | syncTick => exact .inl (next_execSyncTick s)
  | sampleTick => exact .inl (next_execSampleTick s)
  | replayPassEnd => exact .inl (next_execReplayPassEnd s)
  | bringupStageEnd => exact .inl (next_execBringupStageEnd s)
  | clockStep => exact .inl (next_execClockStep s)
  | d3hotEntry => exact .inl (next_execD3hotEntry s)
  | longLatencyComplete => exact .inl (next_execLongLatencyComplete s)
  | loomSplitFinComplete => exact .inl (next_execLoomSplitFinComplete s)
  | loftwriteComplete => exact .inl (next_execLoftwriteComplete s)
  | frrdWrite => exact .inl (next_execFrrdWrite s)
  | rrdWrite => exact .inl (next_execRrdWrite s)

/-- Settles O59. -/
theorem nothingRefused : Obligations.NothingRefused := answers_exec

end Sys2Proof.Machine
end

section
/-!
Steps, reset and traps: what a step runs, what reset leaves, and what taking a trap does to the split, its weave and memory.
-/

namespace Sys2Proof.Machine

open Sys2Proof

/-! ### Words and steps (O3 to O6) -/

/-- Settles O3: the decoder runs on each of the words. -/
theorem wordsDecode : Obligations.WordsDecode := by
  unfold Obligations.WordsDecode
  and_intros <;> rfl

/-- Time passes without looking at the agenda. -/
theorem tick_agenda (s : State) : (tick s).agenda = s.agenda := rfl

theorem step_of_agenda {s : State} {a : Act} {rest : List Act} (h : s.agenda = a :: rest) :
    step s = act a { tick s with agenda := rest } := by
  unfold step
  dsimp only
  rw [tick_agenda, h]

theorem step_of_idle_some {s : State} {a : Act} (h : s.agenda = []) (hn : Config.nextAct (tick s).free = some a) :
    step s = act a (tick s) := by
  unfold step
  dsimp only
  rw [tick_agenda, h, hn]

theorem step_of_idle_none {s : State} (h : s.agenda = []) (hn : Config.nextAct (tick s).free = none) : step s = .next (tick s) := by
  unfold step
  dsimp only
  rw [tick_agenda, h, hn]

theorem act_issue {s : State} {w slot : Nat} {word : DWord} (h : wordAt s w slot = some word) :
    act (.issue w slot) s = exec (decodeWord word) { s with issuer := some (w, slot) } := by
  simp only [act, h]

/-- Settles O4. -/
theorem stepRunsDecoded : Obligations.StepRunsDecoded := by
  intro s w slot rest word ha hw
  rw [step_of_agenda ha, act_issue hw]

/-- Settles O5: an act of the agenda, or of the free choice where the agenda is empty. -/
theorem stepRunsEvent : Obligations.StepRunsEvent := by
  intro s
  refine ⟨fun i a rest ha => ⟨fun hi => ?_, fun hi => ?_⟩, fun ha => ⟨fun a hn => step_of_idle_some ha hn, step_of_idle_none ha⟩⟩
  · rw [step_of_agenda ha]
    simp [act, hi]
  · rw [step_of_agenda ha]
    simp [act, hi]

/-- A map whose values change, each under its key. -/
theorem look_mapVals {α β : Type} (t : Tab α) (g : Nat → α → β) (k : Nat) :
    look (t.map (fun p => (p.1, g p.1 p.2))) k = (look t k).map (g k) :=
  look_map t (fun p => (p.1, g p.1 p.2)) (fun _ => rfl) k

/-- What a change of a map's values keeps of them, a read keeps. -/
theorem look_map_keeps {α β : Type} (t : Tab α) {f : Nat × α → Nat × α} {h : α → β} (k : Nat) (hf : ∀ p, (f p).1 = p.1)
    (hh : ∀ p, h (f p).2 = h p.2) : (look (t.map f) k).map h = (look t k).map h := by
  rw [look_map t f hf, Option.map_map]
  congr 1
  funext v
  exact hh (k, v)

/-- The passing of time keeps what each split runs and holds. -/
theorem weaveOf_tick {s : State} {w : Nat} {wv : Weave} (h : weaveOf s w = some wv) :
    ∃ wv', weaveOf (tick s) w = some wv' ∧ wv'.ids = wv.ids ∧
      ∀ slot, (look wv'.splits slot).map (fun sp => (sp.run, sp.held)) = (look wv.splits slot).map (fun sp => (sp.run, sp.held)) := by
  have he : ∃ g, weaveOf (elapse s) w = some { wv with guard := g } := by
    unfold weaveOf elapse at *
    dsimp only
    rw [look_map _ _ (fun p => by rw [apply_ite Prod.fst]; exact ite_self _), h]
    simp only [Option.map_some]
    repeat' split
    all_goals exact ⟨_, rfl⟩
  obtain ⟨g, he⟩ := he
  refine ⟨noteStarts (elapse s) w { wv with guard := g }, ?_, rfl, fun slot => ?_⟩
  · unfold weaveOf tick at *
    dsimp only
    rw [look_mapVals _ (noteStarts (elapse s)), he]
    rfl
  · exact look_map_keeps _ slot (by intro p; rfl) (by intro p; rfl)

/-- The word of a running split, in a resident basket with no forced checkpoint. -/
theorem wordAt_running {s : State} {w slot : Nat} {wv : Weave} {B : Basket} {r : ClauseRun} (h : weaveOf s w = some wv)
    (hb : basketOf s wv = some B) (hr : B.resident = true) (hc : B.commitWait ≠ 2)
    (hs : (look wv.splits slot).map (fun sp => (sp.run, sp.held)) = some (some r, none)) : wordAt s w slot = r.words[r.idx]? := by
  obtain ⟨sp, hsp, he⟩ := Option.map_eq_some_iff.mp hs
  obtain ⟨hrun, hheld⟩ := Prod.mk.inj he
  have hf : forcing s w wv = false := by simp [forcing, hb, hc]
  have hb' : look s.baskets wv.ids.basket = some B := hb
  simp [wordAt, h, hb', hr, hf, hsp, hheld, hrun]

/-- The key under which a placed word's weave, basket, gang and lot are new. -/
def placedKey (s : State) : Nat :=
  max s.nextId (max (freshKey s.weaves) (max (freshKey s.baskets) (max (freshKey s.gangs) (freshKey s.lots))))

/-- Settles O6: the weave that the word is placed in still runs it when time has passed. -/
theorem placedWordRuns : Obligations.PlacedWordRuns := by
  intro s nbits w
  have ha : (s.withFetchWord nbits w).agenda = .issue (placedKey s) 0 :: s.agenda := rfl
  obtain ⟨wv, hw, hids, hsp⟩ := weaveOf_tick (s := s.withFetchWord nbits w) (w := placedKey s) (look_put s.weaves (placedKey s) _)
  obtain ⟨B, hb, hr, hc⟩ : ∃ B, basketOf (tick (s.withFetchWord nbits w)) wv = some B ∧ B.resident = true ∧ B.commitWait = 0 := by
    unfold basketOf
    rw [hids]
    exact ⟨_, look_put s.baskets (placedKey s) _, rfl, rfl⟩
  have hword : wordAt { tick (s.withFetchWord nbits w) with agenda := s.agenda } (placedKey s) 0 = some (BitVec.ofNat 64 w) :=
    wordAt_running (s := { tick (s.withFetchWord nbits w) with agenda := s.agenda }) hw hb hr (by simp [hc]) (hsp 0)
  exact ⟨_, stepRunsDecoded (s.withFetchWord nbits w) (placedKey s) 0 s.agenda _ ha hword, rfl, rfl⟩

/-! ### Reset (O7, O8) -/

/-- Settles O7: the values that reset writes. -/
theorem resetState : Obligations.ResetState := by
  unfold Obligations.ResetState
  and_intros <;> rfl

/-- Settles O8. -/
theorem invAtReset : Obligations.InvAtReset := by
  unfold Obligations.InvAtReset
  decide

/-! ### The trap record (O11) -/

/-- A bit vector's bytes give its value back. -/
theorem natOfBytes_bytesOf_toNat {n m : Nat} (x : BitVec m) (h : 2 ^ m = 256 ^ n) : natOfBytes (bytesOf n x.toNat) = x.toNat := by
  rw [natOfBytes_bytesOf, ← h, Nat.mod_eq_of_lt x.isLt]

/-- Settles O11: the record is the concatenation of its fields, so each slice of it is one field's bytes. -/
theorem trapRecordFields : Obligations.TrapRecordFields := by
  intro s wv slot m x t flags
  refine ⟨rfl, rfl, rfl, rfl, rfl, ?_, ?_, ?_, ?_, ?_, ?_, ?_, rfl, rfl, rfl, rfl, ?_⟩
  · exact natOfBytes_bytesOf_toNat (n := 4) t.lanes rfl
  · exact natOfBytes_bytesOf_toNat (n := 8) x.pc rfl
  · exact natOfBytes_bytesOf_toNat (n := 8) x.nextpc rfl
  · exact natOfBytes_bytesOf_toNat (n := 8) x.word rfl
  · exact natOfBytes_bytesOf 8 t.addr
  · exact natOfBytes_bytesOf 8 t.info
  · exact natOfBytes_bytesOf_toNat (n := 4) m rfl
  · exact natOfBytes_bytesOf 8 s.time

/-! ### Halting and parking (O12, O13) -/

/-- Settles O12: outside the two other dispositions `deliver` posts the halt report. -/
theorem trapHalts : Obligations.TrapHalts := by
  intro s w slot x t wv sp hw hs hh
  have h1 : ¬ (sp.handler = false ∧ dispOf wv.hdr t.cls = 1 ∧
      wv.splits.any (fun y => decide (y.1 ≠ slot) && y.2.handler) = true) := by
    rintro ⟨hf, hd, -⟩
    rcases hh with h | h
    · simp [hf] at h
    · omega
  have h2 : sp.handler = true ∨ dispOf wv.hdr t.cls ≠ 1 := hh.imp id (by omega)
  unfold deliver
  simp only [hw, hs, if_neg h1, if_pos h2]
  exact ⟨_, rfl⟩

theorem weaveOf_setWeave (s : State) (w : Nat) (wv : Weave) : weaveOf (setWeave s w wv) w = some wv := by
  simp [weaveOf]

/-- Dropping temporaries leaves the splits. -/
theorem dropTemps_splits (wv : Weave) (m : Mask) : (dropTemps wv m).splits = wv.splits := by
  unfold dropTemps
  split <;> rfl

/-- Settles O13: only the weave's record of the split changes. -/
theorem trapOfSiblingParks : Obligations.TrapOfSiblingParks := by
  intro s w slot x t wv sp hw hs hf hd hany
  unfold deliver
  simp only [hw, hs]
  rw [if_pos ⟨hf, hd, hany⟩]
  refine ⟨_, weaveOf_setWeave _ _ _, ?_, fun pa => rfl⟩
  rw [dropTemps_splits, look_put]

/-! ### The checks in order (O14) -/

/-- The conditions of R126 after the register classes, in order, each with its trap. -/
def formChecks (c : Ctx) (f : Form) : List (Bool × Option Trap) :=
  [(!f.modOk, some (illegal c f.modCause)), (f.ops.any badWide, some (illegal c 4)), (f.ops.any (beyond c.wv.hdr), some (illegal c 5)),
   (f.ops.any (fun o => o.eng && decide (classBit o.reg = 8)), some (illegal c 6)), (!f.memOk, some (illegal c 7)),
   (!f.engOk || f.ops.any outsideFile, some (illegal c 8)),
   ((f.ops.find? badQueue).isSome,
     some (illegal c (match f.ops.find? badQueue with | some o => if o.cause = 2 then 9 else o.cause | none => 9))),
   (!c.wv.ids.priv && (f.priv || f.ops.any (fun o => decide (o.reg = 457))), some { cls := 4, cause := 4, lanes := c.sp.mask })]

/-- The trap of the first entry whose condition is true. -/
def firstTrap : List (Bool × Option Trap) → Option Trap
  | [] => none
  | x :: xs => if x.1 then x.2 else firstTrap xs

theorem firstTrap_none {xs : List (Bool × Option Trap)} (h : ∀ x ∈ xs, x.1 = false) : firstTrap xs = none := by
  induction xs with
  | nil => rfl
  | cons x xs ih => simp [firstTrap, h x List.mem_cons_self, ih (fun y hy => h y (List.mem_cons_of_mem _ hy))]

theorem firstTrap_split {pre post : List (Bool × Option Trap)} {x : Bool × Option Trap} (h : ∀ y ∈ pre, y.1 = false) (hx : x.1 = true) :
    firstTrap (pre ++ x :: post) = x.2 := by
  induction pre with
  | nil => simp [firstTrap, hx]
  | cons y pre ih => simp [firstTrap, h y List.mem_cons_self, ih (fun z hz => h z (List.mem_cons_of_mem _ hz))]

/-- Past the register classes, `formTrap` is the first of the checks. -/
theorem formTrap_eq_firstTrap {c : Ctx} {f : Form} (h : f.ops.find? badClass = none) : formTrap c f = firstTrap (formChecks c f) := by
  have hq : (f.ops.find? badQueue).isSome = f.ops.any badQueue := by
    rw [Bool.eq_iff_iff, List.find?_isSome, List.any_eq_true]
  unfold formTrap
  rw [h]
  simp only [formChecks, firstTrap, hq] <;> rfl

/-- Settles O14. -/
theorem checksInOrder : Obligations.ChecksInOrder := by
  intro c f
  refine ⟨fun o ho => by unfold formTrap; rw [ho]; rfl, fun hc hall => ?_, fun hc pre x post hsplit hpre hx => ?_⟩
  · rw [formTrap_eq_firstTrap hc]
    exact firstTrap_none hall
  · rw [formTrap_eq_firstTrap hc]
    rw [show formChecks c f = pre ++ x :: post from hsplit, firstTrap_split hpre hx]

/-! ### The instructions that trap (O15) -/

/-- A form with no fields passes every check and needs no register. -/
theorem formTrap_noFields (c : Ctx) : formTrap c { ops := [] } = none := by
  simp [formTrap]

theorem renamedFor_noFields (s : State) (c : Ctx) : renamedFor s c { ops := [] } = .go s := by
  simp [renamedFor, renameRegs, Form.reads, Form.writes, vregsOf, mapRegs]

/-- Settles O15: a reserved opcode has no fields, so nothing comes before its trap; TRAP and BKPT have their traps as effects. -/
theorem trapInstructions : Obligations.TrapInstructions := by
  refine ⟨fun s word c hc hf => ?_, fun f => does_of_row fun _ => rfl, fun f => does_of_row fun _ => rfl⟩
  unfold exec execReservedOpcode
  rw [issueRow_eq s 0 7 _ _ hc hf (formTrap_noFields c), renamedFor_noFields]
  rfl

end Sys2Proof.Machine
end

section
/-!
Memory: the bytes that a write puts are the bytes that a read finds, a trap record among them, and no other byte changes.
-/

namespace Sys2Proof.Machine

open Sys2Proof

/-! ### Bytes written (O55) -/

/-- Changed bytes read as written. -/
theorem readByte_pokeBytes {s : State} {pas : List Nat} {bs : List Byte} (hw : Memory.wf s = true) (hb : ∀ pa ∈ pas, pa < loftBase)
    (hn : pas.Nodup) (hl : bs.length = pas.length) : ∀ i < pas.length, readByte (pokeBytes s pas bs) (pas.getD i 0) = bs.getD i 0 := by
  induction pas generalizing s bs with
  | nil => simp
  | cons pa pas ih =>
    obtain ⟨hpa, hn⟩ := List.nodup_cons.mp hn
    match bs, hl with
    | b :: bs, hl =>
      intro i hi
      cases i with
      | zero =>
        change readByte (pokeBytes (pokeByte s pa b) pas bs) pa = b
        rw [readByte_pokeBytes_ne _ _ _ hpa, readByte_pokeByte hw b (hb pa List.mem_cons_self)]
      | succ i =>
        exact ih (pokeByte_wf pa b hw) (fun q hq => hb q (List.mem_cons_of_mem _ hq)) hn (by simpa using hl) i (by simpa using hi)

/-- The event of a write, without its bytes: what the line's history and the waiting splits learn. -/
theorem readByte_noted (s : State) (pa : Nat) (bs : List Byte) (msgs : List Msg) (l qa : Nat) :
    readByte (wakeLine (noteWrite s pa bs msgs) l) qa = readByte s qa := rfl

theorem writeMem_single (s : State) (pa : Nat) (b : Byte) (msgs : List Msg) :
    writeMem s pa [b] msgs = pokeByte (wakeLine (noteWrite s pa [b] msgs) (lineOf pa)) pa b := rfl

theorem readByte_writeEach_ne (s : State) (msgs : List Msg) (pas : List Nat) (bs : List Byte) {qa : Nat} (h : qa ∉ pas) :
    readByte (writeEach s msgs pas bs) qa = readByte s qa := by
  induction pas generalizing s bs with
  | nil => cases bs <;> rfl
  | cons pa pas ih =>
    obtain ⟨h1, h2⟩ := not_or.mp (mt List.mem_cons.mpr h)
    cases bs with
    | nil => rfl
    | cons b bs => rw [writeEach, ih _ _ h2, writeMem_single, readByte_pokeByte_ne _ _ h1, readByte_noted]

theorem readByte_writeEach {s : State} {msgs : List Msg} {pas : List Nat} {bs : List Byte} (hw : Memory.wf s = true)
    (hb : ∀ pa ∈ pas, pa < loftBase) (hn : pas.Nodup) (hl : bs.length = pas.length) :
    ∀ i < pas.length, readByte (writeEach s msgs pas bs) (pas.getD i 0) = bs.getD i 0 := by
  induction pas generalizing s bs with
  | nil => simp
  | cons pa pas ih =>
    obtain ⟨hpa, hn⟩ := List.nodup_cons.mp hn
    match bs, hl with
    | b :: bs, hl =>
      intro i hi
      cases i with
      | zero =>
        change readByte (writeEach (writeMem s pa [b] msgs) msgs pas bs) pa = b
        rw [readByte_writeEach_ne _ _ _ _ hpa, writeMem_single, readByte_pokeByte _ b (hb pa List.mem_cons_self)]
        exact hw
      | succ i =>
        exact ih (writeMem_wf pa [b] msgs hw) (fun q hq => hb q (List.mem_cons_of_mem _ hq)) hn (by simpa using hl) i (by simpa using hi)

/-- The addresses of one line are consecutive. -/
theorem oneLine_eq_map {pa : Nat} {pas : List Nat} (h : oneLine (pa :: pas) = true) :
    (List.range (pas.length + 1)).map (fun i => pa + i) = pa :: pas := by
  refine List.ext_getElem (by simp) fun i hi _ => ?_
  cases i with
  | zero => simp
  | succ i =>
    have hi : i < pas.length := by simpa using hi
    have hm : (pas[i], i) ∈ pas.zip (List.range pas.length) :=
      List.mem_iff_getElem.mpr ⟨i, by simpa using hi, by simp⟩
    have hp := List.all_eq_true.mp h _ hm
    simp only [Bool.and_eq_true, decide_eq_true_eq] at hp
    simp [hp.1]
    omega

/-- A write within one line is its event, then its bytes. -/
theorem writeAccess_oneLine {s : State} {pa : Nat} {pas : List Nat} {bs : List Byte} (msgs : List Msg) (h : oneLine (pa :: pas) = true)
    (hl : bs.length = (pa :: pas).length) :
    writeAccess s (pa :: pas) bs msgs = pokeBytes (wakeLine (noteWrite s pa bs msgs) (lineOf pa)) (pa :: pas) bs := by
  unfold writeAccess writeMem
  simp only [h, if_true]
  rw [hl, List.length_cons, oneLine_eq_map h]

theorem readByte_writeAccess_ne {s : State} {pas : List Nat} {bs : List Byte} (msgs : List Msg) (hl : bs.length = pas.length) {qa : Nat}
    (h : qa ∉ pas) : readByte (writeAccess s pas bs msgs) qa = readByte s qa := by
  cases pas with
  | nil => rfl
  | cons pa pas =>
    by_cases ho : oneLine (pa :: pas) = true
    · rw [writeAccess_oneLine msgs ho hl, readByte_pokeBytes_ne _ _ _ h, readByte_noted]
    · simp only [writeAccess, ho, if_false, Bool.false_eq_true]
      exact readByte_writeEach_ne _ _ _ _ h

theorem readByte_writeAccess {s : State} {pas : List Nat} {bs : List Byte} (msgs : List Msg) (hw : Memory.wf s = true)
    (hb : ∀ pa ∈ pas, pa < loftBase) (hn : pas.Nodup) (hl : bs.length = pas.length) :
    ∀ i < pas.length, readByte (writeAccess s pas bs msgs) (pas.getD i 0) = bs.getD i 0 := by
  cases pas with
  | nil => simp
  | cons pa pas =>
    by_cases ho : oneLine (pa :: pas) = true
    · rw [writeAccess_oneLine msgs ho hl]
      exact readByte_pokeBytes hw hb hn hl
    · simp only [writeAccess, ho, if_false, Bool.false_eq_true]
      exact readByte_writeEach hw hb hn hl

/-- Settles O55: a write is one event or an event for each byte, and both put the same bytes. -/
theorem memoryWrite : Obligations.MemoryWrite := fun _ _ _ msgs hw hb hn hl =>
  ⟨writeAccess_wf _ _ msgs hw, fun _ h => readByte_writeAccess_ne msgs hl h, readByte_writeAccess msgs hw hb hn hl⟩

/-! ### A trap record in memory (O10) -/

/-- A change of bytes leaves the weaves. -/
@[simp] theorem pokeByte_weaves (s : State) (pa : Nat) (b : Byte) : (pokeByte s pa b).weaves = s.weaves := by
  unfold pokeByte
  repeat' split
  all_goals rfl

@[simp] theorem pokeBytes_weaves (s : State) (pas : List Nat) (bs : List Byte) : (pokeBytes s pas bs).weaves = s.weaves := by
  induction pas generalizing s bs with
  | nil => cases bs <;> rfl
  | cons pa pas ih =>
    cases bs with
    | nil => rfl
    | cons b bs => rw [pokeBytes, ih, pokeByte_weaves]

/-- The weaves that are there stay there. -/
def KeepsWeaves (s t : State) : Prop := ∀ w, (weaveOf t w).isSome = (weaveOf s w).isSome

theorem keepsWeaves_of_eq {s t : State} (h : t.weaves = s.weaves) : KeepsWeaves s t := by
  intro w
  unfold weaveOf
  rw [h]

theorem KeepsWeaves.trans {s t u : State} (h : KeepsWeaves s t) (k : KeepsWeaves t u) : KeepsWeaves s u := fun w => (k w).trans (h w)

theorem keepsWeaves_writeMem (s : State) (pa : Nat) (bs : List Byte) (msgs : List Msg) : KeepsWeaves s (writeMem s pa bs msgs) := by
  intro w
  unfold writeMem weaveOf
  dsimp only
  rw [pokeBytes_weaves]
  unfold wakeLine
  dsimp only
  rw [look_map _ _ (by intro p; rfl), Option.isSome_map]
  rfl

theorem keepsWeaves_traceWrite (s : State) (t : Nat) (bs : List Byte) : KeepsWeaves s (traceWrite s t bs) := by
  unfold traceWrite agentWrite
  dsimp only
  split
  · exact keepsWeaves_of_eq rfl
  · split
    · exact keepsWeaves_of_eq rfl
    · rename_i s1 h
      split at h
      · split at h
        · cases h
        · cases h
          exact (keepsWeaves_writeMem _ _ _ _).trans (keepsWeaves_of_eq rfl)
      · cases h

theorem keepsWeaves_trace (s : State) (t shop kind wid slot : Nat) (pc : BitVec 64) (mask : Mask) (lotid : BitVec 32) (data : Nat) :
    KeepsWeaves s (trace s t shop kind wid slot pc mask lotid data) := by
  have hsync : KeepsWeaves s (traceSync s t shop) := (keepsWeaves_traceWrite _ _ _).trans (keepsWeaves_of_eq rfl)
  unfold trace
  dsimp only
  split
  · refine KeepsWeaves.trans ?_ (keepsWeaves_traceWrite _ _ _)
    split
    · exact keepsWeaves_of_eq rfl
    · exact hsync
  · exact keepsWeaves_of_eq rfl

/-- The bytes of a weave's trap block are distinct, and below the Loft for the weaves that the model has. -/
theorem trapBlock_addresses {w : Nat} (hw : w < 2 ^ 50) :
    ((List.range 64).map (trapPA w)).Nodup ∧ ∀ pa ∈ (List.range 64).map (trapPA w), pa < loftBase := by
  constructor
  · refine List.pairwise_map.mpr (List.nodup_range.imp fun {i j} hne h => hne ?_)
    simp only [trapPA] at h
    omega
  · intro pa hpa
    obtain ⟨i, hi, rfl⟩ := List.mem_map.mp hpa
    rw [List.mem_range] at hi
    simp only [trapPA, trapBase, loftBase]
    omega

theorem trapRecord_length (s : State) (wv : Weave) (slot : Nat) (m : Mask) (x : TrapAt) (t : Trap) (flags : Nat) :
    (trapRecord s wv slot m x t flags).length = 64 := rfl

/-- Settles O10: after the trace record, which keeps the weave, the record is poked and the split put into the handler. -/
theorem trapEntersHandler : Obligations.TrapEntersHandler := by
  intro s w slot x t wv sp hi hw hwv hs hf hd hany
  have h1 : ¬ (sp.handler = false ∧ dispOf wv.hdr t.cls = 1 ∧
      wv.splits.any (fun y => decide (y.1 ≠ slot) && y.2.handler) = true) := by rw [hany]; simp
  have h2 : ¬ (sp.handler = true ∨ dispOf wv.hdr t.cls ≠ 1) := by simp [hf, hd]
  unfold deliver
  simp only [hwv, hs, if_neg h1, if_neg h2]
  generalize hs1 : trace s wv.ids.tenancy wv.shop 5 wv.ids.wid slot x.pc sp.mask wv.ids.lotid (t.cls * 256 + t.cause) = s1
  generalize (if x.held = true then 1 else 0) + coIssue s wv slot sp.mask = flags
  generalize hs3 : pokeBytes s1 ((List.range 64).map (trapPA w)) (trapRecord s wv slot sp.mask x t flags) = s3
  obtain ⟨hn, hb⟩ := trapBlock_addresses hw
  obtain ⟨hmem, -⟩ := inv_parts (hs1 ▸ inv_trace s _ _ _ _ _ _ _ _ _ hi)
  obtain ⟨wv3, hwv3⟩ : ∃ wv3, weaveOf s3 w = some wv3 := by
    apply Option.isSome_iff_exists.mp
    rw [← hs3, ← hs1, keepsWeaves_of_eq (pokeBytes_weaves _ _ _) w, keepsWeaves_trace s _ _ _ _ _ _ _ _ _ w, hwv, Option.isSome_some]
  constructor
  · refine ⟨_, weaveOf_modWeave _ hwv3, ?_⟩
    rw [dropTemps_splits, look_put]
    rfl
  · intro i hi
    rw [sameMemory_modWeave s3 w _, ← hs3]
    have := readByte_pokeBytes hmem hb hn (bs := trapRecord s wv slot sp.mask x t flags) (by simp [trapRecord_length]) i (by simpa using hi)
    simpa [List.getD, hi] using this

end Sys2Proof.Machine
end

section
/-!
Integer values (spec/08_bench.md R182, spec/11_spindle.md R242 to R249): the model's operations on numbers, said as operations on words of
any width.
-/

namespace Sys2Proof.Machine

open Sys2Proof

/-! ### Words and their values -/

theorem narrow_eq_ofInt (w : Nat) (x : Int) : narrow w x = (BitVec.ofInt w x).toNat := by
  simp [narrow, BitVec.toNat_ofInt]

theorem signedOf_toNat {w : Nat} (a : BitVec w) (hw : 0 < w) : signedOf w a.toNat = a.toInt := by
  have h2 : 2 ^ w = 2 * 2 ^ (w - 1) := by rw [Nat.mul_comm, Nat.two_pow_pred_mul_two hw]
  rw [signedOf, BitVec.toInt_eq_toNat_cond]
  by_cases h : a.toNat < 2 ^ (w - 1)
  · rw [if_pos h, if_pos (by omega)]
  · rw [if_neg h, if_neg (by omega)]
    simp

theorem valOf_signed {w : Nat} (a : BitVec w) (hw : 0 < w) : valOf true w a.toNat = a.toInt := signedOf_toNat a hw

theorem valOf_unsigned (w v : Nat) : valOf false w v = v := rfl

/-! ### The integer operations (O22) -/

theorem addW_toNat {w : Nat} (a b : BitVec w) : addW w a.toNat b.toNat = (a + b).toNat := (BitVec.toNat_add a b).symm

theorem subW_toNat {w : Nat} (a b : BitVec w) : subW w a.toNat b.toNat = (a - b).toNat := by
  have hb := b.isLt
  rw [subW, BitVec.toNat_sub, Nat.mod_eq_of_lt hb]
  congr 1
  omega

theorem mulW_toNat {w : Nat} (a b : BitVec w) : mulW w a.toNat b.toNat = (a * b).toNat := (BitVec.toNat_mul a b).symm

theorem mulhW_signed {w : Nat} (a b : BitVec w) (hw : 0 < w) :
    mulhW true w a.toNat b.toNat = (BitVec.ofInt w (a.toInt * b.toInt / 2 ^ w)).toNat := by
  rw [mulhW, valOf_signed a hw, valOf_signed b hw, narrow_eq_ofInt]

/-- A high half fits its width. -/
theorem mulhW_unsigned {w : Nat} (a b : BitVec w) : mulhW false w a.toNat b.toNat = a.toNat * b.toNat / 2 ^ w := by
  have hlt : a.toNat * b.toNat / 2 ^ w < 2 ^ w := Nat.div_lt_of_lt_mul (Nat.mul_lt_mul'' a.isLt b.isLt)
  have hcast : (a.toNat : Int) * b.toNat / 2 ^ w = ((a.toNat * b.toNat / 2 ^ w : Nat) : Int) := by push_cast; rfl
  rw [mulhW, valOf_unsigned, valOf_unsigned, hcast, narrow]
  norm_cast
  exact Nat.mod_eq_of_lt hlt

theorem shlW_toNat {w : Nat} (a : BitVec w) (n : Nat) : shlW w a.toNat n = (a <<< (n % w)).toNat := by
  rw [shlW, BitVec.toNat_shiftLeft, Nat.shiftLeft_eq]

theorem shrW_toNat {w : Nat} (a : BitVec w) (n : Nat) : shrW w a.toNat n = (a >>> (n % w)).toNat := by
  rw [shrW, BitVec.toNat_ushiftRight, Nat.shiftRight_eq_div_pow]

theorem sraW_toNat {w : Nat} (a : BitVec w) (hw : 0 < w) (n : Nat) : sraW w a.toNat n = (a.sshiftRight (n % w)).toNat := by
  rw [sraW, signedOf_toNat a hw, narrow_eq_ofInt, BitVec.sshiftRight, Int.shiftRight_eq_div_pow]
  norm_cast

theorem minW_signed {w : Nat} (a b : BitVec w) (hw : 0 < w) : minW true w a.toNat b.toNat = (if a.sle b then a else b).toNat := by
  rw [minW, valOf_signed a hw, valOf_signed b hw, BitVec.sle_eq_decide]
  by_cases h : a.toInt ≤ b.toInt <;> simp [h]

theorem maxW_signed {w : Nat} (a b : BitVec w) (hw : 0 < w) : maxW true w a.toNat b.toNat = (if b.sle a then a else b).toNat := by
  rw [maxW, valOf_signed a hw, valOf_signed b hw, BitVec.sle_eq_decide]
  by_cases h : b.toInt ≤ a.toInt <;> simp [h]

theorem minW_unsigned (w a b : Nat) : minW false w a b = min a b := by
  simp only [minW, valOf_unsigned, Int.ofNat_le]
  exact Nat.min_def.symm

theorem maxW_unsigned (w a b : Nat) : maxW false w a b = max a b := by
  simp only [maxW, valOf_unsigned, Int.ofNat_le]
  split <;> omega

theorem cmpW_signed {w : Nat} (a b : BitVec w) (hw : 0 < w) :
    cmpW true w a.toNat b.toNat = (if a.slt b then (-1#32) else if a = b then 0#32 else 1#32).toNat := by
  rw [cmpW, valOf_signed a hw, valOf_signed b hw, BitVec.slt_eq_decide]
  simp only [BitVec.toNat_inj, decide_eq_true_eq]
  split
  · rfl
  · split <;> rfl

theorem cmpW_unsigned {w : Nat} (a b : BitVec w) :
    cmpW false w a.toNat b.toNat = (if a < b then (-1#32) else if a = b then 0#32 else 1#32).toNat := by
  simp only [cmpW, valOf_unsigned, Int.ofNat_lt, BitVec.lt_def, BitVec.toNat_inj]
  split
  · rfl
  · split <;> rfl

/-! ### Leading zeros -/

theorem clzOf_le (n v : Nat) : clzOf n v ≤ n := by
  induction n with
  | zero => exact Nat.le_refl 0
  | succ n ih =>
    rw [clzOf]
    split
    · exact Nat.zero_le _
    · omega

/-- The leading bits that it counts are zeros. -/
theorem clzOf_zeros (n v : Nat) : ∀ i, n - clzOf n v ≤ i → i < n → v.testBit i = false := by
  induction n with
  | zero => intro i _ hi; omega
  | succ n ih =>
    intro i hi hn
    rw [clzOf] at hi
    split at hi
    · omega
    · rename_i hb
      rcases Nat.lt_succ_iff_lt_or_eq.mp hn with h | rfl
      · exact ih i (by omega) h
      · simpa using hb

/-- The bit below them is a one. -/
theorem clzOf_one (n v : Nat) (h : clzOf n v < n) : v.testBit (n - clzOf n v - 1) = true := by
  induction n with
  | zero => omega
  | succ n ih =>
    rw [clzOf] at h ⊢
    split at h
    · simp [*]
    · rename_i hb
      rw [if_neg hb, show n + 1 - (clzOf n v + 1) - 1 = n - clzOf n v - 1 by omega]
      exact ih (by omega)

/-- A number of zeros with a one below them is the number of leading zeros. -/
theorem clzOf_unique {n v k : Nat} (hk : k ≤ n) (hz : ∀ i, n - k ≤ i → i < n → v.testBit i = false)
    (ho : k < n → v.testBit (n - k - 1) = true) : clzOf n v = k := by
  have hle := clzOf_le n v
  rcases Nat.lt_trichotomy (clzOf n v) k with h | h | h
  · have h1 := clzOf_one n v (by omega)
    rw [hz _ (by omega) (by omega)] at h1
    cases h1
  · exact h
  · have h1 := ho (by omega)
    rw [clzOf_zeros n v _ (by omega) (by omega)] at h1
    cases h1

theorem clzOf_toNat_iff {w : Nat} (a : BitVec w) (k : Nat) :
    clzOf w a.toNat = k ↔ k ≤ w ∧ (∀ i, w - k ≤ i → a.getLsbD i = false) ∧ (k < w → a.getLsbD (w - k - 1) = true) := by
  constructor
  · rintro rfl
    refine ⟨clzOf_le _ _, fun i hi => ?_, clzOf_one w a.toNat⟩
    rcases Nat.lt_or_ge i w with h | h
    · exact clzOf_zeros w a.toNat i hi h
    · exact BitVec.getLsbD_of_ge a i h
  · rintro ⟨hk, hz, ho⟩
    exact clzOf_unique hk (fun i hi _ => hz i hi) ho

/-- Settles O22: each operation by its lemma. -/
theorem integerOperations : Obligations.IntegerOperations := fun w a b hw =>
  ⟨addW_toNat a b, subW_toNat a b, mulW_toNat a b, mulhW_signed a b hw, mulhW_unsigned a b, shlW_toNat a, shrW_toNat a, sraW_toNat a hw,
    minW_signed a b hw, minW_unsigned w _ _, maxW_signed a b hw, maxW_unsigned w _ _, cmpW_signed a b hw, cmpW_unsigned a b,
    clzOf_toNat_iff a, rfl⟩

/-! ### Integer types of the Spindle (O26) -/

/-- An operation on a type of one element is the operation on the operands. -/
theorem lanewise_one {t : Nat} (ht : lanesOf t = 1) (op : Nat → Nat → Nat → FRes) {a b c : Nat} (ha : a < 2 ^ typeBits t)
    (hb : b < 2 ^ typeBits t) (hc : c < 2 ^ typeBits t) : lanewise t op a b c = op a b c := by
  simp [lanewise, ht, lane, Nat.mod_eq_of_lt, ha, hb, hc]

/-- The four types of 32-bit and 64-bit integers: no float format, one element. -/
theorem intType {t : Nat} (ht : t < 4) : fmtOf t = none ∧ lanesOf t = 1 ∧ 0 < typeBits t := by
  have hcases : t = 0 ∨ t = 1 ∨ t = 2 ∨ t = 3 := by omega
  rcases hcases with rfl | rfl | rfl | rfl <;> decide

theorem ofInt_ival {t x : Nat} (ht : t < 4) (hx : x < 2 ^ typeBits t) :
    BitVec.ofInt (typeBits t) (ival t x) = BitVec.ofNat (typeBits t) x := by
  have hv : (BitVec.ofNat (typeBits t) x).toNat = x := Nat.mod_eq_of_lt hx
  obtain ⟨-, -, hb⟩ := intType ht
  unfold ival
  cases isSigned t with
  | true => rw [← hv, valOf_signed _ hb, BitVec.ofInt_toInt, hv]
  | false => rw [valOf_unsigned, BitVec.ofInt_natCast]

theorem addType_int {t a b : Nat} (rm : Nat) (ht : t < 4) (ha : a < 2 ^ typeBits t) (hb : b < 2 ^ typeBits t) :
    addType t rm a b = { val := (BitVec.ofNat (typeBits t) a + BitVec.ofNat (typeBits t) b).toNat, fl := 0 } := by
  obtain ⟨hf, hl, -⟩ := intType ht
  rw [addType, lanewise_one hl _ ha hb (Nat.two_pow_pos _), hf, ← addW_toNat, BitVec.toNat_ofNat, BitVec.toNat_ofNat,
    Nat.mod_eq_of_lt ha, Nat.mod_eq_of_lt hb]
  rfl

theorem subType_int {t a b : Nat} (rm : Nat) (ht : t < 4) (ha : a < 2 ^ typeBits t) (hb : b < 2 ^ typeBits t) :
    subType t rm a b = { val := (BitVec.ofNat (typeBits t) a - BitVec.ofNat (typeBits t) b).toNat, fl := 0 } := by
  obtain ⟨hf, hl, -⟩ := intType ht
  rw [subType, lanewise_one hl _ ha hb (Nat.two_pow_pos _), hf, ← subW_toNat, BitVec.toNat_ofNat, BitVec.toNat_ofNat,
    Nat.mod_eq_of_lt ha, Nat.mod_eq_of_lt hb]
  rfl

theorem mulType_int {t a b : Nat} (rm : Nat) (ht : t < 4) (ha : a < 2 ^ typeBits t) (hb : b < 2 ^ typeBits t) :
    mulType t rm a b = { val := (BitVec.ofNat (typeBits t) a * BitVec.ofNat (typeBits t) b).toNat, fl := 0 } := by
  obtain ⟨hf, hl, -⟩ := intType ht
  rw [mulType, lanewise_one hl _ ha hb (Nat.two_pow_pos _), hf, ← mulW_toNat, BitVec.toNat_ofNat, BitVec.toNat_ofNat,
    Nat.mod_eq_of_lt ha, Nat.mod_eq_of_lt hb]
  rfl

theorem negType_int {t a : Nat} (ht : t < 4) (ha : a < 2 ^ typeBits t) :
    negType t a = { val := (-(BitVec.ofNat (typeBits t) a)).toNat, fl := 0 } := by
  obtain ⟨hf, hl, -⟩ := intType ht
  rw [negType, lanewise_one hl _ ha (Nat.two_pow_pos _) (Nat.two_pow_pos _), hf]
  simp only [narrow_eq_ofInt, BitVec.ofInt_neg, ofInt_ival ht ha]
  rfl

/-! ### 32-bit words -/

section Words32

variable (a b : BitVec 32)

theorem ival_signed32 : ival 0 a.toNat = a.toInt := valOf_signed a (by decide)

theorem ival_unsigned32 : ival 1 a.toNat = a.toNat := rfl

theorem addsType_signed32 :
    addsType 0 a.toNat b.toNat = { val := (BitVec.ofInt 32 (max (-2 ^ 31) (min (2 ^ 31 - 1) (a.toInt + b.toInt)))).toNat, fl := 0 } := by
  rw [addsType, lanewise_one rfl _ a.isLt b.isLt (by decide), ival_signed32, ival_signed32, clampType]
  simp only [narrow_eq_ofInt]
  rfl

theorem subsType_signed32 :
    subsType 0 a.toNat b.toNat = { val := (BitVec.ofInt 32 (max (-2 ^ 31) (min (2 ^ 31 - 1) (a.toInt - b.toInt)))).toNat, fl := 0 } := by
  rw [subsType, lanewise_one rfl _ a.isLt b.isLt (by decide), ival_signed32, ival_signed32, clampType]
  simp only [narrow_eq_ofInt]
  rfl

theorem clampType_unsigned32 (x : Int) : clampType 1 x = (max 0 (min (2 ^ 32 - 1) x)).toNat := by
  change (max 0 (min (2 ^ 32 - 1) x) % (2 ^ 32 : Int)).toNat = _
  omega

theorem addsType_unsigned32 : addsType 1 a.toNat b.toNat = { val := min (2 ^ 32 - 1) (a.toNat + b.toNat), fl := 0 } := by
  rw [addsType, lanewise_one rfl _ a.isLt b.isLt (by decide), ival_unsigned32, ival_unsigned32, clampType_unsigned32, ires]
  congr 1
  omega

theorem subsType_unsigned32 : subsType 1 a.toNat b.toNat = { val := a.toNat - b.toNat, fl := 0 } := by
  have ha := a.isLt
  rw [subsType, lanewise_one rfl _ a.isLt b.isLt (by decide), ival_unsigned32, ival_unsigned32, clampType_unsigned32, ires]
  congr 1
  omega

theorem absType_signed32 : absType 0 a.toNat = { val := a.toInt.natAbs % 2 ^ 32, fl := 0 } := by
  rw [absType, lanewise_one rfl _ a.isLt (by decide) (by decide), ival_signed32]
  rfl

theorem absdType_unsigned32 :
    absdType 1 0 a.toNat b.toNat = { val := max a.toNat b.toNat - min a.toNat b.toNat, fl := 0 } := by
  rw [absdType, lanewise_one rfl _ a.isLt b.isLt (by decide), ival_unsigned32, ival_unsigned32]
  change ires _ = _
  rw [ires]
  congr 1
  omega

theorem avgType_unsigned32 : avgType 1 a.toNat b.toNat = { val := (a.toNat + b.toNat + 1) / 2, fl := 0 } := by
  have ha := a.isLt
  have hb := b.isLt
  rw [avgType, lanewise_one rfl _ a.isLt b.isLt (by decide), ival_unsigned32, ival_unsigned32, ires, narrow]
  congr 1
  change (((a.toNat : Int) + b.toNat + 1) / 2 % (2 ^ 32 : Int)).toNat = _
  omega

/-! ### Bit fields -/

/-- The position and the length of a field that R245 allows. -/
theorem fieldOperand {p n : Nat} (hp : p < 32) (hn : 0 < n) (h : p + n ≤ 32) :
    (p + 256 * n) % 256 = p ∧ (p + 256 * n) / 256 % 256 = n ∧ ¬ (n = 0 ∨ 32 ≤ p) ∧ min n (32 - p) = n := by omega

theorem bfe_unsigned32 {p n : Nat} (hp : p < 32) (hn : 0 < n) (h : p + n ≤ 32) :
    bfe 1 a.toNat (p + 256 * n) = (a.extractLsb' p n).toNat := by
  obtain ⟨h1, h2, h3, h4⟩ := fieldOperand hp hn h
  simp only [bfe, h1, h2, h4, if_neg h3, BitVec.extractLsb'_toNat, Nat.shiftRight_eq_div_pow]
  rfl

theorem bfe_signed32 {p n : Nat} (hp : p < 32) (hn : 0 < n) (h : p + n ≤ 32) :
    bfe 0 a.toNat (p + 256 * n) = ((a.extractLsb' p n).signExtend 32).toNat := by
  obtain ⟨h1, h2, h3, h4⟩ := fieldOperand hp hn h
  have hx : a.toNat / 2 ^ p % 2 ^ n = (a.extractLsb' p n).toNat := by
    rw [BitVec.extractLsb'_toNat, Nat.shiftRight_eq_div_pow]
  simp only [bfe, h1, h2, h4, if_neg h3, hx, signedOf_toNat _ hn, narrow_eq_ofInt]
  rfl

/-- A word from its bits stays below its width, and has them. -/
theorem fromBits_spec (w : Nat) (f : Nat → Bool) :
    fromBits w f < 2 ^ w ∧ ∀ i < w, (fromBits w f).testBit i = f i := by
  induction w with
  | zero => exact ⟨Nat.one_pos, fun i hi => absurd hi (Nat.not_lt_zero i)⟩
  | succ w ih =>
    obtain ⟨hlt, hbits⟩ := ih
    have hs : fromBits (w + 1) f = fromBits w f + if f w then 2 ^ w else 0 := by
      simp [fromBits, List.range_succ]
    rw [hs]
    cases hf : f w with
    | false =>
      refine ⟨by rw [Nat.pow_succ]; simp; omega, fun i hi => ?_⟩
      rcases Nat.lt_succ_iff_lt_or_eq.mp hi with h | rfl
      · simpa using hbits i h
      · simpa [hf] using Nat.testBit_lt_two_pow hlt
    | true =>
      refine ⟨by rw [Nat.pow_succ]; simp; omega, fun i hi => ?_⟩
      rw [if_pos rfl, Nat.add_comm]
      rcases Nat.lt_succ_iff_lt_or_eq.mp hi with h | rfl
      · rw [Nat.testBit_two_pow_add_gt h]
        exact hbits i h
      · rw [Nat.testBit_two_pow_add_eq, Nat.testBit_lt_two_pow hlt, hf]
        rfl

theorem bfi_testBit {p n : Nat} (hp : p < 32) (hn : 0 < n) (h : p + n ≤ 32) : ∀ i < 32,
    (bfi a.toNat (p + 256 * n) b.toNat).testBit i = if p ≤ i ∧ i < p + n then a.getLsbD (i - p) else b.getLsbD i := by
  obtain ⟨h1, h2, h3, h4⟩ := fieldOperand hp hn h
  intro i hi
  simp only [bfi, h1, h2, h4, if_neg h3]
  exact (fromBits_spec 32 _).2 i hi

/-! ### The dot product of bytes -/

/-- The bytes of an operand, as VDOT4 takes them. -/
theorem slots_bytes :
    slots 4 a.toNat = [(a.extractLsb' 0 8).toNat, (a.extractLsb' 8 8).toNat, (a.extractLsb' 16 8).toNat, (a.extractLsb' 24 8).toNat] := by
  simp [slots, List.range_succ, BitVec.extractLsb'_toNat, Nat.shiftRight_eq_div_pow]

theorem ival_byte (x : BitVec 8) : ival 13 (x.toNat % 2 ^ typeBits 13) = x.toInt := by
  rw [show typeBits 13 = 8 from rfl, Nat.mod_eq_of_lt x.isLt]
  exact valOf_signed x (by decide)

theorem dotOp_bytes (sat : Bool) (c : BitVec 32) :
    dotOp 4 13 13 0 sat a.toNat b.toNat c.toNat =
      let e (x : BitVec 32) (i : Nat) := x.extractLsb' (8 * i) 8
      let ss := c.toInt + (e a 0).toInt * (e b 0).toInt + (e a 1).toInt * (e b 1).toInt + (e a 2).toInt * (e b 2).toInt +
        (e a 3).toInt * (e b 3).toInt
      { val := (BitVec.ofInt 32 (if sat then max (-2 ^ 31) (min (2 ^ 31 - 1) ss) else ss)).toNat, fl := 0 } := by
  have hf : isFloat 13 = false := rfl
  unfold dotOp
  simp only [hf, slots_bytes, Bool.false_eq_true, if_false, List.zip_cons_cons, List.zip_nil_left, List.foldl_cons, List.foldl_nil,
    ival_byte, signedOf_toNat c (by decide : 0 < 32)]
  cases sat with
  | true => simp only [if_true, clampType, narrow_eq_ofInt]; rfl
  | false => simp only [Bool.false_eq_true, if_false, narrow_eq_ofInt]; rfl

end Words32

/-- Settles O26: each operation by its lemma. -/
theorem vectorIntegerValues : Obligations.VectorIntegerValues :=
  ⟨fun _ rm ht _ _ ha hb => ⟨addType_int rm ht ha hb, subType_int rm ht ha hb, mulType_int rm ht ha hb, negType_int ht ha⟩,
    fun a b => ⟨addsType_signed32 a b, subsType_signed32 a b, addsType_unsigned32 a b, subsType_unsigned32 a b, absType_signed32 a,
      absdType_unsigned32 a b, avgType_unsigned32 a b,
      fun _ _ hp hn h => ⟨bfe_unsigned32 a hp hn h, bfe_signed32 a hp hn h, bfi_testBit a b hp hn h⟩⟩,
    fun sat a b c => dotOp_bytes a b sat c⟩

end Sys2Proof.Machine
end

section
/-!
Floats and comparisons (spec/04_number_formats.md R88 to R90, spec/11_spindle.md R246): what a NaN operand gives, the results that no
rounding decides, and what each condition says of integers and of unordered floats.
-/

namespace Sys2Proof.Machine

open Sys2Proof

/-! ### NaNs of F32 -/

/-- The fields of a 32-bit pattern, as numbers. -/
theorem exponent32 (a : BitVec 32) : a.toNat / 2 ^ 23 % 2 ^ 8 = (a.extractLsb' 23 8).toNat := by
  rw [BitVec.extractLsb'_toNat, Nat.shiftRight_eq_div_pow]

theorem fraction32 (a : BitVec 32) : a.toNat % 2 ^ 23 = (a.extractLsb' 0 23).toNat := by
  rw [BitVec.extractLsb'_toNat, Nat.shiftRight_zero]

/-- A pattern with the greatest exponent is an infinity or a NaN. -/
theorem fdec32_special {a : BitVec 32} (he : a.extractLsb' 23 8 = 255#8) :
    fdec fmt32 a.toNat = if a.extractLsb' 0 23 = 0#23 then .inf (a.toNat.testBit 31) else .nan (!a.getLsbD 22) := by
  have hexp : a.toNat / 2 ^ 23 % 2 ^ 8 = 255 := by rw [exponent32, he]; rfl
  have hfrac : (a.toNat % 2 ^ 23 = 0) = (a.extractLsb' 0 23 = 0#23) := by
    rw [fraction32, ← BitVec.toNat_inj]
    rfl
  have hquiet : (a.toNat % 2 ^ 23).testBit 22 = a.getLsbD 22 := by
    rw [Nat.testBit_mod_two_pow]
    rfl
  simp only [← hfrac, ← hquiet]
  exact if_pos ⟨rfl, hexp⟩

theorem fdec32_finite {a : BitVec 32} (he : a.extractLsb' 23 8 ≠ 255#8) : ∃ neg m e, fdec fmt32 a.toNat = .fin neg m e := by
  have hexp : a.toNat / 2 ^ 23 % 2 ^ 8 ≠ 255 := by
    rw [exponent32]
    exact fun h => he (BitVec.eq_of_toNat_eq h)
  have h2 : ¬ (fmt32.kind = 2 ∧ a.toNat / 2 ^ fmt32.mbits % 2 ^ fmt32.ebits = 2 ^ fmt32.ebits - 1) := fun h => hexp h.2
  have h1 : ¬ (fmt32.kind = 1 ∧ a.toNat / 2 ^ fmt32.mbits % 2 ^ fmt32.ebits = 15 ∧ a.toNat % 2 ^ fmt32.mbits = 7) :=
    fun h => absurd h.1 (by decide)
  unfold fdec
  dsimp only
  rw [if_neg h2, if_neg h1]
  split
  · exact ⟨_, _, _, rfl⟩
  · exact ⟨_, _, _, rfl⟩

theorem isNaN32_iff (a : BitVec 32) :
    isNaN (fdec fmt32 a.toNat) = true ↔ a.extractLsb' 23 8 = 255#8 ∧ a.extractLsb' 0 23 ≠ 0#23 := by
  by_cases he : a.extractLsb' 23 8 = 255#8
  · rw [fdec32_special he]
    by_cases hf : a.extractLsb' 0 23 = 0#23 <;> simp [he, hf, isNaN]
  · obtain ⟨neg, m, e, h⟩ := fdec32_finite he
    simp [h, he, isNaN]

theorem isSNaN32_iff (a : BitVec 32) :
    isSNaN (fdec fmt32 a.toNat) = true ↔ a.extractLsb' 23 8 = 255#8 ∧ a.extractLsb' 0 23 ≠ 0#23 ∧ a.getLsbD 22 = false := by
  by_cases he : a.extractLsb' 23 8 = 255#8
  · rw [fdec32_special he]
    by_cases hf : a.extractLsb' 0 23 = 0#23 <;> simp [he, hf, isSNaN]
  · obtain ⟨neg, m, e, h⟩ := fdec32_finite he
    simp [h, he, isSNaN]

/-! ### The NaN rule (O27) -/

theorem quietBits32 (a : BitVec 32) : quietBits fmt32 a.toNat = (a ||| 0x400000#32).toNat :=
  (BitVec.toNat_or a 0x400000#32).symm

/-- What R89 gives for two operands of which one is a NaN. -/
def nanOf32 (a b : BitVec 32) : FRes :=
  { val := ((if isNaN (fdec fmt32 a.toNat) then a else b) ||| 0x400000#32).toNat
    fl := if isSNaN (fdec fmt32 a.toNat) || isSNaN (fdec fmt32 b.toNat) then flagNV else 0 }

/-- The first NaN of the two operands is found, and quieted. -/
theorem nanRule_nan {a b : BitVec 32} (h : (isNaN (fdec fmt32 a.toNat) || isNaN (fdec fmt32 b.toNat)) = true) :
    nanRule fmt32 [a.toNat, b.toNat] = some (nanOf32 a b) := by
  unfold nanRule nanOf32
  cases ha : isNaN (fdec fmt32 a.toNat) with
  | true => simp [ha, quietBits32]
  | false =>
    rw [ha, Bool.false_or] at h
    simp [ha, h, quietBits32]

/-- Settles O27. -/
theorem floatSpecialValues : Obligations.FloatSpecialValues := by
  refine ⟨fun rm a b h => ?_, isNaN32_iff, isSNaN32_iff, fun rm => ⟨rfl, rfl, rfl⟩, by decide, by decide⟩
  exact ⟨by rw [fAdd, nanRule_nan h]; rfl, by rw [fSub, nanRule_nan h]; rfl, by rw [fMul, nanRule_nan h]; rfl⟩

/-! ### Comparisons (O29) -/

section Integers

variable (a b : BitVec 32)

/-- The relations of R246 on 32-bit words, as the signed type reads them. -/
theorem compareOp_signed32 :
    compareOp 0 0 a.toNat b.toNat = some (decide (a = b), 0) ∧ compareOp 1 0 a.toNat b.toNat = some (decide (a ≠ b), 0) ∧
    compareOp 2 0 a.toNat b.toNat = some (a.slt b, 0) ∧ compareOp 3 0 a.toNat b.toNat = some (a.sle b, 0) ∧
    compareOp 4 0 a.toNat b.toNat = some (b.slt a, 0) ∧ compareOp 5 0 a.toNat b.toNat = some (b.sle a, 0) := by
  have hf : fmtOf 0 = none := rfl
  simp only [compareOp, hf, ival_signed32, BitVec.toInt_inj, BitVec.slt_eq_decide, BitVec.sle_eq_decide, ne_eq, and_self]

theorem compareOp_unsigned32 :
    compareOp 2 1 a.toNat b.toNat = some (a.ult b, 0) ∧ compareOp 3 1 a.toNat b.toNat = some (a.ule b, 0) := by
  have hf : fmtOf 1 = none := rfl
  simp only [compareOp, hf, ival_unsigned32, Int.ofNat_lt, Int.ofNat_le]
  exact ⟨rfl, rfl⟩

theorem compareOp_test32 : compareOp 8 1 a.toNat b.toNat = some (decide (a &&& b ≠ 0), 0) := by
  have hf : fmtOf 1 = none := rfl
  have hz : a.toNat &&& b.toNat = 0 ↔ a &&& b = 0 := by
    rw [← BitVec.toNat_and, ← BitVec.toNat_inj (y := 0)]
    rfl
  simp only [compareOp, hf, ne_eq, hz]

end Integers

/-- An unordered pair of F32 values: the relation is false, NE and UNO true, whatever the order of the values is. -/
theorem compareOp_unordered {x y : BitVec 32} (h : (isNaN (fdec fmt32 x.toNat) || isNaN (fdec fmt32 y.toNat)) = true) :
    let nv := if isSNaN (fdec fmt32 x.toNat) || isSNaN (fdec fmt32 y.toNat) then flagNV else 0
    let cmp (op : Nat) := compareOp op 4 x.toNat y.toNat
    cmp 0 = some (false, nv) ∧ cmp 1 = some (true, nv) ∧ cmp 2 = some (false, flagNV) ∧ cmp 3 = some (false, flagNV) ∧
      cmp 4 = some (false, flagNV) ∧ cmp 5 = some (false, flagNV) ∧ cmp 6 = some (true, nv) ∧ cmp 7 = some (false, nv) := by
  have hf : fmtOf 4 = some fmt32 := rfl
  simp only [compareOp, hf, h, Bool.not_true, Bool.false_and, Bool.true_or, if_true, and_self]

/-- Settles O29. -/
theorem compareValues : Obligations.CompareValues := by
  refine ⟨fun a b => ?_, fun t a b ht => ?_, fun x y h => compareOp_unordered h⟩
  · obtain ⟨h0, h1, h2, h3, h4, h5⟩ := compareOp_signed32 a b
    obtain ⟨u2, u3⟩ := compareOp_unsigned32 a b
    exact ⟨h0, h1, h2, h3, h4, h5, u2, u3, compareOp_test32 a b⟩
  · have hcases : t = 0 ∨ t = 1 ∨ t = 2 ∨ t = 3 := by omega
    rcases hcases with rfl | rfl | rfl | rfl <;> exact ⟨rfl, rfl⟩

end Sys2Proof.Machine
end

section
/-!
The reduction tree (spec/04_number_formats.md R94): each level keeps the combination of all positions that are not EMPTY, and five levels
leave one position of 32.
-/

namespace Sys2Proof.Machine

open Sys2Proof

/-- Two positions combined: an EMPTY one passes the other through. -/
def combine (g : Nat → Nat → Nat) : Option Nat → Option Nat → Option Nat
  | none, y => y
  | some x, none => some x
  | some x, some y => some (g x y)

/-- All positions combined, in order. -/
def combineAll (g : Nat → Nat → Nat) (xs : List (Option Nat)) : Option Nat := xs.foldr (combine g) none

/-- One level of the tree on the values alone. -/
def valueLevel (g : Nat → Nat → Nat) : List (Option Nat) → List (Option Nat)
  | a :: b :: r => combine g a b :: valueLevel g r
  | r => r

section Tree

variable {g : Nat → Nat → Nat}

theorem combine_assoc (h : ∀ a b c, g (g a b) c = g a (g b c)) (x y z : Option Nat) :
    combine g (combine g x y) z = combine g x (combine g y z) := by
  cases x with
  | none => rfl
  | some x =>
    cases y with
    | none => rfl
    | some y =>
      cases z with
      | none => rfl
      | some z => simp only [combine, h]

theorem combine_none (x : Option Nat) : combine g x none = x := by
  cases x <;> rfl

/-- A level changes nothing of the combination. -/
theorem combineAll_valueLevel (h : ∀ a b c, g (g a b) c = g a (g b c)) (xs : List (Option Nat)) :
    combineAll g (valueLevel g xs) = combineAll g xs := by
  induction xs using valueLevel.induct with
  | case1 a b r ih =>
    calc combineAll g (valueLevel g (a :: b :: r)) = combine g (combine g a b) (combineAll g (valueLevel g r)) := rfl
      _ = combine g a (combine g b (combineAll g r)) := by rw [ih, combine_assoc h]
  | case2 r hr =>
    rw [valueLevel]
    exact hr

theorem length_valueLevel (xs : List (Option Nat)) : (valueLevel g xs).length = (xs.length + 1) / 2 := by
  induction xs using valueLevel.induct with
  | case1 a b r ih =>
    simp only [valueLevel, List.length_cons, ih]
    omega
  | case2 r hr =>
    rw [valueLevel]
    · match r, hr with
      | [], _ => rfl
      | [a], _ => simp
      | a :: b :: r, hr => exact absurd rfl (hr a b r)
    · exact hr

/-- Integer operations raise no flags, so a level of the tree is a level on the values. -/
theorem treeLevel_values (xs : List (Option Nat)) :
    treeLevel (fun a b => ires (g a b)) (xs.map (fun x => x.map ires)) = (valueLevel g xs).map (fun x => x.map ires) := by
  induction xs using valueLevel.induct with
  | case1 a b r ih =>
    simp only [List.map_cons, treeLevel, valueLevel, ih]
    cases a with
    | none => cases b <;> rfl
    | some a =>
      cases b with
      | none => rfl
      | some b => simp [ires, combine]
  | case2 r hr =>
    match r, hr with
    | [], _ => rfl
    | [a], _ => rfl
    | a :: b :: r, hr => exact absurd rfl (hr a b r)

/-- The combination is the operation over the positions that are not EMPTY. -/
theorem combineAll_some (h : ∀ a b c, g (g a b) c = g a (g b c)) (v : Nat) (xs : List (Option Nat)) :
    combineAll g (some v :: xs) = some ((xs.filterMap id).foldl g v) := by
  induction xs generalizing v with
  | nil => rfl
  | cons x xs ih =>
    cases x with
    | none => exact ih v
    | some x =>
      calc combineAll g (some v :: some x :: xs) = combine g (combine g (some v) (some x)) (combineAll g xs) := (combine_assoc h ..).symm
        _ = combineAll g (some (g v x) :: xs) := rfl
        _ = some (((some x :: xs).filterMap id).foldl g v) := ih (g v x)

theorem combineAll_eq (h : ∀ a b c, g (g a b) c = g a (g b c)) (xs : List (Option Nat)) :
    combineAll g xs = match xs.filterMap id with | [] => none | v :: vs => some (vs.foldl g v) := by
  induction xs with
  | nil => rfl
  | cons x xs ih =>
    cases x with
    | none => exact ih
    | some x => exact combineAll_some h x xs

end Tree

/-- Settles O32: five levels of 32 positions leave one, which is the combination of all. -/
theorem reductionTree : Obligations.ReductionTree := by
  intro g xs _ hassoc hlen
  let ys := valueLevel g (valueLevel g (valueLevel g (valueLevel g (valueLevel g xs))))
  have hys : combineAll g ys = combineAll g xs := by simp only [ys, combineAll_valueLevel hassoc]
  obtain ⟨y, hy⟩ : ∃ y, ys = [y] := List.length_eq_one_iff.mp (by simp only [ys, length_valueLevel, hlen])
  have hy1 : y = combineAll g xs := by rw [← hys, hy]; exact (combine_none y).symm
  have htree : treeReduce (fun a b => ires (g a b)) xs = y.map ires := by
    unfold treeReduce
    simp only [treeLevel_values]
    change (match ys.map (fun x => x.map ires) with | r :: _ => r | [] => none) = _
    rw [hy]
    rfl
  rw [htree, hy1, combineAll_eq hassoc]
  cases xs.filterMap id <;> rfl

end Sys2Proof.Machine
end

section
/-!
The role header (spec/06_assembler.md R139): its fields are written one behind the other, and each is read at its own offset.
-/

namespace Sys2Proof.Machine

open Sys2Proof

theorem hdrBytes_length (h : Hdr) : (hdrBytes h).length = 64 := by
  unfold hdrBytes
  simp only [List.length_append, bytesOf_length]

/-- What the launch reads: each field up to the width of its place. -/
theorem hdrOf_hdrBytes (h : Hdr) : hdrOf h.addr.toNat (hdrBytes h) =
    { addr := BitVec.ofNat 64 h.addr.toNat, vregs := h.vregs % 256 ^ 2, sregs := h.sregs % 256 ^ 1, tregs := h.tregs % 256 ^ 1
      renamed := decide ((if h.renamed = true then 1 else 0) % 256 ^ 1 = 1), role := h.role % 256 ^ 1, nroles := h.nroles % 256 ^ 1
      weaves := h.weaves % 256 ^ 1, spad := h.spad % 256 ^ 4, tobBanks := h.tobBanks % 256 ^ 1, accBanks := h.accBanks % 256 ^ 1
      gang := h.gang % 256 ^ 1, flags := h.flags % 256 ^ 1, trapDisp := BitVec.ofNat 32 (h.trapDisp.toNat % 256 ^ 4)
      handler := BitVec.ofNat 32 (h.handler.toNat % 256 ^ 4), liveOff := BitVec.ofNat 64 (h.liveOff.toNat % 256 ^ 8)
      liveCount := h.liveCount % 256 ^ 2, vquota := h.vquota % 256 ^ 2 } := by
  unfold hdrBytes hdrOf
  simp only [List.append_assoc, fieldAt_first, fieldAt_behind, Nat.le_refl, Nat.reduceLeDiff, Nat.reduceSub]

/-- A number below the bound of its place is all in its bytes. -/
theorem mod_place {v m : Nat} (n : Nat) (h : v < 2 ^ m) (hn : 2 ^ m = 256 ^ n := by rfl) : v % 256 ^ n = v :=
  Nat.mod_eq_of_lt (hn ▸ h)

/-- A bit vector's bytes hold all of it. -/
theorem ofNat_mod_bytes {m : Nat} (n : Nat) (x : BitVec m) (h : 2 ^ m = 256 ^ n) : BitVec.ofNat m (x.toNat % 256 ^ n) = x := by
  rw [← h, Nat.mod_eq_of_lt x.isLt, BitVec.ofNat_toNat, BitVec.setWidth_eq]

theorem renamed_byte (b : Bool) : decide ((if b = true then 1 else 0) % 256 ^ 1 = 1) = b := by
  cases b <;> rfl

/-- Settles O60: a field within its place is read as it was. -/
theorem headerRoundTrip : Obligations.HeaderRoundTrip := by
  intro h hvregs hsregs htregs hrole hnroles hweaves hspad htob hacc hgang hflags hlive hvq
  refine ⟨hdrBytes_length h, ?_⟩
  rw [hdrOf_hdrBytes, mod_place 2 hvregs, mod_place 1 hsregs, mod_place 1 htregs, mod_place 1 hrole, mod_place 1 hnroles,
    mod_place 1 hweaves, mod_place 4 hspad, mod_place 1 htob, mod_place 1 hacc, mod_place 1 hgang, mod_place 1 hflags,
    mod_place 2 hlive, mod_place 2 hvq, renamed_byte, ofNat_mod_bytes 4 h.trapDisp rfl, ofNat_mod_bytes 4 h.handler rfl,
    ofNat_mod_bytes 8 h.liveOff rfl, BitVec.ofNat_toNat, BitVec.setWidth_eq]

end Sys2Proof.Machine
end

section
/-!
Loads and stores start (spec/09_porter.md R200 to R207, spec/10_stockroom.md R223, spec/16_depot_loft.md R344): with their strands' accesses
in order, nothing stands between the checks and the operation.
-/

namespace Sys2Proof.Machine

open Sys2Proof

/-! ### From the checks to the operation -/

/-- Accesses in order start the operation, whose kind the bookkeeping before it does not change. -/
theorem onChecked_startMem {s : State} {c : Ctx} {f : MemF} {how : Kind} {cs : List Chk} {kind : State → OpKind} {K : OpKind}
    {dests : List Nat} {store : Bool} {ks : List Nat} (h : InOrder s c cs) (hk : ∀ t, Prepared s t → kind t = K) :
    ∃ s3, Prepared s s3 ∧ onChecked s c how cs (fun t => startMem t c f (kind t) dests store ks) =
      .done (newOp s3 c K dests f.ann.toNat f.scope.toNat) := by
  have hd := prepared_dropWalks s c.wv.ids.tenancy c.w c.slot
  obtain ⟨s3, hp, he⟩ := startMem_eq (dropWalks s c.wv.ids.tenancy c.w c.slot) c f K dests store ks
  refine ⟨s3, hd.trans hp, ?_⟩
  rw [onChecked_clean h, hk _ hd, he]

/-- The lanes that the checks of the strands give. -/
theorem lanes_prepared {s t : State} (h : Prepared s t) (c : Ctx) (f : MemF) {chk : Nat → Chk} (hc : ∀ k, (chk k).strand = k)
    (data : Nat → List Byte) (tob : Nat → Nat) (ks : List Nat) :
    (ks.map chk).map (fun x => laneOf t c f x (data x.strand) (tob x.strand)) =
      ks.map (fun k => laneOf s c f (chk k) (data k) (tob k)) := by
  simp only [List.map_map, Function.comp_def, laneOf_prepared h, hc]

/-! ### Loads -/

/-- LD and LDU (R201). -/
theorem starts_loadRow {i : Instr} (f : MemF) (r : MemRow) (al : Bool) (hi : ∀ s, exec i s = loadRow f r al s) :
    Starts i f.pn f.pred (memForm f r) (fun s c => InOrder s c ((strandsOf c.q).map (checkData s c f .read (bytesSize f) al)))
      (fun s c => .load f.size.toNat (f.mx.getLsbD 0) (destOf f.ds.toNat) false
        ((strandsOf c.q).map (fun k => laneOf s c f (checkData s c f .read (bytesSize f) al k) [] 0)))
      (fun c => dstKeys f.ds.toNat (dataWide f) c.q) f.ann.toNat f.scope.toNat := by
  refine starts_of_row hi (fun s c h => if_pos h) fun s c hq ok => ?_
  rw [if_neg hq]
  exact onChecked_startMem ok fun t ht => congrArg (OpKind.load _ _ _ _)
    (lanes_prepared ht c f (checkData_strand s c f _ _ _) (fun _ => []) (fun _ => 0) _)

theorem ldc_starts (f : MemF) :
    Starts (.ldc f) f.pn f.pred (memForm f { ds := loadDst f 3, sizes := [0, 1, 2, 3, 4], anns := [0, 1], mxOk := sxOk f })
      (fun s c => InOrder s c [checkData s c f .read (bytesSize f) true c.low])
      (fun s c => .load f.size.toNat (f.mx.getLsbD 0) (destOf f.ds.toNat) true
        [laneOf s c f (checkData s c f .read (bytesSize f) true c.low) [] 0])
      (fun c => dstKeys f.ds.toNat (dataWide f) c.q) f.ann.toNat f.scope.toNat := by
  refine starts_of_row (fun _ => rfl) (fun s c h => if_pos h) fun s c hq ok => ?_
  rw [if_neg hq]
  exact onChecked_startMem ok fun t ht => congrArg (OpKind.load _ _ _ _)
    (lanes_prepared ht c f (checkData_strand s c f _ _ _) (fun _ => []) (fun _ => 0) [c.low])

theorem ldf_starts (f : MemF) :
    Starts (.ldf f) f.pn f.pred (memForm f (fmtRow f (loadDst f 1) [0, 1]))
      (fun s c => InOrder s c ((strandsOf c.q).map (checkFmt s c f .read)))
      (fun s c => .loadFmt (dType (fmtD4 f)) (destOf f.ds.toNat)
        ((strandsOf c.q).map (fun k => fmtElems s c f (checkFmt s c f .read k))))
      (fun c => dstKeys f.ds.toNat (dataWide f) c.q) f.ann.toNat f.scope.toNat := by
  refine starts_of_row (fun _ => rfl) (fun s c h => if_pos h) fun s c hq ok => ?_
  rw [if_neg hq]
  refine onChecked_startMem ok fun t ht => congrArg (OpKind.loadFmt _ _) ?_
  simp only [List.map_map, Function.comp_def, fmtElems_prepared ht]
  rfl

theorem ldt_starts (f : MemF) :
    Starts (.ldt f) f.pn f.pred
      (memForm f { ds := { reg := f.ds.toNat, cls := 9, eng := true }, sizes := [2, 3, 4], mxOk := mxZero f })
      (fun s c => InOrder s c ((strandsOf c.q).map (checkTob s c f .read)))
      (fun s c => .loadTob f.size.toNat
        ((strandsOf c.q).map (fun k => laneOf s c f (checkTob s c f .read k) [] (srcN s c f.ds.toNat k 1))))
      (fun _ => []) f.ann.toNat f.scope.toNat := by
  refine starts_of_row (fun _ => rfl) (fun s c h => if_pos h) fun s c hq ok => ?_
  rw [if_neg hq]
  refine onChecked_startMem ok fun t ht => congrArg (OpKind.loadTob _) ?_
  simp only [srcN_prepared ht]
  exact lanes_prepared ht c f (checkTob_strand s c f _) (fun _ => []) (fun k => srcN s c f.ds.toNat k 1) _

/-- The scratchpad forms (R223): nothing traps, and the access is counted. -/
theorem spad_starts {s : State} {c : Ctx} {n al ca : Nat} {off : Nat → Nat} {K : OpKind} {dests : List Nat} {ann m : Nat}
    (ok : ∀ k ∈ strandsOf c.q, off k % al = 0 ∧ off k + n ≤ c.wv.hdr.spad) :
    ∃ s3, Prepared s s3 ∧ (match spadTrap (c.strands.map (fun k => checkSpad c (off k) n al ca k)) with
      | some t => Effect.trap t
      | none => .done (newOp (countSpad s c m) c K dests ann 0)) = .done (newOp s3 c K dests ann 0) := by
  rw [show c.strands = strandsOf c.q from rfl, spadTrap_none ok]
  exact ⟨_, prepared_countW s c.wv 24 m, rfl⟩

theorem lds_starts (f : MemF) :
    Starts (.lds f) f.pn f.pred (spadForm f { loadDst f 35 with cause := 7 } [0, 1, 2, 3, 4] [0, 1] (sxOk f) false)
      (fun s c => ∀ k ∈ strandsOf c.q, offOf s c f k % bytesSize f = 0 ∧ offOf s c f k + bytesSize f ≤ c.wv.hdr.spad)
      (fun s c => .spLoad f.size.toNat (f.mx.getLsbD 0) (destOf f.ds.toNat) ((strandsOf c.q).map (fun k =>
        spadLane c.wv.ids.basket k (offOf s c f k) (bytesSize f) [])))
      (fun c => dstKeys f.ds.toNat (dataWide f) c.q) f.ann.toNat 0 := by
  refine starts_of_row (fun _ => rfl) (fun s c h => if_pos h) fun s c hq ok => ?_
  rw [if_neg hq]
  exact spad_starts ok

/-- An access inside the tenancy's partition of the Loft, aligned, has no finding (R344, R342). -/
theorem checkLoft_inside {s : State} {c : Ctx} {f : MemF} {k : Nat}
    (h : loftWin + 65536 * (tenOf s c.wv.ids.tenancy).depot.lbase ≤ eaOf s c f k ∧
      eaOf s c f k + bytesSize f ≤ loftWin + 65536 * (tenOf s c.wv.ids.tenancy).depot.lbase +
        65536 * (tenOf s c.wv.ids.tenancy).depot.lsize ∧ eaOf s c f k % bytesSize f = 0) :
    checkLoft s c f k = { strand := k, pas := (List.range (bytesSize f)).map (fun i => loftBase + (eaOf s c f k - loftWin) + i),
                          slots := List.replicate (bytesSize f) 257 } := by
  obtain ⟨hlo, hhi, hal⟩ := h
  unfold checkLoft
  simp only [hlo, hhi, hal, and_self, if_true, ne_eq, not_true_eq_false, decide_false]
  rfl

/-- The check of a strand of LOFT.LD: in the Loft, and with TOB set in the TOB banks too. -/
def loftCheck (s : State) (c : Ctx) (f : MemF) (k : Nat) : Chk :=
  if f.mx.getLsbD 0 then
    ((checkLoft s c f k).addIf (decide (srcN s c f.ds.toNat k 1 % bytesSize f ≠ 0)) 2 3 (eaOf s c f k) 0).addIf
      (decide (c.wv.hdr.tobBanks * 16384 < srcN s c f.ds.toNat k 1 + bytesSize f)) 3 1 (srcN s c f.ds.toNat k 1) 1
  else checkLoft s c f k

/-- A strand of LOFT.LD in order has its bytes of the Loft and no finding. -/
theorem loftCheck_inOrder {s : State} {c : Ctx} {f : MemF} {k : Nat}
    (h : (loftWin + 65536 * (tenOf s c.wv.ids.tenancy).depot.lbase ≤ eaOf s c f k ∧
      eaOf s c f k + bytesSize f ≤ loftWin + 65536 * (tenOf s c.wv.ids.tenancy).depot.lbase +
        65536 * (tenOf s c.wv.ids.tenancy).depot.lsize ∧ eaOf s c f k % bytesSize f = 0) ∧
      (f.mx.getLsbD 0 = true → srcN s c f.ds.toNat k 1 % bytesSize f = 0 ∧
        srcN s c f.ds.toNat k 1 + bytesSize f ≤ c.wv.hdr.tobBanks * 16384)) :
    loftCheck s c f k = { strand := k, pas := (List.range (bytesSize f)).map (fun i => loftBase + (eaOf s c f k - loftWin) + i),
                          slots := List.replicate (bytesSize f) 257 } := by
  obtain ⟨hloft, htob⟩ := h
  unfold loftCheck
  rw [checkLoft_inside hloft]
  split
  · rename_i ht
    obtain ⟨hal, hin⟩ := htob ht
    simp [Chk.addIf, hal, Nat.not_lt.mpr hin]
  · rfl

theorem loftLd_starts (f : MemF) :
    let n := bytesSize f
    let d := f.ds.toNat
    let tob := f.mx.getLsbD 0
    Starts (.loftLd f) f.pn f.pred
      { ops := [{ reg := d, dst := !tob, cls := if tob then 9 else 41, wide := if tob then 1 else dataWide f, cause := 7, eng := true },
                { reg := f.base.toNat, cls := 11, wide := 2, cause := 7 }],
        modOk := decide (f.mx.toNat < 4) && !(f.mx.getLsbD 1 && (tob || decide (1 < f.size.toNat))) &&
          decide (regIndex f.base.toNat % 2 = 0),
        modCause := 7, memOk := decide (f.size.toNat ≤ 4 ∧ f.scope = 0 ∧ f.ann = 0 ∧ f.cop = 0) }
      (fun s c =>
        let p := (tenOf s c.wv.ids.tenancy).depot
        Walked s c ∧ ∀ k ∈ strandsOf c.q,
          (loftWin + 65536 * p.lbase ≤ eaOf s c f k ∧ eaOf s c f k + n ≤ loftWin + 65536 * p.lbase + 65536 * p.lsize ∧
            eaOf s c f k % n = 0) ∧
          (tob = true → srcN s c d k 1 % n = 0 ∧ srcN s c d k 1 + n ≤ c.wv.hdr.tobBanks * 16384))
      (fun s c => .loftLoad f.size.toNat (f.mx.getLsbD 1) (if tob then .none else destOf d) tob ((strandsOf c.q).map (fun k =>
        { strand := k, va := eaOf s c f k, pas := (List.range n).map (fun i => loftBase + (eaOf s c f k - loftWin) + i),
          slots := List.replicate n 257, data := [], tob := if tob then srcN s c d k 1 else 0 })))
      (fun c => if tob then [] else dstKeys d (dataWide f) c.q) 0 0 := by
  intro n d tob
  refine starts_of_row (fun _ => rfl) (fun s c h => if_pos h) fun s c hq ok => ?_
  obtain ⟨hw, hin⟩ := ok
  have hchk (k : Nat) (hk : k ∈ strandsOf c.q) := loftCheck_inOrder (hin k hk)
  have hok : InOrder s c ((strandsOf c.q).map (loftCheck s c f)) :=
    ⟨hw, map_clean fun k hk => by rw [hchk k hk]; exact ⟨rfl, rfl, rfl, rfl⟩⟩
  have hd := prepared_dropWalks s c.wv.ids.tenancy c.w c.slot
  refine ⟨dropWalks s c.wv.ids.tenancy c.w c.slot, hd, ?_⟩
  rw [if_neg hq]
  refine (onChecked_clean hok _).trans ?_
  have hl : ((strandsOf c.q).map (loftCheck s c f)).map (fun x =>
        laneOf (dropWalks s c.wv.ids.tenancy c.w c.slot) c f x [] (if tob then srcN (dropWalks s c.wv.ids.tenancy c.w c.slot) c d x.strand 1 else 0)) =
      (strandsOf c.q).map (fun k =>
        { strand := k, va := eaOf s c f k, pas := (List.range n).map (fun i => loftBase + (eaOf s c f k - loftWin) + i),
          slots := List.replicate n 257, data := [], tob := if tob then srcN s c d k 1 else 0 }) := by
    rw [List.map_map]
    refine List.map_congr_left fun k hk => ?_
    simp only [Function.comp_def, laneOf_prepared hd, srcN_prepared hd, hchk k hk]
    rfl
  exact congrArg (fun ls => Effect.done (newOp _ c (.loftLoad _ _ _ _ ls) _ 0 0)) hl

/-- LDNF (R203): the strands that a check fails are left out of the lanes, and go on record as bad. -/
theorem ldnf_starts (f : MemF) (s : State) (c : Ctx) (s2 : State) (c2 : Ctx) :
    let form := memForm f { ds := loadDst f 1, sizes := [0, 1, 2, 3, 4],
                            mxOk := decide ((f.mx.extractLsb' 0 3).toNat ≠ 7) && !(f.mx.getLsbD 3) }
    let chk := checkData s2 c2 f .read (bytesSize f) true
    let good (k : Nat) : Bool := (chk k).trap.isNone && (chk k).empty.isNone && (chk k).lost.isNone
    let noted := noteNF s2 c2 ((strandsOf c2.q).map chk)
    issued s f.pn f.pred form = some (c, s2, c2) →
    (c2.q = 0 → exec (.ldnf f) s = .next (ended s c c2 form (.done s2))) ∧
    (c2.q ≠ 0 → (∀ k ∈ strandsOf c2.q, (chk k).busy = false) → ∃ s3, Prepared noted s3 ∧
      exec (.ldnf f) s = .next (ended s c c2 form (.done (newOp s3 c2
        (.loadNF f.size.toNat (destOf f.ds.toNat) (f.mx.extractLsb' 0 3).toNat
          (((strandsOf c2.q).filter good).map (fun k => laneOf noted c2 f (chk k) [] 0))
          (maskOf ((strandsOf c2.q).filter (fun k => !(good k))))
          (pageLine noted c2.wv.ids.tenancy (eaOf s2 c2 f c2.low) c2.low))
        (dstKeys f.ds.toNat (dataWide f) c2.q) f.ann.toNat f.scope.toNat)))) := by
  intro form chk good noted h
  refine ⟨fun hq => exec_of_row (fun _ => rfl) h (if_pos hq), fun hq hbusy => ?_⟩
  have hb : ((strandsOf c2.q).map chk).any (fun x => x.busy) = false := by
    rw [List.any_eq_false]
    intro x hx
    obtain ⟨k, hk, rfl⟩ := List.mem_map.mp hx
    simp [hbusy k hk]
  have hgood : (((strandsOf c2.q).map chk).filter (fun x => x.trap.isNone && x.empty.isNone && x.lost.isNone)) =
      ((strandsOf c2.q).filter good).map chk := List.filter_map
  have hlanes : (((strandsOf c2.q).map chk).filter (fun x => x.trap.isNone && x.empty.isNone && x.lost.isNone)).map
      (fun x => laneOf noted c2 f x [] 0) = ((strandsOf c2.q).filter good).map (fun k => laneOf noted c2 f (chk k) [] 0) := by
    rw [hgood, List.map_map]
    rfl
  have hbad : ((((strandsOf c2.q).map chk).filter (fun x => !(x.trap.isNone && x.empty.isNone && x.lost.isNone))).map (fun x => x.strand)) =
      (strandsOf c2.q).filter (fun k => !(good k)) := by
    rw [List.filter_map, List.map_map]
    exact (List.map_congr_left fun k _ => checkData_strand s2 c2 f .read (bytesSize f) true k).trans (List.map_id _)
  obtain ⟨s3, hp, he⟩ := startMem_eq noted c2 f
    (.loadNF f.size.toNat (destOf f.ds.toNat) (f.mx.extractLsb' 0 3).toNat
      (((strandsOf c2.q).filter good).map (fun k => laneOf noted c2 f (chk k) [] 0))
      (maskOf ((strandsOf c2.q).filter (fun k => !(good k))))
      (pageLine noted c2.wv.ids.tenancy (eaOf s2 c2 f c2.low) c2.low))
    (dstKeys f.ds.toNat (dataWide f) c2.q) false ((((strandsOf c2.q).filter good).map chk).map (fun x => x.strand))
  refine ⟨s3, hp, exec_of_row (fun _ => rfl) h ?_⟩
  rw [if_neg hq]
  change (if ((strandsOf c2.q).map chk).any (fun x => x.busy) = true then _ else _) = _
  rw [hb, if_neg Bool.false_ne_true, ← he, ← hlanes, ← hgood, ← hbad]
  rfl

/-- Settles O38: each load by its lemma. -/
theorem loadsStart : Obligations.LoadsStart := fun f =>
  ⟨starts_loadRow f _ true (fun _ => rfl), starts_loadRow f _ false (fun _ => rfl), ldc_starts f, fun s c s2 c2 => ldnf_starts f s c s2 c2,
    ldf_starts f, ldt_starts f, lds_starts f, loftLd_starts f⟩

/-! ### Stores -/

/-- ST and STU (R201). -/
theorem starts_storeRow {i : Instr} (f : MemF) (r : MemRow) (al : Bool) (hi : ∀ s, exec i s = storeRow f r al s) :
    Starts i f.pn f.pred (memForm f r) (fun s c => InOrder s c ((strandsOf c.q).map (checkData s c f .write (bytesSize f) al)))
      (fun s c => .store f.size.toNat ((strandsOf c.q).map (fun k => laneOf s c f (checkData s c f .write (bytesSize f) al k)
        (bytesOf (bytesSize f) (srcN s c f.ds.toNat k (dataWide f))) 0)))
      (fun _ => []) f.ann.toNat f.scope.toNat := by
  refine starts_of_row hi (fun s c h => if_pos h) fun s c hq ok => ?_
  rw [if_neg hq]
  refine onChecked_startMem ok fun t ht => congrArg (OpKind.store _) ?_
  simp only [srcN_prepared ht]
  exact lanes_prepared ht c f (checkData_strand s c f _ _ _) (fun k => bytesOf (bytesSize f) (srcN s c f.ds.toNat k (dataWide f)))
    (fun _ => 0) _

theorem zerol_starts (f : MemF) :
    Starts (.zerol f) f.pn f.pred (memForm f { ds := { reg := f.ds.toNat, cls := 32 }, sizes := [0], anns := [0, 2], mxOk := mxZero f })
      (fun s c => InOrder s c ((strandsOf c.q).map (checkData s c f .write 128 true)))
      (fun s c => .store 7 ((strandsOf c.q).map (fun k =>
        laneOf s c f (checkData s c f .write 128 true k) (List.replicate 128 0) 0)))
      (fun _ => []) f.ann.toNat f.scope.toNat := by
  refine starts_of_row (fun _ => rfl) (fun s c h => if_pos h) fun s c hq ok => ?_
  rw [if_neg hq]
  exact onChecked_startMem ok fun t ht => congrArg (OpKind.store _)
    (lanes_prepared ht c f (checkData_strand s c f _ _ _) (fun _ => List.replicate 128 0) (fun _ => 0) _)

theorem stf_starts (f : MemF) :
    Starts (.stf f) f.pn f.pred (memForm f (fmtRow f (storeSrc f 9) [0, 2]))
      (fun s c => InOrder s c ((strandsOf c.q).map (checkFmt s c f .write)) ∧
        fmtBreach f (fmtVals s c f ((strandsOf c.q).map (checkFmt s c f .write))) = false)
      (fun s c => .storeFmt (fmtRows (fmtVals s c f ((strandsOf c.q).map (checkFmt s c f .write))))) (fun _ => [])
      f.ann.toNat f.scope.toNat := by
  refine starts_of_row (fun _ => rfl) (fun s c h => if_pos h) fun s c hq ⟨ok, hbreach⟩ => ?_
  have hd := prepared_dropWalks s c.wv.ids.tenancy c.w c.slot
  have hb : fmtBreach f (fmtVals (dropWalks s c.wv.ids.tenancy c.w c.slot) c f (c.strands.map (checkFmt s c f .write))) = false := by
    rw [fmtVals_prepared hd]
    exact hbreach
  obtain ⟨s3, hp, he⟩ := startMem_eq (dropWalks s c.wv.ids.tenancy c.w c.slot) c f
    (.storeFmt (fmtRows (fmtVals s c f ((strandsOf c.q).map (checkFmt s c f .write))))) [] true c.strands
  refine ⟨s3, hd.trans hp, ?_⟩
  rw [if_neg hq]
  refine (onChecked_clean ok _).trans ?_
  dsimp only
  rw [if_neg (by simp [hb]), ← he, fmtVals_prepared hd]
  rfl

theorem stt_starts (f : MemF) :
    Starts (.stt f) f.pn f.pred
      (memForm f { ds := { reg := f.ds.toNat, cls := 1 }, sizes := [2, 3, 4], anns := [0, 2], mxOk := mxZero f })
      (fun s c => InOrder s c ((strandsOf c.q).map (checkTob s c f .write)))
      (fun s c => .storeTob f.size.toNat
        ((strandsOf c.q).map (fun k => laneOf s c f (checkTob s c f .write k) [] (srcN s c f.ds.toNat k 1))))
      (fun _ => []) f.ann.toNat f.scope.toNat := by
  refine starts_of_row (fun _ => rfl) (fun s c h => if_pos h) fun s c hq ok => ?_
  rw [if_neg hq]
  refine onChecked_startMem ok fun t ht => congrArg (OpKind.storeTob _) ?_
  simp only [srcN_prepared ht]
  exact lanes_prepared ht c f (checkTob_strand s c f _) (fun _ => []) (fun k => srcN s c f.ds.toNat k 1) _

theorem sts_starts (f : MemF) :
    Starts (.sts f) f.pn f.pred (spadForm f { storeSrc f 11 with cause := 7 } [0, 1, 2, 3, 4] [0, 2] (mxZero f) false)
      (fun s c => ∀ k ∈ strandsOf c.q, offOf s c f k % bytesSize f = 0 ∧ offOf s c f k + bytesSize f ≤ c.wv.hdr.spad)
      (fun s c => .spStore f.size.toNat ((strandsOf c.q).map (fun k =>
        spadLane c.wv.ids.basket k (offOf s c f k) (bytesSize f) (bytesOf (bytesSize f) (srcN s c f.ds.toNat k (dataWide f))))))
      (fun _ => []) f.ann.toNat 0 := by
  refine starts_of_row (fun _ => rfl) (fun s c h => if_pos h) fun s c hq ok => ?_
  rw [if_neg hq]
  exact spad_starts ok

/-- Settles O39: each store by its lemma. -/
theorem storesStart : Obligations.StoresStart := fun f =>
  ⟨starts_storeRow f _ true (fun _ => rfl), starts_storeRow f _ false (fun _ => rfl), zerol_starts f, stf_starts f, stt_starts f,
    sts_starts f⟩

end Sys2Proof.Machine
end

section
/-!
The Porter's other instructions (spec/09_porter.md R208 to R216): maintenance, addresses, probes, fences and waits.
-/

namespace Sys2Proof.Machine

open Sys2Proof

theorem fence_does (r : RRR) : Does (.fence r) r.pn r.pred
    { ops := rrrNone r,
      modOk := decide (aAnn r.mod ≠ 0 ∧ aType r.mod = 0 ∧ aOp r.mod = 0 ∧ r.mod.extractLsb' 0 3 = 0) } (fun s c =>
    if c.once = false then .done s
    else if aAnn r.mod = 1 then .done (newOp s { c with hdr := 0x0000_0FF0_0000_0000, q := 0 } .fence [] 1 (aScope r.mod))
    else .done (newOp s c .fence [] (aAnn r.mod) (aScope r.mod))) := by
  refine does_of_row_eq (fun _ => rfl) fun s c s2 c2 _ => ?_
  cases c2.once with
  | false => rfl
  | true =>
    by_cases ha : aAnn r.mod = 1
    · simp [ha]
    · simp [ha]

theorem genrd_does (r : RRR) : Does (.genrd r) r.pn r.pred
    { ops := [dstIn 2 r.dst, unused r.sa, unused r.sb, unused r.sc], modOk := modZero16 r.mod } (fun s c =>
    if c.once then
      .done (writeDst s c r.dst.toNat 1 (fun _ => ((shopOf s c.wv.shop).wraps ++ (shopOf s c.wv.shop).gen).toNat))
    else .done s) :=
  does_of_row fun _ => rfl

theorem wbl_starts (f : MemF) :
    let keep (s : State) (c : Ctx) := (strandsOf c.q).filter (fun k => !(decide (loftWin ≤ eaOf s c f k ∧ eaOf s c f k < 2 ^ 57)) &&
      (match access s c.wv.ids.tenancy (eaOf s c f k) .write (60000 + k) with | .prot 3 => false | _ => true))
    let chk (s : State) (c : Ctx) (k : Nat) := checkData s c f .write 1 false k
    Starts (.wbl f) f.pn f.pred (memForm f (lineRow f (decide (f.cop = 0)))) (fun s c => InOrder s c ((keep s c).map (chk s c)))
      (fun s c => .writeBack ((keep s c).map (fun k => laneOf s c f (chk s c k) [] 0))) (fun _ => []) 0 0 := by
  intro keep chk
  refine starts_of_row (fun _ => rfl) (fun s c h => if_pos h) fun s c hq ok => ?_
  have hd := prepared_dropWalks s c.wv.ids.tenancy c.w c.slot
  refine ⟨dropWalks s c.wv.ids.tenancy c.w c.slot, hd, ?_⟩
  rw [if_neg hq]
  refine (onChecked_clean ok _).trans (congrArg (fun ls => Effect.done (newOp _ c (.writeBack ls) [] 0 0)) ?_)
  exact lanes_prepared hd c f (checkData_strand s c f .write 1 false) (fun _ => []) (fun _ => 0) _

/-- No walk of the issuing PROBE is held by a lease. -/
theorem probe_starts (f : MemF) :
    Starts (.probe f) f.pn f.pred (memForm f { ds := dstIn 1 f.ds, sizes := [2], mxOk := mxZero f, copOk := decide (f.cop = 0) })
      (fun s c => ∀ k ∈ strandsOf c.q, eaOf s c f k < 2 ^ 57 → ∀ sl, translate s c.wv.ids.tenancy (eaOf s c f k) (60000 + k) ≠ .busy sl)
      (fun s c => .probe (destOf f.ds.toNat) ((strandsOf c.q).map (fun k =>
        (vKey f.ds.toNat k, probeWord s c.wv.ids.tenancy (eaOf s c f k) k)))) (fun c => dstKeys f.ds.toNat 1 c.q) 0 0 := by
  refine starts_of_row (fun _ => rfl) (fun s c h => if_pos h) fun s c hq ok => ⟨s, Prepared.refl s, ?_⟩
  rw [if_neg hq]
  refine if_neg ?_
  rw [List.any_eq_true]
  rintro ⟨k, hk, hb⟩
  split at hb
  · rename_i sl ht
    exact ok k hk (by simpa using hb) sl ht
  · cases hb

/-- WAITL (R214), at its first issue by what the address gives, and when it wakes. -/
theorem waitl_does (f : MemF) (s : State) (c : Ctx) (s2 : State) (c2 : Ctx) :
    let form := memForm f { ds := dstIn 34 f.ds, sizes := [0], mxOk := decide (f.mx.toNat ≤ 12), copOk := decide (f.cop = 0),
                            waits := true }
    issued s f.pn f.pred form = some (c, s2, c2) →
    let wake (code : Nat) := exec (.waitl f) s = .next (ended s c c2 form (.done (writeDst s2 c2 f.ds.toNat 1 (fun _ => code))))
    (c2.held = none → c2.once = true →
      (∀ s3 code, watchStart s2 c2 (eaOf s2 c2 f c2.low) = .wake s3 code →
        exec (.waitl f) s = .next (ended s c c2 form (.done (writeDst s3 c2 f.ds.toNat 1 (fun _ => code))))) ∧
      (∀ s3, watchStart s2 c2 (eaOf s2 c2 f c2.low) = .walk s3 →
        exec (.waitl f) s = .next (ended s c c2 form (.stay s3 (some .memory)))) ∧
      (∀ line coh, watchStart s2 c2 (eaOf s2 c2 f c2.low) = .line line coh →
        let s3 := dropWalks s2 c2.wv.ids.tenancy c2.w c2.slot
        exec (.waitl f) s = .next (ended s c c2 form
          (if noFreeWatch s2 line then .hold s3 .monitor (.noWatch (s2.cycles + 256))
           else .hold s3 .monitor (.monitor line (s2.cycles + 2 ^ (f.mx.toNat + 8)) none)
             (if coh = 0 then [] else [(selfKey, BitVec.ofNat 32 coh)]))))) ∧
    (∀ h line n code, c2.held = some h → h.restored = false → h.wait = .monitor line n (some code) → wake code) := by
  intro form h wake
  refine ⟨fun hheld honce => ⟨fun s3 code hw => ?_, fun s3 hw => ?_, fun line coh hw => ?_⟩, fun x line n code hheld hr hwait => ?_⟩
  · exact exec_of_row (fun _ => rfl) h (by simp only [hheld, honce, hw, if_true])
  · exact exec_of_row (fun _ => rfl) h (by simp only [hheld, honce, hw, if_true])
  · exact exec_of_row (fun _ => rfl) h (by simp only [hheld, honce, hw, if_true])
  · exact exec_of_row (fun _ => rfl) h (by simp only [hheld, hr, hwait, Bool.false_eq_true, if_false])

/-- Settles O40: each instruction by its lemma; PROBE's report of a window or trap block and its walk are the model's choice (log 64), as
are WAITL's free watch and the code of its wake (log 34). -/
theorem porterOthersComplete : Obligations.PorterOthersComplete := fun f =>
  ⟨does_of_row fun _ => rfl, does_of_row fun _ => rfl, wbl_starts f, does_of_row fun _ => rfl, probe_starts f, fence_does, genrd_does,
    fun s c s2 c2 => waitl_does f s c s2 c2⟩

end Sys2Proof.Machine
end

section
/-!
The Stockroom's instructions (spec/10_stockroom.md R222 to R238): with their words aligned and inside SPAD nothing traps, and what is left
is the operation, or the wait, of each.
-/

namespace Sys2Proof.Machine

open Sys2Proof

/-! ### Atomics on the scratchpad -/

/-- ATOMS and CASS (R225). -/
theorem starts_spadAtomic {i : Instr} (f : RRR) (kind : AtomKind) (sc : Nat → Opnd) (ok : Bool)
    (hi : ∀ s, exec i s = spadAtomic f kind sc ok s) :
    let t := aType f.mod
    let wide := if t = 2 ∨ t = 3 then 2 else 1
    Starts i f.pn f.pred
      { ops := [atomDst f.dst wide, srcIn 27 f.sa, atomSrc f.sb wide, sc wide],
        modOk := ok && decide (aScope f.mod = 0) && decide (f.mod.extractLsb' 0 3 = 0) }
      (fun s c => ∀ k ∈ strandsOf c.q, srcN s c f.sa.toNat k 1 % (4 * wide) = 0 ∧ srcN s c f.sa.toNat k 1 + 4 * wide ≤ c.wv.hdr.spad)
      (fun s c => .spAtomic kind t (destOf f.dst.toNat) ((strandsOf c.q).map (atomLane s c f wide)))
      (fun c => dstKeys f.dst.toNat wide c.q) (aAnn f.mod) 0 := by
  intro t wide
  refine starts_of_row hi (fun s c h => if_pos h) fun s c hq hok => ?_
  rw [if_neg hq]
  exact spad_starts hok

/-! ### Full/empty words -/

/-- The access is counted at its first issue only. -/
theorem prepared_countFirst (s : State) (c : Ctx) (n : Nat) : Prepared s (if c.held.isNone then countSpad s c n else s) := by
  split
  · exact prepared_countW s c.wv 24 n
  · exact Prepared.refl s

/-- FEFILL, FETAKE and FEREAD act when their words are ready, and wait otherwise (R229, R230). -/
theorem exec_feRow {i : Instr} {f : MemF} {ds : Opnd} {kind : List Lane → OpKind} {ann : Nat}
    {act : State → Ctx → Basket → List Nat → State} (hi : ∀ s, exec i s = feRow f ds kind ann act s) {s : State} {c : Ctx} {s2 : State}
    {c2 : Ctx} {B : Basket} (h : issued s f.pn f.pred (spadForm f ds [2] [0] (mxZero f) true) = some (c, s2, c2)) (hq : c2.q ≠ 0)
    (hok : ∀ k ∈ strandsOf c2.q, offOf s2 c2 f k % 4 = 0 ∧ offOf s2 c2 f k + 4 ≤ c2.wv.hdr.spad) (hB : basketOf s2 c2.wv = some B) :
    let ws := feNamed s2 c2 f
    let since := match c2.held with | some h => h.since | none => s2.steps
    let ready := feReady B c2.word ws && !(ws.any (fun x => feAhead s2 c2.wv.ids.basket B x since)) &&
      issueMay s2 c2 (kind (ws.map (fun x => spadLane c2.wv.ids.basket 0 x 4 []))) ann
    ∃ s3, Prepared s2 s3 ∧ exec i s = .next (ended s c c2 (spadForm f ds [2] [0] (mxZero f) true)
      (if ready then .done (settle (act s3 c2 B ws) c2.wv.shop)
       else .hold s3 .fullEmpty .retry (ws.map (fun x => (feKey x, 1#32))))) := by
  intro ws since ready
  refine ⟨_, prepared_countFirst s2 c2 c2.strands.length, exec_of_row hi h ?_⟩
  rw [if_neg hq, show c2.strands = strandsOf c2.q from rfl, spadTrap_none hok, hB] <;> rfl

theorem fereset_starts (f : MemF) :
    Starts (.fereset f) f.pn f.pred (spadForm f (unused f.ds) [2] [0] (decide (f.mx.toNat ≤ 1)) false)
      (fun s c => ∀ k ∈ strandsOf c.q, offOf s c f k % 4 = 0 ∧ offOf s c f k + 4 ≤ c.wv.hdr.spad)
      (fun s c => .feReset (f.mx.getLsbD 0) (feNamed s c f)) (fun _ => []) 0 0 := by
  refine starts_of_row (fun _ => rfl) (fun s c h => if_pos h) fun s c hq hok => ?_
  rw [if_neg hq]
  exact spad_starts hok

/-! ### Barrier words -/

/-- The word of an instruction that acts once, aligned and inside SPAD, does not trap. -/
theorem onceTrap_none {c : Ctx} {off n al ca k : Nat} (h : off % al = 0 ∧ off + n ≤ c.wv.hdr.spad) :
    onceTrap c (checkSpad c off n al ca k) = none := by
  obtain ⟨hal, hin⟩ := h
  simp [onceTrap, checkSpad, Chk.addIf, hal, Nat.not_lt.mpr hin]

/-- BARA and BARX start their request, unless R232 would hold it while the buffer is full (R230, R233). -/
theorem exec_barRow {i : Instr} {f : MemF} {ds : Opnd} {mxOk : Bool} {req : State → Ctx → BarReq} {dest : Bool}
    (hi : ∀ s, exec i s = barRow f ds mxOk req dest s) {s : State} {c : Ctx} {s2 : State} {c2 : Ctx} {B : Basket}
    (h : issued s f.pn f.pred (spadForm f ds [4] [0] mxOk false) = some (c, s2, c2)) :
    (c2.once = false → exec i s = .next (ended s c c2 (spadForm f ds [4] [0] mxOk false) (.done s2))) ∧
    (c2.once = true → (offOf s2 c2 f c2.low % 16 = 0 ∧ offOf s2 c2 f c2.low + 16 ≤ c2.wv.hdr.spad) → basketOf s2 c2.wv = some B →
      (barHeld (barAt B (offOf s2 c2 f c2.low)) (req s2 c2) = false ∨ pendingRoom s2 c2.wv.shop = true) →
      ∃ s3, Prepared s2 s3 ∧ exec i s = .next (ended s c c2 (spadForm f ds [4] [0] mxOk false)
        (.done (newOp s3 c2 (.barrier (offOf s2 c2 f c2.low) (req s2 c2) (if dest then destOf f.ds.toNat else .none))
          (if dest then dstKeys f.ds.toNat 1 c2.q else []) (if (req s2 c2).a = 1 then 2 else 0) 0)))) := by
  refine ⟨fun ho => exec_of_row hi h (if_neg (by simp [ho])), fun ho hok hB hroom => ?_⟩
  refine ⟨_, prepared_countW s2 c2.wv 24 1, exec_of_row hi h ?_⟩
  have hgo : ¬ ((barHeld (barAt B (offOf s2 c2 f c2.low)) (req s2 c2) && !(pendingRoom s2 c2.wv.shop)) = true) := by
    rcases hroom with hr | hr <;> simp [hr]
  rw [if_pos ho]
  dsimp only
  rw [onceTrap_none hok, hB]
  exact if_neg hgo

/-- BARW waits while its round is the one named (R233, R234). -/
theorem exec_barw {f : MemF} {s : State} {c : Ctx} {s2 : State} {c2 : Ctx} {B : Basket}
    (h : issued s f.pn f.pred (spadForm f { reg := f.ds.toNat, cls := 11 } [4] [0] (mxZero f) true) = some (c, s2, c2))
    (ho : c2.once = true) (hok : offOf s2 c2 f c2.low % 16 = 0 ∧ offOf s2 c2 f c2.low + 16 ≤ c2.wv.hdr.spad)
    (hB : basketOf s2 c2.wv = some B) :
    let off := offOf s2 c2 f c2.low
    ∃ s3, Prepared s2 s3 ∧
      exec (.barw f) s = .next (ended s c c2 (spadForm f { reg := f.ds.toNat, cls := 11 } [4] [0] (mxZero f) true)
        (if (barAt B off).round = srcN s2 c2 f.ds.toNat c2.low 1 ∨
            issueMay s2 c2 (.spLoad 4 false .none [spadLane c2.wv.ids.basket 0 off 16 []]) 1 = false then .hold s3 .barrier .retry
         else .done (observe (modWeave s3 c2.w (fun wv => learnView wv c2.sp.mask (spSaw s3 c2.wv.ids.basket off 16))) c2.w c2.sp.mask
          ((look B.barDone off).getD [])))) := by
  refine ⟨_, prepared_countFirst s2 c2 1, exec_of_row (fun _ => rfl) h ?_⟩
  rw [if_pos ho]
  dsimp only
  rw [onceTrap_none hok, hB]

/-! ### Named barriers and images -/

/-- NBSYNC arrives at its first issue, where it may (R236, R237). -/
theorem exec_nbsync_first {f : RRR} {s : State} {c : Ctx} {s2 : State} {c2 : Ctx}
    (h : issued s f.pn f.pred (nbForm f true) = some (c, s2, c2)) (hheld : c2.held = none) (ho : c2.once = true)
    (hmay : issueMay s2 c2 (.namedArrive (modOPX f.mod) 0) 2 = true) :
    let m := basketRelease s2 c2
    let ms := match basketOf s2 c2.wv with | some B => (nbOf B (modOPX f.mod)).now ++ [m] | none => []
    let r := nbArrive s2 c2.wv.ids.basket (modOPX f.mod) (nbCount s2 c2 f) m
    let s3 := modWeave r.1 c2.w (fun wv => { wv with guard := 0 })
    exec (.nbsync f) s = .next (ended s c c2 (nbForm f true)
      (if r.2 then .done (observe s3 c2.w c2.sp.mask ms)
       else .hold (modBasket s3 c2.wv.ids.basket (fun B =>
          { B with nb := put B.nb (modOPX f.mod) { nbOf B (modOPX f.mod) with
              waiters := (nbOf B (modOPX f.mod)).waiters ||| (1#128 <<< (4 * c2.wv.ids.wid + c2.slot)) } })) .barrier (.phase false))) := by
  intro m ms r s3
  refine exec_of_row (fun _ => rfl) h ?_
  simp only [hheld, ho, hmay, if_true]
  rfl

theorem exec_nbsync_phase {f : RRR} {s : State} {c : Ctx} {s2 : State} {c2 : Ctx} {x : Held}
    (h : issued s f.pn f.pred (nbForm f true) = some (c, s2, c2)) (hheld : c2.held = some x) (hw : x.wait = .phase true) :
    exec (.nbsync f) s = .next (ended s c c2 (nbForm f true) (.done s2)) :=
  exec_of_row (fun _ => rfl) h (by simp only [hheld, hw])

/-- BSAVE and BRESTORE (R238). -/
theorem exec_imageRow {i : Instr} {f : RRR} {kind : Nat → OpKind} (hi : ∀ s, exec i s = imageRow f kind s) {s : State} {c : Ctx}
    {s2 : State} {c2 : Ctx} (h : issued s f.pn f.pred (imageForm f) = some (c, s2, c2)) (ho : c2.once = true) :
    let off := srcN s2 c2 f.sa.toNat c2.low 1
    off % 64 = 0 → off + 512 ≤ c2.wv.hdr.spad →
    ∃ s3, Prepared s2 s3 ∧ exec i s = .next (ended s c c2 (imageForm f) (.done (newOp s3 c2 (kind off) [] 0 0))) := by
  intro off hal hin
  refine ⟨_, prepared_countW s2 c2.wv 24 1, exec_of_row hi h ?_⟩
  rw [if_pos ho]
  dsimp only
  rw [onceTrap_none ⟨hal, hin⟩]
  rfl

/-- Settles O41: each shape of instruction by its lemma. -/
theorem stockroomCompletes : Obligations.StockroomCompletes := by
  refine ⟨fun f => ⟨?atoms, ?cass⟩, fun f => ⟨?fill, ?take, ?read, fereset_starts f, ⟨?bara, ?barx⟩,
    fun _ _ _ _ _ h ho hok hB => exec_barw h ho hok hB⟩, fun f => ⟨fun _ _ _ _ h hheld ho hmay => exec_nbsync_first h hheld ho hmay,
    fun _ _ _ _ _ h hheld hw => exec_nbsync_phase h hheld hw, does_of_row fun _ => rfl, ?bsave, ?brestore⟩⟩
  case atoms => exact starts_spadAtomic f _ (fun _ => unused f.sc) _ fun _ => rfl
  case cass => exact starts_spadAtomic f _ (atomSrc f.sc) _ fun _ => rfl
  case fill =>
    intro s c s2 c2 B h hq hok hB
    exact exec_feRow (fun s => (show exec (.fefill f) s = execFefill f s from rfl).trans rfl) h hq hok hB
  case take =>
    intro s c s2 c2 B h hq hok hB
    exact exec_feRow (fun s => (show exec (.fetake f) s = execFetake f s from rfl).trans rfl) h hq hok hB
  case read =>
    intro s c s2 c2 B h hq hok hB
    exact exec_feRow (fun s => (show exec (.feread f) s = execFeread f s from rfl).trans rfl) h hq hok hB
  case bara =>
    intro s c s2 c2 B h
    exact exec_barRow (fun s => (show exec (.bara f) s = execBara f s from rfl).trans rfl) h
  case barx =>
    intro s c s2 c2 B h
    exact exec_barRow (fun s => (show exec (.barx f) s = execBarx f s from rfl).trans rfl) h
  case bsave =>
    intro s c s2 c2 h ho
    exact exec_imageRow (fun s => (show exec (.bsave f) s = execBsave f s from rfl).trans rfl) h ho
  case brestore =>
    intro s c s2 c2 h ho
    exact exec_imageRow (fun s => (show exec (.brestore f) s = execBrestore f s from rfl).trans rfl) h ho

end Sys2Proof.Machine
end

section
/-!
Device-memory atomics start (spec/13_clerk.md R272 to R281), and misaligned loads and stores trap (spec/09_porter.md R200, R217).
-/

namespace Sys2Proof.Machine

open Sys2Proof

/-! ### Atomics (O42) -/

theorem atomEA_prepared {s t : State} (h : Prepared s t) (c : Ctx) (f : RRR) (k : Nat) : atomEA t c f k = atomEA s c f k := by
  simp only [atomEA, srcN_prepared h]

theorem clerkLanes_prepared {s t : State} (h : Prepared s t) (c : Ctx) (f : RRR) (r : AtomRow) (cs : List Chk) :
    clerkLanes t c f r cs = clerkLanes s c f r cs := by
  simp only [clerkLanes, atomEA_prepared h, srcN_prepared h]

/-- An atomic whose addresses are in order takes its return slot, and its requests go to the Clerks. -/
theorem exec_atomRow {i : Instr} {f : RRR} {r : AtomRow} (hi : ∀ s, exec i s = atomRow f r s) {s : State} {c : Ctx} {s2 : State}
    {c2 : Ctx} (h : issued s f.pn f.pred (atomForm f r) = some (c, s2, c2)) :
    let returns := r.ret && decide (f.dst ≠ 511)
    let chk (s : State) (c : Ctx) := (if oneAddress r.form then [c.low] else strandsOf c.q).map (checkAtom s c f (4 * r.wide))
    (c2.q = 0 → exec i s = .next (ended s c c2 (atomForm f r) (.done s2))) ∧
    (c2.q ≠ 0 → InOrder s2 c2 (chk s2 c2) → (returns = true → c2.wv.returns < 16) →
      ∃ s3, Prepared s2 s3 ∧
        let lanes := clerkLanes s2 c2 f r (chk s2 c2)
        let s4 := newOp s3 c2 (.clerk lanes) (if returns then dstKeys f.dst.toNat r.wide c2.q else []) (aAnn f.mod) (aScope f.mod)
        let s5 := modWeave s4 c2.w (fun wv => if returns then
          { wv with returns := wv.returns + 1,
                    atomsN := (strandsOf c2.q).foldl (fun t k => put t k ((look t k).getD 0 + 1)) c2.wv.atomsN } else wv)
        exec i s = .next (ended s c c2 (atomForm f r) (.done (sendRequests s5 c2.wv
          { op := s2.nextOp, w := c2.w, lot := c2.wv.ids.lot, tenancy := c2.wv.ids.tenancy, home := 0, form := r.form,
            kind := r.kind, type := aType f.mod, size := 4 * r.wide, dst := if returns then destOf f.dst.toNat else .none,
            lanes := [] } lanes)))) := by
  intro returns chk
  have hret : (r.ret && decide (f.dst.toNat ≠ 511)) = returns := by
    have : f.dst.toNat = 511 ↔ f.dst = 511 := by rw [← BitVec.toNat_inj]; rfl
    simp only [returns, ne_eq, this]
  refine ⟨fun hq => exec_of_row hi h (if_pos hq), fun hq hok hslot => ?_⟩
  have hd := prepared_dropWalks s2 c2.wv.ids.tenancy c2.w c2.slot
  refine ⟨_, hd.trans (prepared_cachePages _ c2.wv.ids.tenancy ((clerkLanes s2 c2 f r (chk s2 c2)).map (fun l => l.va))),
    exec_of_row hi h ?_⟩
  have hfull : ¬ ((returns && decide (16 ≤ c2.wv.returns)) = true) := by
    rw [Bool.and_eq_true, decide_eq_true_eq]
    exact fun ⟨h1, h2⟩ => absurd (hslot h1) (by omega)
  have hnext : (dropWalks s2 c2.wv.ids.tenancy c2.w c2.slot).nextOp = s2.nextOp := by rw [hd]
  rw [if_neg hq]
  refine (onChecked_clean hok _).trans ?_
  dsimp only
  rw [hret, if_neg hfull, clerkLanes_prepared hd, hnext]
  rfl

/-- Settles O42. -/
theorem atomicsStart : Obligations.AtomicsStart := by
  intro f
  refine ⟨?atom, ?red, ?cas, ?cas128, ?atomu, ?redu, ?casu, ?reda⟩
  case atom => exact fun s c s2 c2 h => exec_atomRow (fun s => (show exec (.atom f) s = execAtom f s from rfl).trans rfl) h
  case red => exact fun s c s2 c2 h => exec_atomRow (fun s => (show exec (.red f) s = execRed f s from rfl).trans rfl) h
  case cas => exact fun s c s2 c2 h => exec_atomRow (fun s => (show exec (.cas f) s = execCas f s from rfl).trans rfl) h
  case cas128 => exact fun s c s2 c2 h => exec_atomRow (fun s => (show exec (.cas128 f) s = execCas128 f s from rfl).trans rfl) h
  case atomu => exact fun s c s2 c2 h => exec_atomRow (fun s => (show exec (.atomu f) s = execAtomu f s from rfl).trans rfl) h
  case redu => exact fun s c s2 c2 h => exec_atomRow (fun s => (show exec (.redu f) s = execRedu f s from rfl).trans rfl) h
  case casu => exact fun s c s2 c2 h => exec_atomRow (fun s => (show exec (.casu f) s = execCasu f s from rfl).trans rfl) h
  case reda => exact fun s c s2 c2 h => exec_atomRow (fun s => (show exec (.reda f) s = execReda f s from rfl).trans rfl) h

/-! ### Misaligned accesses (O58) -/

/-- The trap of a check, if any, is of class 4: its bytes were looked at, not its alignment. -/
def Chk.TrapsLate (x : Chk) : Prop := ∀ t, x.trap = some t → t.1 = 4

theorem checkPiece_trapsLate {s : State} {t ea : Nat} {kind : Kind} {c : Chk} (p : Nat × Nat) (h : c.TrapsLate) :
    (checkPiece s t kind ea c p).TrapsLate := by
  unfold checkPiece
  dsimp only
  split
  · exact h
  · exact h
  · intro y hy
    unfold Chk.add at hy
    split at hy
    · split at hy
      · cases hy; rfl
      · exact h y hy
    · cases hy; rfl
  · split
    · exact h
    · exact h
  · exact h
  · split
    · exact h
    · exact h

theorem checkStrand_trapsLate (s : State) (t : Nat) (kind : Kind) (k ea n : Nat) : (checkStrand s t kind k ea n).TrapsLate :=
  foldl_keeps Chk.TrapsLate _ (fun _ p h => checkPiece_trapsLate p h) _ _ (fun _ h => by cases h)

/-- A misaligned access traps for its alignment, whatever its bytes meet. -/
theorem checkData_misaligned {s : State} {c : Ctx} {f : MemF} {kind : Kind} {n k : Nat} (h : eaOf s c f k % n ≠ 0) :
    (checkData s c f kind n true k).trap = some (2, 3, eaOf s c f k, 0) := by
  have hlate := checkStrand_trapsLate s c.wv.ids.tenancy kind k (eaOf s c f k) n
  simp only [checkData, h, Bool.true_and, ne_eq, not_false_eq_true, decide_true, Chk.addIf, if_true, Chk.add]
  split
  · rename_i t ht
    have h4 : _ = 4 := hlate _ ht
    rw [if_pos (by simp only at h4; omega)]
  · rfl

theorem checkData_aligned {s : State} {c : Ctx} {f : MemF} {kind : Kind} {n k : Nat} (h : eaOf s c f k % n = 0) :
    (checkData s c f kind n true k).TrapsLate := by
  simp only [checkData, h, Bool.true_and, ne_eq, not_true_eq_false, decide_false, Chk.addIf, Bool.false_eq_true, if_false]
  exact checkStrand_trapsLate _ _ _ _ _ _

/-- The least class of traps of which one has class 2 and none a lower one. -/
theorem leastClass {ts : List (Nat × Nat × Nat × Nat × Nat)} (hge : ∀ x ∈ ts, 2 ≤ x.2.1) {a : Nat} (ha : 2 ≤ a)
    (h : a = 2 ∨ ∃ x ∈ ts, x.2.1 = 2) : ts.foldl (fun a x => min a x.2.1) a = 2 := by
  induction ts generalizing a with
  | nil =>
    rcases h with h | ⟨x, hx, -⟩
    · exact h
    · cases hx
  | cons y ts ih =>
    have hy := hge y List.mem_cons_self
    rw [List.foldl_cons]
    refine ih (fun x hx => hge x (List.mem_cons_of_mem _ hx)) (by omega) ?_
    rcases h with h | ⟨x, hx, h2⟩
    · left; omega
    · rcases List.mem_cons.mp hx with rfl | hx
      · left; omega
      · exact .inr ⟨x, hx, h2⟩

/-- Traps of class 2, and later ones beside them, give together the trap of those of class 2 (R217). -/
theorem worst_class2 {ts xs : List (Nat × Nat × Nat × Nat × Nat)} {x : Nat × Nat × Nat × Nat × Nat} (hge : ∀ y ∈ ts, 2 ≤ y.2.1)
    (h : ts.filter (fun y => decide (y.2.1 = 2)) = x :: xs) :
    worst ts = some { cls := 2, cause := x.2.2.1, lanes := maskOf ((x :: xs).map (fun y => y.1)), addr := x.2.2.2.1, info := x.2.2.2.2 } := by
  have hx : x ∈ ts.filter (fun y => decide (y.2.1 = 2)) := by rw [h]; exact List.mem_cons_self
  obtain ⟨hmem, hcls⟩ := List.mem_filter.mp hx
  have hleast := leastClass hge (a := 9) (by omega) (.inr ⟨x, hmem, by simpa using hcls⟩)
  unfold worst
  simp only [hleast, h, ne_eq, Nat.reduceEqDiff, not_false_eq_true, true_or, decide_true, List.filter_eq_self.mpr fun _ _ => rfl]

/-- The strands that trap for class 2 among the strands' traps. -/
theorem filter_class2 {g : Nat → Option (Nat × Nat × Nat × Nat × Nat)} {v : Nat → Nat × Nat × Nat × Nat × Nat} {bad : Nat → Bool}
    (hbad : ∀ k, bad k = true → g k = some (v k) ∧ (v k).2.1 = 2) (hgood : ∀ k, bad k = false → ∀ y, g k = some y → 2 < y.2.1)
    (ks : List Nat) : (ks.filterMap g).filter (fun y => decide (y.2.1 = 2)) = (ks.filter bad).map v := by
  induction ks with
  | nil => rfl
  | cons k ks ih =>
    cases hk : bad k with
    | true =>
      obtain ⟨hg, hv⟩ := hbad k hk
      simp [hg, hv, hk, ih]
    | false =>
      cases hg : g k with
      | none => simp [hg, hk, ih]
      | some y =>
        have := hgood k hk y hg
        simp [hg, hk, ih, show ¬ y.2.1 = 2 by omega]

section Misaligned

variable {s : State} {c : Ctx} {f : MemF} {kind : Kind} {n : Nat}

/-- The strands whose address is not a multiple of n. -/
def misaligned (s : State) (c : Ctx) (f : MemF) (n k : Nat) : Bool := decide (eaOf s c f k % n ≠ 0)

/-- Every trap of the strands has class 2, 4 or 5. -/
theorem strandTraps_class_ge {ks : List Nat} :
    ∀ y ∈ strandTraps s c (ks.map (checkData s c f kind n true)), 2 ≤ y.2.1 := by
  intro y hy
  unfold strandTraps at hy
  rw [List.filterMap_map, List.mem_filterMap] at hy
  obtain ⟨k, -, hk⟩ := hy
  simp only [Function.comp_def] at hk
  split at hk
  · rename_i htrap
    cases hk
    by_cases h : eaOf s c f k % n = 0
    · have h4 := checkData_aligned h _ htrap
      simp only at h4 ⊢
      omega
    · rw [checkData_misaligned h] at htrap
      cases htrap
      exact Nat.le_refl 2
  · cases hk; exact (by decide : 2 ≤ 5)
  · cases hk; exact (by decide : 2 ≤ 5)
  · cases hk

/-- Those of class 2 are of the misaligned strands. -/
theorem strandTraps_class2 {ks : List Nat} :
    (strandTraps s c (ks.map (checkData s c f kind n true))).filter (fun y => decide (y.2.1 = 2)) =
      (ks.filter (misaligned s c f n)).map (fun k => (k, 2, 3, eaOf s c f k, 0)) := by
  unfold strandTraps
  rw [List.filterMap_map]
  refine filter_class2 (fun k hk => ?_) (fun k hk y hy => ?_) ks
  · have h : eaOf s c f k % n ≠ 0 := of_decide_eq_true hk
    simp only [Function.comp_def, checkData_misaligned h, checkData_strand, and_self]
  · have h : eaOf s c f k % n = 0 := by simpa [misaligned] using hk
    have hlate := checkData_aligned (s := s) (c := c) (kind := kind) h
    simp only [Function.comp_def] at hy
    split at hy
    · rename_i htrap
      cases hy
      have h4 := hlate _ htrap
      simp only at h4 ⊢
      omega
    · cases hy; exact (by decide : 2 < 5)
    · cases hy; exact (by decide : 2 < 5)
    · cases hy

/-- A misaligned strand decides the trap before any walk is waited for (R217). -/
theorem onChecked_misaligned {ks : List Nat} (go : State → Effect) (h : ks.filter (misaligned s c f n) ≠ []) :
    onChecked s c kind (ks.map (checkData s c f kind n true)) go =
      .doneTrap (dropWalks s c.wv.ids.tenancy c.w c.slot)
        { cls := 2, cause := 3, lanes := maskOf (ks.filter (misaligned s c f n)),
          addr := eaOf s c f ((ks.filter (misaligned s c f n)).headD 0) } := by
  obtain ⟨k, bad, hbad⟩ := List.exists_cons_of_ne_nil h
  have hk : k ∈ ks.filter (misaligned s c f n) := by rw [hbad]; exact List.mem_cons_self
  obtain ⟨hmem, hmis⟩ := List.mem_filter.mp hk
  have hearly : (ks.map (checkData s c f kind n true)).any
      (fun x => match x.trap with | some (k, _) => decide (k < 4) | none => false) = true := by
    rw [List.any_map, List.any_eq_true]
    exact ⟨k, hmem, by simp only [Function.comp_def, checkData_misaligned (of_decide_eq_true hmis)]; rfl⟩
  have hworst := worst_class2 (strandTraps_class_ge (s := s) (c := c) (f := f) (kind := kind) (n := n) (ks := ks))
    ((strandTraps_class2 (kind := kind)).trans (by rw [hbad, List.map_cons]))
  have hres : resolve s c kind (ks.map (checkData s c f kind n true)) =
      .trap (dropWalks s c.wv.ids.tenancy c.w c.slot)
        { cls := 2, cause := 3, lanes := maskOf (k :: bad), addr := eaOf s c f k, info := 0 } := by
    unfold resolve
    dsimp only
    rw [if_neg fun hw => Bool.false_ne_true ((Bool.not_eq_true' _ ▸ (Bool.and_eq_true_iff.mp hw).1).symm.trans hearly), hworst]
    simp only [List.map_cons, List.map_map, Function.comp_def, List.map_id']
    rfl
  unfold onChecked
  rw [hres, hbad]
  rfl

end Misaligned

/-- Settles O58: the checks of LD and ST are those of their strands, aligned. -/
theorem misalignedAccessTraps : Obligations.MisalignedAccessTraps := by
  intro f s c s2 c2 bad effect ldForm stForm hbad
  have hq : c2.q ≠ 0 := by
    intro h0
    apply hbad
    simp [bad, h0, strandsOf]
  constructor
  · intro h
    refine exec_of_row (fun s => (show exec (.ld f) s = execLd f s from rfl).trans rfl) h ?_
    rw [if_neg hq]
    exact onChecked_misaligned _ hbad
  · intro h
    refine exec_of_row (fun s => (show exec (.st f) s = execSt f s from rfl).trans rfl) h ?_
    rw [if_neg hq]
    exact onChecked_misaligned _ hbad

end Sys2Proof.Machine
end

section
/-!
Scalar, vector and Assay instructions (spec/08_bench.md R182, spec/11_spindle.md R240 to R256, spec/12_assay.md R257 to R270): a shared
row gives an instruction its meaning in the words in which its completion is stated. VSEL, which tests its operand the other way round, is
the exception.
-/

namespace Sys2Proof.Machine

open Sys2Proof

/-! ### The instructions -/

/-- Settles O21: each instruction's row. -/
theorem scalarCompletes : Obligations.ScalarCompletes := by
  unfold Obligations.ScalarCompletes
  refine ⟨fun f => ?register, fun f => ?immediate⟩
  case register =>
    refine ⟨?_, ?_, ?_, ?_, ?_, ?_, ?_, ?_, ?_, ?_, ?_, ?_, ?_, ?_, ?_, ?_, ?_⟩
    all_goals exact does_of_row fun _ => rfl
  case immediate =>
    refine ⟨?_, ?_, ?_, ?_, ?_, ?_, ?_, ?_, ?_, ?_, ?_, ?_⟩
    all_goals exact does_of_row fun _ => rfl

/-- Settles O23: each instruction's row. -/
theorem vectorArithmeticCompletes : Obligations.VectorArithmeticCompletes := by
  unfold Obligations.VectorArithmeticCompletes
  intro f
  refine ⟨?_, ?_, ?_, ?_, ?_, ?_, ?_, ?_, ?_, ?_, ?_, ?_, ?_, ?_, ?_, ?_, ?_, ?_, ?_, ?_, ?_, ?_, ?_⟩
  all_goals exact does_of_row fun _ => rfl

/-- VSEL's row asks whether c is not zero. -/
theorem vsel_computes (f : RRR) :
    let h : VShape := { nsrc := 3, types := [0, 1, 2, 3], narrow := 8 }
    Computes (.vsel f) f.pn f.pred (vecForm f h (decide (modOPX f.mod = 0))) f.dst (h.wide (modTYPE f.mod) 0) (fun s c k =>
      ires (if srcN s c f.sc.toNat k (h.wide (modTYPE f.mod) 3) = 0 then srcN s c f.sb.toNat k (h.wide (modTYPE f.mod) 2)
        else srcN s c f.sa.toNat k (h.wide (modTYPE f.mod) 1))) :=
  does_of_row_eq (fun _ => rfl) fun _ _ s2 c2 _ =>
    congrArg (perStrand s2 c2 f.dst.toNat _) (funext fun _ => congrArg ires (ite_not _ _ _))

/-- VSEL with an immediate asks whether a is not zero. -/
theorem vselRi_computes (f : RI) :
    Computes (.vselRi f) f.pn f.pred { ops := [dst f.dst, src f.sa], modOk := decide (f.itype.toNat ≤ 2) } f.dst 1
      (fun s c k => ires (if srcN s c f.sa.toNat k 1 = 0 then f.imm.toNat else srcN s c f.sa.toNat k 1)) :=
  does_of_row_eq (fun _ => rfl) fun _ _ s2 c2 _ =>
    congrArg (perStrand s2 c2 f.dst.toNat 1) (funext fun _ => congrArg ires (ite_not _ _ _))

/-- Settles O24: each instruction's row. -/
theorem vectorLogicCompletes : Obligations.VectorLogicCompletes := by
  unfold Obligations.VectorLogicCompletes
  intro f
  refine ⟨?_, ?_, ?_, ?_, ?_, ?_, ?_, ?_, ?_, ?_, ?_, ?_, ?_, ?_, ?_, ?_, vsel_computes f, ?_, ?_, ?_, ?_, ?_⟩
  all_goals exact does_of_row fun _ => rfl

/-- Settles O25: each instruction's row. -/
theorem vectorImmediateCompletes : Obligations.VectorImmediateCompletes := by
  unfold Obligations.VectorImmediateCompletes
  intro f
  refine ⟨?_, ?_, ?_, ?_, ?_, ?_, ?_, ?_, ?_, ?_, ?_, ?_, ?_, ?_, vselRi_computes f⟩
  all_goals exact does_of_row fun _ => rfl

/-- Settles O28: the meanings of VCMP, its immediate form and VMATCH. -/
theorem comparesComplete : Obligations.ComparesComplete := by
  unfold Obligations.ComparesComplete
  exact ⟨fun _ => does_of_row fun _ => rfl, fun _ => does_of_row fun _ => rfl, fun _ => does_of_row fun _ => rfl⟩

/-- Settles O30: the dot products by their row, and VSCALE by its own meaning. -/
theorem dotsComplete : Obligations.DotsComplete := by
  unfold Obligations.DotsComplete
  intro f
  exact ⟨does_of_row fun _ => rfl, does_of_row fun _ => rfl, does_of_row fun _ => rfl, does_of_row fun _ => rfl⟩

/-- Settles O33: the meanings of the three instructions. -/
theorem flagRegister : Obligations.FlagRegister := by
  unfold Obligations.FlagRegister
  exact fun _ => ⟨does_of_row fun _ => rfl, does_of_row fun _ => rfl, does_of_row fun _ => rfl⟩

/-- Settles O35: each function's row. -/
theorem assayFunctionsComplete : Obligations.AssayFunctionsComplete := by
  unfold Obligations.AssayFunctionsComplete
  intro f
  refine ⟨?_, ?_, ?_, ?_, ?_, ?_, ?_, ?_, ?_, ?_, ?_, ?_⟩
  all_goals exact does_of_row fun _ => rfl

/-- Settles O37: the rows of VRND, GETEXP and GETMANT, and the meanings of SCALB and SETSEED. -/
theorem exponentsComplete : Obligations.ExponentsComplete := by
  unfold Obligations.ExponentsComplete
  intro f
  exact ⟨does_of_row fun _ => rfl, does_of_row fun _ => rfl, does_of_row fun _ => rfl, does_of_row fun _ => rfl,
    does_of_row fun _ => rfl⟩

end Sys2Proof.Machine
end

section
/-!
Conversions (spec/12_assay.md R263 to R268): most are as their statement says; CVTMXD and CVTMX divide their cases in another
order.
-/

namespace Sys2Proof.Machine

open Sys2Proof

theorem cvtmxd_computes (f : RRR) :
    Computes (.cvtmxd f) f.pn f.pred
      { ops := [dst f.dst, src f.sa, src f.sb, unused f.sc],
        modOk := decide (modTYPE f.mod = 4) && decide (8 ≤ modOPX f.mod / 16 ∧ modOPX f.mod / 16 ≤ 13) &&
          decide (modOPX f.mod % 16 < 8) && decide (modOPX f.mod % 8 < perReg (modOPX f.mod / 16)) && modRmSat f.mod 3 true } f.dst 1
      (fun s c k =>
        let x := elemAt (modOPX f.mod / 16) (srcN s c f.sa.toNat k 1) (modOPX f.mod % 8)
        let X := srcN s c f.sb.toNat k 1 % 256
        match elemVal (modOPX f.mod / 16) x with
        | .nan g => { val := 0x7FC00000, fl := if g then flagNV else 0 }
        | .inf n => { val := if X = 255 then 0x7FC00000 else infBits fmt32 n }
        | .fin _ _ _ => if X = 255 then { val := 0x7FC00000 }
            else fenc fmt32 (mxVal (modOPX f.mod / 16) X x) (modRM f.mod) (modSAT f.mod) 0) := by
  refine does_of_row_eq (fun _ => rfl) fun _ _ s2 c2 _ => congrArg (perStrand s2 c2 f.dst.toNat 1) (funext fun k => ?_)
  dsimp only
  generalize elemVal _ _ = x
  cases x with
  | nan g => rfl
  | inf n => exact (apply_ite (fun v => ({ val := v } : FRes)) _ _ _).symm
  | fin s m e => rfl

/-- A block's largest magnitude of 0 is the case apart: the element is a zero of its value's sign. -/
theorem cvtmx_does (f : RRR) :
    let t := modTYPE f.mod
    let code := modOPX f.mod % 4
    let rm := modRM f.mod
    Does (.cvtmx f) f.pn f.pred
      { ops := [dst f.dst, src f.sa, if code = 2 then src f.sb else unused f.sb, unused f.sc],
        modOk := isMx t && decide (modOPX f.mod / 16 = 4) && decide (modOPX f.mod / 4 % 4 = 0) && decide (code ≤ 2) && decide (rm ≤ 4) }
      (fun s c =>
        let v (r : BitVec 9) (k : Nat) := fdec fmt32 (srcN s c r.toNat k 1)
        let amax (k : Nat) := amaxOf (((blockOf code k).filter (fun j => c.q.getLsbD j)).flatMap (fun j =>
          if code = 2 then [v f.sa j, v f.sb j] else [v f.sa j]))
        let drawn (st : Nat) := if rm = 4 then srNext st else st
        let one (a x : Machine.Num) (st : Nat) : FRes × Nat :=
          match a with
          | .fin _ 0 _ => ({ val := match x with | .fin true _ _ => (if t = 13 then 0 else 2 ^ (typeBits t - 1)) | _ => 0 }, drawn st)
          | .fin _ _ _ => mxElem t (mxScale t a) x rm st
          | _ => ({ val := 0, fl := flagNV }, drawn st)
        perStrandSR s c f.dst.toNat 1 (fun k st =>
          let ra := one (amax k) (v f.sa k) st
          let rb := if code = 2 then one (amax k) (v f.sb k) ra.2 else ({ val := 0 }, ra.2)
          ({ val := mxScale t (amax k) * 2 ^ 16 + rb.1.val * 2 ^ 8 + ra.1.val, fl := ra.1.fl ||| rb.1.fl }, rb.2))) := by
  intro t code rm
  refine does_of_row_eq (fun _ => rfl) fun _ _ s2 c2 _ =>
    congrArg (perStrandSR s2 c2 f.dst.toNat 1) (funext fun k => funext fun st => ?_)
  dsimp only [t, code, rm]
  generalize amaxOf _ = a
  match a with
  | .fin _ 0 _ => rfl
  | .fin _ (m + 1) _ => rfl
  | .inf _ => rfl
  | .nan _ => rfl

/-- Settles O36: each conversion's meaning. That the stochastic state steps for the elements of a zero or NaN block, and that the unused
bits of 6-bit packing stay, are the choices of logs 72 and 76. -/
theorem conversionsComplete : Obligations.ConversionsComplete := by
  unfold Obligations.ConversionsComplete
  refine ⟨fun f => ⟨?cvt, ?cvtpk, ?cvtpk2, ?cvtunp, cvtmxd_computes f, ?mxamax, ?e8get, ?fxcvt⟩, cvtmx_does⟩
  case cvt => exact does_of_row fun _ => rfl
  case cvtpk => exact does_of_row fun _ => rfl
  case cvtpk2 => exact does_of_row fun _ => rfl
  case cvtunp => exact does_of_row fun _ => rfl
  case mxamax => exact does_of_row fun _ => rfl
  case e8get => exact does_of_row fun _ => rfl
  case fxcvt => exact does_of_row fun _ => rfl

end Sys2Proof.Machine
end

section
/-!
Control transfers, waiting and DEAD (spec/08_bench.md R174 to R179): each instruction's meaning in the words of its statement.
-/

namespace Sys2Proof.Machine

open Sys2Proof

/-! ### Branches (R176) -/

theorem indirect_does {i : Instr} {f : RRR} (hi : ∀ s, exec i s = indirect f s) :
    Does i f.pn f.pred { ops := [unused f.dst, srcIn 2 f.sa 2, unused f.sb, unused f.sc], modOk := modZero16 f.mod } (fun s c =>
      let t := opd64 s c f.sa 0
      if c.once = false then .done s
      else if t.extractLsb' 0 3 = 0 then .goto (endHandler (countW s c.wv 6 1) c t) t false
      else .trap { cls := 2, cause := 2, lanes := c.sp.mask, addr := t.toNat }) := by
  refine does_of_row_eq hi fun _ _ s2 c2 _ => ?_
  cases c2.once with
  | false => rfl
  | true => exact ite_not _ _ _

/-- Settles O17: BRA and CALL as their rows say, BRX and RET by the row they share. -/
theorem branches : Obligations.Branches := by
  unfold Obligations.Branches
  refine ⟨fun f => does_of_row fun _ => rfl, fun g hg f => ?_, fun f => does_of_row fun _ => rfl⟩
  rcases hg with rfl | rfl
  · exact indirect_does fun _ => rfl
  · exact indirect_does fun _ => rfl

/-- Settles O18: BRV's row. -/
theorem branchDivides : Obligations.BranchDivides := by
  unfold Obligations.BranchDivides
  exact fun _ => does_of_row fun _ => rfl

/-! ### Joins (R41, R177, R178) -/

theorem jmark_does (f : BR) :
    Does (.jmark f) f.pn f.pred (brForm f) (fun s c =>
      if c.once = false then .done s
      else if 144 ≤ c.wv.stack.length then .trap { cls := 0, cause := 11, lanes := c.sp.mask }
      else .done (modWeave s c.w (fun wv =>
        Weave.fitStack { wv with stack := .entry (c.pc + 8 * f.off.signExtend 64) c.sp.mask 0 false :: wv.stack }))) := by
  refine does_of_row_eq (fun _ => rfl) fun _ _ s2 c2 _ => ?_
  cases c2.once <;> rfl

theorem join_does (f : RRR) :
    Does (.join f) f.pn f.pred (bareForm f true) (fun s c =>
      if c.once = false then .done s
      else
        match topEntry c.wv.stack with
        | none => .trap { cls := 0, cause := 10, lanes := c.sp.mask }
        | some (up, (pc, mark, arrived, h), dn) =>
          if c.sp.mask &&& ~~~mark = 0 then
            withRefill s c c.wv.stack (settleJoins (setWeave s c.w (dropTemps (freeSplit
              { c.wv with stack := up ++ .entry pc mark (arrived ||| c.sp.mask) (h || c.sp.handler) :: dn } c.slot) c.sp.mask)) c.w) .gone
          else if anyMark c.sp.mask c.wv.stack then .hold s .joinWait .retry
          else .trap { cls := 0, cause := 10, lanes := c.sp.mask }) := by
  refine does_of_row_eq (fun _ => rfl) fun _ _ s2 c2 _ => ?_
  cases c2.once with
  | false => rfl
  | true =>
    dsimp only
    cases topEntry c2.wv.stack <;> rfl

theorem withRefill_present {s s1 : State} {c : Ctx} {before : List JoinItem} {wv : Weave} (h : weaveOf s1 c.w = some wv)
    (hu : itemsUsed before wv.stack ≤ before.length - c.wv.jspill) :
    withRefill s c before s1 .gone = .gone (modWeave s1 c.w Weave.fitStack) := by
  simp only [withRefill, h, if_neg (Nat.not_lt.mpr hu)]

theorem withRefill_spilled {s s1 : State} {c : Ctx} {before : List JoinItem} {wv : Weave} (h : weaveOf s1 c.w = some wv)
    (hu : before.length - c.wv.jspill < itemsUsed before wv.stack) :
    withRefill s c before s1 .gone =
      .stay (modWeave s c.w (fun wv' => { wv' with jspill := before.length - itemsUsed before wv.stack })) (some .spill) := by
  simp only [withRefill, h, if_pos hu]

/-- Settles O19: the three instructions, and the two cases of a refill. -/
theorem joinsAndEnd : Obligations.JoinsAndEnd := by
  unfold Obligations.JoinsAndEnd
  exact ⟨jmark_does, join_does, fun _ => does_of_row fun _ => rfl,
    fun _ _ _ _ _ h => ⟨withRefill_present h, withRefill_spilled h⟩⟩

/-! ### Waiting and DEAD (R174, R179) -/

/-- Popping the queues that an instruction names changes nothing of its context but the popped entries. -/
theorem popAll_ctx {ns : List Nat} {s s2 : State} {c c2 : Ctx} (h : popAll s c ns = some (s2, c2)) :
    ∃ ps, c2 = { c with pops := ps } := by
  induction ns generalizing s c with
  | nil =>
    obtain ⟨rfl, rfl⟩ := Prod.mk.inj (Option.some.inj h)
    exact ⟨_, rfl⟩
  | cons n ns ih =>
    unfold popAll at h
    split at h
    case isTrue => exact ih h
    case isFalse =>
      split at h <;> dsimp only at h
      case isTrue =>
        split at h
        case h_1 => contradiction
        case h_2 =>
          obtain ⟨ps, hps⟩ := ih h
          exact ⟨ps, hps⟩
      case isFalse =>
        split at h
        case h_1 => contradiction
        case h_2 =>
          split at h
          case h_1 => contradiction
          case h_2 =>
            obtain ⟨ps, hps⟩ := ih h
            exact ⟨ps, hps⟩

theorem issued_held {s : State} {pn : BitVec 1} {pred : BitVec 3} {form : Form} {c c2 : Ctx} {s2 : State}
    (h : issued s pn pred form = some (c, s2, c2)) : c2.held = c.held := by
  obtain ⟨-, -, -, -, s0, -, hp⟩ := issued_parts h
  obtain ⟨ps, rfl⟩ := popAll_ctx hp
  rfl

/-- At its first issue PAUSE begins its wait. -/
theorem exec_pause_first {f : RI} {s : State} {c : Ctx} {s2 : State} {c2 : Ctx}
    (h : issued s f.pn f.pred (waitForm f true true) = some (c, s2, c2)) (hheld : c.held = none) :
    exec (.pause f) s = .next (ended s c c2 (waitForm f true true)
      (if c2.once then .hold s2 .pause (.pause (s2.cycles + min f.imm.toNat (2 ^ 20))) else .done s2)) :=
  exec_of_row (fun _ => rfl) h (by simp only [issued_held h, hheld])

/-- Settles O20: WAITF, PAUSE and DEAD. The values that DEAD leaves are free (log 1). -/
theorem waitsAndDead : Obligations.WaitsAndDead := by
  unfold Obligations.WaitsAndDead
  exact ⟨fun _ => does_of_row fun _ => rfl, fun _ _ _ _ _ h hheld => exec_pause_first h hheld, fun _ => does_of_row fun _ => rfl⟩

end Sys2Proof.Machine
end

section
/-!
What a register result changes of its weave (spec/05_encoding.md R118 to R120): in a weave that has a TOB the Loom's record of the words
that a register held since the last OFENCE (spec/22_loom_program.md R402) grows too, which the statement's frame leaves out.
-/

namespace Sys2Proof.Machine

open Sys2Proof

/-- The fields of ACTM to v0. -/
def actmForm : Form := { ops := [dstIn 3 0, unused 511, unused 511, unused 511] }

/-- A split that issues ACTM to v0, the weave's role having one TOB bank. -/
def tobWeave : State :=
  modWeave { State.reset.withFetchWord 64 0x0D007FFFFFF70000 with issuer := some (0, 0) } 0
    (fun wv => { wv with hdr := { wv.hdr with tobBanks := 1 } })

/-- The lengths of the issuing weave's record of register words before and after a result of one word to v0. -/
def recordLengths (c : Ctx) (s2 : State) (c2 : Ctx) : Option (Nat × Nat) :=
  (weaveOf s2 c.w).bind fun wv =>
    (weaveOf (ended tobWeave c c2 actmForm (.done (writeDst s2 c2 (0#9).toNat 1 (fun _ => 0)))) c.w).map fun wv' =>
      (wv.vlog.length, wv'.vlog.length)

theorem tobWeave_record_grows :
    (issued tobWeave 0 7 actmForm).bind (fun p => recordLengths p.1 p.2.1 p.2.2) = some (0, 32) := by
  decide +kernel

/-- Refutes O54: the weave's role has a TOB bank, so that the write of v0 in 32 strands enters 32 words into the Loom's record `vlog`,
which is none of the fields that the frame lets change. -/
theorem not_registerResult : ¬ Obligations.RegisterResult := by
  unfold Obligations.RegisterResult
  intro h
  obtain ⟨⟨c, s2, c2⟩, hi, hlengths⟩ := Option.bind_eq_some_iff.mp tobWeave_record_grows
  obtain ⟨-, -, -, -, hweave⟩ := h tobWeave 0 7 actmForm c s2 c2 0 1 (fun _ => 0) hi (Or.inl (by decide))
  obtain ⟨wv, hwv, hafter⟩ := Option.bind_eq_some_iff.mp hlengths
  obtain ⟨wv', hwv', hframe, -⟩ := hweave wv hwv
  obtain ⟨wv'', hwv'', hpair⟩ := Option.map_eq_some_iff.mp hafter
  obtain rfl := Option.some.inj (hwv'.symm.trans hwv'')
  have hkept : wv'.vlog = wv.vlog := by rw [hframe]
  obtain ⟨hbefore, hgrown⟩ := Prod.mk.inj hpair
  rw [hkept] at hgrown
  omega

end Sys2Proof.Machine
end

section
/-!
Engine commands (spec/08_bench.md R170): the push of an entry in its two cases, the row of each engine, and the statement that speaks of
them.
-/

namespace Sys2Proof.Machine

open Sys2Proof

/-! ### A push -/

/-- The first words of a command's descriptor, as the lowest qualifying strand sees them. -/
def descWords (f : ENG) (n : Nat) (s : State) (c : Ctx) : List Word := (List.range n).map (descWord s c f c.low)

/-- A command at its first issue goes on to its push. -/
theorem onFirst_unheld {s : State} {c : Ctx} {go : Unit → Effect} (h : c.held = none) : onFirst s c go = go () := by
  simp only [onFirst, h]

/-- A command whose descriptor is in order is pushed, or waits for room. -/
theorem pushEng_entry (s : State) (c : Ctx) (f : ENG) (n : Nat) (dests : List Nat) (accept : State → State) (e : Entry) :
    pushEng s c f n dests accept (.inl e) =
      if pushRoom s c.wv n then pushed s c f n dests accept e else .hold s .queueFull .retry := by
  cases h : pushRoom s c.wv n <;> simp only [pushEng, h] <;> rfl

theorem pushes_of_row {i : Instr} {f : ENG} {form : Form} {n : Nat} {ok : State → Ctx → Prop} {dests : State → Ctx → List Nat}
    {accept : State → Ctx → State → State} {e : State → Ctx → Entry} {body : State → Ctx → Effect}
    (hi : ∀ s, exec i s = issueRow s f.pn f.pred form body)
    (hb : ∀ s c, c.held = none → ok s c → body s c = pushEng s c f n (dests s c) (accept s c) (.inl (e s c))) :
    Pushes i f form n ok dests accept e :=
  fun _ _ s2 c2 h hheld hok => exec_of_row hi h ((hb s2 c2 hheld hok).trans (pushEng_entry ..))

/-! ### The Dray and the Gleaner -/

/-- DCOPY and DCOPYM. -/
theorem dray_pushes {i : Instr} {f : ENG} {multi : Bool} (hi : ∀ s, exec i s = drayPush f multi s) :
    let d := descWords f 16
    Pushes i f (engForm f (engUnused f.dst) (descOpnd f 3) [15] true) 0
      (fun s c => c.once = true ∧ drayDescOk (d s c) multi f.cmask.toNat c.wv.ids.gsize = true ∧
        drayBeyond (d s c) c.wv.hdr f.cmask.toNat = none) (fun _ _ => []) (fun _ c s => drayAccept 128 s c.wv.shop)
      (fun s c => { words := d s c ++ List.replicate 16 0, q := c.q }) := by
  refine pushes_of_row hi fun s c hheld ⟨honce, hdesc, hin⟩ => (onFirst_unheld hheld).trans ((if_pos honce).trans ?_)
  unfold descWords at hdesc hin
  simp only [hdesc, hin, Bool.not_true, Bool.false_eq_true, if_false] <;> rfl

/-- GATHER, SCATTER and GCOMPACT. -/
theorem gather_pushes {i : Instr} {f : ENG} {r : GatherRow} (hi : ∀ s, exec i s = gatherPush f r s) :
    let ctl (s : State) (c : Ctx) := descWord s c f c.low 2
    let cword (s : State) (c : Ctx) := (descWord s c f c.low 3).toNat
    Pushes i f (engForm f (if r.kind = 0 then { reg := f.dst.toNat, dst := true, cls := 33, cause := 8, eng := true } else engUnused f.dst)
        (descOpnd f 1) r.dlen (decide (f.desc.toNat % 4 = 0))) 2
      (fun s c => c.q ≠ 0 ∧ gatherTrap c f r (ctl s c) (cword s c) = none)
      (fun s c => if f.dst.toNat < 384 then dstKeys f.dst.toNat (sizeWords (gCtl (ctl s c) 6 3)) c.q else []) (fun _ _ s => s)
      (fun s c => { words := [ctl s c, BitVec.ofNat 32 (cword s c)], q := c.q,
                    dst := if f.dst.toNat < 384 then some f.dst.toNat else none,
                    regs := (strandsOf c.q).foldl (fun m k => (List.range (f.dlen.toNat + 1)).foldl
                      (fun (m : Cells 32) j => setCell m (32 * j + k) (descWord s c f k j)) m) [] }) := by
  refine pushes_of_row hi fun s c hheld ⟨hq, hok⟩ => (onFirst_unheld hheld).trans ((if_neg hq).trans ?_)
  dsimp only
  rw [hok] <;> rfl

theorem greplay_pushes (f : ENG) :
    let d := descWords f 3
    let n := cwordBytes f.cmask.toNat false
    Pushes (.greplay f) f (engForm f (engUnused f.dst) (descOpnd f 3) [2] true) 2
      (fun s c =>
        let cw := dWord (d s c) 2
        c.once = true ∧ dWord (d s c) 0 / 8 % 2 ^ 13 = 0 ∧ cwordOk cw f.cmask.toNat false = true ∧ (n = 0 ∨ cw + n ≤ c.wv.hdr.spad))
      (fun s c => replayDests c.wv (dWord (d s c) 0 % 8) (dWord (d s c) 1)) (fun _ _ s => s)
      (fun s c => { words := d s c, q := c.q }) := by
  refine pushes_of_row (fun _ => rfl) fun s c hheld ⟨honce, hzero, hcword, hroom⟩ =>
    (onFirst_unheld hheld).trans ((if_pos honce).trans ?_)
  refine congrArg (pushEng s c f 2 _ _) ((if_neg ?_).trans (if_neg ?_))
  · rintro (hz | hc)
    · exact hz hzero
    · exact Bool.false_ne_true (hc.symm.trans hcword)
  · rintro ⟨hover, hsome⟩
    exact hroom.elim hsome (Nat.not_le.mpr hover)

theorem gselect_pushes (f : ENG) :
    let d := descWords f 8
    Pushes (.gselect f) f (engForm f (engUnused f.dst) (descOpnd f 3) [7] true) 2
      (fun s c => c.once = true ∧ selOk (d s c) f.cmask.toNat = true ∧ selBeyond (d s c) c.wv.hdr.spad f.cmask.toNat = none)
      (fun _ _ => []) (fun _ _ s => s) (fun s c => { words := d s c, q := c.q }) := by
  refine pushes_of_row (fun _ => rfl) fun s c hheld ⟨honce, hok, hin⟩ => (onFirst_unheld hheld).trans ((if_pos honce).trans ?_)
  refine congrArg (pushEng s c f 2 [] _) ((if_neg (ne_false_of_eq_true hok)).trans ?_)
  unfold descWords at hin
  simp only [hin] <;> rfl

/-! ### The Loom -/

theorem any_beyond_eq_false {rs : List (Nat × Nat)} {n : Nat} (h : ∀ r ∈ rs, r.1 + r.2 ≤ n) :
    rs.any (fun r => decide (n < r.1 + r.2)) = false := by
  simpa only [List.any_eq_false, decide_eq_true_eq, Nat.not_lt] using h

/-- LOOM.MM, LOOM.MX, LOOM.SPLIT, LOOM.SPL and LOOM.FIN, their fields, registers and TOB ranges in order: in renamed mode the registers
are refilled or mapped first (R173). -/
theorem loom_pushes {i : Instr} {f : ENG} {dlen : Nat} (hi : ∀ s, exec i s = issueRow s f.pn f.pred (loomForm f dlen) (loomPush f dlen))
    {s : State} {c : Ctx} {s2 : State} {c2 : Ctx} (h : issued s f.pn f.pred (loomForm f dlen) = some (c, s2, c2)) :
    let opc := (c2.word.extractLsb' 56 8).toNat
    let d := descWords f (dlen + 1) s2 c2
    let regs := loomRegs opc d (gangQuarters c2.wv.gang c2.wv.ids.wid)
    let named := regs.flatMap (fun r => (List.range r.2).map (fun i => r.1 + i))
    let banks := loomBanks opc d
    gangN c2.wv.gang ≠ 0 → c2.once = true → loomFieldsOk opc d = true → (∀ r ∈ regs, r.1 + r.2 ≤ c2.wv.hdr.vregs) →
    tobBeyond (c2.wv.hdr.tobBanks * 16384) (loomTob opc d) = none →
      (∀ s3, renameRegs s2 c2 (if opc = 0xDE then [] else named) (if opc = 0xDE then named else []) = .refill s3 →
        exec i s = .next (ended s c c2 (loomForm f dlen) (.stay s3 (some .spill)))) ∧
      (∀ s3, renameRegs s2 c2 (if opc = 0xDE then [] else named) (if opc = 0xDE then named else []) = .go s3 →
        exec i s = .next (ended s c c2 (loomForm f dlen)
          (if pushRoom s3 c2.wv 4 then
            pushed s3 c2 f 4
              (if opc = 0xDE then regs.flatMap (fun r => (List.range r.2).flatMap (fun j => allStrands.map (vKey (r.1 + j)))) else [])
              (fun t => loomAccept (modWeave t c2.w (fun wv => { wv with loomCmds := wv.loomCmds ++
                [{ op := s2.nextOp, banks := banks.2, names := banks.1, gang := c2.wv.gang, vregs := named }] })) c2.w)
              { words := d ++ List.replicate (32 - d.length) 0, gang := c2.wv.gang, q := c2.q, regs := c2.wv.vreg,
                vlog := c2.wv.vlog, tview := c2.wv.fencedT }
           else .hold s3 .queueFull .retry))) := by
  intro opc d regs named banks
  dsimp only [opc, d, regs, named, banks, descWords]
  intro hgang honce hfields hregs htob
  have hbeyond := any_beyond_eq_false hregs
  refine ⟨fun s3 hr => exec_of_row hi h ?_, fun s3 hr => exec_of_row hi h ?_⟩
  · refine (if_neg hgang).trans ((if_pos honce).trans ?_)
    dsimp only
    rw [hr]
    exact if_pos (by rw [hfields, hbeyond]; rfl)
  · refine (if_neg hgang).trans ((if_pos honce).trans ?_)
    dsimp only
    rw [hr]
    refine Eq.trans (congrArg (pushEng s3 c2 f 4 _ _) ?_) (pushEng_entry ..)
    refine (if_neg (ne_false_of_eq_true hfields)).trans ((if_neg (ne_true_of_eq_false hbeyond)).trans ?_)
    rw [htob]

/-! ### The Steward, the Runner and the Courier -/

theorem prefT_pushes (f : ENG) :
    let d := descWords f 8
    Pushes (.prefT f) f
      (engForm f (engUnused f.dst) (descOpnd f 3) [7] (!(f.cmask.getLsbD 0) && !(f.cmask.getLsbD 1 && f.cmask.getLsbD 2))) 8
      (fun s c => c.once = true ∧ prefOk (d s c) = true) (fun _ _ => []) (fun _ _ s => s) (fun s c => { words := d s c, q := c.q }) :=
  pushes_of_row (fun _ => rfl) fun s c hheld ⟨honce, hok⟩ =>
    (onFirst_unheld hheld).trans ((if_pos honce).trans (congrArg (pushEng s c f 8 [] _) (if_pos hok)))

/-- What LAUNCH.D and the Courier's commands do once their descriptor is in order: the commit comes before the push (R66, R333). -/
theorem commit_then_push {s s3 : State} {c : Ctx} {f : ENG} {n : Nat} {wv : Weave} {words : List Word}
    (hroom : pushRoom s c.wv n = true) (hcommit : pushCommit s c = .inl s3) (hwv : weaveOf s3 c.w = some wv)
    (hroom3 : pushRoom s3 wv n = true) :
    (if !(pushRoom s c.wv n) then Effect.hold s .queueFull .retry
      else
        match pushCommit s c with
        | .inr e => e
        | .inl s1 =>
          match weaveOf s1 c.w with
          | none => .gone s1
          | some wv => pushEng s1 { c with wv := wv } f n [] (fun s => s) (.inl { words := words, q := c.q })) =
      pushed s3 { c with wv := wv } f n [] id { words := words, q := c.q } := by
  simp only [hroom, hcommit, hwv, pushEng_entry, hroom3, Bool.not_true, Bool.false_eq_true, if_false, if_true] <;> rfl

theorem launchD_pushes {f : ENG} {s : State} {c : Ctx} {s2 : State} {c2 : Ctx} {s3 : State} {wv : Weave}
    (h : issued s f.pn f.pred
      (engForm f (engUnused f.dst) (descOpnd f 2) [15] (!(f.cmask.getLsbD 0) && !(f.cmask.getLsbD 1 && f.cmask.getLsbD 2))) =
        some (c, s2, c2)) (hheld : c2.held = none) (honce : c2.once = true) (hroom : pushRoom s2 c2.wv 11 = true)
    (hcommit : pushCommit s2 c2 = .inl s3) (hwv : weaveOf s3 c2.w = some wv) (hroom3 : pushRoom s3 wv 11 = true) :
    exec (.launchD f) s = .next (ended s c c2
      (engForm f (engUnused f.dst) (descOpnd f 2) [15] (!(f.cmask.getLsbD 0) && !(f.cmask.getLsbD 1 && f.cmask.getLsbD 2)))
      (pushed s3 { c2 with wv := wv } f 11 [] id
        { words := descWords f 16 s2 c2, q := c2.q })) :=
  exec_of_row (fun _ => rfl) h
    ((onFirst_unheld hheld).trans ((if_pos honce).trans (commit_then_push hroom hcommit hwv hroom3)))

theorem net_pushes {i : Instr} {f : ENG} (hi : ∀ s, exec i s = issueRow s f.pn f.pred (netForm f) (netPush f)) {s : State} {c : Ctx}
    {s2 : State} {c2 : Ctx} {s3 : State} {wv : Weave} (h : issued s f.pn f.pred (netForm f) = some (c, s2, c2)) (hheld : c2.held = none)
    (honce : c2.once = true)
    (hok : netOk (c2.word.extractLsb' 56 8).toNat (descWords f 8 s2 c2)
      f.cmask.toNat = true)
    (hin : cwordBytes f.cmask.toNat false = 0 ∨
      dWord (descWords f 8 s2 c2) 6 + cwordBytes f.cmask.toNat false ≤ c2.wv.hdr.spad)
    (hroom : pushRoom s2 c2.wv 6 = true) (hcommit : pushCommit s2 c2 = .inl s3) (hwv : weaveOf s3 c2.w = some wv)
    (hroom3 : pushRoom s3 wv 6 = true) :
    exec i s = .next (ended s c c2 (netForm f) (pushed s3 { c2 with wv := wv } f 6 [] id
      { words := descWords f 8 s2 c2, q := c2.q })) := by
  refine exec_of_row hi h ((onFirst_unheld hheld).trans ((if_pos honce).trans ((if_neg (ne_false_of_eq_true hok)).trans
    ((if_neg ?_).trans (commit_then_push hroom hcommit hwv hroom3)))))
  rintro ⟨hsome, hover⟩
  exact hin.elim hsome (Nat.not_le.mpr hover)

/-- Settles O43: each command by its engine's row. -/
theorem engineCommandsPush : Obligations.EngineCommandsPush := by
  unfold Obligations.EngineCommandsPush
  intro f
  refine ⟨dray_pushes fun _ => rfl, dray_pushes fun _ => rfl, gather_pushes fun _ => rfl, gather_pushes fun _ => rfl,
    gather_pushes fun _ => rfl, greplay_pushes f, gselect_pushes f, fun _ _ _ _ h => loom_pushes (fun _ => rfl) h,
    fun _ _ _ _ h => loom_pushes (fun _ => rfl) h, fun _ _ _ _ h => loom_pushes (fun _ => rfl) h,
    fun _ _ _ _ h => loom_pushes (fun _ => rfl) h, fun _ _ _ _ h => loom_pushes (fun _ => rfl) h, prefT_pushes f,
    fun _ _ _ _ _ _ h hheld honce _ => launchD_pushes h hheld honce, ?_⟩
  rintro i (rfl | rfl) s c s2 c2 s3 wv h hheld honce ⟨hok, hin⟩
  · exact net_pushes (fun _ => rfl) h hheld honce hok hin
  · exact net_pushes (fun _ => rfl) h hheld honce hok hin

end Sys2Proof.Machine
end

section
/-!
The engine instructions that act at issue (spec/20_loom.md R388 to R391, R400, R402, spec/18_gleaner.md R373, spec/23_courier.md R433).
-/

namespace Sys2Proof.Machine

open Sys2Proof

/-! ### The Loom's gang, wait and fence -/

theorem gangSet_does (f : RRR) :
    Does (.gangSet f) f.pn f.pred { ops := [unused f.dst, srcIn 2 f.sa 2, unused f.sb, unused f.sc], modOk := modZero16 f.mod }
      (fun s c =>
        let g := opd64 s c f.sa 0
        if c.once = false then .done s
        else if gangOk g c.wv.ids.wid c.wv.ids.nweaves then .done (modWeave s c.w (fun wv => { wv with gang := g }))
        else .trap { cls := 0, cause := 3, lanes := c.sp.mask }) := by
  refine does_of_row_eq (fun _ => rfl) fun _ _ s2 c2 _ => ?_
  cases c2.once <;> rfl

/-- The fields of LOOM.WAIT. -/
def loomWaitForm (f : RRR) : Form :=
  { ops := [dstIn 34 f.dst 1 3, unused f.sa 3, unused f.sb 3, unused f.sc 3], modOk := modZero16 f.mod, waits := true }

/-- The commands before the wait are all complete. -/
theorem exec_loomWait_complete {f : RRR} {s : State} {c : Ctx} {s2 : State} {c2 : Ctx}
    (h : issued s f.pn f.pred (loomWaitForm f) = some (c, s2, c2)) (honce : c2.once = true) :
    let mine := c2.wv.loomCmds.filter (fun x => decide (x.op < heldLimit s2 c2))
    (∀ x ∈ mine, x.result.isSome = true) →
      let t := modWeave (landSplits s2 c2.w (heldLimit s2 c2)) c2.w (fun wv =>
        let rest := wv.loomCmds.filter (fun x => decide (heldLimit s2 c2 ≤ x.op))
        unmapRegs { wv with loomCmds := rest, dead := if rest = [] then [] else wv.dead }
          ((mine.flatMap (fun x => x.vregs)).filter (fun r =>
            !(rest.any (fun x => x.vregs.contains r)) && allStrands.all (fun k => wv.dead.contains (vKey r k)))))
      exec (.loomWait f) s = .next (ended s c c2 (loomWaitForm f) (.done (writeDst t c2 f.dst.toNat 1 (fun _ =>
        ((mine.filterMap (fun x => x.result)).find? (fun r => decide (r ≠ 0))).getD 0)))) := by
  intro mine hdone
  have hnone : mine.any (fun x => x.result.isNone) = false :=
    List.any_eq_false.mpr fun x hx => by simp only [Option.isNone_eq_false_iff.mpr (hdone x hx), Bool.false_eq_true, not_false_iff]
  exact exec_of_row (fun _ => rfl) h ((if_pos honce).trans (if_neg (ne_true_of_eq_false hnone)))

/-- Every write of an earlier instruction to a register has been performed, but for what the engines hold. -/
theorem exec_ofence_clear {f : RRR} {s : State} {c : Ctx} {s2 : State} {c2 : Ctx}
    (h : issued s f.pn f.pred (bareForm f false) = some (c, s2, c2)) (honce : c2.once = true)
    (hclear : ∀ p ∈ s2.ops, p.2.w = c2.w → p.2.dests = [] ∨ (p.2.kind = .engine ∧ p.2.flags = [])) :
    exec (.ofence f) s = .next (ended s c c2 (bareForm f false) (.done (modWeave (landSplits s2 c2.w s2.nextOp) c2.w (fun wv =>
      { wv with
        ofence := none
        vlog := []
        fencedT := (viewOf wv c2.sp.mask).filter (fun p => decide (tobKey c2.wv.ids.basket 0 ≤ p.1 ∧
          p.1 < tobKey (c2.wv.ids.basket + 1) 0)) })))) := by
  refine exec_of_row (fun _ => rfl) h ((if_pos honce).trans (if_neg (ne_true_of_eq_false (List.any_eq_false.mpr fun p hp => ?_))))
  rw [Bool.and_eq_true, Bool.not_eq_true', decide_eq_true_eq, decide_eq_false_iff_not]
  rintro ⟨⟨hw, hd⟩, hk⟩
  exact (hclear p hp hw).elim hd hk

/-! ### Accumulator banks -/

section AccAlloc

variable {f : RRR} {s : State} {c : Ctx} {s2 : State} {c2 : Ctx} {B : Basket}

/-- The fields of ACC.ALLOC. -/
def accAllocForm (f : RRR) : Form :=
  { ops := [dstIn 35 f.dst, unused f.sa, unused f.sb, unused f.sc], modOk := accMod f.mod 6, waits := true }

/-- n banks from a on are free, a being even. -/
def banksFree (B : Basket) (n a : Nat) : Bool :=
  decide (a % 2 = 0 ∧ a + n ≤ 64) && (List.range n).all (fun i => (look B.accMap (a + i)).isNone)

theorem exec_accAlloc_none (h : issued s f.pn f.pred (accAllocForm f) = some (c, s2, c2)) (honce : c2.once = true)
    (hB : basketOf s2 c2.wv = some B) (hfull : ∀ a < 64, banksFree B (modOPX f.mod % 64 + 1) a = false) :
    exec (.accAlloc f) s = .next (ended s c c2 (accAllocForm f) (.done (writeDst s2 c2 f.dst.toNat 1 (fun _ => 0xFFFFFFFF)))) := by
  have hfind : (List.range 64).find? (banksFree B (modOPX f.mod % 64 + 1)) = none :=
    List.find?_range_eq_none.mpr fun a ha => by rw [hfull a ha]; rfl
  unfold banksFree at hfind
  exact exec_of_row (fun _ => rfl) h (by simp only [honce, hB, hfind, if_true])

/-- The lowest place that fits is taken where the shop has so many banks left and the pool its bytes. -/
theorem exec_accAlloc_some {a : Nat} (h : issued s f.pn f.pred (accAllocForm f) = some (c, s2, c2)) (honce : c2.once = true)
    (hB : basketOf s2 c2.wv = some B) (ha : a < 64) (hfree : banksFree B (modOPX f.mod % 64 + 1) a = true)
    (hleast : ∀ b < a, banksFree B (modOPX f.mod % 64 + 1) b = false)
    (hbanks : modOPX f.mod % 64 + 1 ≤ (accFree (shopOf s2 B.shop)).length)
    (hpool : poolUsed s2 c2.wv.ids.tenancy + 32768 * (modOPX f.mod % 64 + 1) ≤ poolSize s2 c2.wv.ids.tenancy) :
    exec (.accAlloc f) s = .next (ended s c c2 (accAllocForm f) (.done (writeDst
      (modBasket (accTake s2 c2.wv.ids.basket a (modOPX f.mod % 64 + 1)) c2.wv.ids.basket (fun B =>
        { B with pool := B.pool + 32768 * (modOPX f.mod % 64 + 1), poolAcc := B.poolAcc + 32768 * (modOPX f.mod % 64 + 1) }))
      c2 f.dst.toNat 1 (fun _ => a)))) := by
  have hfind : (List.range 64).find? (banksFree B (modOPX f.mod % 64 + 1)) = some a :=
    List.find?_range_eq_some.mpr ⟨hfree, List.mem_range.mpr ha, fun b hb => by rw [hleast b hb]; rfl⟩
  have hroom : ¬ ((accFree (shopOf s2 B.shop)).length < modOPX f.mod % 64 + 1 ∨
      poolSize s2 c2.wv.ids.tenancy < poolUsed s2 c2.wv.ids.tenancy + 32768 * (modOPX f.mod % 64 + 1)) := by omega
  unfold banksFree at hfind
  exact exec_of_row (fun _ => rfl) h (by simp only [honce, hB, hfind, if_true, if_neg hroom])

end AccAlloc

theorem accFree_does (f : RRR) :
    let n := modOPX f.mod % 64 + 1
    Does (.accFree f) f.pn f.pred
      { ops := [unused f.dst, srcIn 51 f.sa, unused f.sb, unused f.sc], modOk := accMod f.mod 6, waits := true } (fun s c =>
      let a := (srcWord s c f.sa.toNat c.low).toNat
      let as := (List.range 64).filter (fun x => decide (a ≤ x ∧ x < a + n))
      if c.once = false then .done s
      else if s.weaves.any (fun p => decide (p.2.ids.basket = c.wv.ids.basket) &&
          p.2.loomCmds.any (fun x => x.result.isNone && x.names.any (fun y => as.contains y))) then .hold s .accAlloc .retry
      else .done (accGive s c.wv.ids.basket as)) := by
  intro n
  refine does_of_row_eq (fun _ => rfl) fun _ _ s2 c2 _ => ?_
  cases c2.once <;> rfl

theorem accClr_does (f : RRR) :
    let n := modOPX f.mod % 64 + 1
    Does (.accClr f) f.pn f.pred { ops := [unused f.dst, srcIn 51 f.sa, unused f.sb, unused f.sc], modOk := accMod f.mod 6 }
      (fun s c =>
        let a := (srcWord s c f.sa.toNat c.low).toNat
        let held := match basketOf s c.wv with
          | some B => (List.range n).all (fun i => (look B.accMap (a + i)).isSome)
          | none => false
        if c.once = false then .done s
        else if 63 < a + n - 1 ∨ held = false then
          .trap { cls := 3, cause := 1, lanes := c.sp.mask, addr := 32768 * a, info := 6 }
        else .done (accStore s c ((List.range (8192 * n)).map (fun i => (8192 * a + i, 0))))) := by
  intro n
  refine does_of_row_eq (fun _ => rfl) fun _ _ s2 c2 _ => ?_
  cases c2.once <;> rfl

/-- The bank that ACC.RD or ACC.WR names is not the basket's, or its words are not whole rows inside the bank. -/
def accBad (s : State) (c : Ctx) (f : RRR) (n : Nat) : Bool :=
  match basketOf s c.wv with
  | none => true
  | some B => decide ((look B.accMap (srcWord s c f.sa.toNat c.low).toNat).isNone ∨ (srcWord s c f.sb.toNat c.low).toNat % 32 ≠ 0 ∨
      8192 < (srcWord s c f.sb.toNat c.low).toNat + 32 * n)

theorem accPlace_eq (s : State) (c : Ctx) (f : RRR) (n : Nat) :
    accPlace s c f n = if accBad s c f n then
      .inr (accTrap c (srcWord s c f.sa.toNat c.low).toNat (srcWord s c f.sb.toNat c.low).toNat)
    else .inl ((srcWord s c f.sa.toNat c.low).toNat, (srcWord s c f.sb.toNat c.low).toNat) := by
  unfold accPlace accBad
  cases basketOf s c.wv with
  | none => rfl
  | some B => simp only [decide_eq_true_eq]

/-- A place out of order traps; ACC.RD and ACC.WR go on from the others. -/
theorem accPlace_elim (s : State) (c : Ctx) (f : RRR) (n : Nat) (go : Nat → Nat → Effect) :
    (match accPlace s c f n with
      | .inr e => e
      | .inl (a, o) => go a o) =
    if accBad s c f n then accTrap c (srcWord s c f.sa.toNat c.low).toNat (srcWord s c f.sb.toNat c.low).toNat
    else go (srcWord s c f.sa.toNat c.low).toNat (srcWord s c f.sb.toNat c.low).toNat := by
  rw [accPlace_eq]
  cases accBad s c f n <;> rfl

theorem gstatus_does (f : RRR) :
    let sel := modOPX f.mod / 8
    let n := modOPX f.mod % 8
    Does (.gstatus f) f.pn f.pred
      { ops := [dstIn (if sel = 0 then 33 else 35) f.dst, unused f.sa, unused f.sb, unused f.sc],
        modOk := decide (modRM f.mod = 0) && !(modSAT f.mod) && decide (modTYPE f.mod = 0) && decide (sel ≤ 4) } (fun s c =>
      let t := writeDst s c f.dst.toNat 1 (gstatusValue (gslot c.wv n) sel)
      if sel = 0 then .done (observeStrands t c.w n c.q c.q)
      else if c.once = false then .done s
      else .done (if sel = 1 then observeStrands t c.w n 0xFFFFFFFF c.sp.mask else t)) := by
  intro sel n
  refine does_of_row_eq (fun _ => rfl) fun _ _ s2 c2 _ => ?_
  by_cases hcode : sel = 0
  · simp only [sel] at hcode
    simp only [sel, hcode, decide_true, Bool.true_or, if_true] <;> rfl
  · simp only [sel] at hcode
    simp only [sel, hcode, decide_false, Bool.false_or, if_false]
    cases c2.once <;> rfl

theorem ringPop_does (f : RRR) :
    Does (.ringPop f) f.pn f.pred
      { ops := [dstIn 3 f.dst 4 3, srcIn 51 f.sa 1 3, unused f.sb 3, unused f.sc 3], modOk := decide (f.mod.toNat < 2), waits := true }
      (fun s c =>
        if c.once = false then .done s
        else
          match ringPop s c.w c.q ((srcWord s c f.sa.toNat c.low).toNat % 256) (f.mod.getLsbD 0) with
          | none => .hold s .queueEmpty .retry
          | some (s1, ws) => .done (writeDst s1 c f.dst.toNat 4 (fun _ => natOfBytes (ws.flatMap (bytesOf 4))))) := by
  refine does_of_row_eq (fun _ => rfl) fun _ _ s2 c2 _ => ?_
  cases c2.once <;> rfl

/-- Settles O44: each instruction by its lemma. ACC.CLR's ADDR and the reserve that ACC.FREE returns are log 47's, the free words of a hot
bank and the landing of SPLIT words at LOOM.WAIT and OFENCE log 48's. -/
theorem directEngineInstructions : Obligations.DirectEngineInstructions := by
  unfold Obligations.DirectEngineInstructions
  intro f
  refine ⟨gangSet_does f, fun _ _ _ _ h honce => exec_loomWait_complete h honce, fun _ _ _ _ h honce hclear => exec_ofence_clear h honce hclear,
    fun _ _ _ _ B h honce hB => ⟨exec_accAlloc_none h honce hB, fun a => exec_accAlloc_some h honce hB⟩,
    ⟨accFree_does f, accClr_does f⟩, ⟨?accRd, ?accWr⟩, gstatus_does f, ringPop_does f⟩
  case accRd => exact does_of_row_eq (fun _ => rfl) fun _ _ s2 c2 _ => congrArg (ite (c2.q = 0) (Effect.done s2)) (accPlace_elim ..)
  case accWr => exact does_of_row_eq (fun _ => rfl) fun _ _ s2 c2 _ => congrArg (ite (c2.q = 0) (Effect.done s2)) (accPlace_elim ..)

end Sys2Proof.Machine
end

section
/-!
System instructions (spec/08_bench.md R180, R188, spec/15_reeve.md R325, R326, spec/16_depot_loft.md R341, R346, spec/24_scrivener.md R435,
R441).
-/

namespace Sys2Proof.Machine

open Sys2Proof

/-- A choice made inside the completion is a choice of completions. -/
theorem done_ite (b : Bool) (x y : State) : Effect.done (if b then x else y) = if b then .done x else .done y := by
  cases b <;> rfl

/-- DRAIN completes once every earlier operation of its weave has its result. -/
theorem exec_drain_complete {f : SYS} {s : State} {c : Ctx} {s2 : State} {c2 : Ctx}
    (h : issued s f.pn f.pred (sysForm f (sysNone f.dst) (sysNone f.sa) (decide (f.imm = 0)) true) = some (c, s2, c2))
    (honce : c2.once = true)
    (hdone : ∀ p ∈ s2.ops, p.1 < heldLimit s2 c2 → p.2.w = c2.w → p.2.kind = .engine ∧ p.2.flags = [] ∧ p.2.bound.isSome = true) :
    exec (.drain f) s = .next (ended s c c2 (sysForm f (sysNone f.dst) (sysNone f.sa) (decide (f.imm = 0)) true) (.done s2)) := by
  refine exec_of_row (fun _ => rfl) h ((if_pos honce).trans (if_neg (ne_true_of_eq_false (List.any_eq_false.mpr fun p hp => ?_))))
  rw [Bool.and_eq_true, decide_eq_true_eq]
  rintro ⟨⟨hlimit, hw⟩, hopen⟩
  obtain ⟨hkind, hflags, hbound⟩ := hdone p hp hlimit hw
  simp [incomplete, hkind, hflags, hbound] at hopen

section Gtwait

variable {f : SYS} {s : State} {c : Ctx} {s2 : State} {c2 : Ctx}

/-- The fields of GTWAIT. -/
def gtwaitForm (f : SYS) : Form :=
  sysForm f (sysReg f.dst true 2 true) (sysReg f.sa false 2 false) (decide (f.imm = 0) && sysEven f.dst && sysEven f.sa) true

theorem exec_gtwait_reached (h : issued s f.pn f.pred (gtwaitForm f) = some (c, s2, c2)) (honce : c2.once = true)
    (ht : srcN s2 c2 f.sa.toNat c2.low 2 ≤ s2.time) :
    exec (.gtwait f) s = .next (ended s c c2 (gtwaitForm f) (.done (writeDst s2 c2 f.dst.toNat 2 (fun _ => s2.time % 2 ^ 64)))) :=
  exec_of_row (fun _ => rfl) h ((if_pos honce).trans (if_pos ht))

theorem exec_gtwait_waits (h : issued s f.pn f.pred (gtwaitForm f) = some (c, s2, c2)) (honce : c2.once = true)
    (ht : s2.time < srcN s2 c2 f.sa.toNat c2.low 2) (hheld : c2.held = none) :
    exec (.gtwait f) s = .next (ended s c c2 (gtwaitForm f) (.hold s2 .pause (.gtime (srcN s2 c2 f.sa.toNat c2.low 2)))) :=
  exec_of_row (fun _ => rfl) h ((if_pos honce).trans ((if_neg (Nat.not_le.mpr ht)).trans (by simp only [hheld])))

end Gtwait

/-- A SYS instruction whose completion changes the state only where its predicate is true. -/
theorem once_of_row {i : Instr} {f : SYS} {form : Form} {e : State → Ctx → State}
    (hi : ∀ s, exec i s = issueRow s f.pn f.pred form (fun s c => .done (if c.once then e s c else s))) :
    Does i f.pn f.pred form (fun s c => if c.once then .done (e s c) else .done s) :=
  does_of_row_eq hi fun _ _ _ c2 _ => done_ite c2.once _ _


/-- Settles O45: each instruction by its row. That ISYNC's fetches follow every strand's view is the choice of log 63. -/
theorem systemInstructions : Obligations.SystemInstructions := by
  unfold Obligations.SystemInstructions
  intro f
  refine ⟨?srd, ?swr, ?isync, fun _ _ _ _ h honce hdone => exec_drain_complete h honce hdone,
    fun _ _ _ _ h honce => ⟨exec_gtwait_reached h honce, exec_gtwait_waits h honce⟩, ?loftWaitr, ⟨?trace, ?tracev, ?pmark⟩, ?cntrd, ?vstat,
    ?capq, ?ckpt, ⟨?inv, ?invall, ?evict⟩⟩
  case srd => exact does_of_row fun _ => rfl
  case swr => exact does_of_row fun _ => rfl
  case isync => exact does_of_row fun _ => rfl
  case loftWaitr => exact does_of_row fun _ => rfl
  case trace => exact once_of_row fun _ => rfl
  case tracev => exact once_of_row fun _ => rfl
  case pmark => exact once_of_row fun _ => rfl
  case cntrd => exact does_of_row fun _ => rfl
  case vstat =>
    refine does_of_row_eq (fun _ => rfl) fun _ _ s2 c2 _ => ?_
    dsimp only
    cases basketOf s2 c2.wv <;> rfl
  case capq => exact does_of_row fun _ => rfl
  case ckpt =>
    refine does_of_row_eq (body := fun s c => .done (if c.once && versioned s c.wv then newOp s c .ckpt [] 0 0 else s)) (fun _ => rfl)
      fun _ _ s2 c2 _ => ?_
    cases c2.once <;> rfl
  case inv => exact does_of_row fun _ => rfl
  case invall => exact once_of_row fun _ => rfl
  case evict => exact does_of_row fun _ => rfl

end Sys2Proof.Machine
end

section
/-!
The engines' events (spec/13_clerk.md, 14_dray.md, 15_reeve.md, 18_gleaner.md, 19_gleaner_select.md, 20_loom.md, 23_courier.md): what each
does where what it needs is there.
-/

namespace Sys2Proof.Machine

open Sys2Proof

/-! ### The Clerk -/

theorem execClerkPerform_sent {s : State} {r : ClerkReq} (h : look s.requests s.ev.a = some r) (hsent : r.sent ≠ 0) :
    execClerkPerform s = .next (serveRequest s s.ev.a) := by
  simp only [execClerkPerform, h, if_pos hsent]

theorem execClerkPerform_unsent {s : State} {r : ClerkReq} {o : Op} {wv : Weave} (h : look s.requests s.ev.a = some r)
    (hsent : r.sent = 0) (hop : look s.ops r.op = some o) (hwv : weaveOf s o.w = some wv) :
    execClerkPerform s = .next (if s.ev.ok then serveRequest (sendOp s r.op o wv) s.ev.a else sendOp s r.op o wv) := by
  simp only [execClerkPerform, h, hsent, ne_eq, not_true, if_false, hop, Option.map_some, hwv]

theorem execClerkPerform_stray {s : State} {r : ClerkReq} (h : look s.requests s.ev.a = some r) (hop : look s.ops r.op = none) :
    execClerkPerform s = .next (serveRequest s s.ev.a) := by
  simp only [execClerkPerform, h, hop, Option.map_none, ite_self]

theorem serveRequest_first {s : State} {id : Nat} {r : ClerkReq} {o : Op} {wv : Weave} (h : look s.requests id = some r)
    (hsent : r.sent ≠ 0) (hfirst : acceptedFirst s r = false) (hop : look s.ops r.op = some o) (hwv : weaveOf s o.w = some wv) :
    serveRequest s id = completeClerk (settleHomes (performRequest s id r o wv)) r.op := by
  simp [serveRequest, h, hop, hwv, hsent, hfirst]

theorem serveRequest_stray {s : State} {id : Nat} {r : ClerkReq} (h : look s.requests id = some r) (hop : look s.ops r.op = none) :
    serveRequest s id = settleHomes { s with requests := del s.requests id } := by
  simp only [serveRequest, h, hop]

theorem sendOp_committed {s s1 : State} {n : Nat} {o : Op} {wv : Weave} (hmay : mayPerform s n o = true)
    (hhomes : homesChange s wv.ids.tenancy = false)
    (hcommit : (if versioned s wv && (o.bound.isNone || !(versionOf s wv).isEmpty) then commitFor s n wv true else .ok s) = .ok s1) :
    let s2 := { s1 with ops := edit s1.ops n (fun o =>
      { o with bound := some ((o.bound).getD []), view := joinView o.view (commitSeen s s1 wv) }) }
    sendOp s n o wv = ((s2.requests.filter (fun p => decide (p.2.op = n))).map (fun p => p.1)).foldl (fun s id => sendOne s wv.shop id) s2 := by
  simp only [sendOp, hmay, hhomes, hcommit, Bool.not_true, Bool.or_false, Bool.false_eq_true, if_false]

theorem sendOne_room {s : State} {shop id : Nat} {r : ClerkReq} {l : AtomLane} {ls : List AtomLane} (h : look s.requests id = some r)
    (hsent : r.sent = 0) (hlanes : r.lanes = l :: ls) :
    let home := homeOf s r.tenancy (l.pas.headD 0)
    (s.requests.filter (fun p => decide (p.2.sent ≠ 0 ∧ p.2.home = home))).length < 1024 →
      sendOne s shop id = loseLines { s with requests := put s.requests id { r with home := home, sent := s.steps + 1 } } shop
        (fun x _ => decide (x = lineOf (l.pas.headD 0))) := by
  intro home hroom
  have hgo : ¬ (r.sent ≠ 0 ∨ 1024 ≤ (s.requests.filter (fun p => decide (p.2.sent ≠ 0 ∧ p.2.home = home))).length) := by omega
  simp only [sendOne, h, hlanes, List.head?_cons, Option.map_some, Option.getD_some]
  exact if_neg hgo

/-! ### The Dray -/

theorem execDrayChunkDone_visits {s : State} {c0 c1 : Copy} (h : look s.copies s.ev.a = some c0) (hmay : copyMay s s.ev.a c0 = true) :
    let s0 := copyStart s s.ev.a c0
    let s1 := visitChunk (if s.ev.v = 0 then chunkEnd s0 c0 - c0.next else s.ev.v.toNat) s0 s.ev.a
    look s1.copies s.ev.a = some c1 → execDrayChunkDone s =
      .next (closeChunk (landFlights (fun i => s.ev.lines.contains i) s.ev.a 0 s1 [] c1.flying) s.ev.a) := by
  intro s0 s1 h1
  simp only [s0, s1] at h1
  simp only [execDrayChunkDone, h, hmay, h1, Bool.not_true, Bool.false_eq_true, if_false, s0, s1]

theorem visitChunk_unit {n id : Nat} {s : State} {c : Copy} {u : Nat} {bs : List (List Byte)} {v : View} {fs : List Flight} {els : Unit}
    (h : look s.copies id = some c) (hopen : c.ended = false) (hnext : c.next < chunkEnd s c)
    (hu : (if dDSP c.desc = 0 then unitAt s c c.next else .ok 1) = .ok u) (hread : readElems s c c.next u [] c.after = (bs, v, .ok els))
    (hfs : unitFlights s c c.next bs = .ok fs) :
    visitChunk (n + 1) s id =
      visitChunk n (modCopy (askLines s c.tenancy (srcBytes s c c.next u)) id (fun c => { c with
        next := c.next + u, after := v, parked := none, flying := c.flying ++ fs, left := c.dests })) id := by
  simp only [visitChunk, h, hopen, hu, Got.next, hread, hfs, Bool.false_or, decide_eq_true_eq, Nat.not_le.mpr hnext, if_false]

theorem execDrayCopyComplete_packet {s : State} {c : Copy} (h : look s.copies s.ev.a = some c) (hdone : c.allDone = true)
    (hw : c.w = none) : execDrayCopyComplete s = .next (drayAccept 128 (finishPacket s s.ev.a c) c.shop) := by
  simp only [execDrayCopyComplete, h, hdone, hw, Bool.not_true, Bool.false_eq_true, if_false]

theorem execDrayCopyComplete_command {s s1 : State} {c c1 : Copy} {w : Nat} {wv : Weave} (h : look s.copies s.ev.a = some c)
    (hdone : c.allDone = true) (hw : c.w = some w) (hwv : weaveOf s w = some wv) (hhere : copyHere s c = true)
    (hroom : resultRoom s w wv 1 c.events.cmask = true) (hcommit : copyCommit s s.ev.a c = .ok s1)
    (hc1 : look s1.copies s.ev.a = some c1) :
    let s2 := copyLand s1 c1 (copyMsg s1 c1)
    execDrayCopyComplete s = .next (drayAccept 128 (finishCommand
      (modWeave { s2 with copies := del s2.copies s.ev.a } w (fun wv => noteFailed wv c1)) c1.events 1 (copyResult s2 c1) (copyMsg s1 c1))
      wv.shop) := by
  simp only [execDrayCopyComplete, h, hdone, hw, hwv, hhere, hroom, hcommit, hc1, Bool.not_true, Bool.and_self, Bool.false_eq_true, if_false,
    if_true]

theorem landFlight_spad {s : State} {c : Copy} {v : View} {f : Flight} (hdest : (look s.baskets f.dest).isSome = true)
    (hd : dDSP c.desc = 1) : landFlight s c v f = (.ok (spStore s f.dest f.at_ f.data []), wroteAccess v s.stamp f.pas) := by
  simp [landFlight, hd, Option.isSome_iff_ne_none.mp hdest]

theorem landFlight_tob {s : State} {c : Copy} {v : View} {f : Flight} (hdest : (look s.baskets f.dest).isSome = true)
    (hd : 1 < dDSP c.desc) : landFlight s c v f = (.ok (tobWrite s f.dest f.at_ f.data),
      joinView v (tobView f.dest s.stamp ((List.range f.data.length).map (fun i => f.at_ + i)))) := by
  have h0 : dDSP c.desc ≠ 0 := by omega
  have h1 : dDSP c.desc ≠ 1 := by omega
  simp [landFlight, h0, h1, Option.isSome_iff_ne_none.mp hdest]

/-! ### The Gleaner -/

theorem execGleanerAccept_select {s : State} {wv : Weave} {e : Entry} {es : List Entry} (hwv : weaveOf s s.ev.a = some wv)
    (hq : viewEntries wv 2 = e :: es) (hon : engineOn s wv = true) (hroom : gleanerCount s wv.shop < 64) (hopc : e.opc = 0xDB) :
    let s1 := dropHead s s.ev.a 2
    execGleanerAccept s = .next { s1 with selects := put s1.selects (freshKey s1.selects) (selectOf s.ev.a wv e) } := by
  have h0 : e.opc ≠ 0 := by omega
  simp only [execGleanerAccept, hwv, hq, hon, if_neg h0, if_neg (Nat.not_le.mpr hroom), if_pos hopc, Bool.not_true, Bool.false_eq_true,
    if_false]

theorem execGleanerAccept_strands {s : State} {wv : Weave} {e : Entry} {es : List Entry} (hwv : weaveOf s s.ev.a = some wv)
    (hq : viewEntries wv 2 = e :: es) (hon : engineOn s wv = true) (h0 : e.opc ≠ 0) (hroom : gleanerCount s wv.shop < 64)
    (hopc : e.opc ≠ 0xDB) (hfree : (gslot wv (entrySlot e)).state ≠ 1) :
    execGleanerAccept s = .next (gleanerFinish (modGslot (dropHead s s.ev.a 2) s.ev.a (entrySlot e)
      (fun g => if e.opc = 0xDA then acceptReplay g (entrySlot e) e else acceptGather g e)) s.ev.a (entrySlot e)) := by
  simp only [execGleanerAccept, hwv, hq, hon, if_neg h0, if_neg (Nat.not_le.mpr hroom), if_neg hopc, if_neg hfree, Bool.not_true,
    Bool.false_eq_true, if_false]

theorem selWrites_spad {n w id : Nat} {s : State} {x : Select} {wv : Weave} {o : SelOut} {bs : List Byte}
    (he : o.entries[o.next]? = some bs) (hspad : selCtl x.desc 1 1 = 1) :
    let va := (dWord2 x.desc 2 + selBytes x.desc * o.next) % 2 ^ 64
    selWrites (n + 1) s w id x wv o = selWrites n (spStore s wv.ids.basket va bs []) w id x wv { o with
      next := o.next + 1, view := wroteAccess o.view s.stamp (spPas wv.ids.basket va bs.length) } := by
  simp only [selWrites, he, if_pos hspad]

theorem selWrites_end {n w id : Nat} {s : State} {x : Select} {wv : Weave} {o : SelOut} (he : o.entries[o.next]? = none)
    (hroom : resultRoom s w wv 3 x.events.cmask = true) (hx : (look s.selects id).isSome = true) :
    selWrites (n + 1) s w id x wv o =
      selFinish { s with selects := put s.selects id { x with out := some o, parked := none } } id x wv 0 0 o.next o.kth o.ties o.view := by
  simp only [selWrites, he, hroom, hx, if_true]

/-! ### The Courier and the Runner -/

theorem execNetCommandComplete_accepts {s : State} {w : Nat} {e : Entry} (hc : s.ev.c = 1) (hq : oldestHead s s.ev.a 6 = some (w, e))
    (h0 : e.opc ≠ 0) : execNetCommandComplete s = .next (netAccept s w e) := by
  simp only [execNetCommandComplete, if_pos hc, hq, if_neg h0]

theorem execNetCommandComplete_goesOn {s : State} (hc : s.ev.c ≠ 1) :
    execNetCommandComplete s = .next (netStep s s.ev.a s.ev.reply) := if_neg hc

theorem execNetPeerTimeout_expired {s : State} {x : NetCmd} (h : look s.net s.ev.a = some x) (ht : x.since + 10 ^ 8 ≤ s.time) :
    execNetPeerTimeout s = .next (netStep s s.ev.a { s.ev.reply with mismatch := false, failed := some s.ev.b }) := by
  simp only [execNetPeerTimeout, h, if_neg (Nat.not_lt.mpr ht)]

theorem execRunnerGrainFetch_accepts {s : State} {w : Nat} {e : Entry} (hc : s.ev.c = 1) (hq : oldestHead s s.ev.a 8 = some (w, e))
    (h0 : e.opc ≠ 0) (hroom : (s.prefetch.filter (fun p => decide (p.2.die = dieOf s.ev.a))).length < 256) :
    execRunnerGrainFetch s = .next (prefAccept s w e) := by
  simp only [execRunnerGrainFetch, if_pos hc, hq, if_neg h0, if_pos hroom]

theorem execRunnerGrainFetch_grain {s : State} {p : Prefetch} {g : Nat} {gs : List Nat} {wv : Weave} (hc : s.ev.c ≠ 1)
    (h : look s.prefetch s.ev.a = some p) (hg : p.grains = g :: gs) (hwv : weaveOf s p.w = some wv)
    (hfirst : prefFirst s s.ev.a p = true) :
    let r := prefStep s p wv.ids.tenancy g
    let p1 := { r.2 with grains := gs }
    let s2 := { r.1 with prefetch := put r.1.prefetch s.ev.a p1 }
    execRunnerGrainFetch s = .next (if gs = [] then prefFinish s2 s.ev.a p1 else s2) := by
  simp only [execRunnerGrainFetch, if_neg hc, h, hg, hwv, hfirst, Bool.not_true, Bool.false_eq_true, if_false]

/-! ### The statement -/

/-- The oldest selection of a shop is the one that may go on. -/
theorem select_oldest {s : State} {a : Nat} {x : Select}
    (h : ∀ p ∈ s.selects, p.1 < a → p.2.shop = x.shop → ∀ v, weaveOf s p.2.w = some v → engineOn s v = false) :
    s.selects.any (fun p => decide (p.1 < a ∧ p.2.shop = x.shop) &&
      (match weaveOf s p.2.w with | some v => engineOn s v | none => false)) = false := by
  refine List.any_eq_false.mpr fun p hp => ?_
  rw [Bool.and_eq_true, decide_eq_true_eq]
  rintro ⟨⟨hlt, hshop⟩, hon⟩
  cases hv : weaveOf s p.2.w with
  | none => simp [hv] at hon
  | some v => simp [hv, h p hp hlt hshop v hv] at hon

/-- Settles O46. -/
theorem engineEvents : Obligations.EngineEvents := by
  unfold Obligations.EngineEvents
  intro s
  refine ⟨?clerkServes, ?clerkSends, fun _ _ _ _ _ => sendOne_room, ?clerkStray, fun _ _ => execDrayChunkDone_visits, ?drayAccepts,
    fun _ _ _ _ _ _ _ _ => visitChunk_unit, fun _ _ _ hdest => ⟨landFlight_spad hdest, landFlight_tob hdest⟩,
    fun _ => execDrayCopyComplete_packet, fun _ _ _ _ _ => execDrayCopyComplete_command, ?gleanerAccepts, ?strand, ?select, ?selectGoesOn,
    fun _ _ _ _ _ _ => ⟨fun _ => selWrites_spad, selWrites_end⟩, ?rendezvous, ?kstep, ?splitFin,
    fun _ _ => execNetCommandComplete_accepts, execNetCommandComplete_goesOn, fun _ => execNetPeerTimeout_expired,
    fun _ _ => execRunnerGrainFetch_accepts, fun _ _ _ _ => execRunnerGrainFetch_grain⟩
  case clerkServes =>
    intro r o wv h hsent hfirst hop hwv
    exact (execClerkPerform_sent h hsent).trans (congrArg _ (serveRequest_first h hsent hfirst hop hwv))
  case clerkSends =>
    intro r o wv s1 h hsent hok hop hwv hmay hhomes hcommit
    refine (execClerkPerform_unsent h hsent hop hwv).trans ?_
    rw [hok]
    exact congrArg _ (sendOp_committed hmay hhomes hcommit)
  case clerkStray =>
    intro r h hop
    exact (execClerkPerform_stray h hop).trans (congrArg _ (serveRequest_stray h hop))
  case drayAccepts =>
    intro h
    show execDrayChunkDone s = _
    simp only [execDrayChunkDone, h]
  case gleanerAccepts =>
    intro wv e es hwv hq hon h0 hroom
    exact ⟨execGleanerAccept_select hwv hq hon hroom, execGleanerAccept_strands hwv hq hon h0 hroom⟩
  case strand =>
    intro wv o hwv hbusy hon hpending hop hmay
    show execGleanerStrandSettle s = _
    simp only [execGleanerStrandSettle, hwv, hbusy, hon, hpending, hop, hmay]
    rfl
  case select =>
    intro x wv o keys h hout hwv hop holdest hon hmay hroom hkeys hpoison
    show execGselectComplete s = _
    have hsound : keys.any (fun k => k.1.any (poisoned s wv.ids.tenancy)) = false :=
      List.any_eq_false.mpr fun k hk => ne_true_of_eq_false (hpoison k hk)
    simp only [execGselectComplete, h, hout, hwv, hop, hon, hmay, hroom, hkeys, Bool.not_true, Bool.or_false]
    exact (if_neg (ne_true_of_eq_false (select_oldest holdest))).trans (if_neg (ne_true_of_eq_false hsound))
  case selectGoesOn =>
    intro x wv o out B h hout hwv hop hB hres
    show execGselectComplete s = _
    simp only [execGselectComplete, h, hout, hwv, hop, hB, hres]
    rfl
  case rendezvous =>
    intro B w ws wv h hs hB hready hwv hheads hon hhead
    dsimp only
    intro hequal
    have hgo : ¬ (engineOn s wv = false ∨ headReady s B w = false) := by simp [hon, hhead]
    show execLoomRendezvous s = _
    simp only [execLoomRendezvous, hB, hready, hwv, hheads, if_neg hgo]
    split
    · rfl
    · next hdiffer => exact absurd (List.all_eq_true.mpr fun p hp => decide_eq_true (hequal p hp)) hdiffer
  case kstep =>
    intro x hx hon hcoll hstatus hstep hstarted hopc hturn
    have hgo : ¬ (loomOn s x = false ∨ loomCollected s x = true) := by simp [hon, hcoll]
    have hrun : ¬ (x.status ≠ 0 ∨ x.steps ≤ x.step) := by omega
    have hmine : ¬ (splint x.opc = true ∧ x.opc ≠ 0xDF) := by rcases hopc with hopc | hopc <;> simp [hopc]
    have hmay : ¬ (x.started.isNone = true ∨ (splint x.opc = true ∧ x.opc ≠ 0xDF) ∨ loomTurn (loomStart s s.ev.a) s.ev.a x = false) := by
      simp [hmine, hturn, Option.isNone_eq_false_iff.mpr hstarted]
    show execLoomKstepCommit s = _
    simp only [execLoomKstepCommit, hx, if_neg hgo, if_neg hrun, if_neg hmay] <;> rfl
  case splitFin =>
    intro x0 x B h0 hon hcoll hx hB hstatus hstep hstarted hsplint hopc hturn
    have hgo : ¬ (loomOn s x0 = false ∨ (loomCollected s x0 = true ∧ x0.started = none)) := by
      rcases hcoll with hcoll | hcoll <;> simp [hon, hcoll]
    have hrun : ¬ (x.status ≠ 0 ∨ x.steps ≤ x.step) := by omega
    have hmay : ¬ (x.started.isNone = true ∨ splint x.opc = false ∨ x.opc = 0xDF ∨ loomTurn (loomStart s s.ev.a) s.ev.a x = false) := by
      simp [hsplint, hopc, hturn, Option.isNone_eq_false_iff.mpr hstarted]
    show execLoomSplitFinComplete s = _
    simp only [execLoomSplitFinComplete, h0, hx, hB, if_neg hgo, if_neg hrun, if_neg hmay]

end Sys2Proof.Machine
end

section
/-!
Clause starts, completions and wakes (spec/08_bench.md R164 to R166, R179, spec/09_porter.md R214, R215, spec/15_reeve.md R307, R321,
spec/16_depot_loft.md R334, spec/24_scrivener.md R435).
-/

namespace Sys2Proof.Machine

open Sys2Proof

/-! ### The bench's rotation -/

theorem benchGives_free {s : State} {shop bench w : Nat} {xs : List (Nat × Nat)} (h : benchGives s shop bench = some (w, xs)) :
    benchBusy s shop bench = false := by
  unfold benchGives at h
  split at h
  · contradiction
  · exact eq_false_of_ne_true ‹_›

/-- What is left of a visit is not empty. -/
theorem visitLeft_ne_nil {s : State} {b : Bench} {w : Nat} {xs : List (Nat × Nat)} (h : visitLeft s b = some (w, xs)) : xs ≠ [] := by
  unfold visitLeft at h
  split at h
  · contradiction
  · split at h
    · contradiction
    · next hne =>
      obtain ⟨rfl, rfl⟩ := Prod.mk.inj (Option.some.inj h)
      exact hne

/-- Without a visit in progress the bench gives the first weave of its rotation that has a ready split. -/
theorem benchGives_rotates {s : State} {shop bench w : Nat} {xs : List (Nat × Nat)} (h : benchGives s shop bench = some (w, xs))
    (hv : visitLeft s ((look s.benches (4 * shop + bench)).getD {}) = none) :
    xs ≠ [] ∧ xs = readySplits s w ∧
      ∃ pre post, nextVisits s shop bench = pre ++ w :: post ∧ ∀ x ∈ pre, readySplits s x = [] := by
  simp only [benchGives, benchGives_free h, hv, Bool.false_eq_true, if_false] at h
  rw [List.find?_map, Option.map_eq_some_iff] at h
  obtain ⟨w1, hfind, hpair⟩ := h
  obtain ⟨rfl, rfl⟩ := Prod.mk.inj hpair
  obtain ⟨hready, pre, post, hsplit, hpre⟩ := List.find?_eq_some_iff_append.mp hfind
  refine ⟨?_, rfl, pre, post, hsplit, fun x hx => ?_⟩
  · simpa using hready
  · simpa using hpre x hx

theorem benchGives_ne_nil {s : State} {shop bench w : Nat} {xs : List (Nat × Nat)} (h : benchGives s shop bench = some (w, xs)) : xs ≠ [] := by
  cases hv : visitLeft s ((look s.benches (4 * shop + bench)).getD {}) with
  | none => exact (benchGives_rotates h hv).1
  | some x =>
    simp only [benchGives, benchGives_free h, hv, Bool.false_eq_true, if_false, Option.some.injEq] at h
    exact visitLeft_ne_nil (hv.trans (congrArg some h))

section Start

variable {s : State} {wv : Weave} {sp : Split} (hwv : weaveOf s s.ev.a = some wv) (hsp : look wv.splits s.ev.b = some sp)
  (hmay : mayStartClause s s.ev.b wv sp = true) (hnowait : ∀ s1 ps, fetchClause s s.ev.a s.ev.b wv sp ≠ .wait s1 ps)
include hwv hsp hnowait

include hmay in
/-- A split whose fetch is over starts if it is the one that its bench gives. -/
theorem execClauseStart_visit {w1 : Nat} {x : Nat × Nat} {left : List (Nat × Nat)}
    (hg : benchGives s wv.shop wv.bench = some (w1, x :: left)) :
    execClauseStart s = if w1 = s.ev.a ∧ x.1 = s.ev.b then
        .next (startPair (noteVisit (startClause s s.ev.a s.ev.b wv sp) (4 * wv.shop + wv.bench) s.ev.a s.ev.b wv left)
          (4 * wv.shop + wv.bench) s.ev.a s.ev.b)
      else .next s := by
  cases hf : fetchClause s s.ev.a s.ev.b wv sp with
  | wait s1 ps => exact absurd hf (hnowait s1 ps)
  | _ => simp only [execClauseStart, hwv, hsp, hmay, hf, hg, Bool.not_true, Bool.false_eq_true, if_false]

theorem execClauseStart_noVisit (hg : benchGives s wv.shop wv.bench = none) : execClauseStart s = .next s := by
  cases hf : fetchClause s s.ev.a s.ev.b wv sp with
  | wait s1 ps => exact absurd hf (hnowait s1 ps)
  | _ => simp only [execClauseStart, hwv, hsp, hf, hg, ite_self]

end Start

/-! ### Operations and waits -/

/-- A split with a held instruction issues it. -/
theorem ctxOf_held {s : State} {w slot : Nat} {h : Held} (hh : heldOf s w slot = some h) (pn : BitVec 1) (pred : BitVec 3) :
    ctxOf { s with issuer := some (w, slot) } pn pred ≠ none := by
  obtain ⟨wv, hwv, hsp⟩ := Option.bind_eq_some_iff.mp hh
  obtain ⟨sp, hlook, hheld⟩ := Option.bind_eq_some_iff.mp hsp
  have hwv' : weaveOf { s with issuer := some (w, slot) } w = some wv := hwv
  simp [ctxOf, hwv', hlook, hheld]

/-- A GTWAIT whose time has come is executed again for its split. -/
theorem execGtwaitWake_reached {s : State} {h : Held} {n : Nat} (hh : heldOf s s.ev.a s.ev.b = some h) (hw : h.wait = .gtime n)
    (ht : n ≤ s.time) :
    ∃ s1, exec (.gtwait (sysOf h.word)) { s with issuer := some (s.ev.a, s.ev.b) } = .next s1 ∧
      execGtwaitWake s = .next { s1 with issuer := s.issuer } := by
  rcases nothingRefused (.gtwait (sysOf h.word)) { s with issuer := some (s.ev.a, s.ev.b) } with ⟨s1, hs1⟩ | ⟨-, hnone⟩
  · refine ⟨s1, hs1, ?_⟩
    have hs1' : execGtwait (sysOf h.word) { s with issuer := some (s.ev.a, s.ev.b) } = .next s1 := hs1
    simp only [execGtwaitWake, hh, hw, if_pos ht, hs1']
  · exact absurd hnone (ctxOf_held hh 0 7)

theorem execLongLatencyComplete_memory {s : State} {o : Op} {wv : Weave} (ho : look s.ops s.ev.a = some o) (hwv : weaveOf s o.w = some wv)
    (hk : o.kind ≠ .engine) (htob : tobOp o = false) :
    execLongLatencyComplete s = .next (if s.ev.ok then
        completeOne (if !(doneOnce o) && mayPerform s s.ev.a o then performOp s s.ev.a o wv else s) s.ev.a
      else if !(doneOnce o) && mayPerform s s.ev.a o then performOp s s.ev.a o wv else s) := by
  simp only [execLongLatencyComplete, ho, hwv, htob, Bool.not_false, Bool.true_or, Bool.and_true, Bool.or_false]

/-- Settles O47. That the start of another split changes nothing, and when a split is ready, is log 17's reading; the holder of a far trap is
log 23's. -/
theorem wakeEvents : Obligations.WakeEvents := by
  unfold Obligations.WakeEvents
  intro s
  refine ⟨?fetchWaits, ?starts, ?start, ?gives, fun _ _ => execLongLatencyComplete_memory, ?wayFree, ?farTrap, ?pause,
    fun _ _ => execGtwaitWake_reached, ?timeout, ?watch⟩
  case fetchWaits =>
    intro wv sp s1 ps hwv hsp hmay hfetch
    show execClauseStart s = _
    simp only [execClauseStart, hwv, hsp, hmay, hfetch, startClause]
    rfl
  case starts =>
    intro wv sp hwv hsp hmay hnowait
    refine ⟨fun r left hg => ?_, fun w1 x left hg hother => ?_, execClauseStart_noVisit hwv hsp hnowait⟩
    · exact (execClauseStart_visit hwv hsp hmay hnowait hg).trans (if_pos ⟨rfl, rfl⟩)
    · exact (execClauseStart_visit hwv hsp hmay hnowait hg).trans (if_neg hother)
  case start =>
    intro w slot wv sp
    refine ⟨fun pas h ws hfetch => ?_, fun s1 t hdr hfetch => ?_⟩
    · simp only [startClause, hfetch]
    · simp only [startClause, hfetch]
  case gives =>
    intro shop bench w xs h
    exact ⟨benchGives_free h, benchGives_ne_nil h, fun hv => (benchGives_rotates h hv).2⟩
  case wayFree =>
    intro o wv ho hwv hgo
    show execVersionWayFree s = _
    simp only [execVersionWayFree, ho, hwv, if_pos hgo]
  case farTrap =>
    intro wv f hwv hf
    refine ⟨fun n sp hn hsp => ?_, fun hn => ?_⟩
    · show execFarFaultTrap s = _
      simp only [execFarFaultTrap, hwv]
      split
      · next hnone => exact nomatch hnone.symm.trans hf
      · next hsome =>
        obtain rfl := Option.some.inj (hsome.symm.trans hf)
        simp only [hn, hsp]
    · show execFarFaultTrap s = _
      simp only [execFarFaultTrap, hwv]
      split
      · next hnone => exact nomatch hnone.symm.trans hf
      · next hsome =>
        obtain rfl := Option.some.inj (hsome.symm.trans hf)
        simp only [hn]
  case pause =>
    intro h n hh hw hn
    show execPauseExpire s = _
    simp only [execPauseExpire, hh, hw, if_pos hn]
  case timeout =>
    intro h line n hh hw hn
    show execWaitlTimeout s = _
    simp only [execWaitlTimeout, hh, hw, if_pos hn]
  case watch =>
    intro h n hh hw hn
    show execWatchUnavailable s = _
    simp only [execWatchUnavailable, hh, hw, if_pos hn]

end Sys2Proof.Machine
end

section
/-!
Placing, pre-empting, saving and restoring gangs (spec/07_steward.md R153 to R163, spec/02_execution_model.md R51).
-/

namespace Sys2Proof.Machine

open Sys2Proof

/-- The guard is owed nothing by a lot for a shop that no record names. -/
theorem guardOwes_none {s : State} {a b : Nat} (h : ∀ x ∈ guardOwes s, ¬ (x.1 = b ∧ x.2.1 = a)) :
    (guardOwes s).any (fun x => decide (x.1 = b ∧ x.2.1 = a)) = false :=
  List.any_eq_false.mpr fun x hx => by simpa using h x hx


/-- Settles O48. The victim and the next gang of the starvation guard and what it owes are log 19's, turn and ranking log 40's, the
acknowledging units logs 41's and 42's. -/
theorem placementEvents : Obligations.PlacementEvents := by
  unfold Obligations.PlacementEvents
  intro s
  refine ⟨?place, ?aging, ?wait, ?guard, ?request, ?ack, ?withdraw, ?restore⟩
  case place =>
    intro c l hc hl hplaces hturn
    show execGangPlace s = _
    simp only [execGangPlace, hc, hl, hplaces, hturn, Bool.and_self, if_true]
  case aging =>
    intro l hl hplaced hstate haged
    show execPriorityAging s = _
    simp only [execPriorityAging, hl, if_pos (And.intro hplaced (And.intro hstate haged))]
  case wait =>
    intro gs hgs
    show execPriorityWaitExpire s = _
    simp only [execPriorityWaitExpire, hgs]
  case guard =>
    intro g r hstarving howes hg hr
    show execStarvationGuard s = _
    simp only [execStarvationGuard, hstarving, guardOwes_none howes, hg, hr, Bool.not_false, Bool.and_self, if_true]
  case request =>
    intro x hx hcause
    show execPreemptRequest s = _
    simp only [execPreemptRequest, hx, if_pos hcause]
  case ack =>
    intro x hx hcoll hawaited hrecord hstopped
    show execPreemptAck s = _
    simp only [execPreemptAck, hx, hcoll, hawaited, hrecord, hstopped, Bool.not_true, Bool.or_self, Bool.false_eq_true, if_false, if_true]
    exact (apply_ite Host.Outcome.next _ _ _).symm
  case withdraw =>
    intro x hx hcoll hcause hwho
    have hgo : (x.collecting && x.causes.contains s.ev.cause && decide (s.ev.cause = .priority ∨ s.ev.cause = .suspend)) = true := by
      rw [hcoll, hcause, decide_eq_true hwho]
      rfl
    refine ⟨fun hleft => ?_, fun hleft => ?_⟩
    · show execPreemptWithdraw s = _
      simp only [execPreemptWithdraw, hx, if_pos hgo, if_neg hleft]
    · show execPreemptWithdraw s = _
      simp only [execPreemptWithdraw, hx, if_pos hgo, if_pos hleft]
  case restore =>
    intro x c l hx hc hl hplaces hturn
    show execGangRestore s = _
    simp only [execGangRestore, hx, hc, hl, hplaces, hturn, Bool.and_self, if_true]

end Sys2Proof.Machine
end

section
/-!
Packets, queues and child lots (spec/07_steward.md R144 to R159, spec/16_depot_loft.md R343).
-/

namespace Sys2Proof.Machine

open Sys2Proof

/-- Units that could all be read are written in order. -/
theorem foldl_zip_map_some {α β γ : Type} (us : List α) (ks : List β) (f : γ → Option α × β → γ) (g : γ → α × β → γ)
    (h : ∀ L u k, f L (some u, k) = g L (u, k)) (L : γ) : ((us.map some).zip ks).foldl f L = (us.zip ks).foldl g L := by
  induction us generalizing ks L with
  | nil => rfl
  | cons u us ih =>
    cases ks with
    | nil => rfl
    | cons k ks => simp only [List.map_cons, List.zip_cons_cons, List.foldl_cons, h, ih]

theorem findIdx?_map_some {α : Type} (us : List α) : (us.map some).findIdx? (fun u => u.isNone) = none := by
  simp [List.findIdx?_eq_none_iff]

/-- A queue that is OPEN has no packet that blocks the next. -/
theorem any_blocking_eq_false {Q : Queue} (h : ∀ p ∈ Q.packets, blocking p.2 = false) : Q.packets.any (fun p => blocking p.2) = false :=
  List.any_eq_false.mpr fun p hp => ne_true_of_eq_false (h p hp)

theorem not_stalled {Q : Queue} {i : Nat} (h : ∀ x ∈ Q.stalled, x.pindex ≠ i) : Q.stalled.any (fun x => decide (x.pindex = i)) = false :=
  List.any_eq_false.mpr fun x hx => by simpa using h x hx

/-- A VERSIONED lot finds ways. -/
theorem versioned_fits {b : Bool} {n : Nat} (h : b = true → n ≠ 0) : (b && decide (n = 0)) = false := by
  cases b with
  | false => rfl
  | true => exact decide_eq_false (h rfl)

/-- A completion word that is used is aligned and inside SPAD. -/
theorem counter_fits {n c spad : Nat} (h : n ≠ 0 → c % n = 0 ∧ c + n ≤ spad) :
    (decide (n ≠ 0) && (decide (c % n ≠ 0) || decide (spad < c + n))) = false := by
  by_cases hn : n = 0
  · simp [hn]
  · simp [h hn]

/-- Settles O49. What enabling a queue again drops is the choice of logs 38 and 72, the order of packets log 36's, the child's record log
37's, and what a LOFTWRITE reads log 39's. -/
theorem queueEvents : Obligations.QueueEvents := by
  unfold Obligations.QueueEvents
  intro s
  refine ⟨?start, ?nop, ?launch, ?copy, ?waitsig, rfl, ?timeout, ?signal, ?loftwrite, ?loftDone, ?fence, rfl, rfl, rfl, ?enable, rfl, rfl,
    rfl, rfl, rfl, ?child⟩
  case start =>
    dsimp only
    intro hopen hd3 hsome hblock hsize
    show execPacketStart s = _
    simp only [execPacketStart, hopen, hd3, any_blocking_eq_false hblock, Bool.not_true, Bool.or_false, Bool.false_or, decide_eq_true_eq,
      if_neg (Nat.not_le.mpr hsome), if_neg (Nat.not_lt.mpr hsize)]
  case nop =>
    intro p hp
    show execNopPacket s = _
    simp only [execNopPacket, hp]
  case launch =>
    intro p hs hp hopen hcheck
    dsimp only
    intro hways hfit
    show execLaunchPacket s = _
    simp only [execLaunchPacket, hp, hopen, hcheck, versioned_fits hways, hfit, Bool.not_true, Bool.or_self, Bool.false_eq_true, if_false]
  case copy =>
    intro p hp hshop hroom
    show execCopyPacket s = _
    simp only [execCopyPacket, hp, hshop, Bool.not_true, Bool.false_or, decide_eq_true_eq, if_neg (Nat.not_le.mpr hroom)]
  case waitsig =>
    intro p hp
    show execWaitsigPacket s = _
    simp only [execWaitsigPacket, hp]
  case timeout =>
    intro p hp hdead ht
    have hgo : ¬ (p.deadline = 0 ∨ s.time < p.deadline) := by omega
    show execWaitsigTimeout s = _
    simp only [execWaitsigTimeout, hp, if_neg hgo]
  case signal =>
    intro p hp
    show execSignalPacket s = _
    simp only [execSignalPacket, hp]
  case loftwrite =>
    intro p hp hopen
    show execLoftwritePacket s = _
    simp only [execLoftwritePacket, hp, hopen, Bool.false_eq_true, if_false]
  case loftDone =>
    intro p us view hp hbegun hkind hwindow hstalled hunits
    show execLoftwriteComplete s = _
    simp only [execLoftwriteComplete, hp, hbegun, hkind, hwindow, not_stalled hstalled, hunits, findIdx?_map_some,
      List.length_map, decide_true, Bool.and_self, Bool.not_true, Bool.or_self, Bool.false_eq_true, if_false]
    rw [foldl_zip_map_some _ _ _ (fun L x => splice L (65536 * (tenOf s (queueOf s s.ev.a).tenancy).depot.lbase + fieldAt p.body 0x10 8 +
      64 * x.2) x.1) (fun _ _ _ => rfl)]
  case fence =>
    intro p hp
    show execFencePacket s = _
    simp only [execFencePacket, hp]
  case enable =>
    intro hoff hok hstage
    show execQueueEnable s = _
    simp only [execQueueEnable, hoff, hok, hstage]
    rfl
  case child =>
    intro wv e es par o hs hwv hq hpar ho hon hmay hopc hdepth
    dsimp only
    intro htype hform hcheck hword hways hfit
    show execLaunchDAccept s = _
    simp only [execLaunchDAccept, hwv, hq, hpar, ho, hon, hmay, hopc, htype, hform, hcheck, counter_fits hword, versioned_fits hways, hfit,
      Nat.not_lt.mpr (show par.depth + 1 ≤ 15 from hdepth), reduceCtorEq, Bool.not_true, Bool.or_self, Bool.false_eq_true, if_false,
      Option.isSome_none, ne_eq, not_true] <;> rfl

end Sys2Proof.Machine
end

section
/-!
Tenancies, register blocks, fills and keys (spec/01_engines.md R460, spec/15_reeve.md R304, R310, R311, spec/23_courier.md R421).
-/

namespace Sys2Proof.Machine

open Sys2Proof

/-! ### Register blocks (R8, R9) -/

section Blocks

variable {s : State} (h8 : s.ev.a % 8 = 0) {n o : Nat}
include h8

theorem registerWrite_package (h : s.ev.a < 0x60) : execRegisterWrite s = .next (writePackage s s.ev.a s.ev.v) := by
  simp (disch := omega) only [execRegisterWrite, if_neg, if_pos]

theorem registerWrite_queue (hn : n < 16384) (ho : o < 64) (h : s.ev.a = 0x100000 + 64 * n + o) :
    execRegisterWrite s = .next (writeQueue s n o s.ev.v) := by
  have hblock : (s.ev.a - 0x100000) / 64 = n := by omega
  have hoff : s.ev.a % 64 = o := by omega
  simp (disch := omega) only [execRegisterWrite, decide_eq_true_eq, if_neg, if_pos, hblock, hoff]

theorem registerWrite_ten (hn : n < 16) (ho : o < 64) (h : s.ev.a = 0x200000 + 64 * n + o) :
    execRegisterWrite s = .next (writeTen s n o s.ev.v) := by
  have hblock : (s.ev.a - 0x200000) / 64 = n := by omega
  have hoff : s.ev.a % 64 = o := by omega
  simp (disch := omega) only [execRegisterWrite, decide_eq_true_eq, if_neg, if_pos, hblock, hoff]

theorem registerWrite_reeve (hn : n < 16) (ho : o < 0x8000) (h : s.ev.a = 0x300000 + 0x8000 * n + o) :
    execRegisterWrite s = .next (writeReeve s n o s.ev.v) := by
  have hblock : (s.ev.a - 0x300000) / 0x8000 = n := by omega
  have hoff : s.ev.a % 0x8000 = o := by omega
  simp (disch := omega) only [execRegisterWrite, decide_eq_true_eq, if_neg, if_pos, hblock, hoff]

theorem registerWrite_tinker (hn : n < 12) (ho : o < 0x10000) (h : s.ev.a = 0x400000 + 0x10000 * n + o) :
    execRegisterWrite s = .next (writeTinker s n o s.ev.v) := by
  have hblock : (s.ev.a - 0x400000) / 0x10000 = n := by omega
  have hoff : s.ev.a % 0x10000 = o := by omega
  simp (disch := omega) only [execRegisterWrite, decide_eq_true_eq, if_neg, if_pos, hblock, hoff]

theorem registerWrite_ring (hn : n < 256) (ho : o < 64) (h : s.ev.a = 0x500000 + 64 * n + o) :
    execRegisterWrite s = .next (writeRing s n o s.ev.v) := by
  have hblock : (s.ev.a - 0x500000) / 64 = n := by omega
  have hoff : s.ev.a % 64 = o := by omega
  simp (disch := omega) only [execRegisterWrite, decide_eq_true_eq, if_neg, if_pos, hblock, hoff]

theorem registerWrite_comm {c : Nat} (hn : n < 16) (hc : c < 16) (ho : o < 64) (h : s.ev.a = 0x520000 + 0x400 * n + 64 * c + o) :
    execRegisterWrite s = .next (writeComm s n c o s.ev.v) := by
  have hblock : (s.ev.a - 0x520000) / 0x400 = n := by omega
  have hcomm : s.ev.a % 0x400 / 64 = c := by omega
  have hoff : s.ev.a % 64 = o := by omega
  simp (disch := omega) only [execRegisterWrite, decide_eq_true_eq, if_neg, if_pos, hblock, hcomm, hoff]

theorem registerWrite_scriv (hn : n < 16) (ho : o < 0x100) (h : s.ev.a = 0x580000 + 0x100 * n + o) :
    execRegisterWrite s = .next (writeScriv s n o s.ev.v) := by
  have hblock : (s.ev.a - 0x580000) / 0x100 = n := by omega
  have hoff : s.ev.a % 0x100 = o := by omega
  simp (disch := omega) only [execRegisterWrite, decide_eq_true_eq, if_neg, if_pos, hblock, hoff]

theorem registerWrite_shop (hn : n < 192) (ho : o < 0x80) (h : s.ev.a = 0x600000 + 0x80 * n + o) :
    execRegisterWrite s = .next (writeShop s n o s.ev.v) := by
  have hblock : (s.ev.a - 0x600000) / 0x80 = n := by omega
  have hoff : s.ev.a % 0x80 = o := by omega
  simp (disch := omega) only [execRegisterWrite, decide_eq_true_eq, if_neg, if_pos, hblock, hoff]

end Blocks

theorem readRegister_queue (s : State) {a n o : Nat} (hn : n < 16384) (ho : o < 64) (h8 : o % 8 = 0) (h : a = 0x100000 + 64 * n + o) :
    readRegister s a = readQueue s n o := by
  have hblock : (a - 0x100000) / 64 = n := by omega
  have hoff : a % 64 = o := by omega
  simp (disch := omega) only [readRegister, decide_eq_true_eq, if_neg, if_pos, hblock, hoff]

theorem readRegister_ten (s : State) {a n o : Nat} (hn : n < 16) (ho : o < 64) (h8 : o % 8 = 0) (h : a = 0x200000 + 64 * n + o) :
    readRegister s a = readTen s n o := by
  have hblock : (a - 0x200000) / 64 = n := by omega
  have hoff : a % 64 = o := by omega
  simp (disch := omega) only [readRegister, decide_eq_true_eq, if_neg, if_pos, hblock, hoff]

theorem readRegister_key (s : State) {a k o : Nat} (hk : k < 1024) (ho : o < 16) (h8 : o % 8 = 0) (h : a = 0x510000 + 16 * k + o) :
    readRegister s a = readKey s k o := by
  have hblock : (a - 0x510000) / 16 = k := by omega
  have hoff : a % 16 = o := by omega
  simp (disch := omega) only [readRegister, decide_eq_true_eq, if_neg, if_pos, hblock, hoff]

/-- Past the last block nothing answers. -/
theorem readRegister_past (s : State) {a : Nat} (h : 0x606000 ≤ a) : readRegister s a = 0 := by
  by_cases h8 : a % 8 = 0
  · simp (disch := omega) only [readRegister, decide_eq_true_eq, if_neg]
  · exact if_pos h8

/-! ### Tenancies and keys -/

/-- Settles O50. The free cause of a refusal, the wait for the home sets and where a TKEY write goes are log 51's, the state of a slot whose
key does not unwrap log 50's. -/
theorem tenancyEvents : Obligations.TenancyEvents := by
  unfold Obligations.TenancyEvents
  intro s
  refine ⟨?create, ?createRefused, ?created, ?destroy, ?destroyRefused, ?destroyed, ?tkey,
    fun h8 => ⟨registerWrite_package h8, fun _ _ => registerWrite_queue h8, fun _ _ => registerWrite_ten h8,
      fun _ _ => registerWrite_reeve h8, fun _ _ => registerWrite_tinker h8, fun _ _ => registerWrite_ring h8,
      fun _ _ _ => registerWrite_comm h8, fun _ _ => registerWrite_scriv h8, fun _ _ => registerWrite_shop h8⟩,
    ?readTen, ?readKey, ?readQueue, fun _ => readRegister_past s, ?quota, ?fill, ?keys⟩
  case create =>
    intro ht hcauses
    show execTenancyCreate s = _
    simp only [execTenancyCreate, if_neg (Nat.not_le.mpr ht), hcauses]
  case createRefused =>
    intro ht hcauses
    show execTenancyCreate s = _
    simp only [execTenancyCreate, if_neg (Nat.not_le.mpr ht)]
  case created =>
    intro hstate hbusy harc
    refine ⟨fun hhome => ?_, fun hhome => ?_⟩
    · show execTenancyCreateDone s = _
      simp only [execTenancyCreateDone, if_pos (And.intro hstate (And.intro hbusy harc)), hhome, Bool.false_eq_true, if_false]
    · show execTenancyCreateDone s = _
      simp only [execTenancyCreateDone, if_pos (And.intro hstate (And.intro hbusy harc)), if_pos hhome]
  case destroy =>
    intro ht hcauses
    show execTenancyDestroy s = _
    simp only [execTenancyDestroy, if_neg (Nat.not_le.mpr ht), hcauses]
  case destroyRefused =>
    intro ht hcauses
    show execTenancyDestroy s = _
    simp only [execTenancyDestroy, if_neg (Nat.not_le.mpr ht)]
  case destroyed =>
    intro hstate hbusy hleases
    have hall : (tenOf s s.ev.a).reeve.leases.all (fun p => decide (p.2.state = 0)) = true :=
      List.all_eq_true.mpr fun p hp => decide_eq_true (hleases p hp)
    refine ⟨fun hhome => ?_, fun hhome => ?_⟩
    · show execTenancyDestroyDone s = _
      simp only [execTenancyDestroyDone, if_pos (And.intro hstate (And.intro hbusy hall)), hhome, Bool.false_eq_true, if_false]
    · show execTenancyDestroyDone s = _
      simp only [execTenancyDestroyDone, if_pos (And.intro hstate (And.intro hbusy hall)), if_pos hhome]
      rfl
  case tkey =>
    intro ht hstate
    show execTkeyWrite s = _
    simp only [execTkeyWrite, if_pos (And.intro ht hstate)]
  case readTen =>
    exact fun n hn => ⟨readRegister_ten s (o := 0x10) hn (by decide) rfl (by omega),
      readRegister_ten s (o := 0x18) hn (by decide) rfl (by omega)⟩
  case readKey =>
    exact fun k hk => readRegister_key s (o := 8) hk (by decide) rfl (by omega)
  case readQueue =>
    exact fun n hn => ⟨readRegister_queue s (o := 0) hn (by decide) rfl rfl,
      readRegister_queue s (o := 0x10) hn (by decide) rfl (by omega)⟩
  case quota =>
    intro ht
    dsimp only
    intro hfits
    exact if_neg (not_or.mpr ⟨Nat.not_le.mpr ht, Nat.not_lt.mpr hfits⟩)
  case fill =>
    refine ⟨fun hwanted => ?_, fun s1 hwanted hfill => ?_⟩
    · show execGrainFillComplete s = _
      simp only [execGrainFillComplete, hwanted, Bool.false_eq_true, if_false]
    · show execGrainFillComplete s = _
      simp only [execGrainFillComplete, if_pos hwanted, hfill, Option.getD_some]
  case keys =>
    intro ht
    refine ⟨fun hlen => ?_, fun hlen => ?_, ?_⟩
    · show execKeyWrapWrite s = _
      simp only [execKeyWrapWrite, if_neg (Nat.not_le.mpr ht), if_pos hlen]
    · show execKeyWrapWrite s = _
      simp only [execKeyWrapWrite, if_neg (Nat.not_le.mpr ht), if_neg (Nat.not_lt.mpr hlen)] <;> rfl
    · show execKeySlotConfigWrite s = _
      simp only [execKeySlotConfigWrite, if_neg (Nat.not_le.mpr ht)]

end Sys2Proof.Machine
end

section
/-!
Leases (spec/15_reeve.md R304, R313 to R328): a command of q9 is served by one rule, and each message and time acts on its slot.
-/

namespace Sys2Proof.Machine

open Sys2Proof

/-! ### Commands of q9 (R327) -/

/-- A command that is in order, of a resident basket, to a slot with no command outstanding is served. -/
theorem serveQ9_serves {s : State} {w : Nat} {mine : Nat → Bool} {go : State → Nat → Nat → Nat → Word → List Nat → State} {wv : Weave}
    {e : Entry} {es : List Entry} {B : Basket} (hwv : weaveOf s w = some wv) (hq : viewEntries wv 9 = e :: es)
    (hB : basketOf s wv = some B) (hres : B.resident = true) (hmine : mine ((e.words.map (fun x => x.toNat)).headD 0) = true)
    (hbad : q9Bad s wv.ids.tenancy (e.words.map (fun x => x.toNat)) = false)
    (hcmd : (e.words.map (fun x => x.toNat)).headD 0 = 4 ∨
      (leaseOf s wv.ids.tenancy ((e.words.map (fun x => x.toNat)).getD 1 0)).cmd.isSome = false) :
    serveQ9 s w mine go = go (dropHead s w 9) wv.ids.tenancy ((e.words.map (fun x => x.toNat)).getD 1 0) e.op (e.words.getD 31 0)
      (e.words.map (fun x => x.toNat)) := by
  have hfree : ¬ ((e.words.map (fun x => x.toNat)).headD 0 ≠ 4 ∧
      (leaseOf s wv.ids.tenancy ((e.words.map (fun x => x.toNat)).getD 1 0)).cmd.isSome = true) :=
    fun h => hcmd.elim h.1 (ne_true_of_eq_false · h.2)
  simp only [serveQ9, hwv, hq, hB, hres, hmine, hbad, if_neg hfree, Bool.not_true, Bool.or_self, Bool.false_eq_true, if_false]

/-! ### Messages of the pool manager (R313) -/

theorem otherKind_of_amiopOk {m : Amiop} {k : Nat} (h : amiopOk m k = true) : otherKind m k = false := by
  obtain ⟨hkind, -⟩ := of_decide_eq_true h
  simp [otherKind, hkind]

section Messages

variable {s : State}

theorem execGrant_ok (hok : amiopOk s.ev.amiop 0x81 = true) (hgrant : grantOk (msgLease s s.ev.amiop) s.ev.amiop = true) :
    let m := s.ev.amiop
    execGrant s = .next (sendAck (replySlot (setLease s m.tenancy.toNat m.slot.toNat { msgLease s m with
      id := m.leaseid, base := m.base.toNat, size := m.size.toNat, expiry := s.time + m.duration.toNat, node := m.node.toNat,
      rights := m.rights.toNat % 8, replica := m.replica.toNat, state := 1, cause := 0, dropped := 0 })
      m.tenancy.toNat m.slot.toNat 0) m true) := by
  simp only [execGrant, otherKind_of_amiopOk hok, hok, hgrant, Bool.and_self, Bool.false_eq_true, if_false, if_true]

/-- A REFUSE that answers an ACQUIRE. -/
theorem execRefuse_acquire (hok : amiopOk s.ev.amiop 0x82 = true) (hid : s.ev.amiop.leaseid = 0)
    (hout : outstanding (msgLease s s.ev.amiop) 1 = true)
    (hstate : (msgLease s s.ev.amiop).state = 0 ∨ (msgLease s s.ev.amiop).state = 5) :
    execRefuse s = .next (sendAck (replySlot s s.ev.amiop.tenancy.toNat s.ev.amiop.slot.toNat 1) s.ev.amiop true) := by
  simp only [execRefuse, otherKind_of_amiopOk hok, hok, if_pos (And.intro hid (And.intro hout hstate)), Bool.not_true, Bool.false_eq_true,
    if_false]

/-- A REFUSE of a slot's renewal. -/
theorem execRefuse_renewal (hok : amiopOk s.ev.amiop 0x82 = true) (hid : s.ev.amiop.leaseid = (msgLease s s.ev.amiop).id) :
    ((msgLease s s.ev.amiop).state = 2 → execRefuse s = .next (sendAck
      (endSlot s s.ev.amiop.tenancy.toNat s.ev.amiop.slot.toNat ((msgLease s s.ev.amiop).expiry - 4000) 2) s.ev.amiop true)) ∧
    ((msgLease s s.ev.amiop).state = 3 → execRefuse s = .next (sendAck
      (loseSlot s s.ev.amiop.tenancy.toNat s.ev.amiop.slot.toNat 2) s.ev.amiop true)) := by
  refine ⟨fun hstate => ?_, fun hstate => ?_⟩
  · simp only [execRefuse, otherKind_of_amiopOk hok, hok, hid, hstate, Bool.not_true, Bool.false_eq_true, if_false, ne_eq, not_true,
      Nat.reduceEqDiff, or_self, and_false, if_true]
  · simp only [execRefuse, otherKind_of_amiopOk hok, hok, hid, hstate, Bool.not_true, Bool.false_eq_true, if_false, ne_eq, not_true,
      Nat.reduceEqDiff, or_self, and_false, if_true]

/-- A REVOKE of a slot that holds a lease. -/
theorem execRevoke_held (hok : amiopOk s.ev.amiop 0x83 = true) (hid : s.ev.amiop.leaseid = (msgLease s s.ev.amiop).id)
    (h0 : (msgLease s s.ev.amiop).state ≠ 0) (h5 : (msgLease s s.ev.amiop).state ≠ 5) (h4 : (msgLease s s.ev.amiop).state ≠ 4) :
    let m := s.ev.amiop
    let l := msgLease s m
    execRevoke s = .next (sendAck
      (if l.state = 3 then loseSlot s m.tenancy.toNat m.slot.toNat 4
       else if l.state = 6 then setLease s m.tenancy.toNat m.slot.toNat { l with deadline := s.time + 1000 * m.grace.toNat }
       else endSlot s m.tenancy.toNat m.slot.toNat (min (l.expiry - 4000) (s.time + 1000 * m.grace.toNat)) 4) m true) := by
  simp only [execRevoke, otherKind_of_amiopOk hok, hok, hid, h0, h5, h4, ne_eq, not_true, or_self, decide_false, Bool.not_true,
    Bool.or_self, Bool.false_eq_true, if_false]
  repeat' split
  all_goals rfl

theorem execReplica_ok (hok : amiopOk s.ev.amiop 0x85 = true) (hid : s.ev.amiop.leaseid = (msgLease s s.ev.amiop).id)
    (h0 : (msgLease s s.ev.amiop).state ≠ 0) :
    execReplica s = .next (sendAck (setLease s s.ev.amiop.tenancy.toNat s.ev.amiop.slot.toNat
      { msgLease s s.ev.amiop with replica := s.ev.amiop.replica.toNat }) s.ev.amiop true) := by
  simp only [execReplica, otherKind_of_amiopOk hok, hok, decide_eq_true (And.intro hid h0), Bool.and_self, Bool.false_eq_true, if_false,
    if_true]

end Messages

/-- Settles O51. That INVREQ ends by a second event, and the order of q9's checks and their replies, are log 53's. -/
theorem leaseEvents : Obligations.LeaseEvents := by
  unfold Obligations.LeaseEvents
  intro s
  refine ⟨?q9, ?poll, ?frtmo, rfl, ?invreq, ?invreqDone, fun hok => execGrant_ok hok, ?refuse, ?revoke,
    fun hok hid => execReplica_ok hok hid, ?down, ?lead, ?resend, ?guard, ?renewTmo, ?deadline, ?writeBack, ?writtenBack, ?bisnp, ?halve⟩
  case q9 =>
    intro wv e es B hwv hq hB hres
    dsimp only
    intro hbad
    refine ⟨fun hop hcmd hstate => ?acquire, fun hop hcmd => ?renew, fun hop hcmd hstate => ?release, fun hop hcmd _ _ => ?read,
      fun f hop hf => ?frresp⟩
    case acquire =>
      exact congrArg _ ((serveQ9_serves hwv hq hB hres (decide_eq_true hop) hbad (.inr hcmd)).trans (if_pos hstate))
    case renew => exact congrArg _ (serveQ9_serves hwv hq hB hres (decide_eq_true hop) hbad (.inr hcmd))
    case release =>
      exact congrArg _ ((serveQ9_serves hwv hq hB hres (decide_eq_true hop) hbad (.inr hcmd)).trans (if_neg hstate))
    case read =>
      exact congrArg _ (serveQ9_serves hwv hq hB hres (Bool.or_eq_true_iff.mpr (.inl (decide_eq_true hop))) hbad (.inr hcmd))
    case frresp =>
      refine congrArg _ ((serveQ9_serves hwv hq hB hres (decide_eq_true hop) hbad (.inl hop)).trans ?_)
      simp only [hf]
  case poll =>
    intro f bs hf hread hreply
    show execFaultResponsePoll s = _
    simp only [execFaultResponsePoll, hf, hread, if_pos hreply]
  case frtmo =>
    intro f hf htmo ht
    show execFrtmoExpire s = _
    simp only [execFrtmoExpire, hf, if_pos (And.intro htmo ht)]
  case invreq => exact fun hc => if_neg hc
  case invreqDone => exact fun hc => if_pos hc
  case refuse =>
    exact fun hok => ⟨fun hid hout hstate => execRefuse_acquire hok hid hout hstate, fun hid => (execRefuse_renewal hok hid).1,
      fun hid => (execRefuse_renewal hok hid).2⟩
  case revoke =>
    intro hok hid
    refine ⟨fun hstate => ?_, fun hstate => ?_, fun hstate => ?_⟩
    · refine (execRevoke_held hok hid (by omega) (by omega) (by omega)).trans ?_
      rw [if_pos hstate]
    · refine (execRevoke_held hok hid (by omega) (by omega) (by omega)).trans ?_
      rw [if_neg (by omega), if_neg (by omega)]
    · refine (execRevoke_held hok hid (by omega) (by omega) (by omega)).trans ?_
      rw [if_neg (by omega), if_pos hstate]
  case down =>
    refine ⟨fun hok => ?_, fun hok hkind hversion => ?_⟩
    · show execNodedown s = _
      simp only [execNodedown, hok, Bool.not_false, if_true, Bool.false_eq_true, if_false]
    · have hmine : otherKind s.ev.amiop 0x84 = false := by simp [otherKind, hkind]
      show execNodedown s = _
      simp only [execNodedown, hok, hmine, if_pos (And.intro hkind hversion), Bool.not_true, Bool.false_eq_true, if_false, if_true]
  case lead => exact fun hstate hlead ht => if_pos ⟨hstate, hlead, ht⟩
  case resend => exact fun hstate ht => if_pos ⟨hstate, ht⟩
  case guard =>
    intro ht
    refine ⟨fun hstate => ?_, fun hstate hlead => ?_⟩
    · show execExpiryGuardReached s = _
      simp only [execExpiryGuardReached, if_neg (Nat.not_lt.mpr ht), if_pos hstate]
    · have h2 : (leaseOf s s.ev.a s.ev.b).state ≠ 2 := by omega
      show execExpiryGuardReached s = _
      simp only [execExpiryGuardReached, if_neg (Nat.not_lt.mpr ht), if_neg h2, if_pos (And.intro hstate hlead)]
  case renewTmo => exact fun hstate ht => if_pos ⟨hstate, ht⟩
  case deadline =>
    intro ht
    refine ⟨fun hstate => ?_, fun hstate hset => ?_⟩
    · show execDeadlineReached s = _
      simp only [execDeadlineReached, if_neg (Nat.not_lt.mpr ht), if_pos hstate]
    · have h4 : (leaseOf s s.ev.a s.ev.b).state ≠ 4 := by omega
      show execDeadlineReached s = _
      simp only [execDeadlineReached, if_neg (Nat.not_lt.mpr ht), if_neg h4, if_pos (And.intro hstate hset)]
  case writeBack =>
    intro hstate hok hdirty hmay
    have hopen : (decide ((leaseOf s s.ev.a s.ev.b).state = 6 ∧ ((leaseOf s s.ev.a s.ev.b).deadline = 0 ∨
        s.time < (leaseOf s s.ev.a s.ev.b).deadline)) ||
        decide ((leaseOf s s.ev.a s.ev.b).state = 4 ∧ s.time < (leaseOf s s.ev.a s.ev.b).deadline)) = true := by
      rw [Bool.or_eq_true, decide_eq_true_eq, decide_eq_true_eq]
      omega
    show execReleaseWritebackDone s = _
    simp only [execReleaseWritebackDone, hopen, hok, List.contains_iff_mem.mpr hdirty, hmay, Bool.not_true, Bool.not_false, Bool.and_self,
      Bool.false_eq_true, if_false, if_true]
  case writtenBack =>
    intro hstate ht hok hall
    show execReleaseWritebackDone s = _
    simp only [execReleaseWritebackDone, decide_eq_true (And.intro hstate ht), hok, if_pos (And.intro hstate hall), Bool.true_or,
      Bool.not_true, Bool.false_eq_true, if_false]
  case bisnp =>
    refine ⟨fun hwaits => ?_, fun hfree => ?_⟩
    · exact if_pos hwaits
    · exact if_neg (ne_true_of_eq_false hfree)
  case halve =>
    intro k hk
    have hget : (look s.halvings s.ev.a).getD 0 = k := by rcases hk with hk | ⟨hk, rfl⟩ <;> rw [hk] <;> rfl
    refine ⟨fun ht => ?_, fun ht => ?_⟩
    · show execRunnerCounterHalve s = _
      simp only [execRunnerCounterHalve, hget, if_pos ht]
    · show execRunnerCounterHalve s = _
      simp only [execRunnerCounterHalve, hget, if_neg (Nat.not_lt.mpr ht)]

end Sys2Proof.Machine
end

section
/-!
The Tinker, the frames and the Loft (spec/17_tinker.md R345 to R359, spec/16_depot_loft.md R331).
-/

namespace Sys2Proof.Machine

open Sys2Proof

/-! ### What a mark leaves of the repair in progress -/

theorem tinkerOf_modTinker (s : State) (k a : Nat) (f : Tinker → Tinker) :
    tinkerOf (modTinker s k f) a = if a = k then f (tinkerOf s k) else tinkerOf s a := by
  unfold tinkerOf modTinker
  by_cases h : a = k
  · subst h
    simp [look_put, tinkerOf]
  · simp [look_put_ne _ _ h, h]

theorem tinkerOf_gainEvent_closed (s : State) (k a bit : Nat) : (tinkerOf (gainEvent s k bit) a).closed = (tinkerOf s a).closed := by
  have hmod : (tinkerOf (modTinker s k (fun T => { T with events := T.events ||| (1#4 <<< bit) })) a).closed = (tinkerOf s a).closed := by
    rw [tinkerOf_modTinker]
    split
    · next h => rw [h]
    · rfl
  unfold gainEvent
  dsimp only
  split
  · exact hmod
  · exact hmod

theorem tinkerOf_markUncorrectable_closed (s : State) (a frame sector : Nat) :
    (tinkerOf (markUncorrectable s frame sector) a).closed = (tinkerOf s a).closed := by
  unfold markUncorrectable
  rw [tinkerOf_gainEvent_closed, tinkerOf_modTinker]
  split
  · next h => rw [h]
  · rfl

theorem tinkerOf_foldl_markUncorrectable_closed (ks : List Nat) (s : State) (a : Nat) :
    (tinkerOf (ks.foldl (fun s key => markUncorrectable s (key / 2048) (key % 2048)) s) a).closed = (tinkerOf s a).closed := by
  induction ks generalizing s with
  | nil => rfl
  | cons k ks ih => exact (ih _).trans (tinkerOf_markUncorrectable_closed s a _ _)

/-! ### The statement -/

/-- Settles O52. Which errors are counted, what a scrub makes of more than 4 symbols, the windows of a repair and what retirement does are
log 56's reading; that a refused LOFTPART sets CFGERR is log 60's. -/
theorem memoryUnitEvents : Obligations.MemoryUnitEvents := by
  unfold Obligations.MemoryUnitEvents
  intro s
  refine ⟨?request, ?pass, ?scrub, ?windowOpen, ?windowClose, ?exhausted, ?migrated, ⟨?partRefused, ?partSet⟩, ?refresh, ?refreshed⟩
  case request =>
    intro hserve hread
    refine ⟨fun hnone htsv => ?_, fun hsome hfew => ?_, fun hmany htsv => ?_⟩
    · show execTinkerRequest s = _
      simp only [execTinkerRequest, hserve, hread, if_pos (And.intro hnone htsv), ite_self]
    · have h0 : ¬ (s.ev.treq.errors = 0 ∧ s.ev.treq.tsv = none) := fun h => by omega
      show execTinkerRequest s = _
      simp only [execTinkerRequest, hserve, hread, if_neg h0, if_pos (Or.inl hfew), Bool.not_true, Bool.or_self, Bool.false_eq_true,
        if_false]
    · have h0 : ¬ (s.ev.treq.errors = 0 ∧ s.ev.treq.tsv = none) := fun h => by omega
      have h2 : ¬ (s.ev.treq.errors ≤ 2 ∨ (s.ev.treq.tsv.isSome = true ∧ s.ev.treq.command = false)) := by
        simp only [htsv, Option.isSome_none, Bool.false_eq_true, false_and, or_false]
        omega
      have h4 : s.ev.treq.errors ≤ 4 ∨ choose s 9600 2 = 0 := .inl (by omega)
      show execTinkerRequest s = _
      simp only [execTinkerRequest, hserve, hread, if_neg h0, if_neg h2, if_pos h4, Bool.not_true, Bool.or_self, Bool.false_eq_true,
        if_false]
  case pass => exact fun hc => if_pos hc
  case scrub =>
    intro hc hserve
    have hsome : 0 < s.ev.treq.errors → (decide (s.ev.treq.errors = 0) && s.ev.treq.tsv.isNone) = false := fun h => by
      rw [decide_eq_false (Nat.ne_of_gt h), Bool.false_and]
    refine ⟨fun hpos hfew => ?_, fun hmany htsv => ?_⟩
    · show execScrubStep s = _
      simp only [execScrubStep, if_neg hc, hserve, hsome hpos, if_pos (Or.inl hfew), Bool.not_true, Bool.or_self, Bool.false_eq_true,
        if_false]
    · have h2 : ¬ (s.ev.treq.errors ≤ 2 ∨ (s.ev.treq.tsv.isSome = true ∧ s.ev.treq.command = false)) := by
        simp only [htsv, Option.isSome_none, Bool.false_eq_true, false_and, or_false]
        omega
      refine ⟨fun hg => ?_, fun g G hg => ?_⟩
      · show execScrubStep s = _
        simp only [execScrubStep, if_neg hc, hserve, hsome (Nat.zero_lt_of_lt hmany), if_neg h2, hg, Bool.not_true, Bool.or_self,
          Bool.false_eq_true, if_false]
      · show execScrubStep s = _
        simp only [execScrubStep, if_neg hc, hserve, hsome (Nat.zero_lt_of_lt hmany), if_neg h2, hg, Bool.not_true, Bool.or_self,
          Bool.false_eq_true, if_false]
        exact (apply_ite Host.Outcome.next _ _ _).symm
  case windowOpen =>
    intro r rest hwindow ha hnext
    have hgo : ¬ ((tinkerOf s s.ev.a).window.isSome = true ∨ 12 ≤ s.ev.a) := by
      rw [hwindow]
      simpa using ha
    refine ⟨fun hclosed => ?_, fun T hclosed hspare => ?_, fun hclosed hspare => ?_⟩
    · show execRepairWindowOpen s = _
      simp only [execRepairWindowOpen, if_neg hgo, hnext, if_pos hclosed]
    · show execRepairWindowOpen s = _
      simp only [execRepairWindowOpen, if_neg hgo, hnext, hclosed, ne_eq, not_true, if_false, hspare]
    · show execRepairWindowOpen s = _
      simp only [execRepairWindowOpen, if_neg hgo, hnext, hclosed, ne_eq, not_true, if_false, hspare]
  case windowClose =>
    intro w r rest hwindow hqueued
    refine ⟨fun hmore => ?_, fun hlast => ?_⟩
    · show execRepairWindowClose s = _
      simp only [execRepairWindowClose, hwindow, hqueued, if_pos hmore]
      simp only [modTinker, tinkerOf_foldl_markUncorrectable_closed]
    · show execRepairWindowClose s = _
      simp only [execRepairWindowClose, hwindow, hqueued, if_neg (Nat.not_lt.mpr hlast)]
  case exhausted =>
    intro hfailing hretired
    show execExhausted s = _
    simp only [execExhausted, hfailing, hretired, Bool.not_false, Bool.and_self, if_true]
  case migrated =>
    intro G f hG hmoving hf hnew hold
    show execFrameMigrationDone s = _
    simp only [execFrameMigrationDone, hG, hmoving, hf, hnew, hold, Option.filter_some, Bool.or_self, Bool.not_false, if_true]
  case partRefused =>
    intro ha hbad
    show execLoftpartWrite s = _
    simp only [execLoftpartWrite, if_neg (Nat.not_le.mpr ha), if_pos hbad]
  case partSet =>
    intro ha hgood
    show execLoftpartWrite s = _
    simp only [execLoftpartWrite, if_neg (Nat.not_le.mpr ha), hgood, Bool.false_eq_true, if_false]
  case refresh =>
    intro hout hnext ht
    show execLoftWindowStart s = _
    simp only [execLoftWindowStart, hnext, ite_self, hout, decide_eq_true ht, Bool.not_false, Bool.and_self, if_true]
  case refreshed =>
    intro hin ht
    show execLoftWindowEnd s = _
    simp only [execLoftWindowEnd, hin, decide_eq_true ht, Bool.and_self, if_true]

end Sys2Proof.Machine
end

section
/-!
# The Scrivener, the network and the package (O53)
-/

namespace Sys2Proof.Machine

open Sys2Proof

/-- Global time, with its phase, advances by the cycles that pass, each of the present period. -/
theorem elapse_clock (s : State) :
    (elapse s).time * 10 ^ 6 + (elapse s).phase = s.time * 10 ^ 6 + s.phase + ((elapse s).cycles - s.cycles) * periodFs s ∧
      (elapse s).phase < 10 ^ 6 := by
  simp only [elapse, Nat.add_sub_cancel_left]
  omega

/-- What CLOCK_STEP makes of the clock: the SYNC records follow where it changed (R439). -/
theorem execClockStep_eq (s s2 : State)
    (h : (let x := s.ev.heat
      let hot := decide (100 ≤ x.tmax.toNat)
      let covered := decide (capOf s < x.power)
      let s1 := { s with utmax := x.utmax, tmax := x.tmax, loftNext := if 85 < x.utmax.toNat then 1950 else 3900 }
      if covered || hot then
        { clockTo s1 (max 10 (s.clk - 1)) with calmAt := s.time, capped := s.capped || covered, hot := s.hot || hot }
      else if s.calmAt + 10 ^ 6 ≤ s.time then
        let s2 := clockTo s1 (min 21 (s.clk + 1))
        { s2 with capped := s.capped && decide (s2.clk < 21), hot := s.hot && decide (s2.clk < 21) }
      else s1) = s2) :
    exec .clockStep s = .next (if s2.clk = s.clk then s2 else (List.range 192).foldl syncShop s2) := by
  subst h
  rfl

/-- Settles O53: each event of the Scrivener, the network and the package, from its transition. The enabling of a ring follows log 50, the
capture and posting of replay records log 57, sampling log 58, and the stages that fail, the bits CAPPED and HOT and the clock's grid
log 60: choices of the model that the cited rules leave open. -/
theorem deviceEvents : Obligations.DeviceEvents := by
  unfold Obligations.DeviceEvents
  intro s
  refine ⟨elapse_clock s, ?dbgctl, ?sync, ?sample, rfl, ?replay, ?rrd, ?commOn, ?commOff, ?ringOn, ?ringOff, ?frame, rfl, ?stage,
    ?fabricLoss, ?networkLoss, ?clock, ?trip, rfl, rfl, rfl, rfl, ?attGo, ?attest⟩
  case dbgctl => exact fun ha => if_neg (Nat.not_le.mpr ha)
  case sync => exact fun ha hn => if_pos ⟨ha, hn⟩
  case sample =>
    intro w ws wv hturn hw hdue hstate
    show execSampleTick s = _
    simp only [execSampleTick, hturn, hw, if_pos hdue, if_pos hstate]
  case replay =>
    intro l hl hover
    show execReplayPassEnd s = _
    simp only [execReplayPassEnd, hl, if_pos hover]
  case rrd => exact fun ha => if_neg (Nat.not_le.mpr ha)
  case commOn =>
    intro ha hb henable
    exact if_neg (not_or.mpr ⟨Nat.not_le.mpr ha, not_or.mpr ⟨Nat.not_le.mpr hb, ne_true_of_eq_false henable⟩⟩)
  case commOff =>
    intro ha hb
    exact if_neg (not_or.mpr ⟨Nat.not_le.mpr ha, Nat.not_le.mpr hb⟩)
  case ringOn =>
    intro ha henable
    have hgo : ¬(256 ≤ s.ev.a ∨ (ringOf s s.ev.a).enable = true) :=
      not_or.mpr ⟨Nat.not_le.mpr ha, ne_true_of_eq_false henable⟩
    refine ⟨fun hbad => ?_, fun s2 hok hfits hpin => ?_⟩
    · show execRingEnable s = _
      simp only [execRingEnable, if_neg hgo, hbad, Bool.not_false, if_true]
    · show execRingEnable s = _
      simp only [execRingEnable, if_neg hgo, hok, hfits, hpin, Bool.and_self, Bool.not_true, Bool.false_eq_true, if_false]
  case ringOff =>
    intro ha henable
    exact if_neg (not_or.mpr ⟨Nat.not_le.mpr ha, Bool.not_eq_false _ |>.mpr henable⟩)
  case frame =>
    dsimp only
    intro hup
    refine ⟨fun hnone => ?_, fun r R hfound => ⟨fun hbad => ?_, fun hbad hkeyless => ?_, fun hbad hkey hauth => ?_,
      fun hbad hkey hauth hroom => ?_⟩⟩
    · show execFrameReceive s = _
      simp only [execFrameReceive, hup, hnone, Bool.not_true, Bool.false_eq_true, if_false]
    · show execFrameReceive s = _
      simp only [execFrameReceive, hup, hfound, hbad, Bool.not_true, Bool.false_eq_true, if_false, if_true]
    · show execFrameReceive s = _
      simp only [execFrameReceive, hup, hfound, hbad, Bool.not_true, Bool.false_eq_true, if_false]
      exact if_pos hkeyless
    · show execFrameReceive s = _
      simp only [execFrameReceive, hup, hfound, hbad, Bool.not_true, Bool.false_eq_true, if_false]
      exact (if_neg (ne_true_of_eq_false hkey)).trans (if_pos hauth)
    · show execFrameReceive s = _
      have hfull : decide (ringSlots R ≤ R.accepted.toNat - (ringOf s r).consTaken) = false :=
        decide_eq_false (Nat.not_le.mpr hroom)
      simp only [execFrameReceive, hup, hfound, hbad, hfull, Bool.not_true, Bool.false_eq_true, if_false]
      exact (if_neg (ne_true_of_eq_false hkey)).trans (if_neg (ne_true_of_eq_false hauth))
  case stage =>
    intro n hn
    refine ⟨fun h0 hpass => ?_, fun hpos hlt hpass => ?_, fun hlt hfail => ?_, fun h4 => ?_, fun hgt => ?_⟩
    · subst h0
      show execBringupStageEnd s = _
      simp only [execBringupStageEnd, hn, hpass, if_true, Nat.reduceLT]
    · show execBringupStageEnd s = _
      simp only [execBringupStageEnd, hn, hpass, if_pos hlt, if_true, if_neg (Nat.pos_iff_ne_zero.mp hpos)]
    · show execBringupStageEnd s = _
      simp only [execBringupStageEnd, hn, hfail, if_pos hlt, Bool.false_eq_true, if_false]
    · subst h4
      show execBringupStageEnd s = _
      simp only [execBringupStageEnd, hn, Nat.lt_irrefl, if_false, if_true]
    · show execBringupStageEnd s = _
      simp only [execBringupStageEnd, hn, if_neg (Nat.lt_asymm hgt), if_neg (Nat.ne_of_gt hgt)]
  case fabricLoss => exact fun ha => congrArg Host.Outcome.next (if_pos ha)
  case networkLoss =>
    intro ha
    show execLinkLoss s = _
    simp only [execLinkLoss, ha, Nat.one_ne_zero, if_false, if_true]
  case clock =>
    refine ⟨fun hstep => ?_, fun hcool hcalm => ?_, fun hcool hearly => ?_⟩
    · exact execClockStep_eq s _ (if_pos hstep)
    · exact execClockStep_eq s _ ((if_neg (ne_true_of_eq_false hcool)).trans (if_pos hcalm))
    · exact (execClockStep_eq s _ ((if_neg (ne_true_of_eq_false hcool)).trans (if_neg (Nat.not_le.mpr hearly)))).trans
        (congrArg Host.Outcome.next (if_pos rfl))
  case trip => exact fun h => congrArg Host.Outcome.next (if_pos h)
  case attGo =>
    intro hidle hgo
    exact congrArg Host.Outcome.next (if_neg (by simp [hidle, hgo]))
  case attest =>
    intro hgo
    refine ⟨fun hok => ?_, fun hok => ?_⟩
    · show execAttestComplete s = _
      simp only [execAttestComplete, hgo, hok, Bool.not_true, Bool.false_eq_true, if_false, if_true]
    · show execAttestComplete s = _
      simp only [execAttestComplete, hgo, hok, Bool.not_true, Bool.false_eq_true, if_false]

end Sys2Proof.Machine
end

section
/-!
Accesses in flight (spec/03_ordering.md R55, R61, R62, spec/09_porter.md R201): whether an access can be performed does not depend on the
bytes in memory, so the strands of a store follow one another, and a load reads what is there.
-/

namespace Sys2Proof.Machine

open Sys2Proof

/-! ### What the fare of an access depends on -/

/-- t has all that the fare of an access in s depends on, and the same operations, lots and operands of the event. -/
structure SameFare (s t : State) : Prop where
  tenancies : t.tenancies = s.tenancies
  lots      : t.lots = s.lots
  ops       : t.ops = s.ops
  inWindow  : t.inWindow = s.inWindow
  ev        : t.ev = s.ev
  grains    : ∀ k, (look t.grains k).map (fun g => (g.frame, g.moving)) = (look s.grains k).map (fun g => (g.frame, g.moving))
  windows   : ∀ k, ((look t.tinkers k).getD {}).window = ((look s.tinkers k).getD {}).window
  ids       : ∀ w, (weaveOf t w).map (fun wv => wv.ids) = (weaveOf s w).map (fun wv => wv.ids)

namespace SameFare

theorem refl (s : State) : SameFare s s := ⟨rfl, rfl, rfl, rfl, rfl, fun _ => rfl, fun _ => rfl, fun _ => rfl⟩

theorem trans {s t u : State} (h : SameFare s t) (k : SameFare t u) : SameFare s u :=
  ⟨k.tenancies.trans h.tenancies, k.lots.trans h.lots, k.ops.trans h.ops, k.inWindow.trans h.inWindow, k.ev.trans h.ev,
    fun x => (k.grains x).trans (h.grains x), fun x => (k.windows x).trans (h.windows x), fun x => (k.ids x).trans (h.ids x)⟩

variable {s t : State}

theorem tenOf_eq (h : SameFare s t) (x : Nat) : tenOf t x = tenOf s x := by
  unfold tenOf
  rw [h.tenancies]

theorem leaseOf_eq (h : SameFare s t) (x slot : Nat) : leaseOf t x slot = leaseOf s x slot := by
  unfold leaseOf
  rw [h.tenOf_eq]

theorem grainKey_eq (h : SameFare s t) (x slot pa : Nat) : grainKey t x slot pa = grainKey s x slot pa := by
  unfold grainKey
  rw [h.tenOf_eq, h.leaseOf_eq]

theorem fareByte_eq (h : SameFare s t) (x pa slot : Nat) : fareByte t x pa slot = fareByte s x pa slot := by
  have hg := h.grains (grainKey s x slot pa)
  unfold fareByte
  rw [h.leaseOf_eq, h.grainKey_eq, h.inWindow]
  cases ht : look t.grains (grainKey s x slot pa) with
  | none =>
    cases hs : look s.grains (grainKey s x slot pa) with
    | none => rfl
    | some g => simp [ht, hs] at hg
  | some g =>
    cases hs : look s.grains (grainKey s x slot pa) with
    | none => simp [ht, hs] at hg
    | some g' =>
      simp only [ht, hs, Option.map_some, Option.some.injEq, Prod.mk.injEq] at hg
      obtain ⟨hframe, hmoving⟩ := hg
      have hr : repairing t g pa = repairing s g' pa := by
        unfold repairing lineRepairing
        rw [h.windows, hframe]
      simp only [hr, hmoving]

theorem fareAll_eq (h : SameFare s t) (x : Nat) (ps : List (Nat × Nat)) : fareAll t x ps = fareAll s x ps := by
  induction ps with
  | nil => rfl
  | cons p ps ih => simp only [fareAll, h.fareByte_eq, ih]

theorem opFare_eq (h : SameFare s t) (x n : Nat) (pas slots : List Nat) : opFare t x n pas slots = opFare s x n pas slots := by
  have hwaits : opAwaits t x n = opAwaits s x n := by
    funext slot
    simp only [opAwaits, h.tenOf_eq]
  simp only [opFare, fillFailed, hwaits, h.tenOf_eq, h.fareAll_eq]

theorem laneFare_eq (h : SameFare s t) (x n : Nat) (o : Op) (k : Nat) (pas slots : List Nat) :
    laneFare t x n o k pas slots = laneFare s x n o k pas slots := by
  simp only [laneFare, h.opFare_eq]

theorem opTenancy_eq (h : SameFare s t) (o : Op) : opTenancy t o = opTenancy s o := by
  have hi := h.ids o.w
  unfold opTenancy
  cases ht : weaveOf t o.w <;> cases hs : weaveOf s o.w <;> simp_all

theorem parkedBefore_eq (h : SameFare s t) (n : Nat) (o : Op) (pas : List Nat) : parkedBefore t n o pas = parkedBefore s n o pas := by
  simp only [parkedBefore, h.ops, h.opTenancy_eq, h.laneFare_eq]

theorem staying_eq (h : SameFare s t) : staying t = staying s := by
  unfold staying
  rw [h.ev]

theorem replayRoot_eq (h : SameFare s t) (fuel L : Nat) : replayRoot t fuel L = replayRoot s fuel L := by
  induction fuel generalizing L with
  | zero => rfl
  | succ n ih => simp only [replayRoot, h.lots, ih]

theorem innerPass_eq (h : SameFare s t) (L : Nat) : innerPass t L = innerPass s L := by
  simp only [innerPass, h.replayRoot_eq, h.lots]

theorem versioned_eq (h : SameFare s t) (wv : Weave) : versioned t wv = versioned s wv := by
  simp only [versioned, h.innerPass_eq]

end SameFare

/-! ### Writes keep it -/

/-- A change of bytes is one of three fields. -/
theorem pokeByte_fields (s : State) (pa : Nat) (b : Byte) :
    ∃ far dirty baskets, pokeByte s pa b = { s with far := far, dirty := dirty, baskets := baskets } := by
  unfold pokeByte
  repeat' split
  all_goals exact ⟨_, _, _, rfl⟩

theorem sameFare_pokeByte (s : State) (pa : Nat) (b : Byte) : SameFare s (pokeByte s pa b) := by
  obtain ⟨far, dirty, baskets, h⟩ := pokeByte_fields s pa b
  rw [h]
  exact ⟨rfl, rfl, rfl, rfl, rfl, fun _ => rfl, fun _ => rfl, fun _ => rfl⟩

theorem sameFare_pokeBytes (s : State) (pas : List Nat) (bs : List Byte) : SameFare s (pokeBytes s pas bs) := by
  induction pas generalizing s bs with
  | nil => cases bs <;> exact SameFare.refl s
  | cons pa pas ih =>
    cases bs with
    | nil => exact SameFare.refl s
    | cons b bs => exact (sameFare_pokeByte s pa b).trans (ih _ bs)

theorem sameFare_wakeLine (s : State) (l : Nat) : SameFare s (wakeLine s l) :=
  ⟨rfl, rfl, rfl, rfl, rfl, fun _ => rfl, fun _ => rfl, fun w => look_map_keeps s.weaves w (by intro p; rfl) (by intro p; rfl)⟩

theorem sameFare_noteWrite (s : State) (pa : Nat) (bs : List Byte) (msgs : List Msg) : SameFare s (noteWrite s pa bs msgs) :=
  ⟨rfl, rfl, rfl, rfl, rfl, fun _ => rfl, fun _ => rfl, fun _ => rfl⟩

theorem sameFare_writeMem (s : State) (pa : Nat) (bs : List Byte) (msgs : List Msg) : SameFare s (writeMem s pa bs msgs) :=
  ((sameFare_noteWrite s pa bs msgs).trans (sameFare_wakeLine _ _)).trans (sameFare_pokeBytes _ _ _)

theorem sameFare_writeEach (s : State) (msgs : List Msg) (pas : List Nat) (bs : List Byte) : SameFare s (writeEach s msgs pas bs) := by
  induction pas generalizing s bs with
  | nil => cases bs <;> exact SameFare.refl s
  | cons pa pas ih =>
    cases bs with
    | nil => exact SameFare.refl s
    | cons b bs => exact (sameFare_writeMem s pa [b] msgs).trans (ih _ bs)

theorem sameFare_writeAccess (s : State) (pas : List Nat) (bs : List Byte) (msgs : List Msg) : SameFare s (writeAccess s pas bs msgs) := by
  unfold writeAccess
  split
  · exact SameFare.refl s
  · split
    · exact sameFare_writeMem _ _ _ _
    · exact sameFare_writeEach _ _ _ _

theorem sameFare_clearPoison (s : State) (pas : List Nat) : SameFare s (clearPoison s pas) := by
  unfold clearPoison
  split
  · exact SameFare.refl s
  · refine ⟨rfl, rfl, rfl, rfl, rfl, fun _ => rfl, fun k => ?_, fun _ => rfl⟩
    dsimp only
    rw [look_map _ _ (by intro p; rfl)]
    cases look s.tinkers k <;> rfl

/-- A grain's access counter says nothing of its frame or of its moving. -/
theorem edit_asked_keeps (gs : Tab Grain) (i k : Nat) :
    (look (edit gs i (fun G => { G with asked := G.asked + 1 })) k).map (fun g => (g.frame, g.moving)) =
      (look gs k).map (fun g => (g.frame, g.moving)) := by
  by_cases h : k = i
  · subst h
    rw [look_edit]
    cases look gs k <;> rfl
  · rw [look_edit_ne _ _ h]

theorem sameFare_askLines (s : State) (t : Nat) (pas : List Nat) : SameFare s (askLines s t pas) := by
  unfold askLines
  split
  · exact SameFare.refl s
  · refine ⟨rfl, rfl, rfl, rfl, rfl, fun k => ?_, fun _ => rfl, fun _ => rfl⟩
    refine foldl_keeps (fun gs : Tab Grain => (look gs k).map (fun g => (g.frame, g.moving)) =
      (look s.grains k).map (fun g => (g.frame, g.moving))) _ (fun gs l h => ?_) _ _ rfl
    split
    · exact (edit_asked_keeps gs _ k).trans h
    · exact h

/-! ### The bytes of a strand -/

/-- t is s after a write of the bytes at their addresses, and nothing that the fare of another access depends on has changed. -/
structure Lands (pas : List Nat) (bs : List Byte) (s t : State) : Prop where
  fare    : SameFare s t
  wf      : Memory.wf t = true
  others  : sameBut pas s t
  written : ∀ i < pas.length, readByte t (pas.getD i 0) = bs.getD i 0

/-- A step that changes no memory may follow. -/
theorem Lands.then_same {pas : List Nat} {bs : List Byte} {s t u : State} (h : Lands pas bs s t) (hf : SameFare t u)
    (hw : Memory.wf u = Memory.wf t) (hm : sameMemory t u) : Lands pas bs s u :=
  ⟨h.fare.trans hf, hw.trans h.wf, fun pa hpa => (hm pa).trans (h.others pa hpa), fun i hi => (hm _).trans (h.written i hi)⟩

theorem wf_clearPoison (s : State) (pas : List Nat) : Memory.wf (clearPoison s pas) = Memory.wf s := by
  unfold clearPoison
  split <;> rfl

theorem sameMemory_clearPoison (s : State) (pas : List Nat) : sameMemory s (clearPoison s pas) := by
  intro pa
  unfold clearPoison
  split <;> rfl

theorem wf_askLines (s : State) (t : Nat) (pas : List Nat) : Memory.wf (askLines s t pas) = Memory.wf s := by
  unfold askLines
  split <;> rfl

theorem sameMemory_askLines (s : State) (t : Nat) (pas : List Nat) : sameMemory s (askLines s t pas) := by
  intro pa
  unfold askLines
  split <;> rfl

theorem lands_writeAccess {s : State} {pas : List Nat} {bs : List Byte} (msgs : List Msg) (hw : Memory.wf s = true)
    (hb : ∀ pa ∈ pas, pa < loftBase) (hn : pas.Nodup) (hl : bs.length = pas.length) : Lands pas bs s (writeAccess s pas bs msgs) :=
  ⟨sameFare_writeAccess s pas bs msgs, writeAccess_wf pas bs msgs hw, fun _ h => readByte_writeAccess_ne msgs hl h,
    readByte_writeAccess msgs hw hb hn hl⟩

/-- Outside a replay pass that is undone, a lot's write keeps no old bytes and notes no stamps. -/
theorem lotWrite_eq {s : State} {L : Nat} (pas : List Nat) (bs : List Byte) (msgs : List Msg) (h : innerPass s L = none) :
    lotWrite s L pas bs msgs = clearPoison (writeAccess s pas bs msgs) pas := by
  have hsave : saveBytes s L pas = s := by simp only [saveBytes, h]
  have hnote : noteOwn (writeAccess s pas bs msgs) L s.stamp = writeAccess s pas bs msgs := by
    simp only [noteOwn, (sameFare_writeAccess s pas bs msgs).innerPass_eq, h]
  rw [lotWrite, hsave, hnote]

theorem lands_lotWrite {s : State} {L : Nat} {pas : List Nat} {bs : List Byte} (msgs : List Msg) (h : innerPass s L = none)
    (hw : Memory.wf s = true) (hb : ∀ pa ∈ pas, pa < loftBase) (hn : pas.Nodup) (hl : bs.length = pas.length) :
    Lands pas bs s (lotWrite s L pas bs msgs) := by
  rw [lotWrite_eq pas bs msgs h]
  exact (lands_writeAccess msgs hw hb hn hl).then_same (sameFare_clearPoison _ _) (wf_clearPoison _ _) (sameMemory_clearPoison _ _)

/-- The same write, a byte at a time. -/
def lotWriteBytes (s : State) (L : Nat) (pas : List Nat) (bs : List Byte) (msgs : List Msg) : State :=
  (pas.zip bs).foldl (fun s p => lotWrite s L [p.1] [p.2] msgs) s

theorem lands_lotWriteBytes {s : State} {L : Nat} {pas : List Nat} {bs : List Byte} (msgs : List Msg) (h : innerPass s L = none)
    (hw : Memory.wf s = true) (hb : ∀ pa ∈ pas, pa < loftBase) (hn : pas.Nodup) (hl : bs.length = pas.length) :
    Lands pas bs s (lotWriteBytes s L pas bs msgs) := by
  induction pas generalizing s bs with
  | nil => exact ⟨SameFare.refl s, hw, fun _ _ => rfl, fun _ hi => absurd hi (Nat.not_lt_zero _)⟩
  | cons pa pas ih =>
    match bs, hl with
    | b :: bs, hl =>
      obtain ⟨hpa, hn⟩ := List.nodup_cons.mp hn
      have hfirst : Lands [pa] [b] s (lotWrite s L [pa] [b] msgs) :=
        lands_lotWrite msgs h hw (by simpa using hb pa List.mem_cons_self) (List.pairwise_singleton _ pa) rfl
      have hrest : Lands pas bs (lotWrite s L [pa] [b] msgs) (lotWriteBytes (lotWrite s L [pa] [b] msgs) L pas bs msgs) :=
        ih ((hfirst.fare.innerPass_eq L).trans h) hfirst.wf (fun q hq => hb q (List.mem_cons_of_mem _ hq)) hn (Nat.succ.inj hl)
      refine ⟨hfirst.fare.trans hrest.fare, hrest.wf, fun q hq => ?_, fun i hi => ?_⟩
      · obtain ⟨h1, h2⟩ := not_or.mp (mt List.mem_cons.mpr hq)
        exact (hrest.others q h2).trans (hfirst.others q (mt List.mem_singleton.mp h1))
      · cases i with
        | zero => exact (hrest.others pa hpa).trans (hfirst.written 0 Nat.zero_lt_one)
        | succ i => exact hrest.written i (Nat.lt_of_succ_lt_succ hi)

/-- Outside open versions, a strand's write is performed in the lot's name, and a run loses nothing by it. -/
theorem runWrite_lands {r : Run} {n : Nat} {o : Op} {wv : Weave} {pas slots : List Nat} {bs : List Byte} (msgs : List Msg)
    (hv : versioned r.s wv = false) (hw : Memory.wf r.s = true) (hb : ∀ pa ∈ pas, pa < loftBase) (hn : pas.Nodup)
    (hl : bs.length = pas.length) :
    ∃ t view, runWrite r n o wv pas slots bs msgs = ({ r with s := t, view := view }, true) ∧ Lands pas bs r.s t := by
  have hin : innerPass r.s wv.ids.lot = none := by
    have := (Bool.or_eq_false_iff.mp hv).2
    simpa using this
  cases hwhole : o.whole with
  | true =>
    refine ⟨_, wroteAccess r.view r.s.stamp pas, ?_, lands_lotWrite msgs hin hw hb hn hl⟩
    simp only [runWrite, hv, hwhole, Bool.false_and, Bool.false_eq_true, if_false, if_true]
  | false =>
    refine ⟨_, wroteEach r.view r.s.stamp pas, ?_, lands_lotWriteBytes msgs hin hw hb hn hl⟩
    simp only [runWrite, hv, hwhole, Bool.false_and, Bool.false_eq_true, if_false, lotWriteBytes]

/-! ### The strands, one after another -/

/-- In s the strand's part of an operation can be performed now and is not left for a later step. -/
def LaneGoes (s : State) (n : Nat) (o : Op) (wv : Weave) (l : Lane) : Prop :=
  laneFare s wv.ids.tenancy n o l.strand l.pas l.slots = .go ∧ (staying s).getLsbD l.strand = false ∧ parkedBefore s n o l.pas = false

theorem SameFare.laneGoes {s t : State} {n : Nat} {o : Op} {wv : Weave} {l : Lane} (h : SameFare s t) (hl : LaneGoes s n o wv l) :
    LaneGoes t n o wv l := by
  obtain ⟨hfare, hstay, hbefore⟩ := hl
  exact ⟨(h.laneFare_eq _ _ _ _ _ _).trans hfare, h.staying_eq ▸ hstay, (h.parkedBefore_eq _ _ _).trans hbefore⟩

/-- A strand that can go does, where none before it stayed. -/
theorem eachLane_goes {n : Nat} {o : Op} {wv : Weave} {go : Run → Lane → Run × Bool} {r r1 : Run} {l : Lane} (rest : List Lane)
    (hl : LaneGoes r.s n o wv l) (hgo : go { r with tried := r.tried ||| strandBit l.strand } l = (r1, true)) :
    eachLane n o wv laneBytes go r [] (l :: rest) =
      eachLane n o wv laneBytes go { r1 with s := askLines r1.s wv.ids.tenancy l.pas } [] rest := by
  obtain ⟨hfare, hstay, hbefore⟩ := hl
  simp only [eachLane, laneBytes, hfare, hstay, hbefore, hgo, List.any_nil, Bool.or_self, Bool.false_eq_true, if_false]

/-- The strands of a store that can all go leave nothing: each byte is that of the last strand that writes it, every other byte stays. -/
theorem eachLane_stores {s : State} {n : Nat} {o : Op} {wv : Weave} (msgs : List Msg) (hv : versioned s wv = false) (lanes : List Lane)
    (hl : ∀ l ∈ lanes, LaneGoes s n o wv l ∧ (∀ pa ∈ l.pas, pa < loftBase) ∧ l.pas.Nodup ∧ l.data.length = l.pas.length) (r : Run)
    (hr : SameFare s r.s) (hw : Memory.wf r.s = true) (hbad : r.bad = false) (hlost : r.lost = []) :
    ∃ r', eachLane n o wv laneBytes (fun r l => runWrite r n o wv l.pas l.slots l.data msgs) r [] lanes = (r', []) ∧
      r'.bad = false ∧ r'.lost = [] ∧ r'.s.ops = s.ops ∧ sameBut (lanes.flatMap (fun l => l.pas)) r.s r'.s ∧
      ∀ pre l post, lanes = pre ++ l :: post → ∀ i < l.pas.length, (∀ x ∈ post, l.pas.getD i 0 ∉ x.pas) →
        readByte r'.s (l.pas.getD i 0) = l.data.getD i 0 := by
  induction lanes generalizing r with
  | nil =>
    exact ⟨r, rfl, hbad, hlost, hr.ops, fun _ _ => rfl, fun pre l post h => absurd h (by simp)⟩
  | cons l rest ih =>
    obtain ⟨hgoes, hb, hn, hlen⟩ := hl l List.mem_cons_self
    obtain ⟨t, view, hgo, hland⟩ := runWrite_lands (r := { r with tried := r.tried ||| strandBit l.strand }) (n := n) (o := o)
      (slots := l.slots) msgs ((hr.versioned_eq wv).trans hv) hw hb hn hlen
    have hland' : Lands l.pas l.data r.s (askLines t wv.ids.tenancy l.pas) :=
      hland.then_same (sameFare_askLines _ _ _) (wf_askLines _ _ _) (sameMemory_askLines _ _ _)
    obtain ⟨r', heach, hbad', hlost', hops, hbut, hlast⟩ := ih (fun x hx => hl x (List.mem_cons_of_mem _ hx))
      { r with tried := r.tried ||| strandBit l.strand, view := view, s := askLines t wv.ids.tenancy l.pas }
      (hr.trans hland'.fare) hland'.wf hbad hlost
    refine ⟨r', (eachLane_goes rest (hr.laneGoes hgoes) hgo).trans heach, hbad', hlost', hops, fun pa hpa => ?_, ?_⟩
    · rw [List.flatMap_cons, List.mem_append, not_or] at hpa
      exact (hbut pa hpa.2).trans (hland'.others pa hpa.1)
    · intro pre x post hsplit i hi hpost
      cases pre with
      | nil =>
        obtain ⟨rfl, rfl⟩ := List.cons.inj hsplit
        have hnot : l.pas.getD i 0 ∉ rest.flatMap (fun l => l.pas) := by
          intro hmem
          obtain ⟨y, hy, hin⟩ := List.mem_flatMap.mp hmem
          exact hpost y hy hin
        exact (hbut _ hnot).trans (hland'.written i hi)
      | cons p pre => exact hlast pre x post (List.cons.inj hsplit).2 i hi hpost

/-! ### What performing leaves -/

theorem ops_modWeave (s : State) (w : Nat) (f : Weave → Weave) : (modWeave s w f).ops = s.ops := by
  unfold modWeave
  split <;> rfl

theorem sameMemory_acquireAction (s : State) (shop scope : Nat) : sameMemory s (acquireAction s shop scope) := by
  intro pa
  unfold acquireAction
  split <;> rfl

theorem ops_acquireAction (s : State) (shop scope : Nat) : (acquireAction s shop scope).ops = s.ops := by
  unfold acquireAction
  split <;> rfl

/-- The words that a run has delivered, over those that earlier steps of its operation have. -/
def runWords (r : Run) (o : Op) : Tab Word := r.words.foldl (fun x p => put x p.1 p.2) ((o.bound).getD [])

/-- A run that lost no strand and met no bad data changes no more memory, and its operation keeps its words. -/
theorem settleRun_keeps {r : Run} {n : Nat} {o o0 : Op} (wv : Weave) (kind : OpKind) (engine va : Nat) (hbad : r.bad = false)
    (hlost : r.lost = []) (ho : look r.s.ops n = some o0) :
    sameMemory r.s (settleRun r n o wv kind engine va) ∧
      ∃ o', look (settleRun r n o wv kind engine va).ops n = some o' ∧ o'.bound = some (runWords r o) := by
  unfold settleRun
  rw [hbad, if_neg Bool.false_ne_true, hlost]
  dsimp only
  constructor
  · intro pa
    unfold unresolved
    simp only [List.map_nil, List.eraseDups_nil, List.foldl_nil]
    split
    · rw [sameMemory_acquireAction, sameMemory_modWeave]
      rfl
    · rw [sameMemory_modWeave]
      rfl
  · unfold unresolved
    simp only [List.map_nil, List.eraseDups_nil, List.foldl_nil]
    split
    · rw [ops_acquireAction, ops_modWeave]
      dsimp only
      rw [look_edit, ho]
      exact ⟨_, rfl, rfl⟩
    · rw [ops_modWeave]
      dsimp only
      rw [look_edit, ho]
      exact ⟨_, rfl, rfl⟩

/-- An operation with strands left is performed, as far as it can be, by a step that does not complete it. -/
theorem execLongLatencyComplete_performs {s : State} {o : Op} {wv : Weave} (ho : look s.ops s.ev.a = some o)
    (hwv : weaveOf s o.w = some wv) (hk : o.kind ≠ .engine) (htob : tobOp o = false) (honce : doneOnce o = false)
    (hmay : mayPerform s s.ev.a o = true) (hok : s.ev.ok = false) :
    exec .longLatencyComplete s = .next (performOp s s.ev.a o wv) := by
  show execLongLatencyComplete s = _
  rw [execLongLatencyComplete_memory ho hwv hk htob, hok, honce, hmay]
  rfl

/-- The view with which a store starts outside open versions: what its release's commit makes known. -/
def storeView (s : State) (o : Op) (wv : Weave) : View := if o.releases then commitSeen s s wv else []

/-- A store outside open versions is its strands' writes, settled. -/
theorem performStore_settles {s : State} {n : Nat} {o : Op} {wv : Weave} {lanes kept : List Lane} {r : Run}
    (data : State → Lane → List Byte) (rebuild : List Lane → OpKind) (ho : look s.ops n = some o) (hv : versioned s wv = false)
    (heach : eachLane n o wv laneBytes (fun r l => runWrite r n o wv l.pas l.slots (data r.s l)
      (opMsgs s o wv (joinView (opView s o) (storeView s o wv)))) { s := s, view := storeView s o wv } [] lanes = (r, kept)) :
    ∃ va, performStore s n o wv lanes data rebuild = settleRun r n o wv (rebuild kept) 0 va := by
  unfold storeView at heach
  refine ⟨?va, ?eq⟩
  case eq =>
    simp only [performStore, hv, Bool.and_false, Bool.false_and, Bool.false_eq_true, if_false, ho, Option.isNone_some]
    rw [heach]

/-- Settles O56: whether a strand can go does not depend on the bytes that the strands before it have written, so they all go, in order. -/
theorem storeLands : Obligations.StoreLands := by
  unfold Obligations.StoreLands
  intro s o wv size lanes n ho hwv hkind hne hmay hok hw hv hlanes
  have honce : doneOnce o = false := by
    cases lanes with
    | nil => exact absurd rfl hne
    | cons l rest => simp [doneOnce, Op.performed, hkind, OpKind.left]
  have hexec : exec .longLatencyComplete s = .next (performOp s n o wv) :=
    execLongLatencyComplete_performs ho hwv (by rw [hkind]; exact OpKind.noConfusion) (by simp only [tobOp, hkind]) honce hmay hok
  refine ⟨_, hexec, ?_⟩
  have hgo : ∀ l ∈ lanes, LaneGoes s n o wv l ∧ (∀ pa ∈ l.pas, pa < loftBase) ∧ l.pas.Nodup ∧ l.data.length = l.pas.length := by
    intro l hl
    obtain ⟨hfare, hstay, hbefore, hb, hn, hlen⟩ := hlanes l hl
    exact ⟨⟨hfare, hstay, hbefore⟩, hb, hn, hlen⟩
  obtain ⟨r, heach, hbad, hlost, hops, hbut, hlast⟩ := eachLane_stores
    (opMsgs s o wv (joinView (opView s o) (storeView s o wv))) hv lanes hgo
    { s := s, view := storeView s o wv } (SameFare.refl s) hw rfl rfl
  obtain ⟨va, hsettle⟩ := performStore_settles (fun _ l => l.data) (.store size) ho hv heach
  have hsame : sameMemory r.s (performOp s n o wv) := by
    have hperform : performOp s n o wv = settleRun r n o wv (.store size []) 0 va := by
      simp only [performOp, hkind, hsettle]
    rw [hperform]
    exact (settleRun_keeps wv _ 0 va hbad hlost ((congrArg (fun t => look t n) hops).trans ho)).1
  exact ⟨fun pa hpa => (hsame pa).trans (hbut pa hpa), fun pre l post hsplit i hi hpost =>
    (hsame _).trans (hlast pre l post hsplit i hi hpost)⟩

/-! ### Reading -/

theorem length_cutsFor (s : State) (v : View) (ver : List VWrite) (whole : Bool) (salt : Nat) (pas : List Nat) :
    (cutsFor s v ver whole salt pas).length = pas.length := by
  simp only [cutsFor, apply_ite List.length, List.length_map, List.length_zip, List.length_range, Nat.min_self, ite_self]

/-- Reads that each append the byte of their address append the bytes of all the addresses. -/
theorem data_foldl {f : ReadRes → Nat × Nat → ReadRes} {g : Nat → Byte} (xs : List (Nat × Nat))
    (h : ∀ r, ∀ p ∈ xs, (f r p).data = r.data ++ [g p.1]) (r : ReadRes) :
    (xs.foldl f r).data = r.data ++ xs.map (fun p => g p.1) := by
  induction xs generalizing r with
  | nil => exact (List.append_nil _).symm
  | cons x xs ih =>
    rw [List.foldl_cons, ih (fun r p hp => h r p (List.mem_cons_of_mem _ hp)), h r x List.mem_cons_self, List.append_assoc]
    rfl

/-- Bytes of lines that have no history are read as they stand in memory. -/
theorem readMem_noHistory {s : State} {pas : List Nat} (v : View) (whole : Bool) (salt : Nat)
    (h : ∀ pa ∈ pas, look s.lines (lineOf pa) = none) : (readMem s v [] whole salt pas).data = pas.map (readByte s) := by
  have hfst : (pas.zip (cutsFor s v [] whole salt pas)).map (fun p => readByte s p.1) = pas.map (readByte s) :=
    calc (pas.zip (cutsFor s v [] whole salt pas)).map (fun p => readByte s p.1)
        = ((pas.zip (cutsFor s v [] whole salt pas)).map Prod.fst).map (readByte s) := by
          rw [List.map_map, Function.comp_def]
      _ = pas.map (readByte s) := by rw [List.map_fst_zip (Nat.le_of_eq (length_cutsFor s v [] whole salt pas).symm)]
  unfold readMem
  refine (data_foldl _ (fun r p hp => ?_) _).trans hfst
  simp only [h p.1 (List.of_mem_zip hp).1]

/-- A read of good data of lines that have no history gives the number of the bytes in memory. -/
theorem runRead_noHistory {r : Run} {wv : Weave} {pas : List Nat} (v : View) (whole : Bool) (salt : Nat) (hver : versionOf r.s wv = [])
    (h : ∀ pa ∈ pas, look r.s.lines (lineOf pa) = none ∧ poisoned r.s wv.ids.tenancy pa = false) :
    ∃ view msgs, runRead r wv v whole salt pas = ({ r with view := view, msgs := msgs }, natOfBytes (pas.map (readByte r.s))) := by
  have hgood : ¬ pas.any (poisoned r.s wv.ids.tenancy) = true := by
    rw [List.any_eq_true]
    rintro ⟨pa, hpa, hbad⟩
    exact absurd hbad (ne_true_of_eq_false (h pa hpa).2)
  refine ⟨joinView r.view (readMem r.s v [] whole salt pas).view, r.msgs ++ (readMem r.s v [] whole salt pas).msgs, ?_⟩
  simp only [runRead, if_neg hgood, hver, readMem_noHistory v whole salt (fun pa hpa => (h pa hpa).1)]

/-- What a load of a strand leaves: its weave's load monitor, where it sets one (R215). -/
def monitorSet (s : State) (n : Nat) (o : Op) (wv : Weave) (l : Lane) (monitors : Bool) : State :=
  if monitors ∧ lowestStrand o.q = some l.strand then
    modWeave s o.w (fun x =>
      { x with monitor := monitorAfter s (opView s o) (versionOf s wv) o.whole (n * 4096 + 64 * l.strand) l.pas })
  else s

theorem sameMemory_monitorSet (s : State) (n : Nat) (o : Op) (wv : Weave) (l : Lane) (monitors : Bool) :
    sameMemory s (monitorSet s n o wv l monitors) := by
  unfold monitorSet
  split
  · exact sameMemory_modWeave s o.w _
  · exact fun _ => rfl

theorem ops_monitorSet (s : State) (n : Nat) (o : Op) (wv : Weave) (l : Lane) (monitors : Bool) :
    (monitorSet s n o wv l monitors).ops = s.ops := by
  unfold monitorSet
  split
  · exact ops_modWeave s o.w _
  · rfl

theorem ops_askLines (s : State) (t : Nat) (pas : List Nat) : (askLines s t pas).ops = s.ops := (sameFare_askLines s t pas).ops

/-- A load of one strand's access that can go delivers its words from memory, and is settled. -/
theorem performLoad_settles {s : State} {n : Nat} {o : Op} {wv : Weave} {l : Lane} (value : Lane → Nat → Tab Word) (monitors : Bool)
    (rebuild : List Lane → OpKind) (hl : LaneGoes s n o wv l) (hver : versionOf s wv = [])
    (h : ∀ pa ∈ l.pas, look s.lines (lineOf pa) = none ∧ poisoned s wv.ids.tenancy pa = false) :
    ∃ r va, performLoad s n o wv [l] value monitors rebuild = settleRun r n o wv (rebuild []) 0 va ∧ sameMemory s r.s ∧
      r.s.ops = s.ops ∧ r.bad = false ∧ r.lost = [] ∧ r.words = value l (natOfBytes (l.pas.map (readByte s))) := by
  obtain ⟨view, msgs, hread⟩ := runRead_noHistory (r := { s := s, tried := 0 ||| strandBit l.strand }) (wv := wv) (opView s o) o.whole
    (n * 4096 + 64 * l.strand) hver h
  refine ⟨{ s := askLines (monitorSet s n o wv l monitors) wv.ids.tenancy l.pas
            words := value l (natOfBytes (l.pas.map (readByte s))), view := view, msgs := msgs, tried := 0 ||| strandBit l.strand },
    l.va, ?_, fun pa => ?_, (ops_askLines _ _ _).trans (ops_monitorSet _ _ _ _ _ _), rfl, rfl, rfl⟩
  · rw [performLoad]
    dsimp only
    rw [eachLane_goes (r := { s := s }) (r1 := { s := monitorSet s n o wv l monitors
                                                 words := value l (natOfBytes (l.pas.map (readByte s)))
                                                 view := view, msgs := msgs, tried := 0 ||| strandBit l.strand }) [] hl
      (by simp only [hread]; rfl)]
    rfl
  · exact (sameMemory_askLines _ _ _ pa).trans (sameMemory_monitorSet _ _ _ _ _ _ pa)

/-- Settles O57: the one strand goes, its bytes are those in memory, and its words are bound to the operation. -/
theorem loadReads : Obligations.LoadReads := by
  unfold Obligations.LoadReads
  intro s o wv size sx uni dst l n ho hwv hkind hmay hok hver hfare hstay hbefore hlines
  have honce : doneOnce o = false := by simp [doneOnce, Op.performed, hkind, OpKind.left]
  have hexec : exec .longLatencyComplete s = .next (performOp s n o wv) :=
    execLongLatencyComplete_performs ho hwv (by rw [hkind]; exact OpKind.noConfusion) (by simp only [tobOp, hkind]) honce hmay hok
  obtain ⟨r, va, hsettle, hmem, hops, hbad, hlost, hwords⟩ := performLoad_settles (loadWords o size sx dst uni) (setsMonitor o)
    (fun k => .load size sx dst uni k) ⟨hfare, hstay, hbefore⟩ hver hlines
  have hperform : performOp s n o wv = settleRun r n o wv (.load size sx dst uni []) 0 va := by
    simp only [performOp, hkind, hsettle]
  obtain ⟨hsame, o', ho', hbound⟩ := settleRun_keeps (o := o) wv (.load size sx dst uni []) 0 va hbad hlost
    ((congrArg (fun t => look t n) hops).trans ho)
  rw [← hperform] at hsame ho'
  exact ⟨_, o', hexec, fun pa => (hsame pa).trans (hmem pa), ho', by rw [hbound, runWords, hwords]⟩

end Sys2Proof.Machine
end
